-- ==== Sys2Proof/Word.lean ====
section
/-! DEFINITION. The word types (spec/00_scope.md, spec/03_encoding.md R56). -/
namespace Sys2Proof

/-- One byte. -/
abbrev Byte := BitVec 8
/-- A 32-bit register or instruction word. -/
abbrev Word := BitVec 32
/-- A register pair, an address, a 64-bit control register. -/
abbrev DWord := BitVec 64
/-- A mask register: bit i names virtual lane i (R144). -/
abbrev Lanes := BitVec 128

end Sys2Proof
end

