-- ==== Sys2Proof/Config.lean ====
section
/-! DEFINITION. What the spec leaves to each module: free values, as constants with no body.

Nothing in the model or in a proof can see what they are; a statement that mentions them holds for every value. -/
namespace Sys2Proof.Config

/-- Nanoseconds and arithmetic-clock cycles that a step takes (assumption log 1). -/
opaque elapsedNs : Nat → Nat
opaque elapsedCycles : Nat → Nat
/-- A 512-bit key generated inside the module (spec/04_system.md R90, spec/08_memory.md R202; log 5). -/
opaque freshKey : Nat → Nat
/-- A value drawn freely, by a counter (log 5). -/
opaque freeValue : Nat → Nat
/-- The module's own switch port, 0 to 383 (spec/17_links.md R375, R383; log 5). -/
opaque ownPort : BitVec 9

/-- The special-function unit's own result for a function and an operand (spec/07_float.md R186; log 40). -/
opaque specialRaw : Nat → Nat → Nat

/-- Whether a signature at the end of some bytes verifies under a key (ML-DSA-65; spec/04_system.md R113, R114;
spec/20_health.md R424, R425; log 45). -/
opaque verifies : List Byte → List Byte → Bool
/-- Jexxia's verification key, and the key of the operator's firmware (R424, R425; log 45). -/
opaque jexxiaKey : List Byte
opaque firmwareKey : List Byte
/-- The release line and the security version in the header of a firmware image, whose layout the spec does not give (R424; log 45). -/
opaque fwLine : List Byte → Nat
opaque fwSec : List Byte → Nat
/-- The records of a self-test that no outside event brings, by a draw (R422; log 45). -/
opaque selfTest : Nat → List Byte

/-- How the five parts of a stream window's nonce are laid out in its 96 bits (spec/17_links.md R379; log 5). -/
opaque streamNonce : List Nat → Nat
/-- A report that the module at a switch port answers a challenge with (spec/17_links.md R397; log 5). -/
opaque peerReport : Nat → Nat → List Byte

/-- The module's identity: its ML-DSA-65 public key, the certificate over it, a signature under it, and its ML-KEM-768
encapsulation key (spec/04_system.md R111, R113; log 45). -/
opaque identityKey : List Byte
opaque identityCert : List Byte
opaque sign : List Byte → List Byte
opaque kemKey : List Byte
/-- The plaintext of a context's image, whose layout the spec does not give (R109; log 6). -/
opaque imageText : Nat → List Byte
/-- ML-KEM-768 with its key derivation and cipher: some material under an encapsulation key, by a draw; and what bytes open to
under this module's own decapsulation key (R111; log 45). -/
opaque encapsulate : List Byte → Nat → List Byte → List Byte
opaque decapsulate : List Byte → Option (List Byte)

/-- Whether the page quota of a context is exhausted when it misses a page, by the step (R95; log 41). -/
opaque quotaSpent : Nat → Nat → Bool
/-- The bank of the scratchpad that holds a 16-byte part (spec/09_ordering.md R220; log 36). -/
opaque bankOf : Nat → Nat
/-- The bus address of BAR 2 of the physical function of L0, as the host has placed it (spec/15_launch.md R338; log 109). -/
opaque schedBar : Nat
/-- The samples that a monitor has taken since it was last read, by a draw (R118; log 24). -/
opaque samples : Nat → List Nat

end Sys2Proof.Config
end

