-- ==== Sys2Proof/Machine/Bits.lean ====
section
/-! DEFINITION. Bit-field, sign-extension and byte-order helpers (spec/00_scope.md R4, R6, R12). -/
namespace Sys2Proof.Machine

/-- Bits [lo+w-1 : lo] of a natural number. -/
def bits (n lo w : Nat) : Nat := (n >>> lo) % 2 ^ w

/-- Bit `k` of a natural number. -/
def bit (n k : Nat) : Bool := n.testBit k

/-- A Bool as a bit. -/
def b2n (b : Bool) : Nat := if b then 1 else 0

/-- `n` with bits [lo+w-1 : lo] replaced by `v`. -/
def setBits (n lo w v : Nat) : Nat :=
  n - (bits n lo w) * 2 ^ lo + (v % 2 ^ w) * 2 ^ lo

/-- The value of the low `w` bits of `n` read as two's complement. -/
def sext (w n : Nat) : Int :=
  let m := n % 2 ^ w
  if 2 * m < 2 ^ w then (m : Int) else (m : Int) - 2 ^ w

/-- The low `w` bits of an integer's two's complement. -/
def wrap (w : Nat) (x : Int) : Nat := (x % (2 ^ w : Int)).toNat

/-- `n` little-endian bytes of a number (R6). -/
def toBytes : (n : Nat) → (v : Nat) → List Byte
  | 0, _ => []
  | n + 1, v => BitVec.ofNat 8 v :: toBytes n (v / 256)

/-- The number that little-endian bytes hold (R6). -/
def ofBytes : List Byte → Nat
  | [] => 0
  | b :: bs => b.toNat + 256 * ofBytes bs

/-- Bytes `off` to `off + n - 1` of a list; a byte beyond its end is 0. -/
def slice (l : List Byte) (off n : Nat) : List Byte :=
  let r := (l.drop off).take n
  r ++ List.replicate (n - r.length) 0#8

/-- The little-endian number in `n` bytes at `off`. -/
def field (l : List Byte) (off n : Nat) : Nat := ofBytes (slice l off n)

/-- The list cut or padded with zero bytes to `n` bytes. -/
def padTo (n : Nat) (l : List Byte) : List Byte := slice l 0 n

/-- `l` with `v` written over it from `off`. -/
def patch (l : List Byte) (off : Nat) (v : List Byte) : List Byte :=
  padTo off l ++ v ++ l.drop (off + v.length)

/-- The bytes of 32-bit words in memory order. -/
def wordBytes (ws : List Word) : List Byte := ws.flatMap fun w => toBytes 4 w.toNat

/-- The 32-bit words that bytes hold in memory order. -/
def bytesWords : List Byte → List Word
  | a :: b :: c :: d :: r => BitVec.ofNat 32 (ofBytes [a, b, c, d]) :: bytesWords r
  | _ => []

/-- `ceil(a / b)`. -/
def ceilDiv (a b : Nat) : Nat := (a + b - 1) / b

/-- The list with position `n` replaced; a position beyond the end changes nothing. -/
def setAt {α : Type} (l : List α) (n : Nat) (v : α) : List α := l.set n v

/-- Position `n` of a list changed by `f`. -/
def modAt {α : Type} (l : List α) (n : Nat) (f : α → α) : List α := l.modify n f

/-- The bit set of a list of lanes. -/
def lanesMask (l : List Nat) : BitVec 128 :=
  l.foldl (fun m i => m ||| (1#128 <<< i)) 0#128

/-- Whether lane `i` is named by a mask. -/
def inMask (m : BitVec 128) (i : Nat) : Bool := m.getLsbD i

end Sys2Proof.Machine
end

