-- ==== Sys2Proof/Syntax.lean ====
section
/-! DEFINITION. The instructions: one constructor per row of spec/opcode_table.json.

An instruction row carries the fields of its encoding format (spec/03_encoding.md R64), unread;
the machine reads them. An event row (spec/95) has no encoding and carries nothing. -/
namespace Sys2Proof

/-- Format S, one word (R64, R71). -/
structure FmtS where
  d : BitVec 8
  a : BitVec 8
  z : BitVec 1
  i : BitVec 6
  deriving DecidableEq, Repr

/-- Format A, two words (R64). -/
structure FmtA where
  d  : BitVec 8
  a  : BitVec 8
  fn : BitVec 5
  ib : BitVec 1
  ic : BitVec 1
  gn : BitVec 1
  gp : BitVec 3
  b  : BitVec 8
  c  : BitVec 8
  ty : BitVec 6
  rm : BitVec 2
  st : BitVec 2
  u  : BitVec 2
  deriving DecidableEq, Repr

/-- Format L, two words; TAIL is read by the opcode (R64, R65). -/
structure FmtL where
  d    : BitVec 8
  a    : BitVec 8
  sb   : BitVec 3
  la   : BitVec 4
  gn   : BitVec 1
  gp   : BitVec 3
  b    : BitVec 8
  c    : BitVec 8
  tail : BitVec 12
  deriving DecidableEq, Repr

/-- Format M, two words (R64). -/
structure FmtM where
  d   : BitVec 8
  a   : BitVec 8
  sb  : BitVec 3
  la  : BitVec 4
  gn  : BitVec 1
  gp  : BitVec 3
  ty  : BitVec 6
  u   : BitVec 1
  vn  : BitVec 2
  off : BitVec 19
  deriving DecidableEq, Repr

/-- Format I, two words; `mid` is the reserved field [14:7] (R64). -/
structure FmtI where
  d   : BitVec 8
  mid : BitVec 8
  ty  : BitVec 6
  u   : BitVec 1
  imm : BitVec 32
  deriving DecidableEq, Repr

/-- Format B in its one-word form (R72). -/
structure FmtB1 where
  off : BitVec 23
  deriving DecidableEq, Repr

/-- Format B in its two-word form; `low` is the reserved field [11:0] (R64). -/
structure FmtB2 where
  off : BitVec 23
  gn  : BitVec 1
  gp  : BitVec 3
  x   : BitVec 8
  fn  : BitVec 8
  low : BitVec 12
  deriving DecidableEq, Repr

/-- Format Z, two words (R64, R73). -/
structure FmtZ where
  d   : BitVec 8
  a   : BitVec 8
  fn  : BitVec 7
  gn  : BitVec 1
  gp  : BitVec 3
  cr  : BitVec 12
  imm : BitVec 16
  deriving DecidableEq, Repr

/-- The instructions of spec/opcode_table.json in the table's order, and after them its events. What an
event is about (which thread, which unit, the words an agent outside writes) stands in `State.ev`. -/
inductive Instr where
  | trap (f : FmtZ)
  | tret (f : FmtZ)
  | tretRec (f : FmtZ)
  | crd (f : FmtZ)
  | cwr (f : FmtZ)
  | mapack (f : FmtZ)
  | maprd (f : FmtZ)
  | ctxsaveSeal (f : FmtL)
  | ctxsaveReset (f : FmtL)
  | ctxloadImage (f : FmtL)
  | ctxloadNew (f : FmtL)
  | ctxloadResume (f : FmtL)
  | kwrapGive (f : FmtL)
  | kwrapTake (f : FmtL)
  | kwrapEscrow (f : FmtL)
  | kwrapImport (f : FmtL)
  | kdrop (f : FmtZ)
  | kdropErase (f : FmtZ)
  | attestCtx (f : FmtL)
  | attestModule (f : FmtL)
  | cntrd (f : FmtZ)
  | cntcfg (f : FmtZ)
  | moncfg (f : FmtZ)
  | monrd (f : FmtZ)
  | evpost (f : FmtZ)
  | yieldC (f : FmtZ)
  | scrubVirt (f : FmtL)
  | scrubPhys (f : FmtL)
  | rankmapGet (f : FmtZ)
  | rankmapSet (f : FmtZ)
  | planemapMap (f : FmtZ)
  | planemapShare (f : FmtZ)
  | planemapGet (f : FmtZ)
  | planemapRetrain (f : FmtZ)
  | paritycfgSet (f : FmtZ)
  | paritycfgRebuild (f : FmtZ)
  | paritycfgGet (f : FmtZ)
  | nlaunch (f : FmtL)
  | nwait (f : FmtA)
  | nquery (f : FmtL)
  | placeRsv (f : FmtL)
  | placeFree (f : FmtL)
  | placeClose (f : FmtL)
  | placeOpen (f : FmtL)
  | preempt (f : FmtL)
  | slicesetAssign (f : FmtL)
  | slicesetTarget (f : FmtL)
  | slicesetMove (f : FmtL)
  | slicesetPool (f : FmtL)
  | addS (f : FmtS)
  | add (f : FmtA)
  | addc (f : FmtA)
  | subS (f : FmtS)
  | sub (f : FmtA)
  | subb (f : FmtA)
  | sadd (f : FmtA)
  | ssub (f : FmtA)
  | mulS (f : FmtS)
  | mul (f : FmtA)
  | mulh (f : FmtA)
  | mad (f : FmtA)
  | div (f : FmtL)
  | rem (f : FmtL)
  | dot4 (f : FmtA)
  | minS (f : FmtS)
  | min (f : FmtA)
  | maxS (f : FmtS)
  | max (f : FmtA)
  | abs (f : FmtA)
  | neg (f : FmtA)
  | andS (f : FmtS)
  | and (f : FmtA)
  | orS (f : FmtS)
  | or (f : FmtA)
  | xorS (f : FmtS)
  | xor (f : FmtA)
  | andnS (f : FmtS)
  | andn (f : FmtA)
  | not (f : FmtA)
  | shlS (f : FmtS)
  | shl (f : FmtA)
  | shrS (f : FmtS)
  | shr (f : FmtA)
  | sarS (f : FmtS)
  | sar (f : FmtA)
  | rolS (f : FmtS)
  | rol (f : FmtA)
  | bfx (f : FmtA)
  | bfi (f : FmtA)
  | popc (f : FmtA)
  | clz (f : FmtA)
  | ctz (f : FmtA)
  | brev (f : FmtA)
  | prmt (f : FmtA)
  | sel (f : FmtA)
  | setp (f : FmtA)
  | pand (f : FmtA)
  | por (f : FmtA)
  | pxor (f : FmtA)
  | pnot (f : FmtA)
  | movS (f : FmtS)
  | mov (f : FmtA)
  | movi (f : FmtI)
  | lea (f : FmtA)
  | cvti (f : FmtA)
  | braShort (f : FmtB1)
  | bra (f : FmtB2)
  | brc (f : FmtB2)
  | brx (f : FmtB2)
  | callShort (f : FmtB1)
  | call (f : FmtB2)
  | retShort (f : FmtB1)
  | ret (f : FmtB2)
  | exitShort (f : FmtB1)
  | exit (f : FmtB2)
  | nopShort (f : FmtB1)
  | nop (f : FmtB2)
  | join (f : FmtA)
  | leave (f : FmtA)
  | waitm (f : FmtA)
  | mask (f : FmtA)
  | elect (f : FmtA)
  | vote (f : FmtA)
  | shfl (f : FmtA)
  | scan (f : FmtA)
  | lred (f : FmtA)
  | matchL (f : FmtA)
  | sleep (f : FmtA)
  | fadd (f : FmtA)
  | fsub (f : FmtA)
  | fmul (f : FmtA)
  | ffma (f : FmtA)
  | fmin (f : FmtA)
  | fmax (f : FmtA)
  | fcmp (f : FmtA)
  | fclass (f : FmtA)
  | fcvt (f : FmtA)
  | frnd (f : FmtA)
  | fscl (f : FmtA)
  | frcp (f : FmtL)
  | frsq (f : FmtL)
  | fsqrt (f : FmtL)
  | fex2 (f : FmtL)
  | flg2 (f : FmtL)
  | fsin (f : FmtL)
  | fcos (f : FmtL)
  | ftanh (f : FmtL)
  | fsigm (f : FmtL)
  | flagrd (f : FmtA)
  | flagclr (f : FmtA)
  | hadd2 (f : FmtA)
  | hmul2 (f : FmtA)
  | hfma2 (f : FmtA)
  | pack8 (f : FmtA)
  | unpack8 (f : FmtA)
  | ld (f : FmtM)
  | st (f : FmtM)
  | lds (f : FmtM)
  | sts (f : FmtM)
  | prf (f : FmtM)
  | mprobe (f : FmtM)
  | dirtysw (f : FmtL)
  | fence (f : FmtL)
  | acq (f : FmtL)
  | rel (f : FmtL)
  | bind (f : FmtL)
  | unbind (f : FmtL)
  | atom (f : FmtL)
  | atomSp (f : FmtL)
  | red (f : FmtL)
  | redSp (f : FmtL)
  | take (f : FmtL)
  | tknew (f : FmtL)
  | tksave (f : FmtL)
  | tkload (f : FmtL)
  | tkdrainClose (f : FmtL)
  | tkdrainOpen (f : FmtL)
  | tkdrainFree (f : FmtL)
  | barinit (f : FmtA)
  | arrive (f : FmtA)
  | arriveClu (f : FmtA)
  | arriveDom (f : FmtA)
  | expect (f : FmtA)
  | barwait (f : FmtA)
  | bartest (f : FmtA)
  | cpb (f : FmtL)
  | cpt (f : FmtL)
  | cpl (f : FmtL)
  | cpa (f : FmtL)
  | cpcan (f : FmtL)
  | tdef (f : FmtL)
  | tseal (f : FmtL)
  | tdrop (f : FmtL)
  | tquery (f : FmtL)
  | gang (f : FmtA)
  | oclaim (f : FmtL)
  | orel (f : FmtA)
  | mma (f : FmtL)
  | mmag (f : FmtL)
  | mmas (f : FmtL)
  | accz (f : FmtL)
  | moduleReset
  | novigImageUpdate
  | novigQuarantineClear
  | buyerKeyAdd
  | gracePeriodExpiry
  | clauseFetch
  | clauseBoundary
  | ageRuleFill
  | opfRecordWrite
  | longLatencyCommit
  | errorCompletion
  | syncDeadlock
  | rendezvousRelease
  | joinRelease
  | waitmRelease
  | sleepExpiry
  | nwaitWake
  | bankQueueWrite
  | cacheWriteBack
  | tableWalk
  | atomicRequestServe
  | ticketTokenExit
  | barrierArrivalCount
  | remoteArrival
  | copyJobStart
  | copyChunk
  | copyWindowDeadlock
  | claimGrant
  | latchCommandAccept
  | matrixCommandStart
  | groupKStep
  | sramUncorrectable
  | stackUncorrectable
  | patrolScrub
  | laneFailure
  | sliceErrorRateFail
  | stackLost
  | coreSelftestFail
  | pcieLinkChange
  | suspicionHalving
  | controlCoreRestart
  | contextEndDone
  | commandWindowExec
  | qtailWrite
  | qctlWrite
  | packetTake
  | dispatchPass
  | regionReserve
  | serviceWindow
  | nodeCompletion
  | evqRead
  | evSetWrite
  | evClrWrite
  | rerunEnd
  | registerWrite
  | ucieFlitReceive
  | ucieLaneEvent
  | transactionReceive
  | guestusFlitReceive
  | fabricPortDown
  | rankLoss
  | tagWindowClose
  | tagVerify
  | tagTimeout
  | parityRebuild
  | hostAtomicCompletion
  | pxRespWrite
  | proxyTimeout
  | atsInvalidation
  | atsAbortTimeout
  | hostDmaWrite
  | vfTableWrite
  | functionLevelReset
  | eventRecordDelivery
  | tdiStateChange
  | hostAtomicopToBar
  deriving DecidableEq, Repr

end Sys2Proof
end

