-- ==== Sys2Proof/Decode.lean ====
section
/-! DEFINITION. The decoder and the encoder (spec/03_encoding.md R56, R64 to R75).

`decode` is total on any words; it reads the format that E and OP choose and names why it refuses.
The checks on the fields it has read (R66 to R70, R77) are those of Sys2Proof/Machine/Check.lean. -/
namespace Sys2Proof

/-- Why no instruction is read. -/
inductive Reject where
  /-- The words end before the instruction does. -/
  | truncated
  /-- The major opcode is not allocated (0x1001). -/
  | unallocated
  /-- E = 0 where the opcode has no one-word form (0x100A). -/
  | noShortForm
  /-- A FN value that the opcode does not list (0x1002). -/
  | reservedFn
  deriving DecidableEq, Repr

/-- E of a first word (R56). -/
def wordE (w : Word) : Bool := w.getLsbD 31
/-- OP of a first word (R56). -/
def wordOp (w : Word) : Nat := (w.extractLsb' 23 8).toNat

def FmtS.ofWord (w : Word) : FmtS :=
  { d := w.extractLsb' 15 8, a := w.extractLsb' 7 8, z := w.extractLsb' 6 1, i := w.extractLsb' 0 6 }
def FmtA.ofWords (w x : Word) : FmtA :=
  { d := w.extractLsb' 15 8, a := w.extractLsb' 7 8, fn := w.extractLsb' 2 5, ib := w.extractLsb' 1 1,
    ic := w.extractLsb' 0 1, gn := x.extractLsb' 31 1, gp := x.extractLsb' 28 3, b := x.extractLsb' 20 8,
    c := x.extractLsb' 12 8, ty := x.extractLsb' 6 6, rm := x.extractLsb' 4 2, st := x.extractLsb' 2 2,
    u := x.extractLsb' 0 2 }
def FmtL.ofWords (w x : Word) : FmtL :=
  { d := w.extractLsb' 15 8, a := w.extractLsb' 7 8, sb := w.extractLsb' 4 3, la := w.extractLsb' 0 4,
    gn := x.extractLsb' 31 1, gp := x.extractLsb' 28 3, b := x.extractLsb' 20 8, c := x.extractLsb' 12 8,
    tail := x.extractLsb' 0 12 }
def FmtM.ofWords (w x : Word) : FmtM :=
  { d := w.extractLsb' 15 8, a := w.extractLsb' 7 8, sb := w.extractLsb' 4 3, la := w.extractLsb' 0 4,
    gn := x.extractLsb' 31 1, gp := x.extractLsb' 28 3, ty := x.extractLsb' 22 6, u := x.extractLsb' 21 1,
    vn := x.extractLsb' 19 2, off := x.extractLsb' 0 19 }
def FmtI.ofWords (w x : Word) : FmtI :=
  { d := w.extractLsb' 15 8, mid := w.extractLsb' 7 8, ty := w.extractLsb' 1 6, u := w.extractLsb' 0 1, imm := x }
def FmtB1.ofWord (w : Word) : FmtB1 := { off := w.extractLsb' 0 23 }
def FmtB2.ofWords (w x : Word) : FmtB2 :=
  { off := w.extractLsb' 0 23, gn := x.extractLsb' 31 1, gp := x.extractLsb' 28 3, x := x.extractLsb' 20 8,
    fn := x.extractLsb' 12 8, low := x.extractLsb' 0 12 }
def FmtZ.ofWords (w x : Word) : FmtZ :=
  { d := w.extractLsb' 15 8, a := w.extractLsb' 7 8, fn := w.extractLsb' 0 7, gn := x.extractLsb' 31 1,
    gp := x.extractLsb' 28 3, cr := x.extractLsb' 16 12, imm := x.extractLsb' 0 16 }

/-- Whether the major opcode is allocated (R74): 156 are. -/
def allocated (op : Nat) : Bool :=
  (0x01 ≤ op && op ≤ 0x12) || (0x18 ≤ op && op ≤ 0x1A) || (0x20 ≤ op && op ≤ 0x49) || (0x50 ≤ op && op ≤ 0x61)
    || (0x70 ≤ op && op ≤ 0x8A) || (0x90 ≤ op && op ≤ 0x96) || (0x98 ≤ op && op ≤ 0x9C) || (0xA0 ≤ op && op ≤ 0xAD)
    || (0xB0 ≤ op && op ≤ 0xB4) || (0xC0 ≤ op && op ≤ 0xCA) || (0xD0 ≤ op && op ≤ 0xD5)

/-- The one-word forms (R71, R72). -/
def decode1 (w : Word) : Option Instr :=
  match wordOp w with
  | 0x20 => some (.addS (FmtS.ofWord w))
  | 0x22 => some (.subS (FmtS.ofWord w))
  | 0x26 => some (.mulS (FmtS.ofWord w))
  | 0x2C => some (.minS (FmtS.ofWord w))
  | 0x2D => some (.maxS (FmtS.ofWord w))
  | 0x30 => some (.andS (FmtS.ofWord w))
  | 0x31 => some (.orS (FmtS.ofWord w))
  | 0x32 => some (.xorS (FmtS.ofWord w))
  | 0x33 => some (.andnS (FmtS.ofWord w))
  | 0x35 => some (.shlS (FmtS.ofWord w))
  | 0x36 => some (.shrS (FmtS.ofWord w))
  | 0x37 => some (.sarS (FmtS.ofWord w))
  | 0x38 => some (.rolS (FmtS.ofWord w))
  | 0x46 => some (.movS (FmtS.ofWord w))
  | 0x50 => some (.braShort (FmtB1.ofWord w))
  | 0x53 => some (.callShort (FmtB1.ofWord w))
  | 0x54 => some (.retShort (FmtB1.ofWord w))
  | 0x55 => some (.exitShort (FmtB1.ofWord w))
  | 0x61 => some (.nopShort (FmtB1.ofWord w))
  | _ => none

/-- The two-word forms of opcodes 0x01 to 0x1A (R74, R75); `none` for a FN value that is not listed. -/
def decode2Sys (w x : Word) : Option Instr :=
  match wordOp w with
  | 0x01 => some (.trap (FmtZ.ofWords w x))
  | 0x02 =>
    match (w.extractLsb' 0 7).toNat with
    | 0 => some (.tret (FmtZ.ofWords w x))
    | 1 => some (.tretRec (FmtZ.ofWords w x))
    | _ => none
  | 0x03 => some (.crd (FmtZ.ofWords w x))
  | 0x04 => some (.cwr (FmtZ.ofWords w x))
  | 0x05 => some (.mapack (FmtZ.ofWords w x))
  | 0x06 => some (.maprd (FmtZ.ofWords w x))
  | 0x07 =>
    match (x.extractLsb' 0 8).toNat with
    | 0 => some (.ctxsaveSeal (FmtL.ofWords w x))
    | 1 => some (.ctxsaveReset (FmtL.ofWords w x))
    | _ => none
  | 0x08 =>
    match (x.extractLsb' 0 8).toNat with
    | 0 => some (.ctxloadImage (FmtL.ofWords w x))
    | 1 => some (.ctxloadNew (FmtL.ofWords w x))
    | 2 => some (.ctxloadResume (FmtL.ofWords w x))
    | _ => none
  | 0x09 =>
    match (x.extractLsb' 0 8).toNat with
    | 0 => some (.kwrapGive (FmtL.ofWords w x))
    | 1 => some (.kwrapTake (FmtL.ofWords w x))
    | 2 => some (.kwrapEscrow (FmtL.ofWords w x))
    | 3 => some (.kwrapImport (FmtL.ofWords w x))
    | _ => none
  | 0x0A =>
    match (w.extractLsb' 0 7).toNat with
    | 0 => some (.kdrop (FmtZ.ofWords w x))
    | 1 => some (.kdropErase (FmtZ.ofWords w x))
    | _ => none
  | 0x0B =>
    match (x.extractLsb' 0 8).toNat with
    | 0 => some (.attestCtx (FmtL.ofWords w x))
    | 1 => some (.attestModule (FmtL.ofWords w x))
    | _ => none
  | 0x0C => some (.cntrd (FmtZ.ofWords w x))
  | 0x0D => some (.cntcfg (FmtZ.ofWords w x))
  | 0x0E => some (.moncfg (FmtZ.ofWords w x))
  | 0x0F => some (.monrd (FmtZ.ofWords w x))
  | 0x10 => some (.evpost (FmtZ.ofWords w x))
  | 0x11 => some (.yieldC (FmtZ.ofWords w x))
  | 0x12 =>
    match (x.extractLsb' 0 8).toNat with
    | 0 => some (.scrubVirt (FmtL.ofWords w x))
    | 1 => some (.scrubPhys (FmtL.ofWords w x))
    | _ => none
  | 0x18 =>
    match (w.extractLsb' 0 7).toNat with
    | 0 => some (.rankmapGet (FmtZ.ofWords w x))
    | 1 => some (.rankmapSet (FmtZ.ofWords w x))
    | _ => none
  | 0x19 =>
    match (w.extractLsb' 0 7).toNat with
    | 0 => some (.planemapMap (FmtZ.ofWords w x))
    | 1 => some (.planemapShare (FmtZ.ofWords w x))
    | 2 => some (.planemapGet (FmtZ.ofWords w x))
    | 3 => some (.planemapRetrain (FmtZ.ofWords w x))
    | _ => none
  | 0x1A =>
    match (w.extractLsb' 0 7).toNat with
    | 0 => some (.paritycfgSet (FmtZ.ofWords w x))
    | 1 => some (.paritycfgRebuild (FmtZ.ofWords w x))
    | 2 => some (.paritycfgGet (FmtZ.ofWords w x))
    | _ => none
  | _ => none

/-- The two-word forms of opcodes 0x20 to 0x49 (R74, R75); `none` for a FN value that is not listed. -/
def decode2Int (w x : Word) : Option Instr :=
  match wordOp w with
  | 0x20 => some (.add (FmtA.ofWords w x))
  | 0x21 => some (.addc (FmtA.ofWords w x))
  | 0x22 => some (.sub (FmtA.ofWords w x))
  | 0x23 => some (.subb (FmtA.ofWords w x))
  | 0x24 => some (.sadd (FmtA.ofWords w x))
  | 0x25 => some (.ssub (FmtA.ofWords w x))
  | 0x26 => some (.mul (FmtA.ofWords w x))
  | 0x27 => some (.mulh (FmtA.ofWords w x))
  | 0x28 => some (.mad (FmtA.ofWords w x))
  | 0x29 => some (.div (FmtL.ofWords w x))
  | 0x2A => some (.rem (FmtL.ofWords w x))
  | 0x2B => some (.dot4 (FmtA.ofWords w x))
  | 0x2C => some (.min (FmtA.ofWords w x))
  | 0x2D => some (.max (FmtA.ofWords w x))
  | 0x2E => some (.abs (FmtA.ofWords w x))
  | 0x2F => some (.neg (FmtA.ofWords w x))
  | 0x30 => some (.and (FmtA.ofWords w x))
  | 0x31 => some (.or (FmtA.ofWords w x))
  | 0x32 => some (.xor (FmtA.ofWords w x))
  | 0x33 => some (.andn (FmtA.ofWords w x))
  | 0x34 => some (.not (FmtA.ofWords w x))
  | 0x35 => some (.shl (FmtA.ofWords w x))
  | 0x36 => some (.shr (FmtA.ofWords w x))
  | 0x37 => some (.sar (FmtA.ofWords w x))
  | 0x38 => some (.rol (FmtA.ofWords w x))
  | 0x39 => some (.bfx (FmtA.ofWords w x))
  | 0x3A => some (.bfi (FmtA.ofWords w x))
  | 0x3B => some (.popc (FmtA.ofWords w x))
  | 0x3C => some (.clz (FmtA.ofWords w x))
  | 0x3D => some (.ctz (FmtA.ofWords w x))
  | 0x3E => some (.brev (FmtA.ofWords w x))
  | 0x3F => some (.prmt (FmtA.ofWords w x))
  | 0x40 => some (.sel (FmtA.ofWords w x))
  | 0x41 => some (.setp (FmtA.ofWords w x))
  | 0x42 => some (.pand (FmtA.ofWords w x))
  | 0x43 => some (.por (FmtA.ofWords w x))
  | 0x44 => some (.pxor (FmtA.ofWords w x))
  | 0x45 => some (.pnot (FmtA.ofWords w x))
  | 0x46 => some (.mov (FmtA.ofWords w x))
  | 0x47 => some (.movi (FmtI.ofWords w x))
  | 0x48 => some (.lea (FmtA.ofWords w x))
  | 0x49 => some (.cvti (FmtA.ofWords w x))
  | _ => none

/-- The two-word forms of opcodes 0x50 to 0x61 (R74, R75); `none` for a FN value that is not listed. -/
def decode2Ctl (w x : Word) : Option Instr :=
  match wordOp w with
  | 0x50 => some (.bra (FmtB2.ofWords w x))
  | 0x51 => some (.brc (FmtB2.ofWords w x))
  | 0x52 => some (.brx (FmtB2.ofWords w x))
  | 0x53 => some (.call (FmtB2.ofWords w x))
  | 0x54 => some (.ret (FmtB2.ofWords w x))
  | 0x55 => some (.exit (FmtB2.ofWords w x))
  | 0x56 => some (.join (FmtA.ofWords w x))
  | 0x57 => some (.leave (FmtA.ofWords w x))
  | 0x58 => some (.waitm (FmtA.ofWords w x))
  | 0x59 => some (.mask (FmtA.ofWords w x))
  | 0x5A => some (.elect (FmtA.ofWords w x))
  | 0x5B => some (.vote (FmtA.ofWords w x))
  | 0x5C => some (.shfl (FmtA.ofWords w x))
  | 0x5D => some (.scan (FmtA.ofWords w x))
  | 0x5E => some (.lred (FmtA.ofWords w x))
  | 0x5F => some (.matchL (FmtA.ofWords w x))
  | 0x60 => some (.sleep (FmtA.ofWords w x))
  | 0x61 => some (.nop (FmtB2.ofWords w x))
  | _ => none

/-- The two-word forms of opcodes 0x70 to 0x8A (R74, R75); `none` for a FN value that is not listed. -/
def decode2Fp (w x : Word) : Option Instr :=
  match wordOp w with
  | 0x70 => some (.fadd (FmtA.ofWords w x))
  | 0x71 => some (.fsub (FmtA.ofWords w x))
  | 0x72 => some (.fmul (FmtA.ofWords w x))
  | 0x73 => some (.ffma (FmtA.ofWords w x))
  | 0x74 => some (.fmin (FmtA.ofWords w x))
  | 0x75 => some (.fmax (FmtA.ofWords w x))
  | 0x76 => some (.fcmp (FmtA.ofWords w x))
  | 0x77 => some (.fclass (FmtA.ofWords w x))
  | 0x78 => some (.fcvt (FmtA.ofWords w x))
  | 0x79 => some (.frnd (FmtA.ofWords w x))
  | 0x7A => some (.fscl (FmtA.ofWords w x))
  | 0x7B => some (.frcp (FmtL.ofWords w x))
  | 0x7C => some (.frsq (FmtL.ofWords w x))
  | 0x7D => some (.fsqrt (FmtL.ofWords w x))
  | 0x7E => some (.fex2 (FmtL.ofWords w x))
  | 0x7F => some (.flg2 (FmtL.ofWords w x))
  | 0x80 => some (.fsin (FmtL.ofWords w x))
  | 0x81 => some (.fcos (FmtL.ofWords w x))
  | 0x82 => some (.ftanh (FmtL.ofWords w x))
  | 0x83 => some (.fsigm (FmtL.ofWords w x))
  | 0x84 => some (.flagrd (FmtA.ofWords w x))
  | 0x85 => some (.flagclr (FmtA.ofWords w x))
  | 0x86 => some (.hadd2 (FmtA.ofWords w x))
  | 0x87 => some (.hmul2 (FmtA.ofWords w x))
  | 0x88 => some (.hfma2 (FmtA.ofWords w x))
  | 0x89 => some (.pack8 (FmtA.ofWords w x))
  | 0x8A => some (.unpack8 (FmtA.ofWords w x))
  | _ => none

/-- The two-word forms of opcodes 0x90 to 0xAD (R74, R75); `none` for a FN value that is not listed. -/
def decode2Mem (w x : Word) : Option Instr :=
  match wordOp w with
  | 0x90 => some (.ld (FmtM.ofWords w x))
  | 0x91 => some (.st (FmtM.ofWords w x))
  | 0x92 => some (.lds (FmtM.ofWords w x))
  | 0x93 => some (.sts (FmtM.ofWords w x))
  | 0x94 => some (.prf (FmtM.ofWords w x))
  | 0x95 => some (.mprobe (FmtM.ofWords w x))
  | 0x96 => some (.dirtysw (FmtL.ofWords w x))
  | 0x98 => some (.fence (FmtL.ofWords w x))
  | 0x99 => some (.acq (FmtL.ofWords w x))
  | 0x9A => some (.rel (FmtL.ofWords w x))
  | 0x9B => some (.bind (FmtL.ofWords w x))
  | 0x9C => some (.unbind (FmtL.ofWords w x))
  | 0xA0 => some (.atom (FmtL.ofWords w x))
  | 0xA1 => some (.atomSp (FmtL.ofWords w x))
  | 0xA2 => some (.red (FmtL.ofWords w x))
  | 0xA3 => some (.redSp (FmtL.ofWords w x))
  | 0xA4 => some (.take (FmtL.ofWords w x))
  | 0xA5 => some (.tknew (FmtL.ofWords w x))
  | 0xA6 => some (.tksave (FmtL.ofWords w x))
  | 0xA7 => some (.tkload (FmtL.ofWords w x))
  | 0xA8 =>
    match (x.extractLsb' 0 8).toNat with
    | 0 => some (.tkdrainClose (FmtL.ofWords w x))
    | 1 => some (.tkdrainOpen (FmtL.ofWords w x))
    | 2 => some (.tkdrainFree (FmtL.ofWords w x))
    | _ => none
  | 0xA9 => some (.barinit (FmtA.ofWords w x))
  | 0xAA =>
    match (w.extractLsb' 2 5).toNat with
    | 0 => some (.arrive (FmtA.ofWords w x))
    | 1 => some (.arrive (FmtA.ofWords w x))
    | 2 => some (.arriveClu (FmtA.ofWords w x))
    | 3 => some (.arriveDom (FmtA.ofWords w x))
    | _ => none
  | 0xAB => some (.expect (FmtA.ofWords w x))
  | 0xAC => some (.barwait (FmtA.ofWords w x))
  | 0xAD => some (.bartest (FmtA.ofWords w x))
  | _ => none

/-- The two-word forms of opcodes 0xB0 to 0xD5 (R74, R75); `none` for a FN value that is not listed. -/
def decode2Eng (w x : Word) : Option Instr :=
  match wordOp w with
  | 0xB0 => some (.cpb (FmtL.ofWords w x))
  | 0xB1 => some (.cpt (FmtL.ofWords w x))
  | 0xB2 => some (.cpl (FmtL.ofWords w x))
  | 0xB3 => some (.cpa (FmtL.ofWords w x))
  | 0xB4 => some (.cpcan (FmtL.ofWords w x))
  | 0xC0 => some (.tdef (FmtL.ofWords w x))
  | 0xC1 => some (.tseal (FmtL.ofWords w x))
  | 0xC2 => some (.tdrop (FmtL.ofWords w x))
  | 0xC3 => some (.tquery (FmtL.ofWords w x))
  | 0xC4 => some (.gang (FmtA.ofWords w x))
  | 0xC5 => some (.oclaim (FmtL.ofWords w x))
  | 0xC6 => some (.orel (FmtA.ofWords w x))
  | 0xC7 => some (.mma (FmtL.ofWords w x))
  | 0xC8 => some (.mmag (FmtL.ofWords w x))
  | 0xC9 => some (.mmas (FmtL.ofWords w x))
  | 0xCA => some (.accz (FmtL.ofWords w x))
  | 0xD0 => some (.nlaunch (FmtL.ofWords w x))
  | 0xD1 => some (.nwait (FmtA.ofWords w x))
  | 0xD2 => some (.nquery (FmtL.ofWords w x))
  | 0xD3 =>
    match (x.extractLsb' 0 8).toNat with
    | 0 => some (.placeRsv (FmtL.ofWords w x))
    | 1 => some (.placeFree (FmtL.ofWords w x))
    | 2 => some (.placeClose (FmtL.ofWords w x))
    | 3 => some (.placeOpen (FmtL.ofWords w x))
    | _ => none
  | 0xD4 => some (.preempt (FmtL.ofWords w x))
  | 0xD5 =>
    match (x.extractLsb' 0 8).toNat with
    | 0 => some (.slicesetAssign (FmtL.ofWords w x))
    | 1 => some (.slicesetTarget (FmtL.ofWords w x))
    | 2 => some (.slicesetMove (FmtL.ofWords w x))
    | 3 => some (.slicesetPool (FmtL.ofWords w x))
    | _ => none
  | _ => none

/-- The two-word forms (R75). -/
def decode2 (w x : Word) : Option Instr :=
  let op := wordOp w
  if op < 0x20 then decode2Sys w x
  else if op < 0x50 then decode2Int w x
  else if op < 0x70 then decode2Ctl w x
  else if op < 0x90 then decode2Fp w x
  else if op < 0xB0 then decode2Mem w x
  else decode2Eng w x

/-- Reads one instruction from words and leaves the words after it, or names why there is none
(R56, R74, R77). -/
def decode : List Word → Except Reject (Instr × List Word)
  | [] => .error .truncated
  | w :: r =>
    if allocated (wordOp w) then
      if wordE w then
        match r with
        | [] => .error .truncated
        | x :: r' =>
          match decode2 w x with
          | some i => .ok (i, r')
          | none => .error .reservedFn
      else
        match decode1 w with
        | some i => .ok (i, r)
        | none => .error .noShortForm
    else .error .unallocated

/-- The 32-bit words of bytes in memory order; a last word that is not whole is dropped (R6, R56). -/
def wordsOfBytes (l : List Byte) : List Word := Machine.bytesWords l

/-- Reads one instruction from bytes in memory order. -/
def decodeBytes (l : List Byte) : Except Reject (Instr × List Word) := decode (wordsOfBytes l)

/-- The words as the hardware stores them: the first word first, each little-endian (R6, R56). -/
def tableBytes (_nbits w : Nat) : List Byte := Machine.toBytes 8 w

/-- The instruction the decoder reads from a table word: bit 0 of `w` is the least significant bit of
the first word, bits from `nbits` on are 0. -/
def decodeTableWord (nbits w : Nat) : Option Instr :=
  match decodeBytes (tableBytes nbits (w % 2 ^ nbits)) with
  | .ok (i, _) => some i
  | .error _ => none

/-! ### The encoder -/

def FmtS.word (f : FmtS) (op : BitVec 8) : Word := (0#1 ++ op ++ f.d ++ f.a ++ f.z ++ f.i : BitVec 32)
def FmtA.word0 (f : FmtA) (op : BitVec 8) : Word := (1#1 ++ op ++ f.d ++ f.a ++ f.fn ++ f.ib ++ f.ic : BitVec 32)
def FmtA.word1 (f : FmtA) : Word := (f.gn ++ f.gp ++ f.b ++ f.c ++ f.ty ++ f.rm ++ f.st ++ f.u : BitVec 32)
def FmtL.word0 (f : FmtL) (op : BitVec 8) : Word := (1#1 ++ op ++ f.d ++ f.a ++ f.sb ++ f.la : BitVec 32)
def FmtL.word1 (f : FmtL) : Word := (f.gn ++ f.gp ++ f.b ++ f.c ++ f.tail : BitVec 32)
def FmtM.word0 (f : FmtM) (op : BitVec 8) : Word := (1#1 ++ op ++ f.d ++ f.a ++ f.sb ++ f.la : BitVec 32)
def FmtM.word1 (f : FmtM) : Word := (f.gn ++ f.gp ++ f.ty ++ f.u ++ f.vn ++ f.off : BitVec 32)
def FmtI.word0 (f : FmtI) (op : BitVec 8) : Word := (1#1 ++ op ++ f.d ++ f.mid ++ f.ty ++ f.u : BitVec 32)
def FmtB1.word (f : FmtB1) (op : BitVec 8) : Word := (0#1 ++ op ++ f.off : BitVec 32)
def FmtB2.word0 (f : FmtB2) (op : BitVec 8) : Word := (1#1 ++ op ++ f.off : BitVec 32)
def FmtB2.word1 (f : FmtB2) : Word := (f.gn ++ f.gp ++ f.x ++ f.fn ++ f.low : BitVec 32)
def FmtZ.word0 (f : FmtZ) (op : BitVec 8) : Word := (1#1 ++ op ++ f.d ++ f.a ++ f.fn : BitVec 32)
def FmtZ.word1 (f : FmtZ) : Word := (f.gn ++ f.gp ++ f.cr ++ f.imm : BitVec 32)

/-- The words of an instruction (R64, R74); an event has none. -/
def encode : Instr → List Word
  | .trap f => [f.word0 0x01#8, f.word1]
  | .tret f => [f.word0 0x02#8, f.word1]
  | .tretRec f => [f.word0 0x02#8, f.word1]
  | .crd f => [f.word0 0x03#8, f.word1]
  | .cwr f => [f.word0 0x04#8, f.word1]
  | .mapack f => [f.word0 0x05#8, f.word1]
  | .maprd f => [f.word0 0x06#8, f.word1]
  | .ctxsaveSeal f => [f.word0 0x07#8, f.word1]
  | .ctxsaveReset f => [f.word0 0x07#8, f.word1]
  | .ctxloadImage f => [f.word0 0x08#8, f.word1]
  | .ctxloadNew f => [f.word0 0x08#8, f.word1]
  | .ctxloadResume f => [f.word0 0x08#8, f.word1]
  | .kwrapGive f => [f.word0 0x09#8, f.word1]
  | .kwrapTake f => [f.word0 0x09#8, f.word1]
  | .kwrapEscrow f => [f.word0 0x09#8, f.word1]
  | .kwrapImport f => [f.word0 0x09#8, f.word1]
  | .kdrop f => [f.word0 0x0A#8, f.word1]
  | .kdropErase f => [f.word0 0x0A#8, f.word1]
  | .attestCtx f => [f.word0 0x0B#8, f.word1]
  | .attestModule f => [f.word0 0x0B#8, f.word1]
  | .cntrd f => [f.word0 0x0C#8, f.word1]
  | .cntcfg f => [f.word0 0x0D#8, f.word1]
  | .moncfg f => [f.word0 0x0E#8, f.word1]
  | .monrd f => [f.word0 0x0F#8, f.word1]
  | .evpost f => [f.word0 0x10#8, f.word1]
  | .yieldC f => [f.word0 0x11#8, f.word1]
  | .scrubVirt f => [f.word0 0x12#8, f.word1]
  | .scrubPhys f => [f.word0 0x12#8, f.word1]
  | .rankmapGet f => [f.word0 0x18#8, f.word1]
  | .rankmapSet f => [f.word0 0x18#8, f.word1]
  | .planemapMap f => [f.word0 0x19#8, f.word1]
  | .planemapShare f => [f.word0 0x19#8, f.word1]
  | .planemapGet f => [f.word0 0x19#8, f.word1]
  | .planemapRetrain f => [f.word0 0x19#8, f.word1]
  | .paritycfgSet f => [f.word0 0x1A#8, f.word1]
  | .paritycfgRebuild f => [f.word0 0x1A#8, f.word1]
  | .paritycfgGet f => [f.word0 0x1A#8, f.word1]
  | .nlaunch f => [f.word0 0xD0#8, f.word1]
  | .nwait f => [f.word0 0xD1#8, f.word1]
  | .nquery f => [f.word0 0xD2#8, f.word1]
  | .placeRsv f => [f.word0 0xD3#8, f.word1]
  | .placeFree f => [f.word0 0xD3#8, f.word1]
  | .placeClose f => [f.word0 0xD3#8, f.word1]
  | .placeOpen f => [f.word0 0xD3#8, f.word1]
  | .preempt f => [f.word0 0xD4#8, f.word1]
  | .slicesetAssign f => [f.word0 0xD5#8, f.word1]
  | .slicesetTarget f => [f.word0 0xD5#8, f.word1]
  | .slicesetMove f => [f.word0 0xD5#8, f.word1]
  | .slicesetPool f => [f.word0 0xD5#8, f.word1]
  | .addS f => [f.word 0x20#8]
  | .add f => [f.word0 0x20#8, f.word1]
  | .addc f => [f.word0 0x21#8, f.word1]
  | .subS f => [f.word 0x22#8]
  | .sub f => [f.word0 0x22#8, f.word1]
  | .subb f => [f.word0 0x23#8, f.word1]
  | .sadd f => [f.word0 0x24#8, f.word1]
  | .ssub f => [f.word0 0x25#8, f.word1]
  | .mulS f => [f.word 0x26#8]
  | .mul f => [f.word0 0x26#8, f.word1]
  | .mulh f => [f.word0 0x27#8, f.word1]
  | .mad f => [f.word0 0x28#8, f.word1]
  | .div f => [f.word0 0x29#8, f.word1]
  | .rem f => [f.word0 0x2A#8, f.word1]
  | .dot4 f => [f.word0 0x2B#8, f.word1]
  | .minS f => [f.word 0x2C#8]
  | .min f => [f.word0 0x2C#8, f.word1]
  | .maxS f => [f.word 0x2D#8]
  | .max f => [f.word0 0x2D#8, f.word1]
  | .abs f => [f.word0 0x2E#8, f.word1]
  | .neg f => [f.word0 0x2F#8, f.word1]
  | .andS f => [f.word 0x30#8]
  | .and f => [f.word0 0x30#8, f.word1]
  | .orS f => [f.word 0x31#8]
  | .or f => [f.word0 0x31#8, f.word1]
  | .xorS f => [f.word 0x32#8]
  | .xor f => [f.word0 0x32#8, f.word1]
  | .andnS f => [f.word 0x33#8]
  | .andn f => [f.word0 0x33#8, f.word1]
  | .not f => [f.word0 0x34#8, f.word1]
  | .shlS f => [f.word 0x35#8]
  | .shl f => [f.word0 0x35#8, f.word1]
  | .shrS f => [f.word 0x36#8]
  | .shr f => [f.word0 0x36#8, f.word1]
  | .sarS f => [f.word 0x37#8]
  | .sar f => [f.word0 0x37#8, f.word1]
  | .rolS f => [f.word 0x38#8]
  | .rol f => [f.word0 0x38#8, f.word1]
  | .bfx f => [f.word0 0x39#8, f.word1]
  | .bfi f => [f.word0 0x3A#8, f.word1]
  | .popc f => [f.word0 0x3B#8, f.word1]
  | .clz f => [f.word0 0x3C#8, f.word1]
  | .ctz f => [f.word0 0x3D#8, f.word1]
  | .brev f => [f.word0 0x3E#8, f.word1]
  | .prmt f => [f.word0 0x3F#8, f.word1]
  | .sel f => [f.word0 0x40#8, f.word1]
  | .setp f => [f.word0 0x41#8, f.word1]
  | .pand f => [f.word0 0x42#8, f.word1]
  | .por f => [f.word0 0x43#8, f.word1]
  | .pxor f => [f.word0 0x44#8, f.word1]
  | .pnot f => [f.word0 0x45#8, f.word1]
  | .movS f => [f.word 0x46#8]
  | .mov f => [f.word0 0x46#8, f.word1]
  | .movi f => [f.word0 0x47#8, f.imm]
  | .lea f => [f.word0 0x48#8, f.word1]
  | .cvti f => [f.word0 0x49#8, f.word1]
  | .braShort f => [f.word 0x50#8]
  | .bra f => [f.word0 0x50#8, f.word1]
  | .brc f => [f.word0 0x51#8, f.word1]
  | .brx f => [f.word0 0x52#8, f.word1]
  | .callShort f => [f.word 0x53#8]
  | .call f => [f.word0 0x53#8, f.word1]
  | .retShort f => [f.word 0x54#8]
  | .ret f => [f.word0 0x54#8, f.word1]
  | .exitShort f => [f.word 0x55#8]
  | .exit f => [f.word0 0x55#8, f.word1]
  | .nopShort f => [f.word 0x61#8]
  | .nop f => [f.word0 0x61#8, f.word1]
  | .join f => [f.word0 0x56#8, f.word1]
  | .leave f => [f.word0 0x57#8, f.word1]
  | .waitm f => [f.word0 0x58#8, f.word1]
  | .mask f => [f.word0 0x59#8, f.word1]
  | .elect f => [f.word0 0x5A#8, f.word1]
  | .vote f => [f.word0 0x5B#8, f.word1]
  | .shfl f => [f.word0 0x5C#8, f.word1]
  | .scan f => [f.word0 0x5D#8, f.word1]
  | .lred f => [f.word0 0x5E#8, f.word1]
  | .matchL f => [f.word0 0x5F#8, f.word1]
  | .sleep f => [f.word0 0x60#8, f.word1]
  | .fadd f => [f.word0 0x70#8, f.word1]
  | .fsub f => [f.word0 0x71#8, f.word1]
  | .fmul f => [f.word0 0x72#8, f.word1]
  | .ffma f => [f.word0 0x73#8, f.word1]
  | .fmin f => [f.word0 0x74#8, f.word1]
  | .fmax f => [f.word0 0x75#8, f.word1]
  | .fcmp f => [f.word0 0x76#8, f.word1]
  | .fclass f => [f.word0 0x77#8, f.word1]
  | .fcvt f => [f.word0 0x78#8, f.word1]
  | .frnd f => [f.word0 0x79#8, f.word1]
  | .fscl f => [f.word0 0x7A#8, f.word1]
  | .frcp f => [f.word0 0x7B#8, f.word1]
  | .frsq f => [f.word0 0x7C#8, f.word1]
  | .fsqrt f => [f.word0 0x7D#8, f.word1]
  | .fex2 f => [f.word0 0x7E#8, f.word1]
  | .flg2 f => [f.word0 0x7F#8, f.word1]
  | .fsin f => [f.word0 0x80#8, f.word1]
  | .fcos f => [f.word0 0x81#8, f.word1]
  | .ftanh f => [f.word0 0x82#8, f.word1]
  | .fsigm f => [f.word0 0x83#8, f.word1]
  | .flagrd f => [f.word0 0x84#8, f.word1]
  | .flagclr f => [f.word0 0x85#8, f.word1]
  | .hadd2 f => [f.word0 0x86#8, f.word1]
  | .hmul2 f => [f.word0 0x87#8, f.word1]
  | .hfma2 f => [f.word0 0x88#8, f.word1]
  | .pack8 f => [f.word0 0x89#8, f.word1]
  | .unpack8 f => [f.word0 0x8A#8, f.word1]
  | .ld f => [f.word0 0x90#8, f.word1]
  | .st f => [f.word0 0x91#8, f.word1]
  | .lds f => [f.word0 0x92#8, f.word1]
  | .sts f => [f.word0 0x93#8, f.word1]
  | .prf f => [f.word0 0x94#8, f.word1]
  | .mprobe f => [f.word0 0x95#8, f.word1]
  | .dirtysw f => [f.word0 0x96#8, f.word1]
  | .fence f => [f.word0 0x98#8, f.word1]
  | .acq f => [f.word0 0x99#8, f.word1]
  | .rel f => [f.word0 0x9A#8, f.word1]
  | .bind f => [f.word0 0x9B#8, f.word1]
  | .unbind f => [f.word0 0x9C#8, f.word1]
  | .atom f => [f.word0 0xA0#8, f.word1]
  | .atomSp f => [f.word0 0xA1#8, f.word1]
  | .red f => [f.word0 0xA2#8, f.word1]
  | .redSp f => [f.word0 0xA3#8, f.word1]
  | .take f => [f.word0 0xA4#8, f.word1]
  | .tknew f => [f.word0 0xA5#8, f.word1]
  | .tksave f => [f.word0 0xA6#8, f.word1]
  | .tkload f => [f.word0 0xA7#8, f.word1]
  | .tkdrainClose f => [f.word0 0xA8#8, f.word1]
  | .tkdrainOpen f => [f.word0 0xA8#8, f.word1]
  | .tkdrainFree f => [f.word0 0xA8#8, f.word1]
  | .barinit f => [f.word0 0xA9#8, f.word1]
  | .arrive f => [f.word0 0xAA#8, f.word1]
  | .arriveClu f => [f.word0 0xAA#8, f.word1]
  | .arriveDom f => [f.word0 0xAA#8, f.word1]
  | .expect f => [f.word0 0xAB#8, f.word1]
  | .barwait f => [f.word0 0xAC#8, f.word1]
  | .bartest f => [f.word0 0xAD#8, f.word1]
  | .cpb f => [f.word0 0xB0#8, f.word1]
  | .cpt f => [f.word0 0xB1#8, f.word1]
  | .cpl f => [f.word0 0xB2#8, f.word1]
  | .cpa f => [f.word0 0xB3#8, f.word1]
  | .cpcan f => [f.word0 0xB4#8, f.word1]
  | .tdef f => [f.word0 0xC0#8, f.word1]
  | .tseal f => [f.word0 0xC1#8, f.word1]
  | .tdrop f => [f.word0 0xC2#8, f.word1]
  | .tquery f => [f.word0 0xC3#8, f.word1]
  | .gang f => [f.word0 0xC4#8, f.word1]
  | .oclaim f => [f.word0 0xC5#8, f.word1]
  | .orel f => [f.word0 0xC6#8, f.word1]
  | .mma f => [f.word0 0xC7#8, f.word1]
  | .mmag f => [f.word0 0xC8#8, f.word1]
  | .mmas f => [f.word0 0xC9#8, f.word1]
  | .accz f => [f.word0 0xCA#8, f.word1]
  | .moduleReset => []
  | .novigImageUpdate => []
  | .novigQuarantineClear => []
  | .buyerKeyAdd => []
  | .gracePeriodExpiry => []
  | .clauseFetch => []
  | .clauseBoundary => []
  | .ageRuleFill => []
  | .opfRecordWrite => []
  | .longLatencyCommit => []
  | .errorCompletion => []
  | .syncDeadlock => []
  | .rendezvousRelease => []
  | .joinRelease => []
  | .waitmRelease => []
  | .sleepExpiry => []
  | .nwaitWake => []
  | .bankQueueWrite => []
  | .cacheWriteBack => []
  | .tableWalk => []
  | .atomicRequestServe => []
  | .ticketTokenExit => []
  | .barrierArrivalCount => []
  | .remoteArrival => []
  | .copyJobStart => []
  | .copyChunk => []
  | .copyWindowDeadlock => []
  | .claimGrant => []
  | .latchCommandAccept => []
  | .matrixCommandStart => []
  | .groupKStep => []
  | .sramUncorrectable => []
  | .stackUncorrectable => []
  | .patrolScrub => []
  | .laneFailure => []
  | .sliceErrorRateFail => []
  | .stackLost => []
  | .coreSelftestFail => []
  | .pcieLinkChange => []
  | .suspicionHalving => []
  | .controlCoreRestart => []
  | .contextEndDone => []
  | .commandWindowExec => []
  | .qtailWrite => []
  | .qctlWrite => []
  | .packetTake => []
  | .dispatchPass => []
  | .regionReserve => []
  | .serviceWindow => []
  | .nodeCompletion => []
  | .evqRead => []
  | .evSetWrite => []
  | .evClrWrite => []
  | .rerunEnd => []
  | .registerWrite => []
  | .ucieFlitReceive => []
  | .ucieLaneEvent => []
  | .transactionReceive => []
  | .guestusFlitReceive => []
  | .fabricPortDown => []
  | .rankLoss => []
  | .tagWindowClose => []
  | .tagVerify => []
  | .tagTimeout => []
  | .parityRebuild => []
  | .hostAtomicCompletion => []
  | .pxRespWrite => []
  | .proxyTimeout => []
  | .atsInvalidation => []
  | .atsAbortTimeout => []
  | .hostDmaWrite => []
  | .vfTableWrite => []
  | .functionLevelReset => []
  | .eventRecordDelivery => []
  | .tdiStateChange => []
  | .hostAtomicopToBar => []

end Sys2Proof
end

