-- ==== Sys2Proof/Machine/Shape.lean ====
section
/-! DEFINITION. What each instruction's encoding names: which field is a source, a destination, a predicate
number, a reserved field; which coded values it takes (spec/03_encoding.md R66 to R71 and the encoding tables
R103, R127, R149, R177, R208, R238, R248, R249, R259, R265, R288, R318, R355, R395). The clause check, the
hazard stalls and the operand reads all use it. -/
namespace Sys2Proof.Machine

/-- What a register field is for. -/
inductive Role where
  /-- Reserved: must be 0. -/
  | rsv
  /-- Must hold 248. -/
  | c248
  /-- `n` registers read from the code on. -/
  | src (n : Nat)
  /-- `n` registers read, from a code that is a multiple of `n`, whatever it names (R68; spec/07_float.md R177;
  spec/12_copy.md R288; spec/13_tensor.md R318; spec/17_links.md R395). -/
  | grp (n : Nat)
  /-- `n` registers written. -/
  | dst (n : Nat)
  /-- `n` registers read and written. -/
  | both (n : Nat)
  /-- A predicate, mask, barrier or source number up to the bound. -/
  | num (max : Nat)
  /-- A uniform register naming `n`. -/
  | usrc (n : Nat)
  | udst (n : Nat)
  /-- An immediate or a field another check looks at. -/
  | any
  deriving DecidableEq, Repr

/-- One operand field: its code, its role, whether it names uniform registers, whether it lies in the extension. -/
structure Use where
  code : Nat
  role : Role
  uni  : Bool := false
  ext  : Bool := false
  deriving DecidableEq, Repr

/-- An instruction's encoding as its table gives it. -/
structure Shape where
  /-- A reserved or untaken code in a coded field of the first word or of the extension (R69). -/
  bad0 : Bool := false
  bad1 : Bool := false
  uses : List Use := []
  /-- A long-latency instruction: its destination is no temporary (R66, R80). -/
  long : Bool := false
  deriving DecidableEq, Repr

/-- A 64-bit type of the integer family (R121). -/
def is64 (ty : Nat) : Bool := ty = 3 || ty = 7
/-- Registers an operand of a type takes. -/
def tyRegs (ty : Nat) : Nat := if is64 ty then 2 else 1
/-- Width in bits (R121, R163). -/
def tyWidth (ty : Nat) : Nat :=
  match ty with
  | 0 => 8 | 1 => 16 | 2 => 32 | 3 => 64
  | 4 => 8 | 5 => 16 | 6 => 32 | 7 => 64
  | 8 => 32 | 9 => 16 | 10 => 16
  | _ => 8
/-- A signed integer type. -/
def tySigned (ty : Nat) : Bool := ty < 4
def tysInt : List Nat := [0, 1, 2, 3, 4, 5, 6, 7]
def tysWide : List Nat := [2, 3, 6, 7]
def tysF : List Nat := [8, 9, 10]
/-- A narrow type code that is not reserved (R68). -/
def isNarrow (ty : Nat) : Bool := 0x24 ≤ ty && ty ≤ 0x3F

/-! ### Format A -/

/-- A format A shape: roles of D, A, B and C, and the codes the instruction takes. -/
def shA (f : FmtA) (d a b c : Role) (fnOk : Bool) (tyOk : Bool) (us : List Nat)
    (ib ic : Bool) (rms sts : List Nat) : Shape :=
  let u := f.u.toNat
  let ibOn := f.ib = 1#1
  let icOn := f.ic = 1#1
  { bad0 := !fnOk || (ibOn && !ib) || (icOn && !ic)
    bad1 := !tyOk || !us.contains u || !rms.contains f.rm.toNat || !sts.contains f.st.toNat
      || (u = 1 && ibOn) || (u = 2 && !(f.gn = 0#1 && f.gp = 7#3))
    uses :=
      [ { code := f.d.toNat, role := d, uni := u = 2 },
        { code := f.a.toNat, role := a, uni := u = 2 },
        { code := f.b.toNat, role := if ibOn then .any else b, uni := u = 1 || u = 2, ext := true },
        { code := f.c.toNat, role := if icOn then .any else c, uni := u = 2, ext := true } ] }

/-- Integer operations with a destination and two sources of the type (R127). -/
def shInt2 (f : FmtA) : Shape :=
  let n := tyRegs f.ty.toNat
  shA f (.dst n) (.src n) (.src n) .rsv (f.fn = 0#5) (tysInt.contains f.ty.toNat) [0, 1, 2] true false [0] [0]
/-- Shifts and rotates: the count is one register (R127). -/
def shShift (f : FmtA) : Shape :=
  let n := tyRegs f.ty.toNat
  shA f (.dst n) (.src n) (.src 1) .rsv (f.fn = 0#5) (tysInt.contains f.ty.toNat) [0, 1, 2] true false [0] [0]
/-- One-source integer operations. -/
def shInt1 (f : FmtA) (tys : List Nat) : Shape :=
  let n := tyRegs f.ty.toNat
  shA f (.dst n) (.src n) .rsv .rsv (f.fn = 0#5) (tys.contains f.ty.toNat) [0, 2] false false [0] [0]
def shCount (f : FmtA) : Shape :=
  let n := tyRegs f.ty.toNat
  shA f (.dst 1) (.src n) .rsv .rsv (f.fn = 0#5) (tysInt.contains f.ty.toNat) [0, 2] false false [0] [0]
def shMad (f : FmtA) : Shape :=
  let n := tyRegs f.ty.toNat
  shA f (.dst n) (.src n) (.src n) (.src n) (f.fn = 0#5) (tysInt.contains f.ty.toNat) [0, 1, 2] true true [0] [0]
def shCarry (f : FmtA) : Shape :=
  let n := tyRegs f.ty.toNat
  shA f (.dst n) (.src n) (.src n) (.num 7) (f.fn.toNat ≤ 1) (tysInt.contains f.ty.toNat) [0, 1] true false [0] [0]
def shField (f : FmtA) (d : Role) : Shape :=
  let n := tyRegs f.ty.toNat
  shA f d (.src n) (.src 1) (.src 1) (f.fn = 0#5) (tysInt.contains f.ty.toNat) [0, 1, 2] true true [0] [0]
def shPred (f : FmtA) (b : Role) : Shape :=
  shA f (.num 7) (.num 7) b .rsv (f.fn = 0#5) (f.ty = 0#6) [0] false false [0] [0]
def shSetp (f : FmtA) : Shape :=
  let n := tyRegs f.ty.toNat
  let comb := bits f.fn.toNat 3 2
  shA f (.num 7) (.src n) (.src n) (if comb = 0 then .rsv else .num 7) (bits f.fn.toNat 0 3 ≤ 5 && comb ≤ 2)
    (tysInt.contains f.ty.toNat) [0, 1] true false [0] [0]
/-- Control instructions that name one mask in A (R149). -/
def shMaskA (f : FmtA) : Shape :=
  shA f .rsv (.num 11) .rsv .rsv (f.fn = 0#5) (f.ty = 0#6) [0] false false [0] [0]
def shMask (f : FmtA) : Shape :=
  let fn := f.fn.toNat
  let d : Role := if fn = 7 then .udst 4 else .num 11
  let a : Role :=
    if fn = 0 || fn = 8 then .rsv else if fn = 1 then .num 7 else if fn = 6 then .usrc 4 else .num 11
  let b : Role := if 3 ≤ fn && fn ≤ 5 then .num 11 else .rsv
  shA f d a b .rsv (fn ≤ 8) (f.ty = 0#6) [0] false false [0] [0]
def shElect (f : FmtA) : Shape :=
  let v := f.fn.toNat = 1
  shA f (if v then .dst 1 else .num 7) (.num 11) .rsv (if v then .num 7 else .rsv) (f.fn.toNat ≤ 1) (f.ty = 0#6)
    [0] false false [0] [0]
def shVote (f : FmtA) : Shape :=
  let fn := f.fn.toNat
  shA f (if fn = 4 then .rsv else if fn = 3 then .num 11 else .num 7) (if fn = 4 then .rsv else .num 8) .rsv (.num 11)
    (fn ≤ 4) (f.ty = 0#6) [0] false false [0] [0]
def shShfl (f : FmtA) : Shape :=
  let n := tyRegs f.ty.toNat
  shA f (.dst n) (.src n) (.src 1) (.num 11) (f.fn.toNat ≤ 3) (tysWide.contains f.ty.toNat) [0, 1] true false [0] [0]
/-- SCAN and LRED (R161): .fadd takes .f32 only. -/
def shScan (f : FmtA) (excl : Bool) (d : Nat → Role) : Shape :=
  let op := bits f.fn.toNat 0 3
  let n := tyRegs f.ty.toNat
  shA f (d n) (.src n) .rsv (.num 11)
    (op ≤ 6 && bits f.fn.toNat 4 1 = 0 && (excl || bits f.fn.toNat 3 1 = 0))
    (if op = 6 then f.ty.toNat = 8 else tysWide.contains f.ty.toNat) [0] false false [0] [0]
def shMatch (f : FmtA) : Shape :=
  shA f (.dst 1) (.src (tyRegs f.ty.toNat)) .rsv (.num 11) (f.fn.toNat ≤ 1) (tysWide.contains f.ty.toNat) [0] false false [0] [0]
def shSleep (f : FmtA) : Shape :=
  shA f .rsv .rsv (.src 1) .rsv (f.fn = 0#5) (f.ty = 0#6) [0, 1] true false [0] [0]

/-- Floating-point shapes (R177). -/
def shF (f : FmtA) (d b c : Role) (ib ic : Bool) (us rms sts : List Nat) : Shape :=
  shA f d (.src 1) b c (f.fn = 0#5) (tysF.contains f.ty.toNat) us ib ic rms sts
def shFcmp (f : FmtA) : Shape :=
  let comb := bits f.fn.toNat 3 2
  shA f (.num 7) (.src 1) (.src 1) (if comb = 0 then .rsv else .num 7) (comb ≤ 2) (tysF.contains f.ty.toNat)
    [0, 1] true false [0] [0]
/-- The type pairs and saturations that FCVT takes (R184). -/
def fcvtOk (dty sty st : Nat) : Bool :=
  (tysF.contains dty && tysF.contains sty && st ≤ 1)
    || (isNarrow dty && tysF.contains sty && (st = 1 || st = 2))
    || (tysF.contains dty && isNarrow sty && st ≤ 1)
    || (tysInt.contains dty && tysF.contains sty && st = 0)
    || (tysF.contains dty && tysInt.contains sty && st ≤ 1)
def shFcvt (f : FmtA) : Shape :=
  shA f (.dst (tyRegs f.ty.toNat)) (.src (tyRegs f.c.toNat)) .rsv .any (f.fn = 0#5)
    (f.c.toNat < 64 && fcvtOk f.ty.toNat f.c.toNat f.st.toNat) [0] false false [0, 1, 2, 3] [0, 1, 2]
def shH2 (f : FmtA) (c : Role) : Shape :=
  shA f (.dst 1) (.src 1) (.src 1) c (f.fn = 0#5) (f.ty.toNat = 9 || f.ty.toNat = 10) [0, 1] false false [0, 1, 2, 3] [0, 1]
def shPack (f : FmtA) (d a : Nat) (sts : List Nat) : Shape :=
  let scl := f.fn.toNat = 1
  shA f (.dst d) (if a = 4 then .grp 4 else .src a) (if scl then .src 1 else .rsv) .rsv (f.fn.toNat ≤ 1) (isNarrow f.ty.toNat)
    (if scl then [0, 1] else [0]) scl false [0, 1, 2, 3] sts

/-- Barrier instructions (R265). -/
def shBar (f : FmtA) (d b : Role) (fnOk ib : Bool) (us : List Nat) : Shape :=
  shA f d (.num 15) b .rsv fnOk (f.ty = 0#6) us ib false [0] [0]

/-! ### Formats S, I, B -/

def shS (f : FmtS) (aUsed : Bool) : Shape :=
  { uses := [ { code := f.d.toNat, role := .dst 1 },
              { code := f.a.toNat, role := if aUsed then .src 1 else .rsv } ] }

def shI (f : FmtI) : Shape :=
  let ty := f.ty.toNat
  let w := tyWidth ty
  { bad0 := !tysInt.contains ty || !(f.mid = 0#8)
    bad1 := w < 32 && !(f.imm.toNat < 2 ^ w)
    uses := [ { code := f.d.toNat, role := .dst (tyRegs ty), uni := f.u = 1#1 } ] }

def shB1 (offOk : Bool) (uses : List Use) : Shape := { bad0 := !offOk, uses := uses }
def shB2 (f : FmtB2) (offUsed : Bool) (fns : List Nat) (uses : List Use) : Shape :=
  { bad0 := !offUsed && !(f.off = 0#23)
    bad1 := !(f.low = 0#12) || !fns.contains f.fn.toNat
    uses := uses }

/-! ### Format L -/

end Sys2Proof.Machine
namespace Sys2Proof
open Machine

def FmtL.ty (f : FmtL) : Nat := bits f.tail.toNat 6 6
def FmtL.rm (f : FmtL) : Nat := bits f.tail.toNat 4 2
def FmtL.st (f : FmtL) : Nat := bits f.tail.toNat 2 2
def FmtL.u  (f : FmtL) : Nat := bits f.tail.toNat 0 2
def FmtL.op (f : FmtL) : Nat := bits f.tail.toNat 8 4
def FmtL.ord (f : FmtL) : Nat := bits f.tail.toNat 6 2
def FmtL.sc (f : FmtL) : Nat := bits f.tail.toNat 3 3
def FmtL.at_ (f : FmtL) : Nat := bits f.tail.toNat 0 3
def FmtL.br (f : FmtL) : Nat := bits f.tail.toNat 8 4
def FmtL.fn (f : FmtL) : Nat := bits f.tail.toNat 0 8

end Sys2Proof
namespace Sys2Proof.Machine

def shL (f : FmtL) (d a b c : Role) (tailOk : Bool) (uni1 : Bool := false) : Shape :=
  { bad1 := !tailOk
    long := true
    uses := [ { code := f.d.toNat, role := d }, { code := f.a.toNat, role := a },
              { code := f.b.toNat, role := b, uni := uni1, ext := true },
              { code := f.c.toNat, role := c, ext := true } ] }

def shDiv (f : FmtL) : Shape :=
  let n := tyRegs (FmtL.ty f)
  shL f (.dst n) (.src n) (.src n) .c248 (tysInt.contains (FmtL.ty f) && FmtL.rm f = 0 && FmtL.st f = 0 && FmtL.u f ≤ 1)
    (FmtL.u f = 1)
def shSpecial (f : FmtL) (anyRm : Bool) : Shape :=
  shL f (.dst 1) (.src 1) .c248 .c248
    (FmtL.ty f = 8 && (anyRm || FmtL.rm f = 0) && FmtL.st f = 0 && FmtL.u f = 0)
/-- Tail E with BR 0 and the FN values of one row. -/
def shE (f : FmtL) (d a b c : Role) (fns : List Nat) : Shape :=
  shL f d a b c (FmtL.br f = 0 && fns.contains (FmtL.fn f))
/-- Tail E with a barrier number in BR. -/
def shEB (f : FmtL) (d a b c : Role) (fnOk : Bool) : Shape := shL f d a b c fnOk

/-- The element types an atomic operation takes (R249). -/
def atomOk (op at_ : Nat) (red : Bool) : Bool :=
  match op with
  | 0 => at_ ≤ 6
  | 1 | 2 | 3 | 4 | 5 => at_ ≤ 3
  | 6 | 7 => !red && at_ ≤ 6
  | 8 | 9 => at_ = 1 || at_ = 3
  | _ => false
def atRegs (at_ : Nat) : Nat := if at_ = 2 || at_ = 3 then 2 else 1
def shAtom (f : FmtL) (sp red : Bool) : Shape :=
  let n := atRegs (FmtL.at_ f)
  shL f (if red then .c248 else .dst n) (.src (if sp then 1 else 2)) (.src n)
    (if FmtL.op f = 7 && !red then .src n else .c248)
    (atomOk (FmtL.op f) (FmtL.at_ f) red && FmtL.ord f ≤ 2 && !(red && FmtL.ord f = 1) && (!sp || FmtL.sc f ≤ 2))

/-! ### Format M -/

def mRegs (vn ty : Nat) : Nat := match vn with | 0 => tyRegs ty | 1 => 2 | _ => 4

def shM (f : FmtM) (d : Role) (aRegs : Nat) (okCodes dOk : Bool) : Shape :=
  { bad0 := !dOk
    bad1 := !okCodes
    long := true
    uses := [ { code := f.d.toNat, role := d }, { code := f.a.toNat, role := .src aRegs, uni := f.u = 1#1 } ] }

/-- What a store moves from D upward: for VN above 0, D is a multiple of the register count (R68). -/
def storeRole (f : FmtM) : Role := if f.vn.toNat = 0 then .src (tyRegs f.ty.toNat) else .grp (mRegs f.vn.toNat f.ty.toNat)
def memOk (f : FmtM) : Bool :=
  tysInt.contains f.ty.toNat && f.vn.toNat ≤ 2 && (f.vn.toNat = 0 || f.ty.toNat = 6)

/-! ### Format Z -/

def shZ (f : FmtZ) (d a : Role) (fns : List Nat) (crUsed immOk : Bool) : Shape :=
  { bad0 := !fns.contains f.fn.toNat
    bad1 := (!crUsed && !(f.cr = 0#12)) || !immOk
    uses := [ { code := f.d.toNat, role := d }, { code := f.a.toNat, role := a } ] }

/-- Registers a control register takes: two where it has 33 bits or more (R92, R107). -/
def crRegs (cr : Nat) : Nat :=
  if [0x002, 0x003, 0x010, 0x011, 0x021, 0x022, 0x023, 0x030, 0x031, 0x038, 0x060, 0x061, 0x070].contains cr then 2 else 1

/-! ### Every instruction -/

/-- The shape of every instruction; an event has none. -/
def shape : Instr → Shape
  | .trap f => shZ f .rsv (.src 1) [0] false (f.imm.toNat < 4096)
  | .tret f => shZ f .rsv .rsv [0] false (f.imm = 0#16)
  | .tretRec f => shZ f (.dst 1) (.src 1) [1] false (f.imm = 0#16)
  | .crd f => shZ f (.dst (crRegs f.cr.toNat)) (.src 1) [0] true true
  | .cwr f => shZ f (.dst (crRegs f.cr.toNat)) (.src (crRegs f.cr.toNat)) [0] true true
  | .mapack f => shZ f (.dst 1) (.src 2) [0] false (f.imm = 0#16)
  | .maprd f => shZ f (.dst 4) (.src 1) [0] false true
  | .ctxsaveSeal f => shE f (.dst 2) (.src 1) (.src 2) .c248 [0]
  | .ctxsaveReset f => shE f (.dst 2) (.src 1) .rsv .c248 [1]
  | .ctxloadImage f => shE f (.dst 1) (.src 1) (.src 2) .c248 [0]
  | .ctxloadNew f => shE f (.dst 1) (.src 1) (.src 2) .c248 [1]
  | .ctxloadResume f => shE f (.dst 1) (.src 1) .rsv .c248 [2]
  | .kwrapGive f => shE f (.dst 2) (.src 1) (.src 2) (.src 1) [0]
  | .kwrapTake f => shE f (.dst 2) .rsv (.src 2) .c248 [1]
  | .kwrapEscrow f => shE f (.dst 2) (.src 1) (.src 2) (.src 2) [2]
  | .kwrapImport f => shE f (.dst 2) (.src 1) (.src 2) (.src 2) [3]
  | .kdrop f => shZ f (.dst 1) (.src 1) [0] false (f.imm = 0#16)
  | .kdropErase f => shZ f (.dst 1) (.src 2) [1] false true
  | .attestCtx f => shE f (.dst 1) (.src 2) (.src 2) .c248 [0]
  | .attestModule f => shE f (.dst 1) (.src 2) (.src 2) .c248 [1]
  | .cntrd f => shZ f (.dst 2) (.src 1) [0] false true
  | .cntcfg f => shZ f (.dst 2) (.src 2) [0] false true
  | .moncfg f => shZ f .rsv (.src 1) [0] false true
  | .monrd f => shZ f (.dst 2) (.src 1) [0] false true
  | .evpost f => shZ f (.dst 1) (.src 2) [0] false (f.imm.toNat < 2 ^ 15)
  | .yieldC f => shZ f .rsv .rsv [0] false (f.imm = 0#16)
  | .scrubVirt f => shE f (.dst 1) (.src 2) (.src 1) .c248 [0]
  | .scrubPhys f => shE f (.dst 1) (.src 2) (.src 1) .c248 [1]
  | .rankmapGet f => shZ f (.dst 1) (.src 1) [0] false true
  | .rankmapSet f => shZ f (.dst 1) (.src 1) [1] false true
  | .planemapMap f => shZ f (.dst 1) (.src 1) [0] false (f.imm.toNat < 16)
  | .planemapShare f => shZ f (.dst 1) (.src 1) [1] false (f.imm.toNat < 256)
  | .planemapGet f => shZ f (.dst 1) .c248 [2] false (f.imm.toNat < 16)
  | .planemapRetrain f => shZ f (.dst 1) .c248 [3] false (f.imm.toNat < 16)
  | .paritycfgSet f => shZ f (.dst 1) (.grp 4) [0] false (f.imm = 0#16)
  | .paritycfgRebuild f => shZ f (.dst 1) .c248 [1] false (f.imm = 0#16)
  | .paritycfgGet f => shZ f (.dst 4) .c248 [2] false (f.imm = 0#16)
  | .nlaunch f => shE f (.dst 1) (.src 2) .c248 .c248 [0]
  | .nwait f => shA f (.dst 1) (.src 1) (.src 1) .rsv (f.fn = 0#5) (f.ty = 0#6) [0, 1] true false [0] [0]
  | .nquery f => shE f (.dst 4) (.src 1) .c248 .c248 [0]
  | .placeRsv f => shE f (.dst 1) (.src 1) (.src 2) .c248 [0]
  | .placeFree f => shE f (.dst 1) (.src 1) .c248 .c248 [1]
  | .placeClose f => shE f (.dst 1) .c248 (.src 2) .c248 [2]
  | .placeOpen f => shE f (.dst 1) .c248 (.src 2) .c248 [3]
  | .preempt f => shE f (.dst 1) .c248 (.src 2) .c248 [0]
  | .slicesetAssign f => shE f (.dst 1) (.src 1) (.src 1) .c248 [0]
  | .slicesetTarget f => shE f (.dst 1) (.src 1) (.src 1) .c248 [1]
  | .slicesetMove f => shE f (.dst 1) (.src 1) (.src 1) .c248 [2]
  | .slicesetPool f => shE f (.dst 1) .c248 (.src 2) (.src 2) [3]
  | .addS f => shS f true
  | .add f => shInt2 f
  | .addc f => shCarry f
  | .subS f => shS f true
  | .sub f => shInt2 f
  | .subb f => shCarry f
  | .sadd f => shInt2 f
  | .ssub f => shInt2 f
  | .mulS f => shS f true
  | .mul f => shInt2 f
  | .mulh f => shInt2 f
  | .mad f => shMad f
  | .div f => shDiv f
  | .rem f => shDiv f
  | .dot4 f => shA f (.dst 1) (.src 1) (.src 1) (.src 1) (f.fn = 0#5) (f.ty.toNat = 0 || f.ty.toNat = 4) [0, 1, 2]
      false true [0] [0]
  | .minS f => shS f true
  | .min f => shInt2 f
  | .maxS f => shS f true
  | .max f => shInt2 f
  | .abs f => shInt1 f [0, 1, 2, 3]
  | .neg f => shInt1 f tysInt
  | .andS f => shS f true
  | .and f => shInt2 f
  | .orS f => shS f true
  | .or f => shInt2 f
  | .xorS f => shS f true
  | .xor f => shInt2 f
  | .andnS f => shS f true
  | .andn f => shInt2 f
  | .not f => shInt1 f tysInt
  | .shlS f => shS f true
  | .shl f => shShift f
  | .shrS f => shS f true
  | .shr f => shShift f
  | .sarS f => shS f true
  | .sar f => shShift f
  | .rolS f => shS f true
  | .rol f => shShift f
  | .bfx f => shField f (.dst (tyRegs f.ty.toNat))
  | .bfi f => shField f (.both (tyRegs f.ty.toNat))
  | .popc f => shCount f
  | .clz f => shCount f
  | .ctz f => shCount f
  | .brev f => shInt1 f tysInt
  | .prmt f => shA f (.dst 1) (.src 1) (.src 1) (.src 1) (f.fn = 0#5) (f.ty = 0#6) [0, 1, 2] false false [0] [0]
  | .sel f =>
    let n := tyRegs f.ty.toNat
    shA f (.dst n) (.src n) (.src n) (.num 7) (f.fn = 0#5) (tysInt.contains f.ty.toNat) [0, 1] true false [0] [0]
  | .setp f => shSetp f
  | .pand f => shPred f (.num 7)
  | .por f => shPred f (.num 7)
  | .pxor f => shPred f (.num 7)
  | .pnot f => shPred f .rsv
  | .movS f => shS f false
  | .mov f =>
    let n := tyRegs f.ty.toNat
    shA f (.dst n) .rsv (.src n) .rsv (f.fn = 0#5) (tysInt.contains f.ty.toNat) [0, 1, 2] true false [0] [0]
  | .movi f => shI f
  | .lea f => shA f (.dst 2) (.src 2) (.src 1) (.src 1) (f.fn.toNat < 8) (f.ty.toNat = 2 || f.ty.toNat = 6) [0, 1, 2]
      true true [0] [0]
  | .cvti f => shA f (.dst (tyRegs f.ty.toNat)) (.src (tyRegs (bits f.fn.toNat 0 3))) .rsv .rsv (f.fn.toNat < 8)
      (tysInt.contains f.ty.toNat) [0, 2] false false [0] [0, 1]
  | .braShort _ => shB1 true []
  | .bra f => shB2 f true [0] [{ code := f.x.toNat, role := .rsv, ext := true }]
  | .brc f => shB2 f true [0, 1] [{ code := f.x.toNat, role := .num 11, ext := true }]
  | .brx f =>
    shB2 f false [0, 1]
      [{ code := f.x.toNat, role := if f.fn = 1#8 then .both 4 else .src 2, ext := true }]
  | .callShort _ => shB1 true [{ code := 0, role := .dst 2 }]
  | .call f => shB2 f true [0] [{ code := f.x.toNat, role := .dst 2, ext := true }]
  | .retShort f => shB1 (f.off = 0#23) [{ code := 0, role := .src 2 }]
  | .ret f => shB2 f false [0] [{ code := f.x.toNat, role := .src 2, ext := true }]
  | .exitShort f => shB1 (f.off = 0#23) []
  | .exit f => shB2 f false [0] [{ code := f.x.toNat, role := .rsv, ext := true }]
  | .nopShort f => shB1 (f.off = 0#23) []
  | .nop f => shB2 f false [0] [{ code := f.x.toNat, role := .rsv, ext := true }]
  | .join f => shMaskA f
  | .leave f => shMaskA f
  | .waitm f => shMaskA f
  | .mask f => shMask f
  | .elect f => shElect f
  | .vote f => shVote f
  | .shfl f => shShfl f
  | .scan f => shScan f true .dst
  | .lred f => shScan f false .dst
  | .matchL f => shMatch f
  | .sleep f => shSleep f
  | .fadd f => shF f (.dst 1) (.src 1) .rsv true false [0, 1] [0, 1, 2, 3] [0, 1]
  | .fsub f => shF f (.dst 1) (.src 1) .rsv true false [0, 1] [0, 1, 2, 3] [0, 1]
  | .fmul f => shF f (.dst 1) (.src 1) .rsv true false [0, 1] [0, 1, 2, 3] [0, 1]
  | .ffma f => shF f (.dst 1) (.src 1) (.src 1) true true [0, 1] [0, 1, 2, 3] [0, 1]
  | .fmin f => shF f (.dst 1) (.src 1) .rsv true false [0, 1] [0] [0]
  | .fmax f => shF f (.dst 1) (.src 1) .rsv true false [0, 1] [0] [0]
  | .fcmp f => shFcmp f
  | .fclass f => shF f (.dst 1) .rsv .rsv false false [0] [0] [0]
  | .fcvt f => shFcvt f
  | .frnd f => shF f (.dst 1) .rsv .rsv false false [0] [0, 1, 2, 3] [0]
  | .fscl f => shF f (.dst 1) (.src 1) .rsv true false [0, 1] [0, 1, 2, 3] [0, 1]
  | .frcp f => shSpecial f true
  | .frsq f => shSpecial f false
  | .fsqrt f => shSpecial f true
  | .fex2 f => shSpecial f false
  | .flg2 f => shSpecial f false
  | .fsin f => shSpecial f false
  | .fcos f => shSpecial f false
  | .ftanh f => shSpecial f false
  | .fsigm f => shSpecial f false
  | .flagrd f => shA f (.dst 1) .rsv .rsv .rsv (f.fn = 0#5) (f.ty = 0#6) [0] false false [0] [0]
  | .flagclr f => shA f .rsv .rsv (.src 1) .rsv (f.fn = 0#5) (f.ty = 0#6) [0, 1] true false [0] [0]
  | .hadd2 f => shH2 f .rsv
  | .hmul2 f => shH2 f .rsv
  | .hfma2 f => shH2 f (.src 1)
  | .pack8 f => shPack f 1 4 [1, 2]
  | .unpack8 f => shPack f 4 1 [0, 1]
  | .ld f => shM f (.dst (mRegs f.vn.toNat f.ty.toNat)) 2 (memOk f) true
  | .st f => shM f (storeRole f) 2 (memOk f) true
  | .lds f => shM f (.dst (mRegs f.vn.toNat f.ty.toNat)) 1 (memOk f) true
  | .sts f => shM f (storeRole f) 1 (memOk f) true
  | .prf f => shM f .any 2 (f.ty = 0#6 && f.vn.toNat ≤ 2) (f.d = 248#8)
  | .mprobe f => shM f (.dst 2) 2 (f.ty = 0#6 && f.vn.toNat = 1) true
  | .dirtysw f => shE f (.dst 1) .c248 .c248 .c248 [0]
  | .fence f => shL f .rsv .rsv .c248 .c248
      (FmtL.at_ f = 0 && ((FmtL.op f = 0 && FmtL.ord f ≤ 2) || (FmtL.op f = 1 && FmtL.ord f = 0 && FmtL.sc f = 2)))
  | .acq f => shL f (.dst 2) (.src 2) .c248 .c248 (FmtL.op f = 0 && FmtL.ord f = 1 && FmtL.at_ f = 3)
  | .rel f => shL f (.dst 2) (.src 2) .c248 .c248 (FmtL.op f = 0 && FmtL.ord f = 2 && FmtL.at_ f = 3)
  | .bind f => shE f (.dst 1) (.src 2) (.src 2) (.src 2) [0, 1, 2, 3, 4, 5, 6, 7]
  | .unbind f => shE f (.dst 1) (.src 1) .c248 .c248 [0]
  | .atom f => shAtom f false false
  | .atomSp f => shAtom f true false
  | .red f => shAtom f false true
  | .redSp f => shAtom f true true
  | .take f => shL f (.dst 2) (.src 2) .c248 .c248 (FmtL.op f = 0 && FmtL.ord f ≤ 2 && FmtL.at_ f = 3)
  | .tknew f => shE f (.dst 1) (.src 2) (.src 2) .c248 [5, 6]
  | .tksave f => shE f (.dst 1) (.src 2) (.src 2) .c248 [0]
  | .tkload f => shE f (.dst 1) (.src 2) (.src 2) .c248 [0]
  | .tkdrainClose f => shE f (.dst 1) (.src 2) .c248 .c248 [0]
  | .tkdrainOpen f => shE f (.dst 1) (.src 2) .c248 .c248 [1]
  | .tkdrainFree f => shE f (.dst 1) (.src 2) .c248 .c248 [2]
  | .barinit f => shBar f .rsv (.src 1) (f.fn = 0#5) true [0, 1]
  | .arrive f => shBar f .rsv .rsv (f.fn.toNat ≤ 1) false [0]
  | .arriveClu f => shBar f .rsv (.src 1) (f.fn.toNat = 2) true [0, 1]
  | .arriveDom f => shBar f .rsv (.src 2) (f.fn.toNat = 3) false [0]
  | .expect f => shBar f .rsv (.src 1) (f.fn = 0#5) true [0, 1]
  | .barwait f => shBar f .rsv (if f.fn.toNat = 2 then .src 1 else .rsv) (f.fn.toNat ≤ 2) false [0]
  | .bartest f => shBar f (.dst 4) .rsv (f.fn.toNat ≤ 1) false [0]
  | .cpb f => shEB f .c248 (.src (if bit (FmtL.fn f) 0 then 1 else 2)) (.src (if bit (FmtL.fn f) 1 then 1 else 2)) (.src 1)
      (FmtL.fn f ≤ 3)
  | .cpt f => shEB f .c248 (.src 1) (.grp 4) (.src 1) (FmtL.fn f ≤ 2)
  | .cpl f => shEB f .c248 (.src 1) (.src 2) .c248 (FmtL.fn f ≤ 1)
  | .cpa f => shEB f .c248 (.src 1) (.src 1) .c248
      ((let c := bits (FmtL.fn f) 1 5; (1 ≤ c && c ≤ 3) || 4 ≤ c)
        && (!bit (FmtL.fn f) 7 || (!bit (FmtL.fn f) 6 && !bit (FmtL.fn f) 0)))
  | .cpcan f => shEB f (.dst 1) .c248 .c248 .c248 (FmtL.fn f = 0)
  | .tdef f => shE f (.dst 1) (.src 2) .c248 .c248 [0]
  | .tseal f => shE f (.dst 1) .c248 .c248 .c248 [0]
  | .tdrop f => shE f (.dst 1) (.src 1) .c248 .c248 [0]
  | .tquery f => shE f (.dst 4) (.src 1) .c248 .c248 [0, 1, 2, 3, 4, 5, 6, 7]
  | .gang f => shA f (.dst 1) (.src 1) .rsv .rsv (f.fn = 0#5) (f.ty = 0#6) [0] false false [0] [0]
  | .oclaim f => shE f (.dst 1) (.src 1) (.src 1) .c248 [0]
  | .orel f => shA f .rsv (.src 1) (.src 1) .rsv (f.fn = 0#5) (f.ty = 0#6) [0] false false [0] [0]
  | .mma f => shEB f .c248 (.src 1) .c248 .c248 (FmtL.fn f = 0)
  | .mmag f => shEB f .c248 (.src 1) (.grp 4) .c248 (FmtL.fn f = 0)
  | .mmas f => shEB f .c248 (.src 1) .c248 .c248 (FmtL.fn f = 0)
  | .accz f => shEB f .c248 (.src 1) .c248 .c248 (FmtL.fn f ≤ 1)
  | .moduleReset | .novigImageUpdate | .novigQuarantineClear | .buyerKeyAdd | .gracePeriodExpiry | .clauseFetch |
    .clauseBoundary | .ageRuleFill | .opfRecordWrite | .longLatencyCommit | .errorCompletion | .syncDeadlock |
    .rendezvousRelease | .joinRelease | .waitmRelease | .sleepExpiry | .nwaitWake | .bankQueueWrite |
    .cacheWriteBack | .tableWalk | .atomicRequestServe | .ticketTokenExit | .barrierArrivalCount | .remoteArrival
    | .copyJobStart | .copyChunk | .copyWindowDeadlock | .claimGrant | .latchCommandAccept | .matrixCommandStart |
    .groupKStep | .sramUncorrectable | .stackUncorrectable | .patrolScrub | .laneFailure | .sliceErrorRateFail |
    .stackLost | .coreSelftestFail | .pcieLinkChange | .suspicionHalving | .controlCoreRestart | .contextEndDone |
    .commandWindowExec | .qtailWrite | .qctlWrite | .packetTake | .dispatchPass | .regionReserve | .serviceWindow
    | .nodeCompletion | .evqRead | .evSetWrite | .evClrWrite | .rerunEnd | .registerWrite | .ucieFlitReceive |
    .ucieLaneEvent | .transactionReceive | .guestusFlitReceive | .fabricPortDown | .rankLoss | .tagWindowClose |
    .tagVerify | .tagTimeout | .parityRebuild | .hostAtomicCompletion | .pxRespWrite | .proxyTimeout |
    .atsInvalidation | .atsAbortTimeout | .hostDmaWrite | .vfTableWrite | .functionLevelReset |
    .eventRecordDelivery | .tdiStateChange | .hostAtomicopToBar => {}

end Sys2Proof.Machine
end

