-- ==== Sys2Proof/Machine/Check.lean ====
section
/-! DEFINITION. Clause headers and the clause check (spec/03_encoding.md R57 to R60, R66, R77 to R79). -/
namespace Sys2Proof.Machine

/-! ### The header (R58) -/

def hMark (w : Word) : Nat := bits w.toNat 28 4
def hWords (w : Word) : Nat := bits w.toNat 16 5
def hYield (w : Word) : Bool := w.getLsbD 15
def hClass (w : Word) : Nat := bits w.toNat 12 3
def hCount (w : Word) : Nat := bits w.toNat 8 4
def hWait (w : Word) : Nat := bits w.toNat 0 8

/-- The engine class of an opcode (R59); 8 for one that is not allocated. -/
def opClass (op : Nat) : Nat :=
  if (0x01 ≤ op && op ≤ 0x12) || (0x18 ≤ op && op ≤ 0x1A) || (0xD0 ≤ op && op ≤ 0xD5) then 7
  else if 0x20 ≤ op && op ≤ 0x49 then 0
  else if 0x50 ≤ op && op ≤ 0x61 then 6
  else if 0x70 ≤ op && op ≤ 0x8A then 1
  else if 0x90 ≤ op && op ≤ 0x96 then 2
  else if (0x98 ≤ op && op ≤ 0x9C) || (0xA0 ≤ op && op ≤ 0xAD) then 3
  else if 0xB0 ≤ op && op ≤ 0xB4 then 4
  else if 0xC0 ≤ op && op ≤ 0xCA then 5
  else 8

/-- Opcodes of format B (R75). -/
def opFmtB (op : Nat) : Bool := (0x50 ≤ op && op ≤ 0x55) || op = 0x61

/-- Whether an opcode may stand in a clause of a class (R59). -/
def classOk (cls op : Nat) : Bool := opClass op = 0 || opFmtB op || opClass op = cls

/-- The clause-ending instructions (R60). -/
def clauseEnding : Instr → Bool
  | .braShort _ | .bra _ | .brc _ | .brx _ | .callShort _ | .call _ | .retShort _ | .ret _ | .exitShort _
  | .exit _ | .trap _ | .tret _ | .yieldC _ | .join _ | .waitm _ | .sleep _ | .barwait _ | .nwait _ => true
  | _ => false

/-- The instructions that make their clause a rendezvous clause, with the mask each names (R146). -/
def rdvMask : Instr → Option Nat
  | .vote f | .shfl f | .scan f | .lred f | .matchL f => some f.c.toNat
  | .brc f => some f.x.toNat
  | _ => none

/-! ### Operand codes (R66) -/

/-- The registers a role names, whether it reads and whether it writes. -/
def Role.regs : Role → Nat × Bool × Bool
  | .src n => (n, true, false)
  | .grp n => (n, true, false)
  | .dst n => (n, false, true)
  | .both n => (n, true, true)
  | .usrc n => (n, true, false)
  | .udst n => (n, false, true)
  | _ => (0, false, false)

/-- Alignment of a register group: pairs even, fours at a multiple of 4 (R66). -/
def aligned (code n : Nat) : Bool := n ≤ 1 || code % n = 0

/-- A source code in range, per thread (R66), with `V` vector registers. -/
def srcOk (V code n : Nat) : Bool :=
  if code < 240 then aligned code n && code + n ≤ V
  else if code < 248 then aligned code n && code + n ≤ 248
  else code ≤ 255
/-- A source code in range in a uniform position (R66). -/
def usrcOk (code n : Nat) : Bool :=
  if code < 64 then aligned code n && code + n ≤ 64
  else code = 248 || (250 ≤ code && code ≤ 255)
/-- A destination code in range, per thread; a long-latency instruction may not write a temporary (R66). -/
def dstOk (V code n : Nat) (long : Bool) : Bool :=
  if code < 240 then aligned code n && code + n ≤ V
  else !long && code < 248 && aligned code n && code + n ≤ 248
def udstOk (code n : Nat) : Bool := code < 64 && aligned code n && code + n ≤ 64

/-- The 0x1009 check of one field. -/
def useOk (V : Nat) (long : Bool) (u : Use) : Bool :=
  match u.role with
  | .rsv | .c248 | .any => true
  | .num m => u.code ≤ m
  | .src n => if u.uni then usrcOk u.code n else srcOk V u.code n
  | .grp n => aligned u.code n && srcOk V u.code n
  | .dst n => if u.uni then udstOk u.code n else dstOk V u.code n long
  | .both n =>
    if u.uni then udstOk u.code n else dstOk V u.code n long
  | .usrc n => u.code < 64 && aligned u.code n && u.code + n ≤ 64
  | .udst n => udstOk u.code n

/-- The 0x1002 check of one field: reserved fields and fields fixed at 248 (R69). -/
def useRsv (u : Use) : Bool :=
  match u.role with
  | .rsv => u.code = 0
  | .c248 => u.code = 248
  | _ => true

/-- Temporaries t0 to t7 a field reads or writes. -/
def useTemps (u : Use) (rd : Bool) : List Nat :=
  let (n, r, w) := u.role.regs
  if u.uni || !(if rd then r else w) then []
  else (List.range n).filterMap fun k =>
    let c := u.code + k
    if 240 ≤ c && c < 248 then some (c - 240) else none

/-- The link destination of BRX.call is its upper pair, and it may be no code from 240 up (R149). -/
def linkBad : Instr → Bool
  | .brx f => f.fn = 1#8 && !(f.x.toNat + 4 ≤ 240)
  | .call f => !(f.x.toNat < 240)
  | _ => false

/-! ### The clause check (R77) -/

/-- A check failure: the code, and the word offset of the instruction and of the failing field. -/
structure CheckFail where
  code  : Nat
  iword : Nat
  fword : Nat
  deriving DecidableEq, Repr

/-- The checks on one decoded instruction: steps 4 to 7 of R77. Where several fields fail in one step, R77 does not say whose word
FLT_ADDR names: the first word's before the extension's for 0x1002, and the first of D, A, B, C for 0x1009 and 0x1008 (assumption
log 119). -/
def checkInstr (V : Nat) (written : List Nat) (last : Bool) (i : Instr) (at_ : Nat) : Option CheckFail :=
  let sh := shape i
  let fw (u : Use) : Nat := if u.ext then at_ + 1 else at_
  match sh.uses.find? (fun u => !useRsv u && !u.ext), sh.bad0, sh.uses.find? (fun u => !useRsv u), sh.bad1 with
  | some _, _, _, _ => some ⟨0x1002, at_, at_⟩
  | none, true, _, _ => some ⟨0x1002, at_, at_⟩
  | none, false, some _, _ => some ⟨0x1002, at_, at_ + 1⟩
  | none, false, none, true => some ⟨0x1002, at_, at_ + 1⟩
  | none, false, none, false =>
    match sh.uses.find? (fun u => !useOk V sh.long u) with
    | some u => some ⟨0x1009, at_, fw u⟩
    | none =>
      if linkBad i then some ⟨0x1009, at_, at_ + 1⟩
      else
        match sh.uses.find? (fun u => (useTemps u true).any fun k => !written.contains k) with
        | some u => some ⟨0x1008, at_, fw u⟩
        | none => if clauseEnding i && !last then some ⟨0x1004, at_, at_⟩ else none

/-- Walks the `n` instructions of a clause of class `cls`; the check of the first that fails, or none. -/
def checkInstrs (V cls : Nat) : (n : Nat) → (ws : List Word) → (at_ : Nat) → (written : List Nat) → Option CheckFail
  | 0, _, _, _ => none
  | n + 1, ws, at_, written =>
    match ws with
    | [] => some ⟨0x1007, 0, 0⟩
    | w :: r =>
      if !allocated (wordOp w) then some ⟨0x1001, at_, at_⟩
      else if !wordE w && (decode1 w).isNone then some ⟨0x100A, at_, at_⟩
      else if !classOk cls (wordOp w) then some ⟨0x1003, at_, at_⟩
      else
        match decode (w :: r) with
        | .error .reservedFn =>
          some ⟨0x1002, at_, if opFnExt (wordOp w) then at_ + 1 else at_⟩
        | .error _ => some ⟨0x1007, 0, 0⟩
        | .ok (i, r') =>
          match checkInstr V written (n = 0) i at_ with
          | some c => some c
          | none =>
            checkInstrs V cls n r' (at_ + if wordE w then 2 else 1)
              (written ++ (shape i).uses.flatMap (fun u => useTemps u false))
where
  /-- Whether the FN of an opcode lies in the extension (formats L and A keep it where R64 says). -/
  opFnExt (op : Nat) : Bool := op = 0x07 || op = 0x08 || op = 0x09 || op = 0x0B || op = 0x12 || op = 0xA8 || op = 0xD3 || op = 0xD5

/-- The sum over `n` instructions of 1 + E, or none when the words end first (R77 step 3). -/
def sumWords : Nat → List Word → Nat
  | 0, _ => 0
  | n + 1, w :: r => if wordE w then 2 + sumWords n r.tail else 1 + sumWords n r
  | _ + 1, [] => 1000

/-- The whole check of a clause: header, then each instruction in order (R77). -/
def checkClause (V : Nat) (ws : List Word) : Option CheckFail :=
  match ws with
  | [] => some ⟨0x1006, 0, 0⟩
  | h :: r =>
    if hMark h ≠ 0xA || bits h.toNat 21 7 ≠ 0 then some ⟨0x1006, 0, 0⟩
    else if hCount h = 0 then some ⟨0x1005, 0, 0⟩
    else if hWords h ≠ sumWords (hCount h) r then some ⟨0x1007, 0, 0⟩
    else checkInstrs V (hClass h) (hCount h) r 1 []

/-- The instruction of index `n` (from 1) of a clause, with its word offset. -/
def clauseInstr (ws : List Word) (n : Nat) : Option (Instr × Nat) :=
  go (n - 1) (ws.drop 1) 1
where
  go : Nat → List Word → Nat → Option (Instr × Nat)
  | 0, r, at_ => match decode r with | .ok (i, _) => some (i, at_) | .error _ => none
  | k + 1, w :: r, at_ => if wordE w then go k r.tail (at_ + 2) else go k r (at_ + 1)
  | _ + 1, [], _ => none

/-- The instructions of a clause. -/
def clauseInstrs (ws : List Word) : List Instr :=
  match ws with
  | [] => []
  | h :: _ => (List.range (hCount h)).filterMap fun k => (clauseInstr ws (k + 1)).map (·.1)

/-- The masks of the rendezvous set of a clause (R146). -/
def clauseRdv (ws : List Word) : List Nat := (clauseInstrs ws).filterMap rdvMask

/-- The per-instruction checks that do not depend on the clause: R69 and R66 with every vector register there. -/
def staticCheck (i : Instr) : Option CheckFail := checkInstr 240 [0, 1, 2, 3, 4, 5, 6, 7] true i 0

end Sys2Proof.Machine
end

