-- ==== Sys2Proof/Machine/State.lean ====
section
/-! DEFINITION. The state of the module, as plain data: everything the spec gives the machine.

Each structure names the file of spec/ that gives it. The model's own fields (the agenda, the counters that
free values are drawn with, the state behind sealed images) are in `State` itself and say so. -/
namespace Sys2Proof.Machine

/-! ### Threads (spec/06_control.md R140, spec/03_encoding.md R80 to R85) -/

/-- Where a thread stands (R140). A thread in a handler runs as pooled or issuing; TRAP_STATE.IN says so. -/
inductive Status where
  | pooled
  | issuing
  /-- Held by JOIN at an instruction address, naming a mask (R155). -/
  | heldJoin (iaddr : DWord) (m : Nat)
  /-- Held by WAITM at an instruction address, naming a mask (R155). -/
  | heldWaitm (iaddr : DWord) (m : Nat)
  /-- Held at the header of a rendezvous clause (R146). -/
  | heldRdv
  /-- Asleep until the cycle named (R154). -/
  | sleeping (wake : Nat)
  /-- At a barrier (R268). Mode 0: its arrival is not counted yet; 1: counted, waiting for the phase to
  complete; 2 and 3: .ph, waiting while PHASE is 0 or 1. -/
  | barrier (b : Nat) (mode : Nat)
  /-- Asleep by NWAIT for a node, until a cycle at the latest (0: no limit), with the register of its result (R358). -/
  | nwait (node : Nat) (wake : Nat) (dst : Nat)
  /-- Held by the operator under a HOLD number (R100). -/
  | oprHeld (hold : Nat)
  | exited
  deriving DecidableEq, Repr

/-- A buffer record as it was read (spec/08_memory.md R201). -/
structure BufRec where
  base  : Nat := 0
  len   : Nat := 0
  key   : Nat := 0
  owner : Nat := 0
  flags : Nat := 0
  /-- VALID with no reserved bit set. -/
  ok    : Bool := false
  deriving DecidableEq, Repr

/-- A leaf with its buffer record, as a TLB holds it (spec/08_memory.md R199, R200). -/
structure Leaf where
  /-- log2 of the page size: 16, 21, 30. -/
  lg   : Nat
  addr : Nat
  kind : Nat
  r    : Bool
  w    : Bool
  x    : Bool
  buf  : Nat
  br   : BufRec
  /-- An untranslated operator address: no buffer record and no key (spec/08_memory.md R428). -/
  raw  : Bool := false
  deriving DecidableEq, Repr

/-- A portion of an access within one 16-byte part, with where it leads (spec/08_memory.md R212). -/
structure Piece where
  /-- Its first byte as the access forms it, and the local-window address. -/
  ea   : Nat
  va   : Nat
  n    : Nat
  leaf : Leaf
  /-- Physical address, host bus address, or d × 2^40 + o of sync storage. -/
  pa   : Nat
  /-- The rank, when it goes to a peer. -/
  peer : Option Nat := none
  deriving DecidableEq, Repr

/-- A plain data access of a thread that is not performed yet: left for later, or held for a page (spec/08_memory.md R211,
R215). -/
structure HeldAcc where
  fg    : Nat
  lane  : Nat
  uid   : Nat
  write : Bool
  ea    : Nat
  size  : Nat
  data  : List Byte := []
  /-- TY of a load, and whether it is one of .x2 or .x4. -/
  ty    : Nat := 6
  vn    : Nat := 0
  /-- A load that straddles windows: the bytes below `ea` that have come already (R194). -/
  pre   : List Byte := []
  deriving DecidableEq, Repr

/-- An operation that a pending long-latency instruction performs only after every earlier access of its
thread is complete (spec/09_ordering.md R221, R225, R226). -/
inductive Todo where
  | none
  /-- FENCE: generic or .eng, the halves, the scope (R240). -/
  | fence (eng rel acq : Bool) (sc : Nat)
  /-- ACQ or REL of an object (R241). -/
  | acq (obj sc : Nat)
  | rel (obj sc : Nat)
  /-- TKNEW.dev 0, TKNEW.dom 1, TKSAVE 2, TKLOAD 3, TKDRAIN.close 4, .open 5, .free 6, on a word, with the operand B
  (spec/10_sync.md R258, R259). -/
  | tk (kind word b : Nat)
  /-- TAKE of a word: order and scope (R261). -/
  | take (word ord sc : Nat)
  /-- NLAUNCH: the packet is read and the node taken after the release (spec/15_launch.md R357). -/
  | launch (pkt : Nat)
  /-- TDEF of an address, TSEAL: performed once, for other threads of the path too: lane and uid (spec/13_tensor.md R302). -/
  | tdef (ea : Nat) (others : List (Nat × Nat))
  | tseal (others : List (Nat × Nat))
  /-- A plain access whose time to be performed has not come (spec/09_ordering.md R221, R237). -/
  | access (a : HeldAcc)
  /-- Such an access of which some 16-byte parts are performed: those left, and for a load the bytes that have come, by their
  offsets (spec/08_memory.md R212; spec/09_ordering.md R237). -/
  | parts (a : HeldAcc) (left : List Piece) (got : List (Nat × List Byte))
  /-- An operator's access to the scheduler window: write or read, offset and size (spec/15_launch.md R338). -/
  | regs (write : Bool) (off size : Nat) (a : HeldAcc)
  /-- CPCAN: the jobs that complete the chunk they are performing, and the number of jobs that it ends (spec/12_copy.md R294). -/
  | cancel (jobs : List Nat) (n : Nat)
  /-- PREEMPT, SLICESET.move, CTXSAVE.reset: completes when what it waits for has come about. -/
  | wait
  deriving DecidableEq, Repr

/-- A binding (spec/09_ordering.md R224, R242): whole lines, the object's word, the scope. -/
structure Binding where
  num  : Nat
  base : Nat
  len  : Nat
  obj  : Nat
  sc   : Nat
  deriving DecidableEq, Repr

/-- A long-latency instruction of a thread that has issued and not completed (R80 to R84). -/
structure Pending where
  uid   : Nat
  sb    : Nat
  /-- Window positions left (R83). -/
  left  : Nat
  /-- Its own address (R81). -/
  iaddr : DWord
  /-- The vector registers it commits, lowest first; none when it has no destination. -/
  dst   : List Nat := []
  /-- The result, once it has arrived. -/
  val   : Option (List Word) := none
  /-- Flags joined to fl at the commit (R174). -/
  flags : Nat := 0
  /-- The error it completed with: code, data address (R81). -/
  err   : Option (Nat × DWord) := none
  todo  : Todo := .none
  /-- The bindings of its object as they stood when it issued (R242, R243). -/
  bound : List Binding := []
  /-- Held for a page (spec/08_memory.md R211), or waiting for a peer's answer. -/
  held  : Bool := false
  /-- What a peer has answered to it; of bytes that straddle two windows the part in the lower, once it has come (spec/08_memory.md
  R194). -/
  got   : Option (List Byte) := none
  lo    : List Byte := []
  /-- The path that issued it: with `iaddr` it names the request that its lanes share. -/
  req   : Nat := 0
  deriving DecidableEq, Repr

/-- An error completion or arrival overflow that is due for a thread (R81, R263). -/
structure Due where
  code  : Nat
  addr  : DWord
  iaddr : DWord
  deriving DecidableEq, Repr

/-- What an owner trap saves of the thread (R85, R97), with the errors that are due and not taken. -/
structure TrapRecord where
  pc     : DWord
  idx    : Nat
  words  : List Word
  t      : List Word
  pend   : List Pending
  sb     : List Nat
  status : Status
  inst   : Option Nat
  npc    : DWord
  due    : List Due := []
  deriving DecidableEq, Repr

/-- The trap registers of a thread (spec/04_system.md R92, R93, R97). -/
structure TrapRegs where
  code   : BitVec 16 := 0
  addr   : DWord := 0
  iaddr  : DWord := 0
  resume : DWord := 0
  /-- TRAP_STATE.IN, .CRIT and .COUNT. -/
  inH    : Bool := false
  crit   : Bool := false
  count  : Nat := 0
  record : Option TrapRecord := none
  entryResume : DWord := 0
  /-- The VERSION whose milestone trap the thread has taken (R102). -/
  mileSeen : Nat := 0
  deriving DecidableEq, Repr

/-- Bytes of a peer that an instruction reads before it issues, an operand in memory or its clause: the request, the instruction that asked
(spec/03_encoding.md R76; spec/04_system.md R104), the bytes, or the code and the byte of what failed. -/
structure Asked where
  id    : Nat
  iaddr : DWord
  ea    : Nat
  n     : Nat
  data  : Option (List Byte) := none
  err   : Option (Nat × Nat) := none
  deriving DecidableEq, Repr

structure Thread where
  fg     : Nat
  lane   : Nat
  status : Status := .pooled
  pc     : DWord
  /-- The instruction index at which the thread goes on, 0 at a clause header (R85). -/
  idx    : Nat := 0
  /-- The clause entered at the boundary (R151). -/
  npc    : DWord := 0
  /-- The state entered at the boundary (R145). -/
  after  : Status := .pooled
  v      : List Word
  t      : List Word := List.replicate 8 0
  /-- p0 to p6; p7 reads true (R38). -/
  p      : List Bool := List.replicate 7 false
  fl     : BitVec 32 := 0
  sb     : List Nat := List.replicate 8 0
  pend   : List Pending := []
  due    : List Due := []
  trap   : TrapRegs := {}
  /-- TRAP n of the present clause, taken at its boundary (R105). -/
  trapDue : Option Due := none
  /-- TRET of the present clause: what the thread returns to at its boundary (R99). -/
  ret    : Option TrapRecord := none
  /-- The instance of a rendezvous clause the thread belongs to (R146). -/
  inst   : Option Nat := none
  /-- The words of that clause as they were fetched. -/
  words  : List Word := []
  /-- Stop at the next clause boundary (R62, spec/15_launch.md R353). -/
  stopDue : Bool := false
  /-- When the thread was last pooled (R142). -/
  pooledAt : Nat := 0
  /-- A store of the thread was lost with its peer, and no release has reported it yet (R234). -/
  lost   : Bool := false
  /-- Peer writes of jobs that count as its own earlier stores (spec/12_copy.md R284). -/
  jobOut : List Nat := []
  /-- A thread of a command window: a trap is kept here and not taken (R87). -/
  win    : Bool := false
  winTrap : Option Nat := none
  /-- TRAP_STATE.IN as its last instruction issued (R117). -/
  hIssue : Bool := false
  /-- Operands that it has asked of peers. -/
  opIn   : List Asked := []
  deriving DecidableEq, Repr

/-- A file group (spec/01_machine.md R18, R19; spec/06_control.md R144; spec/13_tensor.md R302). -/
structure FileGroup where
  id     : Nat
  blk    : Nat
  /-- %fg -/
  num    : Nat
  unit   : Nat
  n      : Nat
  /-- The kernel's vector-register count. -/
  nregs  : Nat
  s      : List Word := List.replicate 64 0
  m      : List Lanes
  defRec : List Byte := List.replicate 128 0
  deriving DecidableEq, Repr

/-- A path: threads of one file group that issue one clause together (R141). -/
structure Path where
  id     : Nat
  fg     : Nat
  /-- The lane group it occupies (R141). -/
  lg     : Nat := 0
  lanes  : List Nat
  pc     : DWord
  /-- Header and words of the clause as fetched; none before the fetch (R76). -/
  words  : List Word := []
  /-- The next instruction, from 1. -/
  idx    : Nat := 1
  inst   : Option Nat := none
  /-- The wait set has been found clear (R80). -/
  started : Bool := false
  /-- Waiting at a cross-lane instruction for the rest of its instance (R146). -/
  waiting : Bool := false
  /-- The physical lane of the SIMD unit that each virtual lane occupies (R141, R143). -/
  phys    : List (Nat × Nat) := []
  /-- Lines of its clause that it has asked of a peer (R76). -/
  asked   : List Asked := []
  deriving DecidableEq, Repr

/-- An instance of a rendezvous clause (R146). -/
structure Inst where
  id    : Nat
  fg    : Nat
  pc    : DWord
  lanes : List Nat
  /-- The masks as they stood when the instance was released (R158). -/
  m     : List Lanes
  /-- Who was living then. -/
  living : List Nat
  deriving DecidableEq, Repr

/-! ### Blocks (spec/08_memory.md R195, spec/10_sync.md R262, spec/13_tensor.md R306, R307, spec/15_launch.md R353) -/

/-- A barrier register (spec/10_sync.md R262). -/
structure Bar where
  pending  : Nat := 0
  error    : Nat := 0
  phase    : Nat := 0
  expected : Nat := 0
  current  : Nat := 0
  deriving DecidableEq, Repr

/-- A store, within one 16-byte part, waiting in the write queue of the bank that holds the part (spec/09_ordering.md R220). -/
structure BankStore where
  off   : Nat
  bytes : List Byte
  deriving DecidableEq, Repr

/-- A matrix instruction gathered by the rendezvous latch (spec/13_tensor.md R307). -/
structure Latch where
  open_ : Bool := false
  op    : Nat := 0
  iaddr : DWord := 0
  fn    : Nat := 0
  br    : Nat := 0
  a     : Nat := 0
  b     : Nat := 0
  present : List Nat := []
  deriving DecidableEq, Repr

/-- Where a block is (spec/15_launch.md R353). -/
inductive Place where
  | resident
  | stopping
  | stopped
  /-- Its last thread has exited, and engine work of it is still unended. -/
  | ended
  /-- Inside a sealed image of its context (spec/04_system.md R109). -/
  | sealed
  deriving DecidableEq, Repr

structure Block where
  id     : Nat
  node   : Nat
  /-- %blk, %clu -/
  num    : Nat
  clu    : Nat
  core   : Nat
  asid   : Nat
  regs   : Nat := 8
  producer : Nat := 0
  scratch : List Byte := []
  bankQ  : List BankStore := []
  bars   : List Bar := List.replicate 16 {}
  gang   : BitVec 8 := 0
  latch  : Latch := {}
  place  : Place := .resident
  stopSeq : Nat := 0
  /-- 0 first run, 1 re-run, 2 arbiter run (spec/20_health.md R412). -/
  run    : Nat := 0
  /-- Its node is checkable: its writes are digested (spec/20_health.md R409, R413). -/
  checkable : Bool := false
  /-- INSTANCE of its launch packet (spec/15_launch.md R335). -/
  tag    : Nat := 0
  /-- SIDE of its launch packet (spec/15_launch.md R337). -/
  side   : Bool := true
  /-- The device clock when it last came onto a core, and its run time before (spec/15_launch.md R352). -/
  startNs : Nat := 0
  ranNs  : Nat := 0
  deriving DecidableEq, Repr

/-! ### Contexts and control registers (spec/04_system.md) -/

/-- A sealed tensor record (spec/13_tensor.md R302). -/
structure SealedRec where
  handle : DWord
  bytes  : List Byte
  /-- 256 bytes of Huffman code lengths of a coded tensor (spec/13_tensor.md R300). -/
  codes  : List Byte := []
  key    : Nat
  /-- The node and cluster whose re-run sealed it, if one did (spec/20_health.md R412). -/
  owner  : Option (Nat × Nat) := none
  deriving DecidableEq, Repr

/-- What KWRAP.escrow leaves with the context (R111, R112). -/
structure Escrow where
  dest : List Byte
  hash : List Byte
  deriving DecidableEq, Repr

structure Ctx where
  asid   : Nat
  /-- CTX_STATE (R91). -/
  state  : Nat := 0
  meas   : List Byte := List.replicate 64 0
  saveSeq : Nat := 0
  rmapAck : Nat := 0
  trapVec : DWord := 0
  key    : Nat := 0
  recKey : List Byte := []
  part   : Nat := 0
  bindings : List Binding := []
  records : List SealedRec := []
  seals  : Nat := 0
  /-- A milestone trap not yet discharged, and the cycle at which its grace period ends (R26, R102). -/
  milePending : Bool := false
  grace  : Option Nat := none
  escrow : Option Escrow := none
  endCode : Nat := 0
  /-- DETAIL of the ending event: the inner code of 0xB020 (R119). -/
  endDetail : Nat := 0
  endPages : Nat := 0
  /-- A uid of the pending CTXSAVE.reset that commits when the context has ended (R104). -/
  endWait : List Nat := []
  deriving DecidableEq, Repr

/-- A monitor (R118). -/
structure Mon where
  cfg  : Word := 0
  min  : Nat := 2 ^ 64 - 1
  max  : Nat := 0
  cnt  : Nat := 0
  bins : List Nat := List.replicate 16 0
  deriving DecidableEq, Repr

/-- The control registers of module and die scope (R92). -/
structure Ctl where
  rmapGrace : Nat := 0x100000
  chkFrac : Nat := 0
  chkQthr : Nat := 4096
  susp    : List Nat := List.replicate 256 0
  pwrMode : Nat := 0
  cntCfg  : List DWord := List.replicate 64 0
  cntVal  : List Nat := List.replicate 64 0
  mons    : List Mon := List.replicate 256 {}
  devTime : Nat := 0
  /-- DEV_TIME at which VERSION last advanced: changes of one tick advance it once (R25). -/
  pubTime : Option Nat := none
  oprVec  : List DWord := List.replicate 4 0
  opfBase : List Nat := List.replicate 4 0
  opfHead : List Nat := List.replicate 4 0
  opfTail : List Nat := List.replicate 4 0
  /-- Cycles of the arithmetic clock that have passed (R26). -/
  cycle   : Nat := 0
  deriving DecidableEq, Repr

/-- An operator record (R100). -/
structure OprRec where
  die   : Nat
  code  : Nat
  asid  : Nat := 0xFFFF
  core  : Nat := 0xFFFF
  hold  : Nat := 0xFFFF
  page  : Nat := 0
  time  : Nat := 0
  threads : Nat := 0
  sub   : Nat := 0xFF
  lane  : Nat := 0xFF
  deriving DecidableEq, Repr

/-- What is held under one HOLD number (R100, R101). -/
structure Held where
  hold  : Nat
  code  : Nat
  asid  : Nat
  /-- The step in which it was made, and the clause: what shares a record (R100). -/
  tick  : Nat
  pc    : DWord
  threads : List (Nat × Nat) := []
  accs  : List HeldAcc := []
  /-- Engine jobs and commands, by core and uid. -/
  jobs  : List (Nat × Nat) := []
  deriving DecidableEq, Repr

/-- The operator's records and holds (R100, R101). -/
structure OprSys where
  waiting : List OprRec := []
  held    : List Held := []
  nextHold : Nat := 0
  deriving DecidableEq, Repr

/-- The resource map (spec/01_machine.md R22, R23): STATE and DETAIL of entries 1 to 379. -/
structure ResMap where
  version : Nat := 1
  fwLine  : Nat := 3
  stepping : Nat := 0xB1
  units   : List (Nat × Nat)
  deriving DecidableEq, Repr

/-! ### Memory (spec/08_memory.md) -/

/-- A cached translation: of a core's TLB, or of a die's translation cache as unit 1,000 + die (R200). -/
structure Tlb where
  unit : Nat
  asid : Nat
  va   : Nat
  leaf : Leaf
  deriving DecidableEq, Repr

/-- A line of an L1 (by core) or of a slice (by slice): plaintext bytes, and which are valid and dirty (R197). -/
structure Line where
  unit  : Nat
  pa    : Nat
  asid  : Nat
  /-- Its virtual address, for the tweak (R203). -/
  va    : Nat
  leaf  : Leaf
  data  : List Byte
  valid : BitVec 128
  dirty : BitVec 128
  deriving DecidableEq, Repr

/-- A key slot (spec/04_system.md R90, spec/08_memory.md R202). -/
structure KeySlot where
  num   : Nat
  key   : Nat
  owner : Nat
  buf   : Option Nat := none
  dropped : Bool := false
  deriving DecidableEq, Repr

/-- A 64-byte line of a synchronisation engine's SRAM (spec/10_sync.md R246). -/
structure SramLine where
  die  : Nat
  off  : Nat
  asid : Nat
  va   : Nat
  leaf : Leaf
  data : List Byte
  /-- It holds bytes that its backing does not (R246). -/
  dirty : Bool := false
  deriving DecidableEq, Repr

structure MemSys where
  phys   : List Host.Cell := []
  host   : List Host.Cell := []
  scrub  : List Nat := []
  poison : List Nat := []
  dirtyActive : Nat := 0
  l1     : List Line := []
  slice  : List Line := []
  tlb    : List Tlb := []
  keySlots : List KeySlot := []
  sram   : List SramLine := []
  /-- What the host answers badly, brought from outside: a 4 KiB bus page and the code 0x9004 or 0x9005 (R210). -/
  hostBad : List (Nat × Nat) := []
  deriving DecidableEq, Repr

/-! ### Synchronisation (spec/10_sync.md) -/

/-- One lane of an atomic request (R247): its element, its operands and its pending operation. -/
structure AtomLane where
  lane : Nat
  uid  : Nat
  /-- Scratchpad offset, virtual address, or peer address, aligned to the element. -/
  ea   : Nat
  x    : Nat
  y    : Nat
  /-- Held for a page (spec/08_memory.md R211). -/
  held : Bool := false
  deriving DecidableEq, Repr

/-- An atomic or reduction request of one path, with the lanes not yet served (R247). -/
structure AtomReq where
  id    : Nat
  fg    : Nat
  op    : Nat
  at_   : Nat
  sp    : Bool
  red   : Bool
  ord   : Nat
  sc    : Nat
  /-- It has left the core: checks and release are done (R250, R251). -/
  sent  : Bool := false
  lanes : List AtomLane := []
  deriving DecidableEq, Repr

/-- A TAKE request or its token inside a network (R254). -/
structure Token where
  id    : Nat
  fg    : Nat
  lane  : Nat
  uid   : Nat
  /-- The address as the thread gave it, for a request that is withdrawn (spec/03_encoding.md R85). -/
  ea    : Nat := 0
  wire  : Nat
  layer : Nat := 0
  ord   : Nat
  sc    : Nat
  deriving DecidableEq, Repr

/-- A ticket network (R253, R257, R258): of die `home`, or of plane `home` when `dom`. -/
structure Net where
  dom   : Bool
  home  : Nat
  /-- The word: offset in the die's sync storage, or the peer address. -/
  word  : Nat
  /-- The creating context. -/
  asid  : Nat
  base  : Nat
  bits  : BitVec 80 := 0
  ctrs  : List Nat := List.replicate 16 0
  open_ : Bool := true
  tokens : List Token := []
  waiters : List Token := []
  /-- TKDRAIN.close operations that complete when the network is quiet: thread and uid. -/
  closers : List (Nat × Nat × Nat) := []
  deriving DecidableEq, Repr

/-- A change on its way to a barrier (R263, R264). -/
structure Arrival where
  seq   : Nat
  blk   : Nat
  bar   : Nat
  /-- 0 thread, 1 file group, 2 cluster peer or fabric, 3 engine job. -/
  kind  : Nat
  /-- Bytes subtracted from PENDING. -/
  bytes : Nat := 0
  /-- Whether it counts an arrival. -/
  count : Bool := true
  /-- Error code of a job, 0 for none. -/
  err   : Nat := 0
  /-- The threads whose arrival it carries, each with the pending operations it waits for (R223). -/
  from_ : List (Nat × Nat × List Nat) := []
  iaddr : DWord := 0
  /-- Scope of a .clu (3) or .dom (6) arrival, else 0. -/
  sc    : Nat := 0
  /-- It is made by BARWAIT: its threads wait for the phase (R268). -/
  hold  : Bool := false
  deriving DecidableEq, Repr

/-- An ARRIVE.fg or BARWAIT.fg that not every living thread of the group has executed (R264). -/
structure FgGather where
  fg    : Nat
  bar   : Nat
  iaddr : DWord
  hold  : Bool
  lanes : List (Nat × Nat × List Nat)
  deriving DecidableEq, Repr

/-- A parked arrival (R270). -/
structure Parked where
  die  : Nat
  asid : Nat
  node : Nat
  blk  : Nat
  bar  : Nat
  sc   : Nat
  deriving DecidableEq, Repr

/-- An ARRIVE.clu or ARRIVE.dom waiting for its release (R267): thread, what it waits for, and its target. -/
structure RemoteArr where
  fg    : Nat
  lane  : Nat
  waits : List Nat
  bar   : Nat
  dom   : Bool
  /-- .clu: identity of the target block; .dom: block number. -/
  blk   : Nat
  rank  : Nat := 0
  asid  : Nat
  /-- The identity after its thread's last earlier operation, and the jobs' peer writes that count as the thread's own. -/
  uid   : Nat := 0
  jobs  : List Nat := []
  /-- INSTANCE of the node, and the node of the sender. -/
  tag   : Nat
  node  : Nat
  deriving DecidableEq, Repr

structure SyncSys where
  reqs     : List AtomReq := []
  nets     : List Net := []
  arrivals : List Arrival := []
  gather   : List FgGather := []
  remote   : List RemoteArr := []
  layby    : List Parked := []
  deriving DecidableEq, Repr

/-! ### The engines of a core (spec/12_copy.md R279 to R287, spec/13_tensor.md R303 to R315) -/

/-- Part of a footprint in one space (R280): 0 a 128-byte line of a global address, 1 a 16-byte part of the scratchpad,
2 an operand slot, 3 a row of a bank (128 × bank + row). Units `lo` to `hi - 1`. -/
structure Foot where
  space : Nat
  lo : Nat
  hi : Nat
  deriving DecidableEq, Repr

/-- Kind and operands of a job (R279, R290 to R293). -/
inductive JobKind where
  /-- Destination and source in the scratchpad or not, their addresses, the length. -/
  | cpb (dstS srcS : Bool) (a b len : Nat)
  /-- 0 .ld, 1 .lds, 2 .st; handle, row0, col0, i2, i3, slot or offset. -/
  | cpt (fn handle row0 col0 i2 i3 c : Nat)
  /-- .st; lane copies still to do: lane, scratchpad offset, global address. -/
  | cpl (st : Bool) (lanes : List (Nat × Nat × Nat))
  /-- FN, scratchpad offset, selector. -/
  | cpa (fn a b : Nat)
  deriving DecidableEq, Repr

/-- Where a window entry or a command stands (R282, R312). `counted` has ended with its counts held (R380). -/
inductive JobState where
  | held | ready | running | counted
  deriving DecidableEq, Repr

/-- A job card (R279). -/
structure Job where
  id    : Nat
  blk   : Nat
  bar   : Nat
  kind  : JobKind
  rd    : List Foot
  wr    : List Foot
  edges : List Nat := []
  state : JobState
  chunk : Nat := 0
  /-- Bytes not yet subtracted from PENDING. -/
  left  : Nat
  /-- SIDE of its node forbids it host, peer and sync addresses: checked at issue. -/
  hold  : Bool := false
  /-- Reads a chunk waits for: request identities; what has come: address and bytes (R380). -/
  reads : List Nat := []
  inbox : List (Nat × List Byte) := []
  /-- Lines that a peer answered with an error: address and code; each fails the lane copy that asked (R292). -/
  failed : List (Nat × Nat) := []
  /-- Windows not yet verified on whose data it depends; an error that a window brought (R380). -/
  prov  : List Nat := []
  err   : Nat := 0
  /-- Bytes written whose count waits for verification (R380). -/
  owed  : Nat := 0
  /-- Writes held until verification: address and bytes (R380). -/
  heldWr : List (Nat × List Byte) := []
  /-- It is cancelled and ends after its present chunk (R294). -/
  cancel : Bool := false
  deriving DecidableEq, Repr

/-- A matrix command (R312 to R315, R325). -/
structure Cmd where
  id    : Nat
  blk   : Nat
  bar   : Nat
  /-- 0 MMA, 1 MMAG, 2 MMAS, 3 ACCZ. -/
  op    : Nat
  a     : Nat
  /-- The non-empty groups: rows, first stationary slot. -/
  groups : List (Nat × Nat) := []
  /-- ACCZ: the mode it sets. -/
  s32   : Bool := false
  eA    : Nat := 1
  eB    : Nat := 1
  rd    : List Foot
  wr    : List Foot
  edges : List Nat := []
  state : JobState
  /-- The next group K-step. -/
  step  : Nat := 0
  left  : Nat
  hold  : Bool := false
  /-- Formed by a latch that an exit closed, and waiting for room (R307). -/
  waiting : Bool := false
  /-- Scale lines that a K-step has asked of a peer: request identities; what has come (R313). -/
  reads : List Nat := []
  inbox : List (Nat × List Byte) := []
  prov  : List Nat := []
  err   : Nat := 0
  owed  : Nat := 0
  deriving DecidableEq, Repr

/-- An operand slot that a block holds (R303). -/
structure Slot where
  num   : Nat
  blk   : Nat
  data  : List Byte := []
  valid : Bool := false
  /-- Bytes of a coded frame in use (R300). -/
  len   : Nat := 16384
  handle : Nat := 0
  row0  : Nat := 0
  col0  : Nat := 0
  i2    : Nat := 0
  i3    : Nat := 0
  /-- The CPT.ld job that set the tag. -/
  job   : Nat := 0
  /-- Marked by OREL (R304). -/
  going : Bool := false
  deriving DecidableEq, Repr

/-- An accumulator bank that a block holds (R303). -/
structure Bank where
  num   : Nat
  blk   : Nat
  words : List Word
  s32   : Bool := false
  going : Bool := false
  deriving DecidableEq, Repr

/-- A claim that stalls (R304). -/
structure ClaimWait where
  core  : Nat
  blk   : Nat
  path  : Nat
  slots : Nat
  banks : Nat
  deriving DecidableEq, Repr

/-- A copy instruction that stalls for entries, and since when the deadlock's conditions have held (R286). -/
structure CopyStall where
  core  : Nat
  path  : Nat
  since : Option Nat := none
  deriving DecidableEq, Repr

structure EngSys where
  slots  : List Slot := []
  banks  : List Bank := []
  jobs   : List Job := []
  cmds   : List Cmd := []
  claims : List ClaimWait := []
  stalls : List CopyStall := []
  deriving DecidableEq, Repr

/-! ### The scheduler (spec/15_launch.md) -/

/-- A launch packet as it was read (R332), and what its descriptor gives (R53). -/
structure Packet where
  desc   : Nat
  code   : Nat
  blocks : Nat
  cshape : Nat
  fgs    : Nat
  threads : Nat
  side   : Bool
  notify : Bool
  pennant : Nat
  signal : Nat
  wait   : Nat
  ntype  : Nat
  tag    : Nat
  args   : List DWord
  regs   : Nat
  scratch : Nat
  producer : Nat
  gang   : Nat
  entry  : Nat
  /-- Resolved footprints: mode, base, length (R334). -/
  feet   : List (Nat × Nat × Nat)
  deriving DecidableEq, Repr

/-- A cluster of a node that has been placed at least once: its runs' cores, digests and writes (spec/20_health.md R410 to R414). -/
structure Cluster where
  num   : Nat
  /-- Blocks of the present run that have ended. -/
  ended : Nat := 0
  /-- The cores on which each run's blocks stand or last stood, by run number, and all that a run has been on. -/
  cores : List (Nat × Nat) := []
  been  : List (Nat × Nat) := []
  /-- The digest of each run, by run number. -/
  digest : List (BitVec 128) := [0, 0, 0]
  /-- Runs that an owner trap has ended: their digest matches no other. -/
  bad   : List Nat := []
  /-- What the present re-run has written, and the ranges of the save pool that its check buffer takes. -/
  divert : List (Nat × Byte) := []
  buf   : List (Nat × Nat) := []
  /-- 0 first run; 1 selected, its re-run to be placed or running; 2 its arbiter; 3 settled. -/
  stage : Nat := 0
  /-- The run of this stage stands on cores. -/
  placed : Bool := true
  /-- The order of selection. -/
  seq   : Nat := 0
  deriving DecidableEq, Repr

/-- A node of the pool (R331, R341, R342). -/
structure Node where
  id     : Nat
  asid   : Nat
  part   : Nat
  queue  : Nat
  /-- The node that launched it and that node's launchers (R341). -/
  launchers : List Nat := []
  pkt    : Packet
  /-- Undischarged edges: source, and whether it is write after read. -/
  edges  : List (Nat × Bool) := []
  /-- Waits for its tag. -/
  tagWait : Bool := false
  /-- 1 waiting, 2 ready, 3 running, 4 ending (R342, R359). -/
  state  : Nat
  seq    : Nat
  checkable : Bool := false
  next   : Nat := 0
  ended  : Nat := 0
  faults : Nat := 0
  verdict : Nat := 0
  startNs : Option Nat := none
  endNs  : Nat := 0
  clusters : List Cluster := []
  /-- Ending: the release of R343 has been performed and its edges are discharged. -/
  flushed : Bool := false
  /-- Ending: its entry stands in the event queue, and step 4 of R344 is still to come. -/
  posted : Bool := false
  /-- Its pennant write is held for a page (R344). -/
  hold   : Bool := false
  deriving DecidableEq, Repr

/-- A rejected host packet whose pennant has still to be written (R333, R344). -/
structure Reject where
  id   : Nat
  asid : Nat
  part : Nat
  addr : Nat
  data : List Byte
  signal : Nat
  hold : Bool := false
  deriving DecidableEq, Repr

/-- A submission queue's registers (R338). -/
structure Queue where
  num  : Nat
  asid : Nat := 0
  ld   : Nat := 0
  vf   : Nat := 0
  err  : Nat := 0
  logn : Nat := 4
  prio : Nat := 0
  en   : Bool := false
  base : Nat := 0
  head : Nat := 0
  tail : Nat := 0
  deriving DecidableEq, Repr

/-- An entry of the slice table (R351); `to` is the partition that a moving slot goes to (R352). -/
structure SlotEntry where
  rsv  : Option Nat := none
  closed : Bool := false
  moving : Option Nat := none
  assigned : Bool := false
  lslice : Nat := 0
  part : Nat := 0
  deriving DecidableEq, Repr
/-- An entry of the partition table, with its tags, its blocked head and its reserve (R345, R348, R349, R351). -/
structure PartEntry where
  deliv : Nat := 0
  /-- core-ns of the blocks ended in the present window. -/
  acc   : Nat := 0
  auto  : Bool := false
  target : Nat := 0
  tags  : List Nat := []
  /-- The blocked head: node, when its age started, back-fills past it. -/
  blocked : Option (Nat × Nat × Nat) := none
  /-- The region in reserve. -/
  reserve : Option Nat := none
  deriving DecidableEq, Repr
/-- An entry of the event queue (R345). -/
structure EvqEntry where
  node : Nat
  part : Nat
  status : Nat
  signal : Nat
  pennant : Nat
  /-- What step 4 of R344 does for it besides: NOTIFY, NTYPE, the context. -/
  notify : Bool := false
  ntype : Nat := 0
  asid : Nat := 0
  payload : Nat := 0
  deriving DecidableEq, Repr

/-- What a PREEMPT or SLICESET.move waits for: it commits when every named block is saved (R354, R361). -/
structure StopCmd where
  fg    : Nat
  lane  : Nat
  uid   : Nat
  /-- Blocks that have still to stop; blocks that it has stopped. -/
  blks  : List Nat
  done  : List Nat := []
  /-- .move: the source and the destination slot. -/
  move  : Option (Nat × Nat) := none
  deriving DecidableEq, Repr

/-- A CTXSAVE.seal that waits for its context to stop (spec/04_system.md R109). -/
structure SealCmd where
  fg    : Nat
  lane  : Nat
  uid   : Nat
  asid  : Nat
  addr  : Nat
  deriving DecidableEq, Repr

/-- An access of the scheduler's own at a peer, and what has come of it (spec/08_memory.md R194): a read, or the pennant write of a
node or rejected packet `who`. -/
structure PeerRead where
  id   : Nat
  asid : Nat
  addr : Nat
  size : Nat
  who  : Nat := 0
  data : Option (List Byte) := none
  err  : Nat := 0
  deriving DecidableEq, Repr

structure SchedSys where
  pool   : List Node := []
  accepted : Nat := 0
  queues : List Queue := (List.range 1024).map fun q => { num := q }
  slots  : List SlotEntry := List.replicate 64 {}
  parts  : List PartEntry := List.replicate 64 {}
  evq    : List EvqEntry := []
  rejects : List Reject := []
  reads  : List PeerRead := []
  /-- The save pool: base and length, 0 for none (R362). -/
  poolBase : Nat := 0
  poolLen : Nat := 0
  /-- Images in it, and in a pool before it: block, and the ranges that hold its bytes (R353). -/
  images : List (Nat × List (Nat × Nat)) := []
  stopSeq : Nat := 0
  stops  : List StopCmd := []
  seals  : List SealCmd := []
  /-- Device clock at the start of the present service window (R352). -/
  winStart : Nat := 0
  deriving DecidableEq, Repr

/-! ### Links (spec/17_links.md) -/

/-- A request to a peer module that has left this one and waits for its answer, or for its acknowledgement
(R194, R234, R379). -/
structure OutReq where
  id   : Nat
  /-- 0 read, 1 write, 2 atomic, 3 reduction, 5 acquire, 6 release, 7 arrival, 8 parity update. -/
  kind : Nat
  rank : Nat
  addr : Nat
  size : Nat
  data : List Byte := []
  asid : Nat
  fg   : Nat := 0
  lane : Nat := 0
  uid  : Nat := 0
  /-- The job that made it, and the barrier its bytes count on: block and number (spec/12_copy.md R284). -/
  job  : Option Nat := none
  bar  : Option (Nat × Nat) := none
  /-- Atomic operation and type; scope. -/
  op   : Nat := 0
  at_  : Nat := 0
  sc   : Nat := 0
  ord  : Nat := 0
  /-- An access that straddles windows (spec/08_memory.md R194, R210): for a load the bytes that came before it, and how many follow
  it; for a store the bytes of its other part, which is made when this one has been, and how many they are. -/
  pre  : List Byte := []
  rest : Nat := 0
  /-- The plane it has been sent on; none while it waits at the link die (R378, R381). -/
  sent : Option Nat := none
  deriving DecidableEq, Repr

/-- A host-window atomic that waits for the host (R388, R390). -/
structure HostAtom where
  id   : Nat
  fg   : Nat
  lane : Nat
  uid  : Nat
  asid : Nat
  buf  : Nat
  /-- The element's virtual address and its host bus address. -/
  ea   : Nat
  bus  : Nat
  op   : Nat
  at_  : Nat
  x    : Nat
  y    : Nat
  ord  : Nat
  sc   : Nat
  red  : Bool
  /-- 0 an AtomicOp in flight; 1 a proxied request waiting for room; 2 a request in the ring; 3 completed by timeout,
  its entry still in the ring. -/
  st   : Nat := 0
  seq  : Nat := 0
  /-- The VF that serves it: 64 × die + v. -/
  vf   : Nat := 0
  startNs : Nat := 0
  deriving DecidableEq, Repr

/-- A virtual function: its table entry, proxy mailbox and event ring (R389, R392, R393). Number 64 × die + v; v = 0
stands for the physical function and its own ring (R394). -/
structure Vf where
  num   : Nat
  /-- The VF-table entry, raw (R392). -/
  entry : DWord := 0
  pxBase : Nat := 0
  pxEn   : Bool := false
  pxLog  : Nat := 4
  pxTail : Nat := 0
  pxHead : Nat := 0
  evrBase : Nat := 0
  evrEn   : Bool := false
  evrLog  : Nat := 4
  evrTail : Nat := 0
  evrHead : Nat := 0
  evrDisc : Nat := 0
  /-- MSI-X vector 0: masked, pending, and how often it was sent (R393; assumption log 31). -/
  msixMask : Bool := false
  msixPend : Bool := false
  msixSent : Nat := 0
  /-- The state of its TDI, 0 CONFIG_UNLOCKED, 1 CONFIG_LOCKED, 2 RUN, 3 ERROR (R386; assumption log 31). -/
  tdi    : Nat := 0
  deriving DecidableEq, Repr

/-- A flit that the other end has not acknowledged, or that waits for room in the replay buffer (R374 to R376). -/
structure Flit where
  seq   : Nat
  fk    : Nat
  bytes : List Byte
  /-- UCIe: 1 + the direction of the module that failed and handed it over, 0 for the adapter's own (R374). -/
  from_ : Nat := 0
  /-- UCIe: the die that each of its transactions is for, as the adapters keep it (R373; assumption log 32). -/
  dsts  : List Nat := []
  deriving DecidableEq, Repr

/-- One end of a link: a Guestus port; or one direction of a UCIe module, with the adapters of both its ends (R374, R376, R381). -/
structure LinkPort where
  /-- The next SEQ to send, the SEQ expected next. -/
  txSeq  : Nat := 0
  rxNext : Nat := 0
  unacked : List Flit := []
  queue  : List Flit := []
  /-- NAKs received for the first unacknowledged SEQ; device clock when an ACK last advanced. -/
  naks   : Nat := 0
  lastAck : Nat := 0
  /-- This end owes a NAK. -/
  nakDue : Bool := false
  /-- What the other end last said of its pool; slots of it in use, by 64 × class + partition. -/
  poolFull : Bool := false
  used   : List (Nat × Nat) := []
  /-- UCIe: the transactions of the flit that is being filled, each with the die that it is for (spec/18_program_tickets.md R400). -/
  fill   : List (Nat × List Byte) := []
  /-- Guestus: the flits it has put on the link, as their 256 bytes, that the other end has not acknowledged (R375). -/
  wire   : List (List Byte) := []
  deriving DecidableEq, Repr

/-- A window of a stream this module sends: rank, plane, class, number, slots, and the cycle of its first slot (R379). -/
structure TxWin where
  dst   : Nat
  plane : Nat
  cls   : Nat
  num   : Nat := 0
  slots : List Byte := []
  start : Nat := 0
  deriving DecidableEq, Repr

/-- A window of a stream this module receives (R379, R380). -/
structure RxWin where
  id    : Nat
  src   : Nat
  plane : Nat
  cls   : Nat
  num   : Nat
  slots : List Byte := []
  /-- Its transactions in order. -/
  txs   : List (List Byte) := []
  /-- Device clock of its first slot. -/
  startNs : Nat := 0
  /-- Its tag transaction has arrived: the number and the tag. -/
  tag   : Option (Nat × Nat) := none
  deriving DecidableEq, Repr

/-- A ticket command that another die has sent here and that is not answered: its identity, the direction of the module it came by, its
transaction (R371). -/
structure DieReq where
  id     : Nat
  module : Nat
  tx     : List Byte
  /-- What it ends with, once its network is lost. -/
  code   : Nat := 0
  deriving DecidableEq, Repr

/-- An ATS invalidation whose completion is withheld (R391): bus address and size of the page, buffer, PRIVATE, when it
arrived, and the chunks in flight: job, chunk, lane copies left. -/
structure Ats where
  id    : Nat
  bus   : Nat
  size  : Nat
  priv  : Bool
  startNs : Nat
  chunks : List (Nat × Nat × Nat) := []
  atoms : List Nat := []
  deriving DecidableEq, Repr

/-- A request that a thread has sent to the synchronisation engine of another compute die (spec/17_links.md R373, R374;
spec/18_program_tickets.md R400). -/
structure Cross where
  uid  : Nat
  fg   : Nat
  lane : Nat
  /-- The instruction of a path whose request it belongs to. -/
  req  : Nat
  iaddr : DWord
  ea   : Nat
  /-- KIND, TAG and ADDR of its transaction, and the dies that it goes from and to. -/
  kind : Nat
  tag  : Nat
  addr : Nat
  src  : Nat
  dst  : Nat
  red  : Bool := false
  /-- 0 on its way, 1 at the engine, 2 its answer on the way back. -/
  st   : Nat := 0
  /-- Its thread has gone. -/
  gone : Bool := false
  deriving DecidableEq, Repr

structure Links where
  /-- The rank table, raw (R383). -/
  ranks : List Word := List.replicate 384 0
  /-- Requests to peers that are not answered yet, oldest first. -/
  out   : List OutReq := []
  /-- Host-window atomics that wait for the host (R388, R390). -/
  hostAtoms : List HostAtom := []
  /-- The host window table: buffer number and word; an absent entry is 0 (R387). -/
  hostWin : List (Nat × Nat) := []
  vfs   : List Vf := ((List.range 64).map fun v => { num := v }) ++ ((List.range 64).map fun v => { num := 64 + v })
  /-- Plane remap table (R377). -/
  prt   : List Nat := List.range 16
  /-- Hardware event records that wait for room in a ring: VF number and the 32 bytes (R393). -/
  evWait : List (Nat × List Byte) := []
  /-- Guestus ports; UCIe modules, each in the direction that goes up the ring or out to the link die and in the other (R374, R376). -/
  ports : List LinkPort := List.replicate 16 {}
  ucie  : List LinkPort := List.replicate 64 {}
  /-- Requests of threads between compute dies. -/
  cross : List Cross := []
  /-- Transactions that wait behind a tag for which the receiver's slots of class 3 have no room: plane, rank, bytes (R381). -/
  late  : List (Nat × Nat × List Byte) := []
  txWins : List TxWin := []
  rxWins : List RxWin := []
  /-- The number of the next window of each incoming stream: source, plane, class, number. -/
  rxNums : List (Nat × Nat × Nat × Nat) := []
  /-- Stream keys by rank (R379, R397). -/
  keys  : List (Nat × Nat) := []
  /-- LOST, by hash; MIN shares, by 64 × class + partition (R381, R398). -/
  lost  : List Bool := List.replicate 16 false
  mins  : List (Nat × Nat) := []
  /-- The parity group (R385, R399): description, 16-byte blocks rebuilt, 0 none, 3 rebuilding, 4 rebuilt. -/
  parity : Nat := 0
  parBlocks : Nat := 0
  parPhase : Nat := 0
  /-- Stores to PARITY buffers that wait at the controller (R385). -/
  parWait : List HeldAcc := []
  ats   : List Ats := []
  /-- The address translation caches of the link dies: die and 4 KiB bus page, the oldest first (R386). -/
  atc   : List (Nat × Nat) := []
  /-- Ticket commands of other dies that wait here. -/
  dieReqs : List DieReq := []
  /-- Writes of peers to PARITY buffers that wait at the controller: plane, or 16 + direction, and transaction (R385). -/
  txWait : List (Nat × List Byte) := []
  /-- Requests of peers held here for a page: identity, plane, transaction (spec/08_memory.md R211). -/
  txHeld : List (Nat × Nat × List Byte) := []
  /-- What the command windows last returned: status and D, of L0, L1 and the auditor (R87). -/
  cmdOut : List (Nat × List Word) := List.replicate 3 (0, [])
  deriving DecidableEq, Repr

/-! ### Health (spec/20_health.md) -/

/-- A physical lane of a SIMD unit gets the next checked result wrong in the bits of `mask` (R175; assumption log 25). -/
structure VecFault where
  core : Nat
  unit : Nat
  lane : Nat
  mask : Word
  deriving DecidableEq, Repr
/-- A core's array gets the value of one chunk, in the next K-step that computes row `row`, wrong in the bits of `mask`
(spec/13_tensor.md R316; assumption log 25). -/
structure ColFault where
  core : Nat
  row  : Nat
  col  : Nat
  chunk : Nat := 0
  mask : Word
  deriving DecidableEq, Repr

structure Health where
  /-- Faults of the part, brought from outside: of vector lanes, of arrays. -/
  vecFaults : List VecFault := []
  colFaults : List ColFault := []
  /-- The 0xA001 traps of the last 2^32 cycles: core, SIMD unit, lane, cycle (R416). -/
  shadowLog : List (Nat × Nat × Nat × Nat) := []
  /-- The self-test table, as 16-byte records (R422). -/
  selfTest  : List (List Byte) := []
  wear      : Nat := 0
  restarts  : Nat := 0
  decodeEn  : Bool := true
  /-- Halvings of the suspicion scores that have fallen due: the device time of each (R415, R416). -/
  halfDue   : List Nat := []
  /-- Uncorrectable errors of slices in the last hour: slice, device time (R417). -/
  sliceErrs : List (Nat × Nat) := []
  /-- The image in bank A; the protected bank: VERSION, quarantine records, security counter (R424). -/
  bankA     : List Byte := []
  storedVersion : Nat := 1
  quarantine : List Nat := []
  secCounter : Nat := 0
  /-- The buyer's verification key, once written to the fuses (R425). -/
  buyerKey  : Option (List Byte) := none
  /-- NOVIG_SEL at the last reset; the Novig recovery image runs (R426). -/
  strap     : Bool := false
  novig     : Bool := false
  /-- Which generated SECRET is in force: SECRET is `Config.freshKey` of it (R410). -/
  secretNo  : Nat := 0
  deriving DecidableEq, Repr

/-! ### The whole -/

/-- What an event of the table is about: which thread, unit or entry, and the words and bytes it brings. -/
structure EvArg where
  a : Nat := 0
  b : Nat := 0
  c : Nat := 0
  v : DWord := 0
  data : List Byte := []
  deriving DecidableEq, Repr

/-- What acts next (the model's own: one machine, one agent at a time). -/
inductive Act where
  /-- An event of the table. -/
  | ev (i : Instr) (arg : EvArg)
  /-- The path of this id issues its next instruction. -/
  | issue (path : Nat)
  /-- Two paths of one lane group issue in the same cycle (spec/06_control.md R142). -/
  | pair (path mate : Nat)
  /-- The path issues a load or store whose accesses are performed later, each in its own time (spec/09_ordering.md R221). -/
  | defer (path : Nat)
  deriving DecidableEq, Repr

/-- An image that this module has made: its context and SAVESEQ, its plaintext, the pending MSI-X that travels in it
(spec/04_system.md R109, spec/17_links.md R393; assumption log 6). -/
structure SealedImage where
  asid : Nat
  seq  : Nat
  text : List Byte
  msix : Bool := false
  deriving DecidableEq, Repr

structure State where
  threads : List Thread := []
  fgs     : List FileGroup := []
  blocks  : List Block := []
  paths   : List Path := []
  insts   : List Inst := []
  ctxs    : List Ctx := []
  ctl     : Ctl := {}
  map     : ResMap
  opr     : OprSys := {}
  mem     : MemSys := {}
  sync    : SyncSys := {}
  links   : Links := {}
  health  : Health := {}
  eng     : EngSys := {}
  sched   : SchedSys := {}
  /-- The model's own: the images of contexts that this module has sealed, and whose blocks it still holds (spec/04_system.md
  R109; assumption log 6). -/
  images  : List SealedImage := []
  /-- The cycle at which the age counter of a SIMD unit last restarted: core, unit, cycle (spec/06_control.md R142). -/
  fills   : List (Nat × Nat × Nat) := []
  /-- Lane groups that have given up their issue slot at a boundary: file group and number (spec/03_encoding.md R63). -/
  yields  : List (Nat × Nat) := []
  /-- The model's own: what the present event is about. -/
  ev      : EvArg := {}
  /-- The model's own: who acts next. -/
  agenda  : List Act := []
  /-- The model's own: steps taken; free timing is drawn with it. -/
  ticks   : Nat := 0
  /-- The model's own: free values drawn. -/
  fresh   : Nat := 1
  /-- The model's own: the next identity of a path, instance or pending operation. -/
  uid     : Nat := 1
  deriving DecidableEq, Repr

/-- Why the machine stops. -/
inductive Fault where
  /-- Raised by `step` when a path's clause holds no instruction at its index. The checks of R77 make it
  impossible for a clause that was fetched; it is safe. -/
  | corruptClause
  deriving DecidableEq, Repr

/-- Why an instruction is turned away. -/
inductive Refusal where
  /-- Raised by `exec` for an instruction that has no meaning yet; safe. -/
  | notModelled (mnemonic : String)
  deriving DecidableEq, Repr

/-- A block inside an image that another module has sealed, with what is its own (spec/04_system.md R88, R109). -/
structure ImageBlock where
  block  : Block
  fgs    : List FileGroup := []
  threads : List Thread := []
  slots  : List Slot := []
  banks  : List Bank := []
  jobs   : List Job := []
  cmds   : List Cmd := []
  deriving DecidableEq, Repr
/-- What the plaintext of another module's image stands for; identities inside it count from 0. -/
structure ImageState where
  blocks  : List ImageBlock := []
  trapVec : Nat := 0
  /-- The sealed tensor records of the context, and how many it has sealed (spec/13_tensor.md R302). -/
  records : List SealedRec := []
  seals   : Nat := 0
  /-- A pending MSI-X (spec/17_links.md R393). -/
  msix    : Bool := false
  deriving DecidableEq, Repr, Inhabited
/-- The spec does not give the layout of that plaintext (R109; assumption log 6). -/
opaque imageState : List Byte → ImageState

/-- STATE and DETAIL of the unit entries when every unit passes self-test (spec/01_machine.md R23). -/
def goodUnits : List (Nat × Nat) :=
  List.replicate 256 (0, 0xFFFFFF) ++ List.replicate 64 (0, 0) ++ List.replicate 8 (0, 0)
    ++ List.replicate 32 (0, 0) ++ List.replicate 2 (0, 16) ++ List.replicate 16 (0, 0)
    ++ [(0, 0 + 1800 * 16)]

/-- The machine right after a module reset (spec/01_machine.md R22, R25, R92; assumption log 20). -/
def State.reset : State := { map := { units := goodUnits } }

end Sys2Proof.Machine
end

