-- ==== Sys2Proof/Machine/Ops.lean ====
section
/-! DEFINITION. The named operations over the state: lookups, identities, counters, operator records and holds,
taking a trap and returning from one, and the issue of one instruction by a path. -/
namespace Sys2Proof.Machine

/-- What a meaning answers. -/
abbrev Out := Host.Outcome State Fault Refusal

/-! ### Lookups and updates -/

/-- The operator context has no ASID; this stands for it (R87, R100). -/
def oprAsid : Nat := 0xFFFF
/-- What a thread of the auditor's command window runs as (R87). -/
def audAsid : Nat := 0xFFFE

def State.thread? (s : State) (fg lane : Nat) : Option Thread := s.threads.find? fun t => t.fg = fg && t.lane = lane
def State.setThread (s : State) (t : Thread) : State :=
  { s with threads := s.threads.map fun u => if u.fg = t.fg && u.lane = t.lane then t else u }
def State.modThread (s : State) (fg lane : Nat) (f : Thread → Thread) : State :=
  { s with threads := s.threads.map fun u => if u.fg = fg && u.lane = lane then f u else u }
def State.fg? (s : State) (id : Nat) : Option FileGroup := s.fgs.find? fun g => g.id = id
def State.setFg (s : State) (g : FileGroup) : State :=
  { s with fgs := s.fgs.map fun h => if h.id = g.id then g else h }
def State.block? (s : State) (id : Nat) : Option Block := s.blocks.find? fun b => b.id = id
def State.setBlock (s : State) (b : Block) : State :=
  { s with blocks := s.blocks.map fun c => if c.id = b.id then b else c }
def State.blockOf (s : State) (fg : Nat) : Option Block := (s.fg? fg).bind fun g => s.block? g.blk
def State.ctx? (s : State) (asid : Nat) : Option Ctx := s.ctxs.find? fun c => c.asid = asid
def State.modCtx (s : State) (asid : Nat) (f : Ctx → Ctx) : State :=
  { s with ctxs := s.ctxs.map fun c => if c.asid = asid then f c else c }
def State.setPath (s : State) (p : Path) : State :=
  { s with paths := s.paths.map fun q => if q.id = p.id then p else q }
def State.dropPath (s : State) (id : Nat) : State := { s with paths := s.paths.filter fun q => q.id ≠ id }
def State.inst? (s : State) (id : Nat) : Option Inst := s.insts.find? fun i => i.id = id
def State.setInst (s : State) (i : Inst) : State :=
  { s with insts := s.insts.map fun j => if j.id = i.id then i else j }

/-- The context of a file group's threads. -/
def State.asidOf (s : State) (fg : Nat) : Nat := match s.blockOf fg with | some b => b.asid | none => oprAsid
/-- The core of a file group; 256 + d is the control core of die d. -/
def State.coreOf (s : State) (fg : Nat) : Nat := match s.blockOf fg with | some b => b.core | none => 256
/-- The compute die of a core (R14). -/
def dieOfCore (core : Nat) : Nat := if core < 256 then core / 64 else (core - 256) % 4
/-- The slice of a core (R14, R23). -/
def sliceOfCore (core : Nat) : Nat := core / 4

/-- The threads of a file group. -/
def State.threadsOf (s : State) (fg : Nat) : List Thread := s.threads.filter fun t => t.fg = fg
/-- A thread that has not exited (R140). -/
def Thread.living (t : Thread) : Bool := match t.status with | .exited => false | _ => true
/-- Whether a thread's status is a hold of R145. -/
def Status.isHold : Status → Bool
  | .heldJoin _ _ | .heldWaitm _ _ | .heldRdv => true
  | _ => false

/-- Changes a pending operation of a thread, in the thread or in what its trap saved of it (R84, R97). -/
def State.modPend (s : State) (fg lane uid : Nat) (f : Pending → Pending) : State :=
  let g (l : List Pending) : List Pending := l.map fun p => if p.uid = uid then f p else p
  s.modThread fg lane fun t =>
    { t with pend := g t.pend, trap := { t.trap with record := t.trap.record.map fun r => { r with pend := g r.pend } } }
/-- The file-group number under which another die's ticket command waits at a network. -/
def dieFg : Nat := 2 ^ 40
/-- A ticket network is gone: TAKEs inside it or waiting at it complete with an error, a TKDRAIN.close that waits for it finds
no network (spec/10_sync.md R257, R258, R261). -/
def State.loseNet (s : State) (n : Net) (code : Nat) : State :=
  let mine (id : Nat) : Bool := ((n.tokens ++ n.waiters).any fun k => k.fg = dieFg && k.uid = id) || n.closers.any fun c => c.1 = dieFg && c.2.2 = id
  let s := { s with links := { s.links with dieReqs := s.links.dieReqs.map fun (r : DieReq) => if mine r.id then { r with code := code } else r } }
  let s := { s with sync := { s.sync with nets := s.sync.nets.filter fun m => !(m.dom = n.dom && m.home = n.home && m.word = n.word) } }
  let s := (n.tokens ++ n.waiters).foldl (fun (s : State) k =>
    s.modPend k.fg k.lane k.uid fun p => { p with err := some (code, BitVec.ofNat 64 k.ea), todo := .none }) s
  n.closers.foldl (fun (s : State) c => s.modPend c.1 c.2.1 c.2.2 fun p => { p with val := some [2] }) s

/-- Which authority a thread runs under (R87). -/
inductive Auth where
  | operator | owner | auditor
  deriving DecidableEq, Repr
def authOf (asid : Nat) : Auth := if asid = oprAsid then .operator else if asid = audAsid then .auditor else .owner

/-- A new identity. -/
def State.newUid (s : State) : Nat × State := (s.uid, { s with uid := s.uid + 1 })

/-! ### Counters (R116, R117) -/

/-- Adds `n` to every counter that counts event `ev` for the context; counters saturate (R116). -/
def State.countEv (s : State) (asid ev n : Nat) : State :=
  let cfgs := s.ctl.cntCfg
  { s with ctl := { s.ctl with
      cntVal := s.ctl.cntVal.mapIdx fun i v =>
        let c := (cfgs.getD i 0).toNat
        if bit c 31 && bits c 0 16 = ev && (bit c 30 || bits c 32 10 = asid) then Nat.min (v + n) (2 ^ 64 - 1) else v } }

/-- One retired instruction of a thread (R117); `inH` is TRAP_STATE.IN as it issued. -/
def State.retire (s : State) (fg : Nat) (inH : Bool) : State :=
  match s.blockOf fg with
  | some b => if b.run = 0 && b.asid < 1024 then s.countEv b.asid (if inH then 2 else 1) 1 else s
  | none => s
/-- One retired clause of a thread outside its handler (R116 event 3). -/
def State.retireClause (s : State) (fg : Nat) : State :=
  match s.blockOf fg with
  | some b => if b.run = 0 && b.asid < 1024 then s.countEv b.asid 3 1 else s
  | none => s

/-! ### Operator records and holds (R100, R101) -/

/-- The first number from `nextHold` that no held record bears; 0xFFFF is never given (R100). -/
def OprSys.pickHold (o : OprSys) : Nat :=
  let cand := (List.range (o.held.length + 1)).map fun k => (o.nextHold + k) % 65535
  (cand.find? fun h => !(o.held.any fun e => e.hold = h)).getD (o.nextHold % 65535)

/-- Writes an operator record into its die's own store; OPF_RECORD_WRITE moves it to the ring. A record that names no core
goes to C0's (R100). -/
def State.record (s : State) (r : OprRec) : State :=
  { s with opr := { s.opr with waiting := s.opr.waiting ++
      [{ r with time := s.ctl.devTime, die := if r.core = 0xFFFF then 0 else r.die }] } }

/-- CORE as a record gives it. -/
def recCore (core : Nat) : Nat := if core < 256 then core else 0xFFFF

/-- Holds something for the operator: joins the hold of the same code, context, clause and step, or makes a new one
with a record of its own (R100). Returns the HOLD number. -/
def State.holdFor (s : State) (core asid code : Nat) (pc : DWord) (page : Nat) (n sub lane : Nat)
    (f : Held → Held) : Nat × State :=
  match s.opr.held.find? fun h => h.tick = s.ticks && h.code = code && h.asid = asid && h.pc = pc with
  | some h =>
    (h.hold, { s with opr := { s.opr with
      held := s.opr.held.map fun e => if e.hold = h.hold then f e else e
      waiting := s.opr.waiting.map fun r => if r.hold = h.hold then { r with threads := r.threads + n } else r } })
  | none =>
    let k := s.opr.pickHold
    let h := f { hold := k, code := code, asid := asid, tick := s.ticks, pc := pc }
    let s := { s with opr := { s.opr with held := s.opr.held ++ [h], nextHold := (k + 1) % 65535 } }
    (k, s.record { die := dieOfCore core, code := code, asid := (if asid < 1024 then asid else 0xFFFF),
                   core := recCore core, hold := k, page := page, threads := n, sub := sub, lane := lane })

/-! ### The resource map (spec/01_machine.md R22 to R26; spec/20_health.md R415 to R417) -/

/-- STATE and DETAIL of unit entry `n`, 1 to 379. -/
def ResMap.unit (m : ResMap) (n : Nat) : Nat × Nat := m.units.getD (n - 1) (3, 0)
def ResMap.coreState (m : ResMap) (core : Nat) : Nat := (m.unit (1 + core)).1
/-- A core in the map (R24). -/
def ResMap.coreLive (m : ResMap) (core : Nat) : Bool := m.coreState core ≤ 1
/-- LIVE_CORES (R22). -/
def ResMap.liveCores (m : ResMap) : Nat := ((m.units.take 256).filter fun u => u.1 ≤ 1).length

/-- KIND of an entry by its index (R23). -/
def kindOf (n : Nat) : Nat :=
  if n = 0 then 0 else if n ≤ 256 then 1 else if n ≤ 320 then 2 else if n ≤ 328 then 3 else if n ≤ 360 then 4
  else if n ≤ 362 then 5 else if n ≤ 378 then 6 else if n = 379 then 7 else 0

/-- The 128 bits of entry `n` (R22, R23). -/
def ResMap.entry (m : ResMap) (n : Nat) : Nat :=
  if n = 0 then
    380 * 2 ^ 96 + m.fwLine % 256 * 2 ^ 88 + m.stepping % 256 * 2 ^ 80 + m.liveCores * 2 ^ 64 + m.version % 2 ^ 64
  else if n ≤ 379 then
    let u := m.unit n
    kindOf n * 2 ^ 124 + u.1 % 16 * 2 ^ 120 + u.2 % 2 ^ 32
  else 0

/-- The units with entry `n` changed. -/
def setUnit (us : List (Nat × Nat)) (n : Nat) (v : Nat × Nat) : List (Nat × Nat) := us.set (n - 1) v

/-- A slice that takes state 3 takes the four cores of its cluster slot with it, in the same version (R24): `old` as the units
were. -/
def closeUnits (old us : List (Nat × Nat)) : List (Nat × Nat) :=
  us.mapIdx fun i u =>
    let k := 256 + i / 4
    if i < 256 && (us.getD k (0, 0)).1 = 3 && (old.getD k (0, 0)).1 ≠ 3 && u.1 ≠ 3 then (3, u.2) else u

/-- Blocks resident on a core begin to stop: each thread stops at its next clause boundary (R62, R353, R416). -/
def State.stopBlocks (s : State) (which : Block → Bool) : State :=
  let bs := (s.blocks.filter fun b => which b && b.place = .resident).map (·.id)
  let gs := (s.fgs.filter fun g => bs.contains g.blk).map (·.id)
  { s with
    blocks := s.blocks.map fun b => if bs.contains b.id then { b with place := .stopping } else b
    threads := s.threads.map fun t => if gs.contains t.fg then { t with stopDue := true } else t }

/-- A new map with unit entries `us`: VERSION advances by one, once for the changes of one tick of the
device clock; each running context takes a milestone, and a grace period that runs restarts, while that of a context without a block
starts at once (spec/18_program_tickets.md R404; assumption log 72), the operator gets one 0xB001 record per resident context, and
the blocks of cores that left the map are stopped (R25, R26, R102, R416). A power mode written through PWR_MODE is such an advance and restarts a running grace period like any other: R26 item 3 says so of every advance, item 2 that
a mode change does not restart one (assumption log 105). -/
def State.newMap (s : State) (us : List (Nat × Nat)) : State :=
  let gone := (List.range 256).filter fun c => s.map.coreLive c && (us.getD c (0, 0)).1 ≥ 2
  let s :=
    if s.ctl.pubTime = some s.ctl.devTime then { s with map := { s.map with units := us } }
    else
      let v := s.map.version + 1
      let s := { s with
        map := { s.map with units := us, version := v }
        ctl := { s.ctl with pubTime := some s.ctl.devTime }
        health := { s.health with storedVersion := v }
        ctxs := s.ctxs.map fun (c : Ctx) =>
          if c.state = 1 then { c with
            milePending := true
            grace := if c.grace.isSome || !(s.blocks.any fun b => b.asid = c.asid && b.run = 0)
              then some (s.ctl.cycle + s.ctl.rmapGrace) else none }
          else c }
      (s.ctxs.filter fun c => c.state = 1).foldl
        (fun (s : State) (c : Ctx) => s.record { die := 0, code := 0xB001, asid := c.asid }) s
  if gone.isEmpty then s else s.stopBlocks fun b => gone.contains b.core
/-- Publishes a change of unit entries, when any entry changes (R25, R417). -/
def State.publish (s : State) (us : List (Nat × Nat)) : State :=
  let us := closeUnits s.map.units us
  if us = s.map.units then s else s.newMap us

/-- A lane of a SIMD unit fails: its spare is steered in, or the core leaves the map (R17, R416, R417). -/
def failLane (us : List (Nat × Nat)) (core unit lane : Nat) : List (Nat × Nat) :=
  let u := us.getD core (3, 0)
  if u.1 ≥ 2 || bits u.2 (6 * unit) 6 = lane then us
  else if bits u.2 (6 * unit) 6 = 63 then us.set core (1, setBits u.2 (6 * unit) 6 lane)
  else us.set core (3, u.2)

/-- The halvings of the suspicion scores whose tick of the device clock is over: in one tick every increase comes first (R415, R416). -/
def State.halve (s : State) : State :=
  let due := s.health.halfDue.filter fun d => d < s.ctl.devTime
  { s with
    ctl := { s.ctl with susp := s.ctl.susp.map fun v => v / 2 ^ due.length }
    health := { s.health with halfDue := s.health.halfDue.filter fun d => s.ctl.devTime ≤ d } }
/-- Suspicion scores rise, and cores at the threshold are quarantined, in the order of R416. Answers the state with
the scores and the flash records, and the unit entries to publish. -/
def State.suspect (s : State) (incs : List (Nat × Nat)) : State × List (Nat × Nat) :=
  let s := s.halve
  let susp := incs.foldl (fun l i => l.modify i.1 fun v => Nat.min (v + i.2) 65535) s.ctl.susp
  let q := (incs.map (·.1)).eraseDups.filter fun c => s.ctl.chkQthr ≤ susp.getD c 0 && s.map.coreLive c
  ({ s with
      ctl := { s.ctl with susp := susp }
      health := { s.health with quarantine := (s.health.quarantine ++ q).eraseDups } },
   q.foldl (fun us c => us.modify c fun u => (2, u.2)) s.map.units)

/-- What a vector shadow mismatch does beside its record: the score, the quarantine, the repeated lane (R415, R416). -/
def State.vectorMismatch (s : State) (core unit lane : Nat) : State :=
  -- the fault has struck
  let s := { s with health := { s.health with vecFaults := s.health.vecFaults.eraseP fun v => v.core = core && v.unit = unit && v.lane = lane } }
  if 256 ≤ core then s
  else
    let twice := s.health.shadowLog.any fun e =>
      e.1 = core && e.2.1 = unit && e.2.2.1 = lane && s.ctl.cycle ≤ e.2.2.2 + 2 ^ 32
    let r := s.suspect [(core, 1024)]
    let s := r.1
    let log := (s.health.shadowLog.filter fun e => s.ctl.cycle ≤ e.2.2.2 + 2 ^ 32) ++ [(core, unit, lane, s.ctl.cycle)]
    let s := { s with health := { s.health with shadowLog := log } }
    s.publish (if twice then failLane r.2 core unit lane else r.2)

/-- Codes that go to the operator (R95, R96). -/
def oprCode (code : Nat) : Bool :=
  [0x3010, 0x3011, 0x3020, 0x8005, 0xA001, 0xA002, 0xA003, 0xA004, 0xA005, 0xB002, 0xB003].contains code

/-! ### Taking a trap (R96, R97) -/

/-- FLT_RESUME from a clause address and an index (R93). -/
def resumeWord (pc : DWord) (idx : Nat) : DWord := BitVec.ofNat 64 (idx % 16 * 2 ^ 60 + pc.toNat % 2 ^ 57 / 4 * 4)

/-- What is saved of the thread: `mid` keeps temporaries and windows, a boundary does not (R85). -/
def Thread.saveRecord (t : Thread) (mid : Bool) : TrapRecord :=
  { pc := t.pc, idx := if mid then t.idx else 0, words := t.words
    t := if mid then t.t else List.replicate 8 0
    pend := if mid then t.pend else t.pend.map fun p => { p with left := 0 }
    sb := t.sb
    status := if mid then .pooled else match t.status with | .sleeping _ => .pooled | x => x
    inst := t.inst, npc := t.npc, due := t.due }

/-- Entry to a handler at `vec`: the trap registers, the record, a fresh clause with fresh temporaries (R97). -/
def Thread.enter (t : Thread) (vec : DWord) (code : Nat) (addr iaddr resume : DWord) (mid : Bool) : Thread :=
  { t with
    status := .pooled, pc := vec, idx := 0, after := .pooled, t := List.replicate 8 0, pend := [], opIn := []
    sb := List.replicate 8 0, inst := none, words := [], trapDue := none, due := []
    trap := { t.trap with
      code := BitVec.ofNat 16 code, addr := addr, iaddr := iaddr, resume := resume
      inH := true, crit := true, count := 0, record := some (t.saveRecord mid), entryResume := resume } }

/-- Blocks go with everything that is theirs: threads, engine work, claims, requests, arrivals. -/
def State.dropBlocks (s : State) (which : Block → Bool) : State :=
  let bs := (s.blocks.filter which).map (·.id)
  let gs := (s.fgs.filter fun g => bs.contains g.blk).map (·.id)
  let out (fg : Nat) : Bool := !gs.contains fg
  let stays (blk : Nat) : Bool := !bs.contains blk
  let js := (s.eng.jobs.filter fun j => !stays j.blk).map (·.id)
  { s with
    threads := s.threads.filter fun t => out t.fg
    paths := s.paths.filter fun p => out p.fg
    insts := s.insts.filter fun i => out i.fg
    fgs := s.fgs.filter fun g => out g.id
    blocks := s.blocks.filter fun b => stays b.id
    eng := { s.eng with
      slots := s.eng.slots.filter fun x => stays x.blk
      banks := s.eng.banks.filter fun x => stays x.blk
      jobs := s.eng.jobs.filter fun j => stays j.blk
      cmds := s.eng.cmds.filter fun c => stays c.blk
      claims := s.eng.claims.filter fun c => stays c.blk }
    sched := { s.sched with
      images := s.sched.images.filter fun i => stays i.1
      stops := s.sched.stops.map fun (x : StopCmd) => { x with blks := x.blks.filter stays, done := x.done.filter stays } }
    links := { s.links with
      cross := s.links.cross.map fun e => if out e.fg then e else { e with gone := true }
      out := s.links.out.filter fun q => match q.job with | some j => !js.contains j | none => out q.fg
      hostAtoms := s.links.hostAtoms.filter fun h => out h.fg || h.st = 2 || h.st = 3 }
    sync := { s.sync with
      reqs := s.sync.reqs.filter fun r => out r.fg
      arrivals := s.sync.arrivals.filter fun a => stays a.blk
      gather := s.sync.gather.filter fun g => out g.fg
      remote := s.sync.remote.filter fun r => out r.fg
      nets := s.sync.nets.map fun (n : Net) =>
        { n with tokens := n.tokens.filter (fun k => out k.fg), waiters := n.waiters.filter (fun k => out k.fg)
                 closers := n.closers.filter fun c => out c.1 } } }

/-! ### Nodes and clusters by number (spec/15_launch.md R331; spec/20_health.md R410) -/

def State.node? (s : State) (id : Nat) : Option Node := s.sched.pool.find? fun n => n.id = id
def State.setNode (s : State) (n : Node) : State :=
  { s with sched := { s.sched with pool := s.sched.pool.map fun m => if m.id = n.id then n else m } }
/-- A cluster of a node changes. -/
def State.modCluster (s : State) (node clu : Nat) (f : Node → Cluster → Cluster) : State :=
  { s with sched := { s.sched with pool := s.sched.pool.map fun (n : Node) =>
    if n.id = node then { n with clusters := n.clusters.map fun c => if c.num = clu then f n c else c } else n } }
/-- The cluster of a block. -/
def State.clusterOf (s : State) (b : Block) : Option Cluster := (s.node? b.node).bind fun n => n.clusters.find? fun c => c.num = b.clu

/-- Step 1 of R91: the threads, jobs and nodes of a context are discarded, and no node waits for one of those any more
(spec/15_launch.md R342; assumption log 129). -/
def State.discard (s : State) (asid : Nat) : State :=
  let s := s.dropBlocks fun b => b.asid = asid
  let gone := (s.sched.pool.filter fun n => n.asid = asid).map (·.id)
  let free (n : Node) : Node := { n with edges := n.edges.filter fun e => !gone.contains e.1 }
  { s with
    opr := { s.opr with held := s.opr.held.filter fun h => h.asid ≠ asid }
    sched := { s.sched with pool := (s.sched.pool.filter fun n => n.asid ≠ asid).map free } }

/-- A context's ticket networks and its reservations of cluster slots end when it enters state 5 (spec/10_sync.md R257;
spec/15_launch.md R360). A TAKE of another context at such a network finds none, with 0x4004 (R258). -/
def State.freeShared (s : State) (asid : Nat) : State :=
  let s := (s.sync.nets.filter fun n => n.asid = asid).foldl (fun (s : State) n => s.loseNet n 0x4004) s
  { s with sched := { s.sched with slots := s.sched.slots.map fun (e : SlotEntry) => if e.rsv = some asid then { e with rsv := none } else e } }
/-- A context enters state 5 with an ending code (R91). What remains of the ending is CONTEXT_END_DONE. -/
def State.endContext (s : State) (asid code detail : Nat) : State :=
  ((s.modCtx asid fun c =>
    { c with state := 5, endCode := code, endDetail := detail, milePending := false, grace := none }).discard asid).freeShared asid

/-- The boot ROM accepts a firmware image: it is signed under Jexxia's key or the buyer's, and its security version is high enough
(spec/20_health.md R424, R425). -/
def State.accepts (s : State) (img : List Byte) : Bool :=
  (Config.verifies Config.jexxiaKey img || (match s.health.buyerKey with | some k => Config.verifies k img | none => false))
    && s.health.secCounter ≤ Config.fwSec img
/-- The image of bank A is loaded: acceptance sets FW_LINE and raises the counter, and else the Novig recovery image runs
(spec/20_health.md R424, R426). -/
def State.loadBank (s : State) : State :=
  let img := s.health.bankA
  if s.accepts img then { s with
    map := { s.map with fwLine := Config.fwLine img % 256 }
    health := { s.health with secCounter := Config.fwSec img } }
  else { s with health := { s.health with novig := true } }
/-- A double fault in an operator thread restarts that die's control core: its threads are discarded, and its firmware is loaded anew
and checked, unless the recovery image runs (R96; spec/20_health.md R421, R424). -/
def State.restartCore (s : State) (die : Nat) : State :=
  let s := s.dropBlocks fun b => b.core = 256 + die
  let s := if s.health.novig then s else s.loadBank
  { s with health := { s.health with restarts := Nat.min 255 (s.health.restarts + 1) } }

/-- What belongs to the present re-run of a cluster alone is freed: its check buffer and the records it has sealed
(spec/20_health.md R412). -/
def State.endRun (s : State) (node clu : Nat) : State :=
  let s := s.modCluster node clu fun _ c => { c with divert := [], buf := [] }
  { s with ctxs := s.ctxs.map fun (c : Ctx) => { c with records := c.records.filter fun r => r.owner ≠ some (node, clu) } }
/-- An owner trap in a re-run ends that run, with a digest that matches no other (spec/20_health.md R412). -/
def State.killRun (s : State) (b : Block) : State :=
  let s := (s.dropBlocks fun c => c.node = b.node && c.clu = b.clu && c.run = b.run).endRun b.node b.clu
  s.modCluster b.node b.clu fun n c => { c with ended := n.pkt.cshape, bad := c.bad ++ [b.run] }

/-- An owner trap counts in the FAULTS of its thread's node (spec/15_launch.md R344). -/
def State.countFault (s : State) (node : Nat) : State :=
  { s with sched := { s.sched with pool := s.sched.pool.map fun (n : Node) =>
    if n.id = node then { n with faults := Nat.min (n.faults + 1) (2 ^ 32 - 1) } else n } }

/-- One owner or Exe trap (R96, R97, R99). `mid`: mid-clause at issue, else at a clause boundary. -/
def State.takeOwn (s : State) (t : Thread) (code : Nat) (addr iaddr : DWord) (mid : Bool) : State :=
  let asid := s.asidOf t.fg
  let resume := resumeWord t.pc (if mid then t.idx else 0)
  if asid = oprAsid then
    let die := dieOfCore (s.coreOf t.fg)
    let vec := s.ctl.oprVec.getD die 0
    if t.trap.inH || vec = 0 then s.restartCore die
    else s.setThread (t.enter vec code addr iaddr resume mid)
  else
    match s.ctx? asid, s.blockOf t.fg with
    | none, _ => s
    | _, none => s
    | some c, some b =>
      if b.run ≠ 0 then s.killRun b
      else if t.trap.inH then s.endContext asid 0xB020 code
      else if c.trapVec = 0 then
        if code = 0xB001 then s else s.endContext asid 0xB021 0
      else
        let s := (s.setThread (t.enter c.trapVec code addr iaddr resume mid)).countFault b.node
        if code = 0xB001 then s.countEv asid 7 1 else s

/-- An operator trap: the thread is held at its fault point and a record is written (R100). -/
def State.takeOpr (s : State) (t : Thread) (code : Nat) (page sub lane : Nat) : State :=
  let (h, s) := s.holdFor (s.coreOf t.fg) (s.asidOf t.fg) code t.pc page 1 sub lane
    fun e => { e with threads := e.threads ++ [(t.fg, t.lane)] }
  s.setThread { t with status := .oprHeld h }

/-- A trap of a thread, by its code's routing; a window thread keeps the code and nothing else happens (R87, R96). -/
def State.takeTrap (s : State) (t : Thread) (code : Nat) (addr iaddr : DWord) (mid : Bool) : State :=
  if t.win then s.setThread { t with winTrap := some (t.winTrap.getD code) }
  else if code = 0xA001 then
    let unit := addr.toNat / 64
    let lane := addr.toNat % 64
    let asid := s.asidOf t.fg
    let s := s.takeOpr t code 0 unit lane
    ((if asid < 1024 then s.countEv asid 10 1 else s).vectorMismatch (s.coreOf t.fg) unit lane)
  else if oprCode code then
    s.takeOpr t code (if code = 0x3010 || code = 0x3020 then addr.toNat / 65536 * 65536 else 0) 0xFF 0xFF
  else s.takeOwn t code addr iaddr mid

/-! ### Returning from a trap (R99, R106) -/

/-- What TRET does to a thread that is in its handler. -/
inductive TretOut where
  | ok (t : Thread)
  | trap (code : Nat)
  deriving DecidableEq, Repr

/-- Errors that were due at entry are due again. Pending results of the record come first in program order; the counters of the record and of what the handler
still has outstanding add up (R84, R97). The thread goes back at the boundary of TRET's clause. -/
def Thread.tret (t : Thread) : TretOut :=
  match t.trap.inH, t.trap.record with
  | true, some r =>
    let out := { t.trap with inH := false, crit := false, count := 0, record := none }
    let sb := List.zipWith (· + ·) r.sb t.sb
    let mine := t.pend.map fun p => { p with left := 0 }
    if t.trap.resume = t.trap.entryResume then
      .ok { t with trap := out, ret := some r, pend := r.pend ++ mine, sb := sb, due := r.due ++ t.due }
    else if (t.trap.resume >>> 60) ≠ 0 then .trap 0x4008
    else
      .ok { t with trap := out, npc := t.trap.resume &&& 0x01FFFFFFFFFFFFFC#64, after := .pooled,
                   pend := (r.pend.map fun p => { p with left := 0 }) ++ mine, sb := sb, due := r.due ++ t.due }
  | _, _ => .trap 0x4005

/-! ### Issue (R61, R68, R77, R83, R89) -/

/-- What an instruction does in one thread: a state, or a trap at issue that changes nothing; or it cannot issue yet, for operands of
peers at these lines have not come, or its store is kept back (R104). -/
inductive Res where
  | ok (s : State)
  | trap (code : Nat) (addr : DWord)
  | stall (lines : List (Nat × Nat))

/-- A rights row: operator, owner (R89). The auditor's part is only what its command window accepts. -/
structure Rights where
  opr : Bool
  own : Bool
  aud : Bool := false
  deriving DecidableEq, Repr
def rightsAll : Rights := { opr := true, own := true }
def rightsOwn : Rights := { opr := false, own := true }
def rightsOpr : Rights := { opr := true, own := false }
def Rights.ok (r : Rights) (a : Auth) : Bool :=
  match a with | .operator => r.opr | .owner => r.own | .auditor => r.aud

/-- A guard (R39, R68). -/
structure Guard where
  gn : BitVec 1 := 0#1
  gp : BitVec 3 := 7#3
  deriving DecidableEq, Repr
/-- Predicate `k` of a thread; p7 reads true (R38). -/
def Thread.pred (t : Thread) (k : Nat) : Bool := if k < 7 then t.p.getD k false else true
def Guard.on (g : Guard) (t : Thread) : Bool := t.pred g.gp.toNat != (g.gn = 1#1)

/-- The position passes in a thread: windows shrink, and a handler's instruction is counted (R83, R93). -/
def Thread.passed (t : Thread) : Thread :=
  { t with
    hIssue := t.trap.inH
    pend := t.pend.map fun p => { p with left := p.left - 1 }
    trap := if t.trap.inH then { t.trap with count := Nat.min 63 (t.trap.count + 1) } else t.trap }

/-- The address of the instruction that a path issues next, and its size in words. -/
def Path.iaddr (p : Path) : DWord :=
  match clauseInstr p.words p.idx with
  | some (_, k) => p.pc + BitVec.ofNat 64 (4 * k)
  | none => p.pc

/-- FLT_ADDR of a trap whose address the spec does not state: a free value (assumption log 43). -/
def State.noAddr (s : State) : DWord := BitVec.ofNat 64 (Config.freeValue s.ticks)

/-- A thread whose instruction cannot issue with its path's goes back to the pool before it. -/
def Thread.stalls (t : Thread) (p : Path) (now : Nat) : Thread :=
  { t with status := .pooled, words := p.words, inst := p.inst, pooledAt := now }
/-- One thread of an issue: rights, guard, then the instruction's own effect. The Bool says the thread stays in
its path. -/
def issueLane (r : Rights) (g : Guard) (p : Path) (f : State → Thread → Res) (acc : State × List Nat) (lane : Nat) :
    State × List Nat :=
  let (s, kept) := acc
  match s.thread? p.fg lane with
  | none => (s, kept)
  | some t0 =>
    let t0 := { t0 with pc := p.pc, idx := p.idx }
    let trap (code : Nat) (addr : DWord) : State × List Nat := (s.takeTrap t0 code addr p.iaddr true, kept)
    let t := t0.passed
    let inH := t0.trap.inH
    let done (s : State) : State × List Nat := (s.retire p.fg inH, kept ++ [lane])
    if !r.ok (authOf (s.asidOf p.fg)) then trap 0x4001 s.noAddr
    else if g.on t0 then
      match f (s.setThread t) t with
      | .ok s' => done s'
      | .trap code addr => trap code addr
      | .stall _ => (s.setThread (t0.stalls p s.ticks), kept)
    else done (s.setThread t)

/-- The clause boundary of a thread: the clause is counted, windows and temporaries end, the thread takes the state
that its last instruction left for it, and a TRAP of the clause is taken (R61, R78, R98, R99, R105). -/
def State.endThread (s : State) (fg lane : Nat) : State :=
  match s.thread? fg lane with
  | none => s
  | some t =>
    let s := if t.hIssue then s else s.retireClause fg
    let trap := if t.trap.count ≥ 50 then { t.trap with crit := false } else t.trap
    let t1 :=
      match t.ret with
      | some r =>
        { t with pc := r.pc, idx := r.idx, t := r.t, words := r.words, inst := r.inst, status := r.status, npc := r.npc,
                 ret := none, after := .pooled, pooledAt := s.ticks, trap := trap, opIn := [] }
      | none =>
        { t with pc := t.npc, idx := 0, words := [], inst := none, status := t.after, after := .pooled, opIn := [],
                 pooledAt := s.ticks, trapDue := none, pend := t.pend.map (fun p => { p with left := 0 }), trap := trap }
    match t.trapDue with
    | some d => (s.setThread t1).takeTrap t1 d.code d.addr d.iaddr false
    | none => s.setThread t1

/-- The threads of a path leave an instance of a rendezvous clause (R146). -/
def State.leaveInst (s : State) (i : Option Nat) (lanes : List Nat) : State :=
  match i with
  | none => s
  | some i =>
    let js := s.insts.map fun j =>
      if j.id = i then { j with lanes := j.lanes.filter fun l => !lanes.contains l } else j
    { s with insts := js.filter fun j => !j.lanes.isEmpty }

/-- A path whose clause has YIELD set gives up its lane group's issue slot at the boundary (R63). -/
def State.yieldSlot (s : State) (p : Path) : State :=
  if hYield (p.words.headD 0) then { s with yields := (p.fg, p.lg) :: s.yields } else s
/-- A path after an instruction: the next one, or the clause boundary of its threads (R61). -/
def State.advance (s : State) (p : Path) (kept : List Nat) : State :=
  if p.idx < hCount (p.words.headD 0) then
    if kept.isEmpty then s.dropPath p.id
    else s.setPath { p with idx := p.idx + 1, lanes := kept, waiting := false, started := true }
  else
    (((kept.foldl (fun s l => s.endThread p.fg l) s).leaveInst p.inst kept).dropPath p.id).yieldSlot p

/-- Issues an instruction per thread, in ascending virtual lane (R143). -/
def issueEach (s : State) (r : Rights) (g : Guard) (f : Path → State → Thread → Res) : State :=
  match s.paths with
  | [] => s
  | p :: _ =>
    let r1 := p.lanes.foldl (issueLane r g p (f p)) (s, [])
    r1.1.advance p r1.2

/-- What an instruction performed once per path answers. -/
inductive OnceRes where
  | ok (s : State)
  /-- Every guard-true thread takes the trap. -/
  | trap (code : Nat) (addr : DWord)

/-- Issues an instruction once for its path, when at least one thread's guard is true (R122, R156). `f` gets the
guard-true threads in virtual-lane order. -/
def issueOnce (s : State) (r : Rights) (g : Guard) (f : Path → State → List Thread → OnceRes) : State :=
  match s.paths with
  | [] => s
  | p :: _ =>
    let act := (p.lanes.filterMap fun l => s.thread? p.fg l).filter fun t => g.on t
    let trapAll (code : Nat) (addr : DWord) : State :=
      let r1 := p.lanes.foldl (issueLane r g p fun _ _ => .trap code addr) (s, [])
      r1.1.advance p r1.2
    let r0 := p.lanes.foldl (issueLane r g p fun s _ => .ok s) (s, [])
    if !r.ok (authOf (s.asidOf p.fg)) || act.isEmpty then r0.1.advance p r0.2
    else
      match f p r0.1 act with
      | .ok s1 => s1.advance p r0.2
      | .trap code addr => trapAll code addr

end Sys2Proof.Machine
end

