-- ==== Sys2Proof/Machine/Operands.lean ====
section
/-! DEFINITION. Operand forms: register codes, special sources, immediates, and the writes of results
(spec/03_encoding.md R66, R67, R70, R71; spec/05_integer.md R121; spec/15_launch.md R336). -/
namespace Sys2Proof.Machine

/-- %rank: the index of the valid entry whose PORT is the module's own, or 0x1FF (spec/17_links.md R383). -/
def State.rank (s : State) : Nat :=
  (s.links.ranks.findIdx? fun e => e.getLsbD 31 && (e.extractLsb' 0 9 = Config.ownPort)).getD 0x1FF

/-- %sgp: the stack group of a core (R15, R336); a control core's is that of its die's first stack. -/
def sgpOfCore (core : Nat) : Nat := if core < 256 then core / 32 else dieOfCore core * 2

/-- A special source, in a position of `n` registers (R67). No position of four can name %clk, whose code is no multiple of 4 (R68,
R177, R288, R318, R395); %clu in one reads zero-extended, as in a pair (assumption log 118). -/
def special (s : State) (g : FileGroup) (t : Thread) (code n : Nat) : Nat :=
  let blk := s.block? g.blk
  match code with
  | 249 => t.lane
  | 250 => g.num
  | 251 => match blk with | some b => b.num | none => 0
  | 252 => match blk with | some b => b.clu | none => 0
  | 253 => match blk with | some b => sgpOfCore b.core | none => 0
  | 254 => s.rank
  | 255 => if n = 2 then s.ctl.devTime % 2 ^ 64 else s.ctl.devTime % 2 ^ 32
  | _ => 0

/-- `n` registers of a list from position `k`, lowest first, as one number. -/
def regsNat (l : List Word) (k : Nat) : Nat → Nat
  | 0 => 0
  | n + 1 => (l.getD k 0).toNat + 2 ^ 32 * regsNat l (k + 1) n

/-- The value of a register field that names `n` registers, per thread or uniform (R66). -/
def readReg (s : State) (g : FileGroup) (t : Thread) (uni : Bool) (code n : Nat) : Nat :=
  if 248 ≤ code then special s g t code n
  else if uni then regsNat g.s code n
  else if code < 240 then regsNat t.v code n
  else regsNat t.t (code - 240) n

/-- `n` words of a number, lowest first. -/
def natWords (x : Nat) : Nat → List Word
  | 0 => []
  | n + 1 => BitVec.ofNat 32 x :: natWords (x / 2 ^ 32) n

/-- Words written into a list of registers from position `k`. -/
def putWords (l : List Word) (k : Nat) : List Word → List Word
  | [] => l
  | w :: ws => putWords (l.set k w) (k + 1) ws

/-- Words written to a thread's registers from a code on: vector registers or temporaries (R66). -/
def Thread.put (t : Thread) (code : Nat) (ws : List Word) : Thread :=
  if code < 240 then { t with v := putWords t.v code ws }
  else if code < 248 then { t with t := putWords t.t (code - 240) ws }
  else t

/-- Words written to a file group's uniform registers. -/
def FileGroup.put (g : FileGroup) (code : Nat) (ws : List Word) : FileGroup := { g with s := putWords g.s code ws }

/-- A predicate written; p7 discards (R124). -/
def Thread.setPred (t : Thread) (k : Nat) (b : Bool) : Thread := if k < 7 then { t with p := t.p.set k b } else t

/-- WriteD of R121: the words a result of an integer type is written as. -/
def writeD (x ty : Nat) : List Word :=
  if is64 ty then natWords (x % 2 ^ 64) 2
  else
    let w := tyWidth ty
    if tySigned ty then [BitVec.ofInt 32 (sext w x)] else [BitVec.ofNat 32 (x % 2 ^ w)]

/-- Val of R121: a pattern read as its type. -/
def valOf (x ty : Nat) : Int :=
  let w := tyWidth ty
  if tySigned ty then sext w x else ((x % 2 ^ w : Nat) : Int)

/-- Clamp of R121. -/
def clampTo (n : Int) (ty : Nat) : Int :=
  let w := tyWidth ty
  if tySigned ty then
    if n < -(2 ^ (w - 1) : Int) then -(2 ^ (w - 1) : Int)
    else if n > 2 ^ (w - 1) - 1 then 2 ^ (w - 1) - 1 else n
  else if n < 0 then 0 else if n > 2 ^ w - 1 then 2 ^ w - 1 else n

/-! ### Sources of format A (R70, R121, R122) -/

/-- The file group of a thread, or an empty one. -/
def State.fgOf (s : State) (t : Thread) : FileGroup :=
  (s.fg? t.fg).getD { id := t.fg, blk := 0, num := 0, unit := 0, n := 0, nregs := 0, m := [] }

/-- Src(A, ty): the w-bit pattern of the operand. -/
def srcA (s : State) (t : Thread) (f : FmtA) (ty : Nat) : Nat :=
  readReg s (s.fgOf t) t (f.u = 2#2) f.a.toNat (tyRegs ty) % 2 ^ tyWidth ty
def srcB (s : State) (t : Thread) (f : FmtA) (ty : Nat) : Nat :=
  (if f.ib = 1#1 then f.b.toNat
   else readReg s (s.fgOf t) t (f.u = 1#2 || f.u = 2#2) f.b.toNat (tyRegs ty)) % 2 ^ tyWidth ty
def srcC (s : State) (t : Thread) (f : FmtA) (ty : Nat) : Nat :=
  (if f.ic = 1#1 then f.c.toNat else readReg s (s.fgOf t) t (f.u = 2#2) f.c.toNat (tyRegs ty)) % 2 ^ tyWidth ty
/-- BFI reads its destination as the base (R136). -/
def srcD (s : State) (t : Thread) (f : FmtA) (ty : Nat) : Nat :=
  readReg s (s.fgOf t) t (f.u = 2#2) f.d.toNat (tyRegs ty) % 2 ^ tyWidth ty

/-! ### Sources of formats L, M and Z -/

def regL (s : State) (t : Thread) (code n : Nat) : Nat := readReg s (s.fgOf t) t false code n
def regU (s : State) (t : Thread) (uni : Bool) (code n : Nat) : Nat := readReg s (s.fgOf t) t uni code n

end Sys2Proof.Machine
namespace Sys2Proof
open Machine

/-- The type a format S instruction has, and its immediate (R71). -/
def FmtS.ty (f : FmtS) : Nat := if f.z = 1#1 then 6 else 2
def FmtS.imm (f : FmtS) : Nat := if f.z = 1#1 then f.i.toNat else wrap 32 (sext 6 f.i.toNat)

def FmtA.guard (f : FmtA) : Guard := { gn := f.gn, gp := f.gp }
def FmtL.guard (f : FmtL) : Guard := { gn := f.gn, gp := f.gp }
def FmtM.guard (f : FmtM) : Guard := { gn := f.gn, gp := f.gp }
def FmtB2.guard (f : FmtB2) : Guard := { gn := f.gn, gp := f.gp }
def FmtZ.guard (f : FmtZ) : Guard := { gn := f.gn, gp := f.gp }

end Sys2Proof
namespace Sys2Proof.Machine

/-! ### Long-latency results (R80, R83) -/

/-- The registers a destination of `n` registers names. -/
def dstRegs (code n : Nat) : List Nat := (List.range n).map fun k => code + k

/-- A long-latency instruction joins the thread's pending operations and counts on its scoreboard. -/
def Thread.pendAdd (t : Thread) (p : Pending) : Thread :=
  { t with pend := t.pend ++ [p], sb := t.sb.modify p.sb (· + 1) }

/-- Issues a long-latency instruction in a thread: answers the identity of what is pending, and the state. -/
def State.pendU (s : State) (t : Thread) (p : Pending) : Nat × State :=
  let (u, s) := s.newUid
  (u, s.setThread (t.pendAdd { p with uid := u }))
/-- The same, where its identity is not needed. -/
def State.pendL (s : State) (t : Thread) (p : Pending) : State := (s.pendU t p).2

/-- The pending operation of an instruction of format L or M, with `dst` its destination registers. -/
def fmtLPend (f : FmtL) (p : Path) (n : Nat) : Pending :=
  { uid := 0, sb := f.sb.toNat, left := f.la.toNat, iaddr := p.iaddr, dst := dstRegs f.d.toNat n, req := p.id }
def fmtMPend (f : FmtM) (p : Path) (n : Nat) : Pending :=
  { uid := 0, sb := f.sb.toNat, left := f.la.toNat, iaddr := p.iaddr, dst := dstRegs f.d.toNat n, req := p.id }

/-- The sleep of NWAIT ends with a result (spec/15_launch.md R358). -/
def Thread.wakeNwait (t : Thread) (dst result now : Nat) : Thread :=
  { t.put dst [BitVec.ofNat 32 result] with status := .pooled, pooledAt := now }
/-- A boundary event ends a sleep and takes a thread out of its unstarted path; a hold or a wait is kept (spec/06_control.md
R140, R145, R154; spec/10_sync.md R268; spec/15_launch.md R358). -/
def Thread.atRest (t : Thread) (now : Nat) : Thread :=
  match t.status with
  | .issuing => { t with status := .pooled }
  | .sleeping _ => { t with status := .pooled, pooledAt := now }
  | .nwait _ _ d => t.wakeNwait d 3 now
  | _ => t

/-- SIDE = 0 of the node of a file group (spec/15_launch.md R337). -/
def State.sideless (s : State) (fg : Nat) : Bool := match s.blockOf fg with | some b => !b.side | none => false

end Sys2Proof.Machine
end

