-- ==== Sys2Proof/Machine/Integer.lean ====
section
/-! DEFINITION. Integer, address and predicate instructions (spec/05_integer.md).

The results are functions on patterns; a meaning reads its operands, applies one and writes by WriteD. -/
namespace Sys2Proof.Machine

/-! ### Results on patterns (R128, R129, R131 to R139); `x` and `y` are below 2^w -/

def rAdd (ty x y : Nat) : Nat := (x + y) % 2 ^ tyWidth ty
def rSub (ty x y : Nat) : Nat := (x + 2 ^ tyWidth ty - y) % 2 ^ tyWidth ty
def rSadd (ty x y : Nat) : Nat := wrap (tyWidth ty) (clampTo (valOf x ty + valOf y ty) ty)
def rSsub (ty x y : Nat) : Nat := wrap (tyWidth ty) (clampTo (valOf x ty - valOf y ty) ty)
def rMul (ty x y : Nat) : Nat := x * y % 2 ^ tyWidth ty
/-- The high w bits of the exact product, rounded toward −∞ (R128). -/
def rMulh (ty x y : Nat) : Nat := wrap (tyWidth ty) (valOf x ty * valOf y ty / 2 ^ tyWidth ty)
def rMin (ty x y : Nat) : Nat := if valOf x ty ≤ valOf y ty then x else y
def rMax (ty x y : Nat) : Nat := if valOf x ty ≤ valOf y ty then y else x
def rAnd (_ty x y : Nat) : Nat := x &&& y
def rOr (_ty x y : Nat) : Nat := x ||| y
def rXor (_ty x y : Nat) : Nat := x ^^^ y
def rNot (ty x : Nat) : Nat := 2 ^ tyWidth ty - 1 - x
def rAndn (ty x y : Nat) : Nat := x &&& rNot ty y
def rShl (ty x n : Nat) : Nat := if tyWidth ty ≤ n then 0 else x * 2 ^ n % 2 ^ tyWidth ty
def rShr (ty x n : Nat) : Nat := if tyWidth ty ≤ n then 0 else x / 2 ^ n
/-- Fills from bit w − 1 for unsigned types too (R128). -/
def rSar (ty x n : Nat) : Nat := wrap (tyWidth ty) (sext (tyWidth ty) x / 2 ^ Nat.min n (tyWidth ty - 1))
def rRol (ty x n : Nat) : Nat :=
  let w := tyWidth ty
  let k := n % w
  (x * 2 ^ k + x / 2 ^ (w - k)) % 2 ^ w
def rAbs (ty x : Nat) : Nat := wrap (tyWidth ty) (valOf x ty).natAbs
def rNeg (ty x : Nat) : Nat := wrap (tyWidth ty) (-(valOf x ty))
/-- The `w` bits of `x` reversed. -/
def revBits : (w : Nat) → Nat → Nat
  | 0, _ => 0
  | w + 1, x => b2n (bit x 0) * 2 ^ w + revBits w (x / 2)
def rBrev (ty x : Nat) : Nat := revBits (tyWidth ty) x
/-- The number of set bits among the low `w`. -/
def popc : (w : Nat) → Nat → Nat
  | 0, _ => 0
  | w + 1, x => b2n (bit x 0) + popc w (x / 2)
/-- The index of the lowest set bit below `w`, or `w`. -/
def ctz : (w : Nat) → Nat → Nat
  | 0, _ => 0
  | w + 1, x => if bit x 0 then 0 else 1 + ctz w (x / 2)
/-- Leading zeros of the low `w` bits. -/
def clz : (w : Nat) → Nat → Nat
  | 0, _ => 0
  | w + 1, x => if bit x w then 0 else 1 + clz w x
def rMad (ty x y z : Nat) : Nat := wrap (tyWidth ty) (valOf x ty * valOf y ty + valOf z ty)
/-- Four byte products added to c (R131). -/
def rDot4 (ty a b c : Nat) : Nat :=
  let e (x i : Nat) : Int := valOf (bits x (8 * i) 8) ty
  wrap 32 (sext 32 c + e a 0 * e b 0 + e a 1 * e b 1 + e a 2 * e b 2 + e a 3 * e b 3)
/-- Carry out and sum (R132). -/
def rAddc (ty x y cin : Nat) : Nat × Bool := ((x + y + cin) % 2 ^ tyWidth ty, 2 ^ tyWidth ty ≤ x + y + cin)
def rSubb (ty x y cin : Nat) : Nat × Bool := ((x + 2 ^ tyWidth ty * 2 - y - cin) % 2 ^ tyWidth ty, x < y + cin)
/-- The field of BFX (R136). -/
def rBfx (ty x pos len : Nat) : Nat :=
  let w := tyWidth ty
  let l := Nat.min len w
  if l = 0 then 0
  else
    let v : Int := if tySigned ty then sext w x else (x : Int)
    let f := wrap l (v / 2 ^ Nat.min pos (w + 1))
    if tySigned ty then wrap w (sext l f) else f
/-- The insertion of BFI (R136). -/
def rBfi (ty base x pos len : Nat) : Nat :=
  let w := tyWidth ty
  if w ≤ pos then base
  else
    let l := Nat.min (Nat.min len w) (w - pos)
    setBits base pos l x
/-- One byte of PRMT (R137). -/
def prmtByte (e8 n : Nat) : Nat :=
  let e := bits e8 (8 * (n % 8)) 8
  if 8 ≤ n then (if bit e 7 then 255 else 0) else e
def rPrmt (a b c : Nat) : Nat :=
  let e8 := a + 2 ^ 32 * b
  let g (i : Nat) : Nat := prmtByte e8 (bits c (4 * i) 4) * 2 ^ (8 * i)
  g 0 + g 1 + g 2 + g 3
/-- The address of LEA (R138). -/
def rLea (ty a b sh c : Nat) : Nat :=
  let ext (x : Nat) : Int := valOf (x % 2 ^ 32) ty
  wrap 64 ((a : Int) + ext b * 2 ^ sh + ext c)
/-- CVTI (R139). -/
def rCvti (dty sty x : Nat) (sat : Bool) : Nat :=
  let n := valOf x sty
  wrap (tyWidth dty) (if sat then clampTo n dty else n)
/-- Quotient and remainder, or none for a zero divisor (R133). -/
def rDivRem (ty x y : Nat) : Option (Nat × Nat) :=
  let w := tyWidth ty
  let a := valOf x ty
  let b := valOf y ty
  if b = 0 then none else some (wrap w (a.tdiv b), wrap w (a.tmod b))
/-- The comparisons of SETP (R134). -/
def compareI (cmp : Nat) (a b : Int) : Bool :=
  match cmp with
  | 0 => a = b
  | 1 => a ≠ b
  | 2 => a < b
  | 3 => a ≤ b
  | 4 => b < a
  | _ => b ≤ a
/-- The combine of SETP and FCMP (R134, R181). -/
def combine (k : Nat) (r q : Bool) : Bool := match k with | 1 => r && q | 2 => r || q | _ => r

/-! ### Reading and writing -/

/-- A format A result: once on the uniform path under U = 2, else per thread (R122). -/
def intA (s : State) (f : FmtA) (res : State → Thread → List Word) : State :=
  if f.u = 2#2 then
    issueOnce s rightsAll {} fun _ s act =>
      match act with
      | [] => .ok s
      | t :: _ => .ok (s.setFg ((s.fgOf t).put f.d.toNat (res s t)))
  else issueEach s rightsAll f.guard fun _ s t => .ok (s.setThread (t.put f.d.toNat (res s t)))

/-- A two-source instruction of format A. -/
def intA2 (s : State) (f : FmtA) (op : Nat → Nat → Nat → Nat) : State :=
  let ty := f.ty.toNat
  intA s f fun s t => writeD (op ty (srcA s t f ty) (srcB s t f ty)) ty
/-- A shift: the count is one 32-bit register or an immediate (R128). -/
def intASh (s : State) (f : FmtA) (op : Nat → Nat → Nat → Nat) : State :=
  let ty := f.ty.toNat
  intA s f fun s t => writeD (op ty (srcA s t f ty) (srcB s t f 6)) ty
/-- A one-source instruction of format A. -/
def intA1 (s : State) (f : FmtA) (op : Nat → Nat → Nat) : State :=
  let ty := f.ty.toNat
  intA s f fun s t => writeD (op ty (srcA s t f ty)) ty
/-- POPC, CLZ, CTZ: a 32-bit count for every type (R129). -/
def intCnt (s : State) (f : FmtA) (op : Nat → Nat → Nat) : State :=
  let ty := f.ty.toNat
  intA s f fun s t => [BitVec.ofNat 32 (op (tyWidth ty) (srcA s t f ty))]
/-- A two-source instruction of format S (R71). -/
def intS2 (s : State) (f : FmtS) (op : Nat → Nat → Nat → Nat) : State :=
  issueEach s rightsAll {} fun _ s t =>
    .ok (s.setThread (t.put f.d.toNat (writeD (op f.ty (regL s t f.a.toNat 1) f.imm) f.ty)))
/-- ADDC and SUBB: sum and carry (R132). -/
def intCarry (s : State) (f : FmtA) (op : Nat → Nat → Nat → Nat → Nat × Bool) : State :=
  let ty := f.ty.toNat
  issueEach s rightsAll f.guard fun _ s t =>
    let cin := if f.fn = 1#5 then 0 else b2n (t.pred f.c.toNat)
    let r := op ty (srcA s t f ty) (srcB s t f ty) cin
    .ok (s.setThread ((t.put f.d.toNat (writeD r.1 ty)).setPred f.c.toNat r.2))
/-- DIV and REM: a long-latency result, or error 0x2001 (R133). -/
def intDiv (s : State) (f : FmtL) (pick : Nat × Nat → Nat) : State :=
  let ty := FmtL.ty f
  let n := tyRegs ty
  issueEach s rightsAll f.guard fun p s t =>
    let x := regL s t f.a.toNat n % 2 ^ tyWidth ty
    let y := regU s t (FmtL.u f = 1) f.b.toNat n % 2 ^ tyWidth ty
    let base : Pending := { uid := 0, sb := f.sb.toNat, left := f.la.toNat, iaddr := p.iaddr, dst := dstRegs f.d.toNat n }
    .ok (s.pendL t (match rDivRem ty x y with
      | none => { base with err := some (0x2001, 0) }
      | some r => { base with val := some (writeD (pick r) ty) }))
/-- A predicate instruction (R135). -/
def intPred (s : State) (f : FmtA) (op : Bool → Bool → Bool) : State :=
  issueEach s rightsAll f.guard fun _ s t =>
    .ok (s.setThread (t.setPred f.d.toNat (op (t.pred f.a.toNat) (t.pred f.b.toNat))))

/-! ### The meanings -/

def execAddS (f : FmtS) (s : State) : Out := .next (intS2 s f rAdd)
def execAdd (f : FmtA) (s : State) : Out := .next (intA2 s f rAdd)
def execSubS (f : FmtS) (s : State) : Out := .next (intS2 s f rSub)
def execSub (f : FmtA) (s : State) : Out := .next (intA2 s f rSub)
def execMulS (f : FmtS) (s : State) : Out := .next (intS2 s f rMul)
def execMul (f : FmtA) (s : State) : Out := .next (intA2 s f rMul)
def execMinS (f : FmtS) (s : State) : Out := .next (intS2 s f rMin)
def execMin (f : FmtA) (s : State) : Out := .next (intA2 s f rMin)
def execMaxS (f : FmtS) (s : State) : Out := .next (intS2 s f rMax)
def execMax (f : FmtA) (s : State) : Out := .next (intA2 s f rMax)
def execAndS (f : FmtS) (s : State) : Out := .next (intS2 s f rAnd)
def execAnd (f : FmtA) (s : State) : Out := .next (intA2 s f rAnd)
def execOrS (f : FmtS) (s : State) : Out := .next (intS2 s f rOr)
def execOr (f : FmtA) (s : State) : Out := .next (intA2 s f rOr)
def execXorS (f : FmtS) (s : State) : Out := .next (intS2 s f rXor)
def execXor (f : FmtA) (s : State) : Out := .next (intA2 s f rXor)
def execAndnS (f : FmtS) (s : State) : Out := .next (intS2 s f rAndn)
def execAndn (f : FmtA) (s : State) : Out := .next (intA2 s f rAndn)
def execSadd (f : FmtA) (s : State) : Out := .next (intA2 s f rSadd)
def execSsub (f : FmtA) (s : State) : Out := .next (intA2 s f rSsub)
def execMulh (f : FmtA) (s : State) : Out := .next (intA2 s f rMulh)
def execShlS (f : FmtS) (s : State) : Out := .next (intS2 s f rShl)
def execShl (f : FmtA) (s : State) : Out := .next (intASh s f rShl)
def execShrS (f : FmtS) (s : State) : Out := .next (intS2 s f rShr)
def execShr (f : FmtA) (s : State) : Out := .next (intASh s f rShr)
def execSarS (f : FmtS) (s : State) : Out := .next (intS2 s f rSar)
def execSar (f : FmtA) (s : State) : Out := .next (intASh s f rSar)
def execRolS (f : FmtS) (s : State) : Out := .next (intS2 s f rRol)
def execRol (f : FmtA) (s : State) : Out := .next (intASh s f rRol)
def execAbs (f : FmtA) (s : State) : Out := .next (intA1 s f rAbs)
def execNeg (f : FmtA) (s : State) : Out := .next (intA1 s f rNeg)
def execNot (f : FmtA) (s : State) : Out := .next (intA1 s f rNot)
def execBrev (f : FmtA) (s : State) : Out := .next (intA1 s f rBrev)
def execPopc (f : FmtA) (s : State) : Out := .next (intCnt s f popc)
def execClz (f : FmtA) (s : State) : Out := .next (intCnt s f clz)
def execCtz (f : FmtA) (s : State) : Out := .next (intCnt s f ctz)
def execAddc (f : FmtA) (s : State) : Out := .next (intCarry s f rAddc)
def execSubb (f : FmtA) (s : State) : Out := .next (intCarry s f rSubb)
def execDiv (f : FmtL) (s : State) : Out := .next (intDiv s f (·.1))
def execRem (f : FmtL) (s : State) : Out := .next (intDiv s f (·.2))
def execMad (f : FmtA) (s : State) : Out :=
  let ty := f.ty.toNat
  .next (intA s f fun s t => writeD (rMad ty (srcA s t f ty) (srcB s t f ty) (srcC s t f ty)) ty)
def execDot4 (f : FmtA) (s : State) : Out :=
  .next (intA s f fun s t => [BitVec.ofNat 32 (rDot4 f.ty.toNat (srcA s t f 6) (srcB s t f 6) (srcC s t f 6))])
def execBfx (f : FmtA) (s : State) : Out :=
  let ty := f.ty.toNat
  .next (intA s f fun s t => writeD (rBfx ty (srcA s t f ty) (srcB s t f 6) (srcC s t f 6)) ty)
def execBfi (f : FmtA) (s : State) : Out :=
  let ty := f.ty.toNat
  .next (intA s f fun s t => writeD (rBfi ty (srcD s t f ty) (srcA s t f ty) (srcB s t f 6) (srcC s t f 6)) ty)
def execPrmt (f : FmtA) (s : State) : Out :=
  .next (intA s f fun s t => [BitVec.ofNat 32 (rPrmt (srcA s t f 6) (srcB s t f 6) (srcC s t f 6))])
def execSel (f : FmtA) (s : State) : Out :=
  let ty := f.ty.toNat
  .next (intA s f fun s t => writeD (if t.pred f.c.toNat then srcA s t f ty else srcB s t f ty) ty)
def execSetp (f : FmtA) (s : State) : Out :=
  let ty := f.ty.toNat
  .next (issueEach s rightsAll f.guard fun _ s t =>
    let r := compareI (bits f.fn.toNat 0 3) (valOf (srcA s t f ty) ty) (valOf (srcB s t f ty) ty)
    .ok (s.setThread (t.setPred f.d.toNat (combine (bits f.fn.toNat 3 2) r (t.pred f.c.toNat)))))
def execPand (f : FmtA) (s : State) : Out := .next (intPred s f fun a b => a && b)
def execPor (f : FmtA) (s : State) : Out := .next (intPred s f fun a b => a || b)
def execPxor (f : FmtA) (s : State) : Out := .next (intPred s f fun a b => a != b)
def execPnot (f : FmtA) (s : State) : Out := .next (intPred s f fun a _ => !a)
def execMovS (f : FmtS) (s : State) : Out :=
  .next (issueEach s rightsAll {} fun _ s t => .ok (s.setThread (t.put f.d.toNat (writeD f.imm f.ty))))
def execMov (f : FmtA) (s : State) : Out :=
  let ty := f.ty.toNat
  .next (intA s f fun s t => writeD (srcB s t f ty) ty)
/-- IMM as MOVI places it: sign-extended for .s64, zero-extended for .z64 (R130). -/
def moviVal (f : FmtI) : Nat := if f.ty.toNat = 3 then wrap 64 (sext 32 f.imm.toNat) else f.imm.toNat
def execMovi (f : FmtI) (s : State) : Out :=
  let ws := writeD (moviVal f) f.ty.toNat
  .next (if f.u = 1#1 then
      issueOnce s rightsAll {} fun _ s act =>
        match act with
        | [] => .ok s
        | t :: _ => .ok (s.setFg ((s.fgOf t).put f.d.toNat ws))
    else issueEach s rightsAll {} fun _ s t => .ok (s.setThread (t.put f.d.toNat ws)))
def execLea (f : FmtA) (s : State) : Out :=
  .next (intA s f fun s t =>
    natWords (rLea f.ty.toNat (srcA s t f 7) (srcB s t f 6) (bits f.fn.toNat 0 3) (srcC s t f 6)) 2)
def execCvti (f : FmtA) (s : State) : Out :=
  let sty := bits f.fn.toNat 0 3
  .next (intA s f fun s t => writeD (rCvti f.ty.toNat sty (srcA s t f sty) (f.st = 1#2)) f.ty.toNat)

end Sys2Proof.Machine
end

