-- ==== Sys2Proof/Machine/Flags.lean ====
section
/-! DEFINITION. The flag register fl (spec/07_float.md R173, R174). -/
namespace Sys2Proof.Machine

def flNV : Nat := 16
def flDZ : Nat := 8
def flOF : Nat := 4
def flUF : Nat := 2
def flNX : Nat := 1

/-- ORs raised flags into fl; bits [31:5] are reserved and keep (R173). -/
def Thread.raise (t : Thread) (fl : Nat) : Thread := { t with fl := t.fl ||| BitVec.ofNat 32 (fl % 32) }
/-- fl[4:0]. -/
def Thread.flags (t : Thread) : Nat := t.fl.toNat % 32
/-- fl AND NOT the low five bits of a mask (R188). -/
def Thread.clearFlags (t : Thread) (m : Nat) : Thread := { t with fl := t.fl &&& ~~~(BitVec.ofNat 32 (m % 32)) }
/-- fl as VOTE reads it: true when a bit is set (R159, R173). R173 names BRC beside VOTE; R152 gives BRC no code for fl
(assumption log 120). -/
def Thread.flAny (t : Thread) : Bool := t.flags ≠ 0

end Sys2Proof.Machine
end

