-- ==== Sys2Proof/Machine/Num.lean ====
section
/-! DEFINITION. Number formats, exact values, Round and Fit (spec/07_float.md R163 to R172). -/
namespace Sys2Proof.Machine

/-- A value: a NaN, an infinity, a zero with its sign, or m × 2^e exactly, m not 0. -/
inductive FV where
  | nan
  | inf (neg : Bool)
  | zero (neg : Bool)
  | fin (m : Int) (e : Int)
  deriving DecidableEq, Repr

/-- An exact integer times a power of two. -/
def FV.ofDyadic (m e : Int) (zeroNeg : Bool := false) : FV := if m = 0 then .zero zeroNeg else .fin m e

/-- A format (R163, R165). -/
structure Fmt where
  p    : Nat
  bias : Int
  /-- Exponent field width. -/
  w    : Nat
  signed : Bool := true
  narrow : Bool := false
  hasInf : Bool := true
  deriving DecidableEq, Repr

/-- The format of a TY code of R68: 8 .f32, 9 .f16, 10 .bf16, 0x24 to 0x3F narrow. -/
def fmtOf (ty : Nat) : Fmt :=
  match ty with
  | 8 => { p := 24, bias := 127, w := 8 }
  | 9 => { p := 11, bias := 15, w := 5 }
  | 10 => { p := 8, bias := 127, w := 8 }
  | _ =>
    let P := bits ty 2 3
    let sg := !bit ty 1
    let w := if sg then 8 - P else 9 - P
    { p := P, bias := if sg then 2 ^ (w - 1) else 2 ^ (w - 1) - 1, w := w, signed := sg, narrow := true
      hasInf := !bit ty 0 }

def Fmt.emin (F : Fmt) : Int := 1 - F.bias
/-- Bits of the format. -/
def Fmt.size (F : Fmt) : Nat := if F.narrow then 8 else 1 + F.w + (F.p - 1)
/-- Canonical NaN, or the narrow NaN (R163, R165). -/
def Fmt.nan (F : Fmt) : Nat :=
  if F.narrow then (if F.signed then 0x80 else 0xFF)
  else (2 ^ F.w - 1) * 2 ^ (F.p - 1) + 2 ^ (F.p - 2)
def Fmt.signBit (F : Fmt) : Nat := 2 ^ (F.size - 1)
/-- The code of an infinity. -/
def Fmt.infCode (F : Fmt) (neg : Bool) : Nat :=
  if F.narrow then (if F.signed then (if neg then 0xFF else 0x7F) else 0xFE)
  else (2 ^ F.w - 1) * 2 ^ (F.p - 1) + (if neg then F.signBit else 0)
/-- The code of the largest finite magnitude. -/
def Fmt.maxCode (F : Fmt) (neg : Bool) : Nat :=
  if F.narrow then
    if F.signed then (if F.hasInf then 0x7E else 0x7F) + (if neg then 0x80 else 0)
    else if F.hasInf then 0xFD else 0xFE
  else (2 ^ F.w - 1) * 2 ^ (F.p - 1) - 1 + (if neg then F.signBit else 0)

/-- The value of a code that is not special, by its fields (R163, R166). -/
def Fmt.ordinary (F : Fmt) (c : Nat) : FV :=
  let neg := F.signed && bit c (F.size - 1)
  let e : Int := (bits c (F.p - 1) F.w : Nat)
  let f : Int := (bits c 0 (F.p - 1) : Nat)
  let sg (m : Int) : Int := if neg then -m else m
  if F.narrow && !F.signed && F.p = 1 then .fin 1 (e - F.bias)
  else if e = 0 then FV.ofDyadic (sg f) (F.emin - (F.p - 1)) neg
  else .fin (sg (f + 2 ^ (F.p - 1))) (e - F.bias - (F.p - 1))

/-- The value of a code, and whether it is a signalling NaN (R164, R165). -/
def Fmt.value (F : Fmt) (c : Nat) : FV × Bool :=
  let c := c % 2 ^ F.size
  if F.narrow then
    if F.signed then
      if c = 0x80 then (.nan, false)
      else if F.hasInf && c = 0x7F then (.inf false, false)
      else if F.hasInf && c = 0xFF then (.inf true, false)
      else (F.ordinary c, false)
    else if c = 0xFF then (.nan, false)
    else if F.hasInf && c = 0xFE then (.inf false, false)
    else (F.ordinary c, false)
  else if bits c (F.p - 1) F.w = 2 ^ F.w - 1 then
    if bits c 0 (F.p - 1) = 0 then (.inf (bit c (F.size - 1)), false)
    else (.nan, !bit c (F.p - 2))
  else (F.ordinary c, false)

/-- floor(log₂ |m|) for m not 0. -/
def ilog2 (m : Int) : Nat := Nat.log2 m.natAbs

/-- n × 2^−k rounded to an integer: .rn 0 to nearest, ties to even; .rz 1; .rp 2 up; .rm 3 down (R170). The Bool
says that the rounding was inexact. -/
def roundShift (n : Int) (k : Nat) (rm : Nat) : Int × Bool :=
  let k := Nat.min k (ilog2 n + 3)
  let q := n / 2 ^ k
  let r := n % 2 ^ k
  if r = 0 then (q, false)
  else
    let up : Bool :=
      match rm with
      | 0 => 2 * r > 2 ^ k || (2 * r = 2 ^ k && q % 2 = 1)
      | 1 => n < 0
      | 2 => true
      | _ => false
    (if up then q + 1 else q, true)

/-- Round of R170 on m × 2^e, m not 0: the integer k and the exponent u of the result k × 2^u, and inexactness. -/
def roundTo (F : Fmt) (rm : Nat) (m e : Int) : Int × Int × Bool :=
  let E : Int := (ilog2 m : Int) + e
  let u := max E F.emin - F.p + 1
  if u ≤ e then (m * 2 ^ (e - u).toNat, u, false)
  else
    let r := roundShift m (u - e).toNat rm
    (r.1, u, r.2)

/-- The magnitude bits of k × 2^u, with k at most 2^p in size and u at least emin − p + 1; `none` when it
exceeds the largest finite value. -/
def Fmt.pack (F : Fmt) (k : Nat) (u : Int) : Option Nat :=
  let k2 := if k = 2 ^ F.p then k / 2 else k
  let u2 := if k = 2 ^ F.p then u + 1 else u
  let mag : Int :=
    if k2 < 2 ^ (F.p - 1) then (k2 : Int)
    else (u2 + F.p - 1 + F.bias) * 2 ^ (F.p - 1) + ((k2 : Int) - 2 ^ (F.p - 1))
  if mag > (F.maxCode false : Int) then none else some mag.toNat

/-- zero(F, s) and its flags (R171). -/
def Fmt.zero (F : Fmt) (neg : Bool) : Nat × Nat :=
  if F.narrow then (0, if !F.signed && F.p = 1 then flUF + flNX else 0)
  else (if neg then F.signBit else 0, 0)

/-- Fit of R171: the code and the flags raised. `st` is 0 none, 1 .sat, 2 .ovf. -/
def fit (F : Fmt) (rm st : Nat) (x : FV) : Nat × Nat :=
  match x with
  | .nan => (F.nan, 0)
  | .inf neg =>
    if !F.signed && neg then (F.nan, flNV)
    else if st = 1 then (F.maxCode neg, 0)
    else if F.hasInf then (F.infCode neg, 0)
    else (F.nan, flNV)
  | .zero neg => F.zero neg
  | .fin m e =>
    let neg := m < 0
    if !F.signed && neg then (F.nan, flNV)
    else
      let r := roundTo F rm m e
      let k := r.1
      let tiny := (ilog2 m : Int) + e < F.emin
      let fl := if r.2.2 then flNX + (if tiny then flUF else 0) else 0
      if k = 0 then
        let z := F.zero neg
        (z.1, fl ||| z.2)
      else
        match F.pack k.natAbs r.2.1 with
        | some c =>
          (if F.narrow then (if neg then c + 0x80 else c) else (if neg then c + F.signBit else c), fl)
        | none =>
          let fl := fl ||| flOF ||| flNX
          if st = 1 || rm = 1 || (rm = 3 && !neg) || (rm = 2 && neg) then (F.maxCode neg, fl)
          else if F.hasInf then (F.infCode neg, fl)
          else (F.nan, fl)

/-! ### Arithmetic on values (R172): a value and the flags it raises -/

def FV.isNan : FV → Bool | .nan => true | _ => false
def FV.neg : FV → FV
  | .nan => .nan | .inf n => .inf (!n) | .zero n => .zero (!n) | .fin m e => .fin (-m) e
/-- The sign of a value that is no NaN. -/
def FV.sign : FV → Bool
  | .nan => false | .inf n => n | .zero n => n | .fin m _ => m < 0

/-- The exact sum of m × 2^e and n × 2^f. -/
def dyAdd (m e n f : Int) : Int × Int :=
  if e ≤ f then (m + n * 2 ^ (f - e).toNat, e) else (m * 2 ^ (e - f).toNat + n, f)

def fvAdd (rm : Nat) (x y : FV) : FV × Nat :=
  match x, y with
  | .nan, _ => (.nan, 0)
  | _, .nan => (.nan, 0)
  | .inf a, .inf b => if a = b then (.inf a, 0) else (.nan, flNV)
  | .inf a, _ => (.inf a, 0)
  | _, .inf b => (.inf b, 0)
  | .zero a, .zero b => if a = b then (.zero a, 0) else (.zero (rm = 3), 0)
  | .zero _, y => (y, 0)
  | x, .zero _ => (x, 0)
  | .fin m e, .fin n f =>
    let r := dyAdd m e n f
    (FV.ofDyadic r.1 r.2 (rm = 3), 0)

def fvMul (x y : FV) : FV × Nat :=
  match x, y with
  | .nan, _ => (.nan, 0)
  | _, .nan => (.nan, 0)
  | .inf _, .zero _ => (.nan, flNV)
  | .zero _, .inf _ => (.nan, flNV)
  | .inf a, y => (.inf (a != y.sign), 0)
  | x, .inf b => (.inf (x.sign != b), 0)
  | .zero a, y => (.zero (a != y.sign), 0)
  | x, .zero b => (.zero (x.sign != b), 0)
  | .fin m e, .fin n f => (.fin (m * n) (e + f), 0)

/-- x × y + z with one rounding to come; 0 × ∞ is invalid whatever z is (R172). -/
def fvFma (rm : Nat) (x y z : FV) : FV × Nat :=
  let r := fvMul x y
  if r.2 ≠ 0 then r else fvAdd rm r.1 z

/-- x × 2^n; zeros, infinities and NaNs pass (R185). -/
def FV.scale (x : FV) (n : Int) : FV := match x with | .fin m e => .fin m (e + n) | x => x

/-- Ordering of two values that are no NaN: −1, 0, 1; the zeros are equal. -/
def fvCmp (x y : FV) : Int :=
  let key : FV → Int × Int × Int := fun
    | .nan => (0, 0, 0) | .inf n => (if n then -1 else 1, 0, 0) | .zero _ => (0, 0, 0) | .fin m e => (0, m, e)
  let a := key x
  let b := key y
  if a.1 ≠ b.1 then (if a.1 < b.1 then -1 else 1)
  else
    let d := (dyAdd a.2.1 a.2.2 (-b.2.1) b.2.2).1
    if d < 0 then -1 else if d = 0 then 0 else 1

/-- A value rounded to an integer (R183, R184); the Bool says it was inexact. -/
def roundInt (rm : Nat) (m e : Int) : Int × Bool :=
  if 0 ≤ e then (m * 2 ^ e.toNat, false) else roundShift m (-e).toNat rm

end Sys2Proof.Machine
end

