-- ==== Sys2Proof/Machine/Special.lean ====
section
/-! DEFINITION. The special functions (spec/07_float.md R186, R187).

FRCP and FSQRT are exact by Fit. Of the others the spec gives a bound and no value: the result is the free value
`Config.specialRaw`, kept as long as it lies within the bound; where it does not, the correctly rounded value stands
in its place (assumption log 40). The bound is tested against a fixed-point reference whose own error is far below
the bound's last place; the test errs on the side of admitting more. -/
namespace Sys2Proof.Machine

/-! ### Exact functions, with a sticky bit for Round -/

/-- 1 / (m × 2^e) as a value that Round treats like the exact quotient. -/
def fvRecip (m e : Int) : FV :=
  let a := m.natAbs
  let k := 40 + 2 * Nat.log2 a
  let q := 2 ^ k / a
  let v : Int := 2 * q + (if 2 ^ k % a = 0 then 0 else 1)
  .fin (if m < 0 then -v else v) (-(k : Int) - 1 - e)

/-- The integer square root, by one bit a step. -/
def isqrt (n : Nat) : Nat :=
  go (Nat.log2 n / 2 + 1) 0
where
  go : Nat → Nat → Nat
  | 0, r => r
  | k + 1, r => let r' := r + 2 ^ k; if r' * r' ≤ n then go k r' else go k r

/-- √(m × 2^e), m positive, as a value that Round treats like the exact root. -/
def fvSqrt (m : Nat) (e : Int) : FV :=
  let m := if e % 2 = 0 then m else 2 * m
  let e := if e % 2 = 0 then e else e - 1
  let n := m * 2 ^ 80
  let r := isqrt n
  .fin (2 * (r : Int) + (if r * r = n then 0 else 1)) (e / 2 - 41)

/-! ### Fixed-point references: values are integers over 2^160 -/

def fx : Nat := 160
/-- Terms t_{k+1} = t_k × x / ((j)(j+1)…) of a series in fixed point, summed. -/
def series (x : Int) (step : Nat) (sign : Bool) : (fuel : Nat) → (j : Nat) → (t : Int) → Int
  | 0, _, _ => 0
  | n + 1, j, t =>
    let t1 := t * x / 2 ^ fx / j
    let t2 := if step = 2 then t1 * x / 2 ^ fx / (j + 1) else t1
    t + series x step sign n (j + step) (if sign then -t2 else t2)

def ln2F : Int := 80260960185991308862233904206310070533990667611589946606122867505419956976171 / 2 ^ (256 - fx)
def log2eF : Int := 167052672916848388242985626561247531987276682633131050150846402744536260568207 / 2 ^ (256 - fx)
/-- 2π over 2^300. -/
def twoPi : Int := 12799074516701066808997804592552191239937198809484765912489140366271425664275751838873863962

/-- 2^y for y over 2^160, as an integer m and exponent: m × 2^n over 2^160. -/
def exp2F (y : Int) : Int × Int :=
  let n := y / 2 ^ fx
  let f := y % 2 ^ fx
  (series (f * ln2F / 2 ^ fx) 1 false 60 1 (2 ^ fx), n)

/-- A dyadic as an integer over 2^160, rounded down. -/
def toFx (m e : Int) : Int :=
  if 0 ≤ e + fx then m * 2 ^ (e + fx).toNat else m / 2 ^ (Nat.min (-(e + fx)).toNat (ilog2 m + 2))

/-- log₂ of x over 2^160, 1 ≤ x < 2, by repeated squaring: 100 bits. -/
def log2F (x : Int) : Int :=
  go 100 x 0
where
  go : Nat → Int → Int → Int
  | 0, _, r => r * 2 ^ (fx - 100)
  | k + 1, x, r =>
    let y := x * x / 2 ^ fx
    if 2 ^ (fx + 1) ≤ y then go k (y / 2) (2 * r + 1) else go k y (2 * r)

/-- The angle m × 2^e reduced to [−π, π), less π: over 2^160. -/
def reduceF (m e : Int) : Int :=
  let a := if 0 ≤ e + 300 then m * 2 ^ (e + 300).toNat else m / 2 ^ (-(e + 300)).toNat
  (a % twoPi - twoPi / 2) / 2 ^ (300 - fx)

/-- sin and cos references: the reduced angle is the angle less π, so both change sign. -/
def sinF (m e : Int) : Int := let r := reduceF m e; -(series r 2 true 60 2 r)
def cosF (m e : Int) : Int := let r := reduceF m e; -(series r 2 true 60 1 (2 ^ fx))

/-- 1 / (1 + 2^y) over 2^160, y over 2^160. -/
def logisticF (y : Int) : Int :=
  if y > 200 * 2 ^ fx then 0
  else if y < -(200 * 2 ^ fx) then 2 ^ fx
  else
    let r := exp2F y
    let d : Int := 2 ^ 400 + (if 0 ≤ r.2 then r.1 * 2 ^ r.2.toNat * 2 ^ (400 - fx) else r.1 * 2 ^ (400 - fx) / 2 ^ (-r.2).toNat)
    2 ^ (400 + fx) / d

/-- e^y → the reference of each function on m × 2^e: value m' × 2^e'. Codes: 0 FRSQ, 1 FEX2, 2 FLG2, 3 FSIN, 4 FCOS,
5 FTANH, 6 FSIGM. -/
def reference (op : Nat) (m e : Int) : Int × Int :=
  match op with
  | 0 =>
    match fvSqrt m.natAbs e with
    | .fin rm re =>
      match fvRecip rm re with
      | .fin a b => (a, b)
      | _ => (0, 0)
    | _ => (0, 0)
  | 1 => let r := exp2F (toFx m e); (r.1, r.2 - fx)
  | 2 =>
    let k := ilog2 m
    ((k + e) * 2 ^ fx + log2F (m * 2 ^ (fx - k)), -(fx : Int))
  | 3 => (sinF m e, -(fx : Int))
  | 4 => (cosF m e, -(fx : Int))
  | 5 =>
    let y := toFx m (e + 1) * log2eF / 2 ^ fx
    (2 ^ fx - 2 * logisticF y, -(fx : Int))
  | _ => (logisticF (-(toFx m e * log2eF / 2 ^ fx)), -(fx : Int))

/-- Whether |c − r| ≤ bound, all times 2^−160, with a slack of 2^−90 for the reference's own error. -/
def within (c r bound : Int) : Bool :=
  let d := if c ≤ r then r - c else c - r
  d ≤ bound + 2 ^ (fx - 90)

/-- The bound of R186 over 2^160: `ulps` units of the last place at the result of exponent E, or an absolute bound. -/
def ulpF (E : Int) (n : Nat) : Int :=
  let u := max E (-126) - 23
  if 0 ≤ u + fx then n * 2 ^ (u + fx).toNat else 0

/-- The free result within its bound, else the correctly rounded one. -/
def specialFinite (op : Nat) (a : Nat) (m e : Int) : Nat :=
  let F := fmtOf 8
  let r := reference op m e
  let good := (fit F 0 0 (FV.ofDyadic r.1 r.2)).1
  let gv := (F.value good).1
  let E : Int := match gv with | .fin m e => (ilog2 m : Int) + e | _ => -126
  let absF (k : Nat) : Int := 2 ^ (fx - k)
  -- scale everything so that the result's last place stays above 2^-160 (FRSQ and FEX2 have wide ranges)
  let sh : Int := if op = 0 || op = 1 then -E else 0
  let bound : Int :=
    match op with
    | 0 => ulpF 0 1
    | 1 => if E < -126 then 2 * 2 ^ ((fx : Int) - 149 - E).toNat else ulpF 0 2
    | 2 =>
      -- inside [0.5, 2] an absolute bound
      let k := (ilog2 m : Int) + e
      if k = -1 || k = 0 || (k = 1 && m = 2 ^ ilog2 m) then absF 22 else ulpF E 2
    | 3 | 4 => absF 22
    | _ => max (ulpF E 2) (absF 24)
  let raw := (Config.specialRaw op a) % 2 ^ 32
  match (F.value raw).1 with
  | .fin cm ce => if within (toFx cm (ce + sh)) (toFx r.1 (r.2 + sh)) bound then raw else good
  | .zero _ => if within 0 (toFx r.1 (r.2 + sh)) bound then raw else good
  | _ => good

/-- The flags of an inexact finite result (R187). -/
def specialFlags (c : Nat) : Nat :=
  if bits c 23 8 = 0 then flNX + flUF else flNX

/-- An integer value m × 2^e, if it is one. -/
def asInt (m e : Int) : Option Int :=
  if 0 ≤ e then (if e < 200 then some (m * 2 ^ e.toNat) else none)
  else if m % 2 ^ (-e).toNat = 0 then some (m / 2 ^ (-e).toNat) else none

/-- The seven functions that the spec bounds: the code of the result and its flags (R186, R187). -/
def specialFn (op : Nat) (a : Nat) : Nat × Nat :=
  let F := fmtOf 8
  let v := F.value a
  let one : Nat := 0x3F800000
  match v.1 with
  | .nan => (F.nan, if v.2 then flNV else 0)
  | .inf neg =>
    match op with
    | 0 => if neg then (F.nan, flNV) else (0, 0)
    | 1 => if neg then (0, 0) else (F.infCode false, 0)
    | 2 => if neg then (F.nan, flNV) else (F.infCode false, 0)
    | 3 | 4 => (F.nan, flNV)
    | 5 => (if neg then one + F.signBit else one, 0)
    | _ => (if neg then 0 else one, 0)
  | .zero neg =>
    match op with
    | 0 => (F.infCode neg, flDZ)
    | 1 => (one, 0)
    | 2 => (F.infCode true, flDZ)
    | 3 => ((F.zero neg).1, 0)
    | 4 => (one, 0)
    | 5 => ((F.zero neg).1, 0)
    | _ => (0x3F000000, 0)
  | .fin m e =>
    let inexact (_ : Unit) : Nat × Nat :=
      let c := specialFinite op a m e
      (c, specialFlags c)
    match op with
    | 0 => if m < 0 then (F.nan, flNV) else inexact ()
    | 1 =>
      match asInt m e with
      | some n =>
        if 128 ≤ n then (F.infCode false, flOF + flNX)
        else if n ≤ -150 then (0, flUF + flNX)
        else ((fit F 0 0 (.fin 1 n)).1, 0)
      | none =>
        if 7 ≤ (ilog2 m : Int) + e && 0 < m then (F.infCode false, flOF + flNX)
        else if m < 0 && toFx m e < -(150 * 2 ^ fx) then (0, flUF + flNX)
        else inexact ()
    | 2 =>
      if m < 0 then (F.nan, flNV)
      else if m = 2 ^ ilog2 m then ((fit F 0 0 (FV.ofDyadic ((ilog2 m : Int) + e) 0)).1, 0)
      else inexact ()
    | _ => inexact ()

/-- FRCP (R186, R187). -/
def frcp (rm : Nat) (a : Nat) : Nat × Nat :=
  let F := fmtOf 8
  let v := F.value a
  match v.1 with
  | .nan => (F.nan, if v.2 then flNV else 0)
  | .inf neg => ((F.zero neg).1, 0)
  | .zero neg => (F.infCode neg, flDZ)
  | .fin m e => fit F rm 0 (fvRecip m e)

/-- FSQRT (R186, R187). -/
def fsqrt (rm : Nat) (a : Nat) : Nat × Nat :=
  let F := fmtOf 8
  let v := F.value a
  match v.1 with
  | .nan => (F.nan, if v.2 then flNV else 0)
  | .inf neg => if neg then (F.nan, flNV) else (F.infCode false, 0)
  | .zero neg => ((F.zero neg).1, 0)
  | .fin m e => if m < 0 then (F.nan, flNV) else fit F rm 0 (fvSqrt m.natAbs e)

end Sys2Proof.Machine
end

