-- ==== Sys2Proof/Machine/Float.lean ====
section
/-! DEFINITION. Floating-point instructions (spec/07_float.md).

The results are functions on codes that answer a code and the flags raised; a meaning reads its operands, applies one,
writes the destination and joins the flags to fl. -/
namespace Sys2Proof.Machine

/-! ### Results on codes (R172, R179 to R185, R189 to R191) -/

/-- An operand as an instruction reads it: its value, and whether it is a signalling NaN. -/
abbrev FOp := FV × Bool

/-- NV for a signalling NaN among the operands (R172). -/
def snanNV (os : List FOp) : Nat := if os.any (·.2) then flNV else 0

/-- A value delivered into its format, with the flags of the operation and of its operands (R171, R172). -/
def deliver (F : Fmt) (rm st : Nat) (os : List FOp) (r : FV × Nat) : Nat × Nat :=
  let y := fit F rm st r.1
  (y.1, y.2 ||| r.2 ||| snanNV os)

def rFadd (F : Fmt) (rm st : Nat) (x y : FOp) : Nat × Nat := deliver F rm st [x, y] (fvAdd rm x.1 y.1)
def rFsub (F : Fmt) (rm st : Nat) (x y : FOp) : Nat × Nat := deliver F rm st [x, y] (fvAdd rm x.1 y.1.neg)
def rFmul (F : Fmt) (rm st : Nat) (x y : FOp) : Nat × Nat := deliver F rm st [x, y] (fvMul x.1 y.1)
def rFfma (F : Fmt) (rm st : Nat) (x y z : FOp) : Nat × Nat := deliver F rm st [x, y, z] (fvFma rm x.1 y.1 z.1)

/-- Whether one operand code lies below another, −0 below +0; neither is NaN (R180). -/
def fBelow (x y : FV) : Bool := fvCmp x y < 0 || (fvCmp x y = 0 && x.sign && !y.sign)
/-- FMIN and FMAX on codes (R180): `max` chooses the greater. -/
def rFminmax (F : Fmt) (max : Bool) (a b : Nat) : Nat × Nat :=
  let x := F.value a
  let y := F.value b
  let nv := snanNV [x, y]
  if x.1.isNan && y.1.isNan then (F.nan, nv)
  else if x.1.isNan then (b, nv)
  else if y.1.isNan then (a, nv)
  else (if fBelow x.1 y.1 != max then a else b, nv)

/-- The comparisons of FCMP (R181): the truth and the flags. -/
def rFcmp (cmp : Nat) (x y : FOp) : Bool × Nat :=
  let un := x.1.isNan || y.1.isNan
  let nv := snanNV [x, y] ||| (if un && 2 ≤ cmp && cmp ≤ 5 then flNV else 0)
  let c := fvCmp x.1 y.1
  (match cmp with
    | 0 => !un && c = 0
    | 1 => un || c ≠ 0
    | 2 => !un && c < 0
    | 3 => !un && c ≤ 0
    | 4 => !un && 0 < c
    | 5 => !un && 0 ≤ c
    | 6 => un
    | _ => !un, nv)

/-- The class bit of FCLASS (R182). -/
def rFclass (F : Fmt) (a : Nat) : Nat :=
  let x := F.value a
  let sub := bits a (F.p - 1) F.w = 0
  2 ^ (match x.1 with
    | .nan => if x.2 then 8 else 9
    | .inf n => if n then 0 else 7
    | .zero n => if n then 3 else 4
    | .fin m _ => if m < 0 then (if sub then 2 else 1) else if sub then 5 else 6)

/-- FRND (R183). -/
def rFrnd (F : Fmt) (rm a : Nat) : Nat × Nat :=
  let x := F.value a
  match x.1 with
  | .nan => (F.nan, snanNV [x])
  | .inf _ | .zero _ => (a, 0)
  | .fin m e =>
    let n := (roundInt rm m e).1
    ((fit F 0 0 (FV.ofDyadic n 0 (m < 0))).1, 0)

/-- FCVT into an integer type (R184): the pattern and the flags. -/
def rFcvtInt (dty rm : Nat) (x : FOp) : Nat × Nat :=
  let w := tyWidth dty
  match x.1 with
  | .nan => (0, flNV)
  | .inf neg => (wrap w (clampTo (if neg then -(2 ^ 200 : Int) else 2 ^ 200) dty), flNV)
  | .zero _ => (0, 0)
  | .fin m e =>
    let r := roundInt rm m e
    let c := clampTo r.1 dty
    if c ≠ r.1 then (wrap w c, flNV) else (wrap w c, if r.2 then flNX else 0)

/-- FSCL (R185). -/
def rFscl (F : Fmt) (rm st : Nat) (x : FOp) (n : Int) : Nat × Nat := deliver F rm st [x] (x.1.scale n, 0)

/-- Both halves of a packed instruction (R189): results side by side, flags joined. -/
def rHalves (F : Fmt) (op : FOp → FOp → FOp → Nat × Nat) (a b c : Nat) : Nat × Nat :=
  let h (i : Nat) : Nat × Nat :=
    op (F.value (bits a (16 * i) 16)) (F.value (bits b (16 * i) 16)) (F.value (bits c (16 * i) 16))
  ((h 0).1 + 2 ^ 16 * (h 1).1, (h 0).2 ||| (h 1).2)

/-- PACK8 (R190): four FP32 codes and a scale code, if .scl. -/
def rPack8 (F : Fmt) (rm st : Nat) (xs : List Nat) (scl : Option Nat) : Nat × Nat :=
  if scl = some 255 then (F.nan * 0x01010101, flNV)
  else
    let n : Int := match scl with | some c => 127 - (c : Int) | none => 0
    let one (x : Nat) : Nat × Nat :=
      let v := (fmtOf 8).value x
      deliver F rm st [v] (v.1.scale n, 0)
    xs.foldr (fun x acc => let r := one x; (r.1 + 256 * acc.1, r.2 ||| acc.2)) (0, 0)

/-- One value of UNPACK8 (R191). -/
def rUnpack8 (F : Fmt) (rm st : Nat) (c : Nat) (scl : Option Nat) : Nat × Nat :=
  let v := (F.value c).1
  fit (fmtOf 8) rm st (match scl with
    | none => v
    | some k => if k = 255 then .nan else v.scale ((k : Int) - 127))

/-! ### Reading and writing -/

/-- Source codes of format A in a type of `w` bits (R164). -/
def fcodeA (s : State) (t : Thread) (f : FmtA) (w : Nat) : Nat :=
  readReg s (s.fgOf t) t false f.a.toNat 1 % 2 ^ w
def fcodeB (s : State) (t : Thread) (f : FmtA) (w : Nat) : Nat :=
  readReg s (s.fgOf t) t (f.u = 1#2) f.b.toNat 1 % 2 ^ w
def fcodeC (s : State) (t : Thread) (f : FmtA) (w : Nat) : Nat :=
  readReg s (s.fgOf t) t false f.c.toNat 1 % 2 ^ w
/-- An immediate from 0 to 255, exactly converted (R177). -/
def fimm (n : Nat) : FOp := (FV.ofDyadic n 0, false)
def fopA (s : State) (t : Thread) (f : FmtA) : FOp :=
  let F := fmtOf f.ty.toNat
  F.value (fcodeA s t f F.size)
def fopB (s : State) (t : Thread) (f : FmtA) : FOp :=
  let F := fmtOf f.ty.toNat
  if f.ib = 1#1 then fimm f.b.toNat else F.value (fcodeB s t f F.size)
def fopC (s : State) (t : Thread) (f : FmtA) : FOp :=
  let F := fmtOf f.ty.toNat
  if f.ic = 1#1 then fimm f.c.toNat else F.value (fcodeC s t f F.size)

/-- The narrow form that the shadow unit compares: sign, exponent field, and the top k fraction bits, truncated (R175). -/
def Fmt.narrowForm (F : Fmt) (c : Nat) : Nat × Nat × Nat :=
  let k := if F.size = 32 then 7 else 5
  (bits c (F.size - 1) 1, bits c (F.p - 1) F.w, bits c (F.p - 1 - k) k)
/-- Whether a check fails: `main` is the result of the lane, `right` what the shadow unit computes from the operands (R175). -/
def Fmt.shadowMiss (F : Fmt) (main right : Nat) : Bool :=
  let n := F.narrowForm main
  let s := F.narrowForm right
  let nan := (F.value main).1.isNan
  let full := 2 ^ (if F.size = 32 then 7 else 5) - 1
  let edge (x y : Nat × Nat × Nat) : Bool := y.2.1 = x.2.1 + 1 && x.2.2 = full && y.2.2 = 0
  (n.1 ≠ s.1 && !nan) || (n.2.1 ≠ s.2.1 && !edge n s && !edge s n)
    || (n.2.1 = s.2.1 && (n.2.2 + 1 < s.2.2 || s.2.2 + 1 < n.2.2) && !nan)
/-- The fault of the part that strikes the physical lane a thread occupies (assumption log 25). -/
def State.vecFault (s : State) (p : Path) (t : Thread) : Option VecFault :=
  if s.health.vecFaults.isEmpty then none
  else
    match p.phys.find? fun e => e.1 = t.lane with
    | none => none
    | some e => s.health.vecFaults.find? fun v => v.core = s.coreOf t.fg && v.unit = (s.fgOf t).unit && v.lane = e.2
/-- A result, with its flags, written into a thread. -/
def Thread.putRes (t : Thread) (d : Nat) (r : Nat × Nat) : Thread := (t.put d [BitVec.ofNat 32 r.1]).raise r.2

/-- A format A floating-point result per thread, with its flags. `halves` is the number of results that the shadow unit checks:
0, 1, or 2 of a packed instruction. A wrong result that the check does not find is written; FLT_ADDR names the lane of one that it
finds, as 64 × SIMD unit + lane (R175, R176). -/
def fpA (s : State) (f : FmtA) (halves : Nat) (res : State → Thread → Nat × Nat) : State :=
  issueEach s rightsAll f.guard fun p s t =>
    let r := res s t
    match if halves = 0 then none else s.vecFault p t with
    | some v =>
      let F := fmtOf f.ty.toNat
      let main := (BitVec.ofNat 32 r.1 ^^^ v.mask).toNat % 2 ^ (halves * F.size)
      if (List.range halves).any fun i => F.shadowMiss (bits main (16 * i) F.size) (bits r.1 (16 * i) F.size) then
        .trap 0xA001 (BitVec.ofNat 64 (64 * v.unit + v.lane))
      else
        let s := { s with health := { s.health with vecFaults := s.health.vecFaults.erase v } }
        .ok (s.setThread (t.putRes f.d.toNat (main, r.2)))
    | none => .ok (s.setThread (t.putRes f.d.toNat r))

/-- A special function of format L: its value is pending, with its flags (R174, R186). -/
def fpL (s : State) (f : FmtL) (res : Nat → Nat × Nat) : State :=
  issueEach s rightsAll f.guard fun p s t =>
    let r := res (regL s t f.a.toNat 1)
    .ok (s.pendL t { uid := 0, sb := f.sb.toNat, left := f.la.toNat, iaddr := p.iaddr, dst := dstRegs f.d.toNat 1
                     val := some [BitVec.ofNat 32 r.1], flags := r.2 })

/-! ### The meanings -/

def execFadd (f : FmtA) (s : State) : Out :=
  .next (fpA s f 1 fun s t => rFadd (fmtOf f.ty.toNat) f.rm.toNat f.st.toNat (fopA s t f) (fopB s t f))
def execFsub (f : FmtA) (s : State) : Out :=
  .next (fpA s f 1 fun s t => rFsub (fmtOf f.ty.toNat) f.rm.toNat f.st.toNat (fopA s t f) (fopB s t f))
def execFmul (f : FmtA) (s : State) : Out :=
  .next (fpA s f 1 fun s t => rFmul (fmtOf f.ty.toNat) f.rm.toNat f.st.toNat (fopA s t f) (fopB s t f))
def execFfma (f : FmtA) (s : State) : Out :=
  .next (fpA s f 1 fun s t =>
    rFfma (fmtOf f.ty.toNat) f.rm.toNat f.st.toNat (fopA s t f) (fopB s t f) (fopC s t f))
/-- The code of operand B of FMIN and FMAX; an immediate is converted exactly. -/
def fcodeBI (s : State) (t : Thread) (f : FmtA) : Nat :=
  let F := fmtOf f.ty.toNat
  if f.ib = 1#1 then (fit F 0 0 (fimm f.b.toNat).1).1 else fcodeB s t f F.size
def execFmin (f : FmtA) (s : State) : Out :=
  let F := fmtOf f.ty.toNat
  .next (fpA s f 0 fun s t => rFminmax F false (fcodeA s t f F.size) (fcodeBI s t f))
def execFmax (f : FmtA) (s : State) : Out :=
  let F := fmtOf f.ty.toNat
  .next (fpA s f 0 fun s t => rFminmax F true (fcodeA s t f F.size) (fcodeBI s t f))
def execFcmp (f : FmtA) (s : State) : Out :=
  .next (issueEach s rightsAll f.guard fun _ s t =>
    let r := rFcmp (bits f.fn.toNat 0 3) (fopA s t f) (fopB s t f)
    .ok (s.setThread ((t.setPred f.d.toNat (combine (bits f.fn.toNat 3 2) r.1 (t.pred f.c.toNat))).raise r.2)))
def execFclass (f : FmtA) (s : State) : Out :=
  let F := fmtOf f.ty.toNat
  .next (fpA s f 0 fun s t => (rFclass F (fcodeA s t f F.size), 0))
def execFrnd (f : FmtA) (s : State) : Out :=
  let F := fmtOf f.ty.toNat
  .next (fpA s f 0 fun s t => rFrnd F f.rm.toNat (fcodeA s t f F.size))
/-- FCVT (R184): format to integer, integer to format, format to format. -/
def execFcvt (f : FmtA) (s : State) : Out :=
  let dty := f.ty.toNat
  let sty := f.c.toNat
  .next (issueEach s rightsAll f.guard fun _ s t =>
    let raw := readReg s (s.fgOf t) t false f.a.toNat (tyRegs sty) % 2 ^ tyWidth sty
    let x : FOp := if sty < 8 then (FV.ofDyadic (valOf raw sty) 0, false) else (fmtOf sty).value raw
    let r := if dty < 8 then rFcvtInt dty f.rm.toNat x else deliver (fmtOf dty) f.rm.toNat f.st.toNat [x] (x.1, 0)
    let ws := if dty < 8 then writeD r.1 dty else [BitVec.ofNat 32 r.1]
    .ok (s.setThread ((t.put f.d.toNat ws).raise r.2)))
def execFscl (f : FmtA) (s : State) : Out :=
  .next (fpA s f 0 fun s t =>
    let n : Int := if f.ib = 1#1 then (f.b.toNat : Int) else sext 32 (fcodeB s t f 32)
    rFscl (fmtOf f.ty.toNat) f.rm.toNat f.st.toNat (fopA s t f) n)
def execFrcp (f : FmtL) (s : State) : Out := .next (fpL s f (frcp (FmtL.rm f)))
def execFsqrt (f : FmtL) (s : State) : Out := .next (fpL s f (fsqrt (FmtL.rm f)))
def execFrsq (f : FmtL) (s : State) : Out := .next (fpL s f (specialFn 0))
def execFex2 (f : FmtL) (s : State) : Out := .next (fpL s f (specialFn 1))
def execFlg2 (f : FmtL) (s : State) : Out := .next (fpL s f (specialFn 2))
def execFsin (f : FmtL) (s : State) : Out := .next (fpL s f (specialFn 3))
def execFcos (f : FmtL) (s : State) : Out := .next (fpL s f (specialFn 4))
def execFtanh (f : FmtL) (s : State) : Out := .next (fpL s f (specialFn 5))
def execFsigm (f : FmtL) (s : State) : Out := .next (fpL s f (specialFn 6))
/-- FLAGRD (R188). -/
def execFlagrd (f : FmtA) (s : State) : Out :=
  .next (issueEach s rightsAll f.guard fun _ s t => .ok (s.setThread (t.put f.d.toNat [BitVec.ofNat 32 t.flags])))
/-- FLAGCLR (R188). -/
def execFlagclr (f : FmtA) (s : State) : Out :=
  .next (issueEach s rightsAll f.guard fun _ s t => .ok (s.setThread (t.clearFlags (srcB s t f 6))))
def execHadd2 (f : FmtA) (s : State) : Out :=
  let F := fmtOf f.ty.toNat
  .next (fpA s f 2 fun s t =>
    rHalves F (fun x y _ => rFadd F f.rm.toNat f.st.toNat x y) (fcodeA s t f 32) (fcodeB s t f 32) 0)
def execHmul2 (f : FmtA) (s : State) : Out :=
  let F := fmtOf f.ty.toNat
  .next (fpA s f 2 fun s t =>
    rHalves F (fun x y _ => rFmul F f.rm.toNat f.st.toNat x y) (fcodeA s t f 32) (fcodeB s t f 32) 0)
def execHfma2 (f : FmtA) (s : State) : Out :=
  let F := fmtOf f.ty.toNat
  .next (fpA s f 2 fun s t =>
    rHalves F (rFfma F f.rm.toNat f.st.toNat) (fcodeA s t f 32) (fcodeB s t f 32) (fcodeC s t f 32))
/-- The scale code of PACK8 and UNPACK8 with .scl (R190). -/
def sclOf (s : State) (t : Thread) (f : FmtA) : Option Nat :=
  if f.fn = 1#5 then some (srcB s t f 6 % 256) else none
def execPack8 (f : FmtA) (s : State) : Out :=
  .next (fpA s f 0 fun s t =>
    let xs := (List.range 4).map fun i => bits (readReg s (s.fgOf t) t false f.a.toNat 4) (32 * i) 32
    rPack8 (fmtOf f.ty.toNat) f.rm.toNat f.st.toNat xs (sclOf s t f))
def execUnpack8 (f : FmtA) (s : State) : Out :=
  .next (issueEach s rightsAll f.guard fun _ s t =>
    let a := fcodeA s t f 32
    let rs := (List.range 4).map fun i =>
      rUnpack8 (fmtOf f.ty.toNat) f.rm.toNat f.st.toNat (bits a (8 * i) 8) (sclOf s t f)
    .ok (s.setThread ((t.put f.d.toNat (rs.map fun r => BitVec.ofNat 32 r.1)).raise (rs.foldl (fun a r => a ||| r.2) 0))))

end Sys2Proof.Machine
end

