-- ==== Sys2Proof/Machine/Control.lean ====
section
/-! DEFINITION. Branches, holds, masks and cross-lane instructions (spec/06_control.md R151 to R162). EXIT stands
with the end of blocks, in Exit.lean. -/
namespace Sys2Proof.Machine

/-! ### Branches (R72, R151) -/

/-- The target of BRA, BRC and CALL: header + 4 × OFF (R72). -/
def branchTarget (pc : DWord) (off : BitVec 23) : DWord := pc + BitVec.ofInt 64 (4 * off.toInt)

/-- Issues a branch per thread: the thread goes to the target that `tgt` gives, with a link written first. -/
def branchEach (s : State) (g : Guard) (link : Option Nat) (tgt : Path → State → Thread → DWord) : State :=
  issueEach s rightsAll g fun p s t =>
    let a := tgt p s t
    if a.toNat % 4 ≠ 0 then .trap 0x100B s.noAddr
    else
      let t := match link with | some x => t.put x (natWords t.npc.toNat 2) | none => t
      .ok (s.setThread { t with npc := a })

/-- A register pair as an address. -/
def pairOf (s : State) (t : Thread) (code : Nat) : DWord := BitVec.ofNat 64 (regL s t code 2)

def execBraShort (f : FmtB1) (s : State) : Out :=
  .next (branchEach s {} none fun p _ _ => branchTarget p.pc f.off)
def execBra (f : FmtB2) (s : State) : Out :=
  .next (branchEach s f.guard none fun p _ _ => branchTarget p.pc f.off)
def execCallShort (f : FmtB1) (s : State) : Out :=
  .next (branchEach s {} (some 0) fun p _ _ => branchTarget p.pc f.off)
def execCall (f : FmtB2) (s : State) : Out :=
  .next (branchEach s f.guard (some f.x.toNat) fun p _ _ => branchTarget p.pc f.off)
/-- BRX reads its target before .call writes the link into X+2:X+3 (R151). -/
def execBrx (f : FmtB2) (s : State) : Out :=
  .next (branchEach s f.guard (if f.fn = 1#8 then some (f.x.toNat + 2) else none) fun _ s t => pairOf s t f.x.toNat)
def execRetShort (_f : FmtB1) (s : State) : Out := .next (branchEach s {} none fun _ s t => pairOf s t 0)
def execRet (f : FmtB2) (s : State) : Out := .next (branchEach s f.guard none fun _ s t => pairOf s t f.x.toNat)
/-- NOP has no effect, whatever its guard (R154). -/
def execNopShort (_f : FmtB1) (s : State) : Out := .next (issueEach s rightsAll {} fun _ s _ => .ok s)
def execNop (f : FmtB2) (s : State) : Out := .next (issueEach s rightsAll f.guard fun _ s _ => .ok s)

/-! ### Holds and masks (R144, R145, R154 to R157) -/

/-- Mask `k` of a file group. -/
def FileGroup.mask (g : FileGroup) (k : Nat) : Lanes := g.m.getD k 0
def FileGroup.setMask (g : FileGroup) (k : Nat) (v : Lanes) : FileGroup := { g with m := g.m.set k v }
/-- Bit `i` of mask `k` becomes `b`. -/
def FileGroup.setBit (g : FileGroup) (k i : Nat) (b : Bool) : FileGroup :=
  let one : Lanes := 1#128 <<< i
  g.setMask k (if b then g.mask k ||| one else g.mask k &&& ~~~one)
/-- The living threads of a file group. -/
def State.living (s : State) (fg : Nat) : List Thread := (s.threadsOf fg).filter Thread.living

/-- The instruction holds its thread at the clause boundary that follows (R145). -/
def holdEach (s : State) (g : Guard) (h : Path → State → Thread → Status) : State :=
  issueEach s rightsAll g fun p s t => .ok (s.setThread { t with after := h p s t })

def execJoin (f : FmtA) (s : State) : Out := .next (holdEach s f.guard fun p _ _ => .heldJoin p.iaddr f.a.toNat)
def execWaitm (f : FmtA) (s : State) : Out := .next (holdEach s f.guard fun p _ _ => .heldWaitm p.iaddr f.a.toNat)
/-- SLEEP: max(n, 1) cycles, n limited to 2^24 (R154). -/
def execSleep (f : FmtA) (s : State) : Out :=
  .next (holdEach s f.guard fun _ s t =>
    let n := srcB s t f 6
    .sleeping (s.ctl.cycle + Nat.min (Nat.max n 1) (2 ^ 24)))
/-- LEAVE clears the executing thread's bit (R155). -/
def execLeave (f : FmtA) (s : State) : Out :=
  .next (issueEach s rightsAll f.guard fun _ s t => .ok (s.setFg ((s.fgOf t).setBit f.a.toNat t.lane false)))

/-- The mask that forms 2 to 6 and 8 of MASK write (R156). -/
def maskVal (s : State) (g : FileGroup) (f : FmtA) : Lanes :=
  match f.fn.toNat with
  | 2 => g.mask f.a.toNat
  | 3 => g.mask f.a.toNat &&& g.mask f.b.toNat
  | 4 => g.mask f.a.toNat ||| g.mask f.b.toNat
  | 5 => g.mask f.a.toNat &&& ~~~(g.mask f.b.toNat)
  | 6 => BitVec.ofNat 128 (regsNat g.s f.a.toNat 4)
  | _ => lanesMask ((s.living g.id).map (·.lane))
/-- MASK (R156): forms 0 and 1 per thread, the others once per path. -/
def execMask (f : FmtA) (s : State) : Out :=
  let fn := f.fn.toNat
  .next (if fn ≤ 1 then
      issueEach s rightsAll f.guard fun _ s t =>
        .ok (s.setFg ((s.fgOf t).setBit f.d.toNat t.lane (if fn = 0 then true else t.pred f.a.toNat)))
    else
      issueOnce s rightsAll f.guard fun _ s act =>
        match act with
        | [] => .ok s
        | t :: _ =>
          let g := s.fgOf t
          .ok (s.setFg (if fn = 7 then g.put f.d.toNat (natWords (g.mask f.a.toNat).toNat 4)
            else g.setMask f.d.toNat (maskVal s g f))))

/-- The lowest of some lanes. -/
def lowest (l : List Nat) : Option Nat := l.min?
/-- ELECT (R157). -/
def execElect (f : FmtA) (s : State) : Out :=
  .next (issueEach s rightsAll f.guard fun _ s t =>
    let m := (s.fgOf t).mask f.a.toNat
    let l := lowest (((s.living t.fg).map (·.lane)).filter fun i => inMask m i)
    let me := l = some t.lane
    .ok (s.setThread (if f.fn = 1#5 then (t.put f.d.toNat [BitVec.ofNat 32 (l.getD 0xFFFFFFFF)]).setPred f.c.toNat me
      else t.setPred f.d.toNat me)))

/-! ### Cross-lane instructions (R146, R152, R158 to R162) -/

/-- The instance of a path; a path without one stands alone, with the masks as they are. -/
def State.instOf (s : State) (p : Path) : Inst :=
  match p.inst.bind s.inst? with
  | some i => i
  | none =>
    { id := 0, fg := p.fg, pc := p.pc, lanes := p.lanes, m := ((s.fg? p.fg).map (·.m)).getD []
      living := (s.living p.fg).map (·.lane) }

/-- The paths of the head path's instance that stand at its present instruction. -/
def State.instPaths (s : State) (p : Path) : List Path :=
  match p.inst.bind s.inst? with
  | some i => s.paths.filter fun q => q.inst = some i.id && q.waiting && q.idx = p.idx
  | none => [p]

/-- A path that begins to wait joins one of its lane group that waits at the same instruction for the same instance (R141, R146). -/
def State.joinWaiting (s : State) (p : Path) : State :=
  match s.paths.find? fun q => q.id ≠ p.id && q.fg = p.fg && q.lg = p.lg && q.waiting && p.inst.isSome && q.inst = p.inst && q.idx = p.idx with
  | none => s
  | some q =>
    let all := q.lanes ++ p.lanes
    (s.dropPath p.id).setPath { q with lanes := (List.range 128).filter fun l => all.contains l, phys := q.phys ++ p.phys }
/-- Issues a cross-lane instruction: the head path waits until every thread of its instance stands at it, and then
all of them issue together (R146). `f` gets the executing threads in virtual-lane order. -/
def issueCross (s : State) (g : Guard) (f : State → Inst → List Thread → State) : State :=
  match s.paths with
  | [] => s
  | p :: _ =>
    let s := s.setPath { p with waiting := true }
    let i := s.instOf p
    let ps := s.instPaths p
    let here := ps.flatMap (·.lanes)
    if i.lanes.all fun l => here.contains l then
      let r := ps.foldl
        (fun (acc : State × List (Path × List Nat)) q =>
          let r := q.lanes.foldl (issueLane rightsAll g q fun s _ => .ok s) (acc.1, [])
          (r.1, acc.2 ++ [(q, r.2)])) (s, [])
      let lanes := (List.range 128).filter fun l => here.contains l
      let on := (lanes.filterMap fun l => r.1.thread? p.fg l).filter fun t => g.on t
      r.2.foldl (fun s e => s.advance e.1 e.2) (f r.1 i on)
    else s.joinWaiting p

/-- Active(K) among the executing threads of an instance (R158). -/
def activeOf (i : Inst) (k : Nat) (on : List Thread) : List Thread := on.filter fun t => inMask (i.m.getD k 0) t.lane
/-- The lanes that mask K named when the instance was released (R158). -/
def namedOf (i : Inst) (k : Nat) : List Nat := (List.range 128).filter fun l => inMask (i.m.getD k 0) l
/-- c(i) of VOTE and BRC: true for the active threads whose source is true (R152, R159). -/
def ballot (act : List Thread) (src : Thread → Bool) (l : Nat) : Bool := act.any fun t => t.lane = l && src t

/-- BRC (R152): its guard fields are the condition, and every thread of the instance executes it. They name p0 to p7 only: R173 says
that BRC reads fl too, and R152 has no code for it (assumption log 120). -/
def execBrc (f : FmtB2) (s : State) : Out :=
  let k := f.x.toNat
  .next (issueCross s {} fun s i on =>
    let act := activeOf i k on
    let c := ballot act fun t => f.guard.on t
    let taken := if f.fn = 1#8 then (namedOf i k).all c else (namedOf i k).any c
    if taken then on.foldl (fun s t => s.modThread t.fg t.lane fun t => { t with npc := branchTarget i.pc f.off }) s
    else s)

/-- The source of VOTE: a predicate, or fl (R159). -/
def voteSrc (f : FmtA) (t : Thread) : Bool := if f.a.toNat = 8 then t.flAny else t.pred f.a.toNat
def execVote (f : FmtA) (s : State) : Out :=
  let k := f.c.toNat
  .next (issueCross s f.guard fun s i on =>
    let act := activeOf i k on
    let named := namedOf i k
    let c := ballot act (voteSrc f)
    let each (h : Thread → Thread) : State := on.foldl (fun s t => s.modThread t.fg t.lane h) s
    match f.fn.toNat with
    | 0 => each fun t => t.setPred f.d.toNat (named.any c)
    | 1 => each fun t => t.setPred f.d.toNat (named.all c)
    | 2 => each fun t => t.setPred f.d.toNat (named.all c || !named.any c)
    | 3 =>
      match on, s.fg? i.fg with
      | _ :: _, some g => s.setFg (g.setMask f.d.toNat (lanesMask (named.filter c)))
      | _, _ => s
    | _ =>
      let fl := act.foldl (fun a t => a ||| t.flags) 0
      each fun t => t.raise fl)

/-- The source lane of SHFL (R160). -/
def shflLane (fn lane n : Nat) : Int :=
  match fn with
  | 0 => (n : Int)
  | 1 => (lane : Int) - n
  | 2 => (lane : Int) + n
  | _ => ((lane ^^^ (n % 128) : Nat) : Int)
def execShfl (f : FmtA) (s : State) : Out :=
  let ty := f.ty.toNat
  .next (issueCross s f.guard fun s i on =>
    let act := activeOf i f.c.toNat on
    on.foldl (fun (s' : State) t =>
      let j := shflLane f.fn.toNat t.lane (srcB s t f 6)
      if j < 0 || 127 < j then s'.modThread t.fg t.lane fun u => u.put f.d.toNat (writeD (srcA s t f ty) ty)
      else
        match act.find? fun u => (u.lane : Int) = j with
        | some u => s'.modThread t.fg t.lane fun v => v.put f.d.toNat (writeD (srcA s u f ty) ty)
        | none => s'.modThread t.fg t.lane fun v => (v.put f.d.toNat (writeD 0 ty)).raise flNV) s)

/-- The identity of a combination on a type (R161). -/
def scanIdent (op ty : Nat) : Nat :=
  let w := tyWidth ty
  match op with
  | 1 => if tySigned ty then 2 ^ (w - 1) - 1 else 2 ^ w - 1
  | 2 => if tySigned ty then 2 ^ (w - 1) else 0
  | 3 => 2 ^ w - 1
  | _ => 0
/-- Op of SCAN and LRED (R161), with its flags. -/
def scanOp (op ty x y : Nat) : Nat × Nat :=
  match op with
  | 0 => (rAdd ty x y, 0)
  | 1 => (rMin ty x y, 0)
  | 2 => (rMax ty x y, 0)
  | 3 => (x &&& y, 0)
  | 4 => (x ||| y, 0)
  | 5 => (x ^^^ y, 0)
  | _ => rFadd (fmtOf 8) 0 0 ((fmtOf 8).value x) ((fmtOf 8).value y)
/-- The running combinations of a list of sources in order: for each the value before it and after it, with the flags
of the steps up to each; and the total (R161). -/
def scanRun (op ty : Nat) : (acc : Option (Nat × Nat)) → List Nat → List ((Nat × Nat) × (Nat × Nat)) × (Nat × Nat)
  | acc, [] => ([], acc.getD (scanIdent op ty, 0))
  | acc, x :: xs =>
    let prev := acc.getD (scanIdent op ty, 0)
    let next := match acc with
      | none => (x, 0)
      | some a => let r := scanOp op ty a.1 x; (r.1, a.2 ||| r.2)
    let r := scanRun op ty (some next) xs
    ((prev, next) :: r.1, r.2)
/-- WriteD, with the floating-point types zero-extended (R121, R164). -/
def writeX (x ty : Nat) : List Word := if 8 ≤ ty then [BitVec.ofNat 32 x] else writeD x ty
def execScan (f : FmtA) (s : State) : Out :=
  let ty := f.ty.toNat
  let op := bits f.fn.toNat 0 3
  let excl := bit f.fn.toNat 3
  .next (issueCross s f.guard fun s i on =>
    let act := activeOf i f.c.toNat on
    let r := (scanRun op ty none (act.map fun t => srcA s t f ty)).1
    (act.zip r).foldl (fun s e =>
      let v := if excl then e.2.1 else e.2.2
      s.modThread e.1.fg e.1.lane fun t => (t.put f.d.toNat (writeX v.1 ty)).raise v.2) s)
def execLred (f : FmtA) (s : State) : Out :=
  let ty := f.ty.toNat
  let op := bits f.fn.toNat 0 3
  .next (issueCross s f.guard fun s i on =>
    let act := activeOf i f.c.toNat on
    let v := (scanRun op ty none (act.map fun t => srcA s t f ty)).2
    on.foldl (fun s t => s.modThread t.fg t.lane fun t => (t.put f.d.toNat (writeX v.1 ty)).raise v.2) s)
/-- MATCH (R162). -/
def execMatch (f : FmtA) (s : State) : Out :=
  let ty := f.ty.toNat
  .next (issueCross s f.guard fun s i on =>
    let act := activeOf i f.c.toNat on
    on.foldl (fun (s' : State) t =>
      let x := srcA s t f ty
      let g := t.lane :: ((act.filter fun u => u.lane ≠ t.lane && srcA s u f ty = x).map (·.lane))
      let r := if f.fn = 0#5 then (lowest g).getD 0 else g.length
      s'.modThread t.fg t.lane fun t => t.put f.d.toNat [BitVec.ofNat 32 r]) s)

end Sys2Proof.Machine
end

