-- ==== Sys2Proof/Machine/Crypto.lean ====
section
/-! DEFINITION. The algorithms that the spec names by their standards: AES-256 with XTS for memory
(spec/08_memory.md R203) and GCM (spec/04_system.md R109, spec/17_links.md R379), AES key wrap (R111), SHAKE256. Written from
the standards themselves (FIPS 197, IEEE 1619, SP 800-38D, SP 800-38F, FIPS 202): PRESUMED (assumption log 44). -/
namespace Sys2Proof.Machine

/-! ### AES-256; bytes are natural numbers below 256 -/

def sboxT : List Nat :=
  [99, 124, 119, 123, 242, 107, 111, 197, 48, 1, 103, 43, 254, 215, 171, 118, 202, 130, 201, 125, 250, 89, 71, 240, 173, 212, 162, 175, 156, 164, 114, 192] ++
  [183, 253, 147, 38, 54, 63, 247, 204, 52, 165, 229, 241, 113, 216, 49, 21, 4, 199, 35, 195, 24, 150, 5, 154, 7, 18, 128, 226, 235, 39, 178, 117] ++
  [9, 131, 44, 26, 27, 110, 90, 160, 82, 59, 214, 179, 41, 227, 47, 132, 83, 209, 0, 237, 32, 252, 177, 91, 106, 203, 190, 57, 74, 76, 88, 207] ++
  [208, 239, 170, 251, 67, 77, 51, 133, 69, 249, 2, 127, 80, 60, 159, 168, 81, 163, 64, 143, 146, 157, 56, 245, 188, 182, 218, 33, 16, 255, 243, 210] ++
  [205, 12, 19, 236, 95, 151, 68, 23, 196, 167, 126, 61, 100, 93, 25, 115, 96, 129, 79, 220, 34, 42, 144, 136, 70, 238, 184, 20, 222, 94, 11, 219] ++
  [224, 50, 58, 10, 73, 6, 36, 92, 194, 211, 172, 98, 145, 149, 228, 121, 231, 200, 55, 109, 141, 213, 78, 169, 108, 86, 244, 234, 101, 122, 174, 8] ++
  [186, 120, 37, 46, 28, 166, 180, 198, 232, 221, 116, 31, 75, 189, 139, 138, 112, 62, 181, 102, 72, 3, 246, 14, 97, 53, 87, 185, 134, 193, 29, 158] ++
  [225, 248, 152, 17, 105, 217, 142, 148, 155, 30, 135, 233, 206, 85, 40, 223, 140, 161, 137, 13, 191, 230, 66, 104, 65, 153, 45, 15, 176, 84, 187, 22]
def invSboxT : List Nat :=
  [82, 9, 106, 213, 48, 54, 165, 56, 191, 64, 163, 158, 129, 243, 215, 251, 124, 227, 57, 130, 155, 47, 255, 135, 52, 142, 67, 68, 196, 222, 233, 203] ++
  [84, 123, 148, 50, 166, 194, 35, 61, 238, 76, 149, 11, 66, 250, 195, 78, 8, 46, 161, 102, 40, 217, 36, 178, 118, 91, 162, 73, 109, 139, 209, 37] ++
  [114, 248, 246, 100, 134, 104, 152, 22, 212, 164, 92, 204, 93, 101, 182, 146, 108, 112, 72, 80, 253, 237, 185, 218, 94, 21, 70, 87, 167, 141, 157, 132] ++
  [144, 216, 171, 0, 140, 188, 211, 10, 247, 228, 88, 5, 184, 179, 69, 6, 208, 44, 30, 143, 202, 63, 15, 2, 193, 175, 189, 3, 1, 19, 138, 107] ++
  [58, 145, 17, 65, 79, 103, 220, 234, 151, 242, 207, 206, 240, 180, 230, 115, 150, 172, 116, 34, 231, 173, 53, 133, 226, 249, 55, 232, 28, 117, 223, 110] ++
  [71, 241, 26, 113, 29, 41, 197, 137, 111, 183, 98, 14, 170, 24, 190, 27, 252, 86, 62, 75, 198, 210, 121, 32, 154, 219, 192, 254, 120, 205, 90, 244] ++
  [31, 221, 168, 51, 136, 7, 199, 49, 177, 18, 16, 89, 39, 128, 236, 95, 96, 81, 127, 169, 25, 181, 74, 13, 45, 229, 122, 159, 147, 201, 156, 239] ++
  [160, 224, 59, 77, 174, 42, 245, 176, 200, 235, 187, 60, 131, 83, 153, 97, 23, 43, 4, 126, 186, 119, 214, 38, 225, 105, 20, 99, 85, 33, 12, 125]
def subB (b : Nat) : Nat := sboxT.getD b 0
def invSubB (b : Nat) : Nat := invSboxT.getD b 0

/-- Multiplication by x in GF(2^8). -/
def xtime (b : Nat) : Nat := if 128 ≤ b then (b * 2 ^^^ 0x11B) else b * 2
/-- Multiplication in GF(2^8) by a constant of `n` bits. -/
def gmul : (n : Nat) → (a c : Nat) → Nat
  | 0, _, _ => 0
  | n + 1, a, c => (if c % 2 = 1 then a else 0) ^^^ gmul n (xtime a) (c / 2)

/-- A column of a state through a row of four constants. -/
def mixRow (r : List Nat) (c : List Nat) : Nat := (List.zipWith (gmul 4) c r).foldl (· ^^^ ·) 0
/-- The state by columns of four bytes. -/
def mixWith (m : List (List Nat)) : (fuel : Nat) → List Nat → List Nat
  | 0, _ => []
  | n + 1, l => (m.map fun r => mixRow r (l.take 4)) ++ mixWith m n (l.drop 4)
def mixM : List (List Nat) := [[2, 3, 1, 1], [1, 2, 3, 1], [1, 1, 2, 3], [3, 1, 1, 2]]
def invMixM : List (List Nat) := [[14, 11, 13, 9], [9, 14, 11, 13], [13, 9, 14, 11], [11, 13, 9, 14]]
def shiftRows (l : List Nat) : List Nat := (List.range 16).map fun k => l.getD (k % 4 + 4 * ((k / 4 + k % 4) % 4)) 0
def invShiftRows (l : List Nat) : List Nat := (List.range 16).map fun k => l.getD (k % 4 + 4 * ((k / 4 + 4 - k % 4) % 4)) 0
def xorL (a b : List Nat) : List Nat := List.zipWith (· ^^^ ·) a b

/-- The next words of the key schedule, of which the last eight words are in `w` (32 bytes, newest last). -/
def expandKey : (n : Nat) → (i rc : Nat) → (w : List Nat) → List Nat
  | 0, _, _, _ => []
  | n + 1, i, rc, w =>
    let t := w.drop 28
    let t := if i % 8 = 0 then xorL ((t.drop 1 ++ t.take 1).map subB) [rc, 0, 0, 0]
      else if i % 8 = 4 then t.map subB else t
    let x := xorL (w.take 4) t
    x ++ expandKey n (i + 1) (if i % 8 = 0 then xtime rc else rc) (w.drop 4 ++ x)
/-- The fifteen round keys, 240 bytes. -/
def roundKeys (key : List Nat) : List Nat := key ++ expandKey 52 8 1 key
def roundKey (ks : List Nat) (r : Nat) : List Nat := (ks.drop (16 * r)).take 16

def encRounds (ks : List Nat) : (n : Nat) → (r : Nat) → List Nat → List Nat
  | 0, _, s => s
  | n + 1, r, s =>
    let s := shiftRows (s.map subB)
    let s := if n = 0 then s else mixWith mixM 4 s
    encRounds ks n (r + 1) (xorL s (roundKey ks r))
def decRounds (ks : List Nat) : (n : Nat) → List Nat → List Nat
  | 0, s => s
  | n + 1, s =>
    let s := (invShiftRows s).map invSubB
    let s := xorL s (roundKey ks n)
    decRounds ks n (if n = 0 then s else mixWith invMixM 4 s)
def aesEnc (key blk : List Nat) : List Nat :=
  let ks := roundKeys key
  encRounds ks 14 1 (xorL blk (roundKey ks 0))
def aesDec (key blk : List Nat) : List Nat :=
  let ks := roundKeys key
  decRounds ks 14 (xorL blk (roundKey ks 14))

/-- `n` little-endian bytes of a number, as numbers. -/
def natBytes : (n : Nat) → Nat → List Nat
  | 0, _ => []
  | n + 1, v => v % 256 :: natBytes n (v / 256)
def bytesNat (l : List Nat) : Nat := l.foldr (fun b acc => b + 256 * acc) 0

/-- One 16-byte data unit of AES-256-XTS: a 512-bit key, its first half for the data, and a 128-bit tweak (R203). -/
def xtsEnc (key tweak : Nat) (blk : List Nat) : List Nat :=
  let t := aesEnc (natBytes 32 (key / 2 ^ 256)) (natBytes 16 tweak)
  xorL (aesEnc (natBytes 32 key) (xorL blk t)) t
def xtsDec (key tweak : Nat) (blk : List Nat) : List Nat :=
  let t := aesEnc (natBytes 32 (key / 2 ^ 256)) (natBytes 16 tweak)
  xorL (aesDec (natBytes 32 key) (xorL blk t)) t

/-! ### AES key wrap: semiblocks of 8 bytes, the most significant byte of a counter first -/

def be8 (n : Nat) : List Nat := (natBytes 8 n).reverse
/-- The wrapping function W over `a` and the list of semiblocks. -/
def kwSteps (key : List Nat) : (n : Nat) → (t : Nat) → (a : List Nat) → (rs : List (List Nat)) → List Nat × List (List Nat)
  | 0, _, a, rs => (a, rs)
  | n + 1, t, a, rs =>
    match rs with
    | [] => (a, rs)
    | r :: rs =>
      let b := aesEnc key (a ++ r)
      kwSteps key n (t + 1) (xorL (b.take 8) (be8 t)) (rs ++ [b.drop 8])
def kwUnsteps (key : List Nat) : (n : Nat) → (a : List Nat) → (rs : List (List Nat)) → List Nat × List (List Nat)
  | 0, a, rs => (a, rs)
  | n + 1, a, rs =>
    match rs.getLast? with
    | none => (a, rs)
    | some r =>
      let b := aesDec key (xorL a (be8 (n + 1)) ++ r)
      kwUnsteps key n (b.take 8) (b.drop 8 :: rs.dropLast)
def chunks8 : (n : Nat) → List Nat → List (List Nat)
  | 0, _ => []
  | n + 1, l => l.take 8 :: chunks8 n (l.drop 8)
/-- Wraps 64 bytes into 72. -/
def keyWrap (key data : List Nat) : List Nat :=
  let r := kwSteps key 48 1 (List.replicate 8 0xA6) (chunks8 8 data)
  r.1 ++ r.2.flatten
/-- Unwraps 72 bytes, or none when the check fails. -/
def keyUnwrap (key blob : List Nat) : Option (List Nat) :=
  let r := kwUnsteps key 48 (blob.take 8) (chunks8 8 (blob.drop 8))
  if r.1 = List.replicate 8 0xA6 then some r.2.flatten else none

/-! ### AES-256-GCM (NIST SP 800-38D), its blocks as big-endian numbers: bit 127 is GCM's bit 0 -/

def beBytes (n v : Nat) : List Nat := (natBytes n v).reverse
def beNat (l : List Nat) : Nat := bytesNat l.reverse
/-- Multiplication in GF(2^128): `n` bits of `x` are left, from the top. -/
def gfMul : (n : Nat) → (x v z : Nat) → Nat
  | 0, _, _, z => z
  | n + 1, x, v, z =>
    gfMul n x (v / 2 ^^^ (if v % 2 = 1 then 0xE1 * 2 ^ 120 else 0)) (if (x / 2 ^ n) % 2 = 1 then z ^^^ v else z)
/-- Blocks of 16 bytes, the last padded with zeros. -/
def blocks16 : (n : Nat) → List Nat → List (List Nat)
  | 0, _ => []
  | n + 1, l => ((l ++ List.replicate 16 0).take 16) :: blocks16 n (l.drop 16)
def padded16 (l : List Nat) : List (List Nat) := blocks16 ((l.length + 15) / 16) l
/-- GHASH of additional data and ciphertext under the hash key. -/
def ghash (h : Nat) (aad ct : List Nat) : Nat :=
  (padded16 aad ++ padded16 ct ++ [beBytes 8 (8 * aad.length) ++ beBytes 8 (8 * ct.length)]).foldl
    (fun y b => gfMul 128 (y ^^^ beNat b) h 0) 0
/-- Bytes through the counter mode, from counter `c` on; its own inverse. -/
def gcmCtr (key iv : List Nat) : (c : Nat) → List (List Nat) → List Nat
  | _, [] => []
  | c, b :: bs => xorL b (aesEnc key (iv ++ beBytes 4 (c % 2 ^ 32))) ++ gcmCtr key iv (c + 1) bs
/-- The ciphertext, or the plaintext, of some bytes: a 256-bit key, a 12-byte nonce. -/
def gcmText (key iv text : List Nat) : List Nat := (gcmCtr key iv 2 (padded16 text)).take text.length
/-- The 16-byte tag over additional data and ciphertext. -/
def gcmTag (key iv aad ct : List Nat) : List Nat :=
  xorL (beBytes 16 (ghash (beNat (aesEnc key (List.replicate 16 0))) aad ct)) (aesEnc key (iv ++ [0, 0, 0, 1]))

/-! ### SHAKE256 -/

def keccakRC : List (BitVec 64) :=
  [0x1, 0x8082, 0x800000000000808a, 0x8000000080008000, 0x808b, 0x80000001, 0x8000000080008081, 0x8000000000008009, 0x8a, 0x88, 0x80008009, 0x8000000a] ++
  [0x8000808b, 0x800000000000008b, 0x8000000000008089, 0x8000000000008003, 0x8000000000008002, 0x8000000000000080, 0x800a, 0x800000008000000a, 0x8000000080008081, 0x8000000000008080, 0x80000001, 0x8000000080008008]
def keccakRot : List Nat := [0, 1, 62, 28, 27, 36, 44, 6, 55, 20, 3, 10, 43, 25, 39, 41, 45, 15, 21, 8, 18, 2, 61, 56, 14]

/-- One round of Keccak-f[1600] on 25 lanes, lane x + 5y. -/
def keccakRound (a : List (BitVec 64)) (rc : BitVec 64) : List (BitVec 64) :=
  let g (l : List (BitVec 64)) (k : Nat) : BitVec 64 := l.getD k 0
  let c := (List.range 5).map fun x => g a x ^^^ g a (x + 5) ^^^ g a (x + 10) ^^^ g a (x + 15) ^^^ g a (x + 20)
  let d := (List.range 5).map fun x => g c ((x + 4) % 5) ^^^ (g c ((x + 1) % 5)).rotateLeft 1
  let t := (List.range 25).map fun k => (g a k ^^^ g d (k % 5)).rotateLeft (keccakRot.getD k 0)
  -- lane (x, y) moves to (y, 2x + 3y)
  let b := (List.range 25).map fun k =>
    let X := k % 5
    let Y := k / 5
    g t ((X + 3 * Y) % 5 + 5 * X)
  let e := (List.range 25).map fun k =>
    let y5 := k / 5 * 5
    g b k ^^^ (~~~(g b ((k + 1) % 5 + y5)) &&& g b ((k + 2) % 5 + y5))
  match e with
  | e0 :: es => (e0 ^^^ rc) :: es
  | [] => []
def keccakF (a : List (BitVec 64)) : List (BitVec 64) := keccakRC.foldl keccakRound a

/-- Absorbs 136-byte blocks. -/
def absorb : (n : Nat) → List (BitVec 64) → List Nat → List (BitVec 64)
  | 0, a, _ => a
  | n + 1, a, m =>
    let blk := (List.range 25).map fun k =>
      if k < 17 then BitVec.ofNat 64 (bytesNat ((m.drop (8 * k)).take 8)) else 0#64
    absorb n (keccakF (List.zipWith (· ^^^ ·) a blk)) (m.drop 136)
def squeeze : (n : Nat) → List (BitVec 64) → List Nat
  | 0, _ => []
  | n + 1, a => (a.take 17).flatMap (fun w => natBytes 8 w.toNat) ++ squeeze n (keccakF a)
/-- `n` bytes of SHAKE256. -/
def shake256 (msg : List Nat) (n : Nat) : List Nat :=
  let blocks := msg.length / 136 + 1
  let padLen := blocks * 136 - msg.length
  let pad := if padLen = 1 then [0x9F] else 0x1F :: (List.replicate (padLen - 2) 0 ++ [0x80])
  (squeeze (n / 136 + 1) (absorb blocks (List.replicate 25 0) (msg ++ pad))).take n
/-- SHAKE256 of bytes. -/
def shakeB (msg : List Byte) (n : Nat) : List Byte :=
  (shake256 (msg.map (·.toNat)) n).map (BitVec.ofNat 8)

end Sys2Proof.Machine
end

