-- ==== Sys2Proof/Machine/Fabric.lean ====
section
/-! DEFINITION. The Guestus fabric as its transmitter sees it: planes, transactions, flits, windows of streams, and the
requests that leave this module (spec/17_links.md R371, R375 to R381). -/
namespace Sys2Proof.Machine

/-! ### Planes and ports (R377, R381) -/

/-- The hash of a peer address (R377). -/
def planeHash (a : Nat) : Nat := (List.range 13).foldl (fun h i => h ^^^ bits a (4 * i + 7) 4) 0
def State.planeOf (s : State) (a : Nat) : Nat := s.links.prt.getD (planeHash (a % 2 ^ 57)) 0
/-- A port of this module carries traffic (R376, R398). -/
def State.portUp (s : State) (n : Nat) : Bool := (s.map.unit (363 + n)).1 = 0
def State.port (s : State) (n : Nat) : LinkPort := s.links.ports.getD n {}
def State.setPort (s : State) (n : Nat) (p : LinkPort) : State := { s with links := { s.links with ports := s.links.ports.set n p } }

/-! ### Paths between the dies (R13, R372, R373) -/

/-- A group of four UCIe modules with one that is not lost: groups 0 to 3 join C`g` to the next die of the ring, 4 to 7
join C`g - 4` to its link die. -/
def groupLive (us : List (Nat × Nat)) (g : Nat) : Bool := (List.range 4).any fun i => (us.getD (328 + 4 * g + i) (3, 0)).1 ≠ 3
/-- Two compute dies have a path, one way round the ring or the other. -/
def ringJoined (us : List (Nat × Nat)) (a b : Nat) : Bool :=
  a = b || ((List.range ((b + 4 - a) % 4)).all fun i => groupLive us ((a + i) % 4))
    || (List.range ((a + 4 - b) % 4)).all fun i => groupLive us ((b + i) % 4)
/-- A compute die has a path to a link die: by its own group, or round the ring to a die that the link die serves. -/
def linkJoined (us : List (Nat × Nat)) (d l : Nat) : Bool :=
  [2 * l, 2 * l + 1].any fun e => groupLive us (4 + e) && ringJoined us d e
/-- The groups from one compute die to another round the ring: the way R373 names first, else the other; none is left when both
are cut. The two-hop pairs meet through C1 (C0 and C2) and C2 (C1 and C3). -/
def ringRoute (us : List (Nat × Nat)) (a b : Nat) : Option (List Nat) :=
  let up := (List.range ((b + 4 - a) % 4)).map fun i => (a + i) % 4
  let down := (List.range ((a + 4 - b) % 4)).map fun i => (a + 3 - i) % 4
  let ways := if up.length = 1 || (up.length = 2 && a < 2) then [up, down] else [down, up]
  if a = b then some [] else ways.find? fun w => w.all (groupLive us)
/-- The groups from a compute die to a link die: its own group, or through the ring neighbour that shares the link die (R373). To
the link die of the other pair it goes over the ring first, to the die next to it (assumption log 32). -/
def linkRoute (us : List (Nat × Nat)) (d l : Nat) : Option (List Nat) :=
  (if d / 2 = l then [d, d ^^^ 1] else [3 - d, (3 - d) ^^^ 1]).findSome? fun e =>
    if groupLive us (4 + e) then (ringRoute us d e).map (· ++ [4 + e]) else none
/-- The groups that a transaction travels between two dies, compute dies 0 to 3 and link dies 4 and 5 (R373). -/
def route (us : List (Nat × Nat)) (a b : Nat) : Option (List Nat) :=
  if a < 4 && b < 4 then ringRoute us a b
  else if a < 4 then linkRoute us a (b - 4)
  else if b < 4 then (linkRoute us b (a - 4)).map List.reverse
  else none
/-- The module of a group that a transaction travels: ADDR[8:7] xor ADDR[10:9], or the next live one after it (R373). -/
def pickModule (us : List (Nat × Nat)) (g addr : Nat) : Option Nat :=
  ((List.range 4).map fun k => 4 * g + ((bits addr 7 2 ^^^ bits addr 9 2) + k) % 4).find? fun m => (us.getD (328 + m) (3, 0)).1 ≠ 3
/-- The pairs of dies that have a path: compute dies with one another, and with their link die. -/
def joinedPairs (us : List (Nat × Nat)) : List (Nat × Nat) :=
  ((List.range 4).flatMap fun a => ((List.range 4).filter fun b => a < b && ringJoined us a b).map fun b => (a, b)) ++
    ((List.range 4).filter fun d => linkJoined us d (d / 2)).map fun d => (d, 4 + d / 2)

/-- A value of a keyed list, 0 where it has none. -/
def assoc (l : List (Nat × Nat)) (k : Nat) : Nat := ((l.find? fun e => e.1 = k).map (·.2)).getD 0
def putAssoc (l : List (Nat × Nat)) (k v : Nat) : List (Nat × Nat) :=
  let r := l.filter fun e => e.1 ≠ k
  if v = 0 then r else r ++ [(k, v)]

/-- MIN(c, p), the sum of all, and the pool of a receive store (R381). -/
def State.minShare (s : State) (c p : Nat) : Nat := assoc s.links.mins (64 * c + p)
def State.minSum (s : State) : Nat := (s.links.mins.map (·.2)).sum
def State.poolSize (s : State) : Nat := 8192 - 256 - s.minSum

/-! ### Transactions (R371; the layout of data slots is the model's, assumption log 32) -/

/-- The fields of a transaction header. -/
structure TxHdr where
  addr : Nat := 0
  src  : Nat := 0
  tag  : Nat := 0
  part : Nat := 0
  asid : Nat := 0
  at_  : Nat := 0
  aop  : Nat := 0
  ord  : Nat := 0
  sc   : Nat := 0
  len  : Nat := 0
  kind : Nat
  deriving DecidableEq, Repr
/-- The header's 16 bytes. -/
def TxHdr.bytes (h : TxHdr) : List Byte :=
  toBytes 16 (h.addr % 2 ^ 57 * 2 ^ 71 + h.src % 2 ^ 9 * 2 ^ 56 + h.tag % 2 ^ 16 * 2 ^ 40 + h.part % 64 * 2 ^ 34
    + h.asid % 1024 * 2 ^ 24 + h.at_ % 8 * 2 ^ 21 + h.aop % 16 * 2 ^ 17 + h.ord % 4 * 2 ^ 15 + h.sc % 8 * 2 ^ 12
    + h.len % 16 * 2 ^ 8 + h.kind % 256)
/-- The fields of 16 bytes. -/
def TxHdr.of (b : List Byte) : TxHdr :=
  let n := field b 0 16
  { addr := bits n 71 57, src := bits n 56 9, tag := bits n 40 16, part := bits n 34 6, asid := bits n 24 10, at_ := bits n 21 3
    aop := bits n 17 4, ord := bits n 15 2, sc := bits n 12 3, len := bits n 8 4, kind := bits n 0 8 }
/-- The class of a KIND: 0 requests, 1 responses, 2 sync and arrivals, 3 management (R381). -/
def classOf (kind : Nat) : Nat := if 0x10 ≤ kind then 1 else if kind = 5 || kind = 6 then 2 else if 8 ≤ kind && kind ≠ 0x0A then 3 else 0
/-- Bytes padded to whole slots. -/
def toSlots (b : List Byte) : List Byte := padTo (16 * ceilDiv b.length 16) b
/-- A transaction's bytes: header and data slots. -/
def txBytes (h : TxHdr) (data : List Byte) : List Byte :=
  let d := toSlots data
  { h with len := d.length / 16 }.bytes ++ d

/-- A write's header and data: up to 16 bytes in each of its data slots, one for an ST (R400), with AOP the bytes of the last, less one. -/
def writeTx (h : TxHdr) (data : List Byte) : List Byte := txBytes { h with kind := 2, aop := (data.length + 15) % 16 } data
/-- The bytes that a write's header and data slots bring. -/
def TxHdr.writeSize (h : TxHdr) : Nat := 16 * (h.len - 1) + h.aop + 1
/-- The transaction of a request (R371, R400). A read's size stands in its data slot; an atomic's two operands, an arrival's or a parity
update's words are its data; ACQ and REL differ in ORD. -/
def State.reqTx (s : State) (q : OutReq) : List Byte :=
  let h : TxHdr := { addr := (q.rank + 1) * 2 ^ 48 + q.addr, src := s.rank, tag := q.id
                     part := ((s.ctx? q.asid).map (·.part)).getD 0, asid := q.asid, kind := 0 }
  match q.kind with
  | 0 => txBytes { h with kind := 1 } (toBytes 16 q.size)
  | 1 => writeTx h q.data
  | 2 => txBytes { h with kind := 3, aop := q.op, at_ := q.at_, ord := q.ord, sc := q.sc } q.data
  | 3 => txBytes { h with kind := 4, aop := q.op, at_ := q.at_, ord := q.ord, sc := q.sc } q.data
  | 7 => txBytes { h with kind := 6, sc := q.sc } q.data
  | 8 => txBytes { h with kind := 0x0A } q.data
  | k => txBytes { h with kind := 5, ord := if k = 6 then 2 else 1, sc := q.sc } []
/-- Slots of the response that a request expects. -/
def OutReq.respSlots (q : OutReq) : Nat :=
  match q.kind with | 0 => ceilDiv q.size 128 + ceilDiv q.size 16 | 2 | 5 | 6 => 2 | _ => 1

/-! ### Windows and flits of the transmitter (R376, R379) -/

/-- The outstanding request that a response names: its tag, its rank and its plane. -/
def State.outOf (s : State) (plane : Nat) (h : TxHdr) : Option OutReq :=
  s.links.out.find? fun q => q.id % 2 ^ 16 = h.tag && q.rank = h.src && q.sent = some plane
/-- The partition of the context that a request is for. -/
def State.partOf (s : State) (q : OutReq) : Nat := ((s.ctx? q.asid).map (·.part)).getD 0
/-- The use of this module's own receive store at a port, as (c, p) and slots: what has come in, and the space reserved for the
responses still to come (R381). -/
def State.storeUse (s : State) (plane : Nat) : List (Nat × Nat) :=
  ((s.links.rxWins.filter fun w => w.plane = plane).flatMap fun w =>
    (w.txs.filter fun t => w.cls ≠ 1 || (s.outOf plane (TxHdr.of t)).isNone).map fun t => (64 * w.cls + (TxHdr.of t).part, t.length / 16)) ++
  (s.links.out.filter fun q => q.sent = some plane).map fun q => (64 + s.partOf q, q.respSlots)
/-- Slots of the pool that some use of a store takes: of each (c, p) what is above its reserve (R381). -/
def State.poolTaken (s : State) (use : List (Nat × Nat)) : Nat :=
  ((use.map (·.1)).eraseDups.map fun k => ((use.filter fun e => e.1 = k).map (·.2)).sum - assoc s.links.mins k).sum
/-- POOL_FULL of a port: fewer than 1,024 slots of its pool are free (R381). -/
def State.poolFull (s : State) (plane : Nat) : Bool := s.poolSize < s.poolTaken (s.storeUse plane) + 1000 + 24

/-- CRC-64 of R375. -/
def crcStep (r : BitVec 64) (b : Byte) : BitVec 64 :=
  (List.range 8).foldl (fun (r : BitVec 64) _ => if r.getLsbD 0 then (r >>> 1) ^^^ 0xC96C5795D7870F42#64 else r >>> 1) (r ^^^ b.zeroExtend 64)
def crc64 (bs : List Byte) : BitVec 64 := ~~~(bs.foldl crcStep (BitVec.allOnes 64))
/-- The 256 bytes of a flit on the wire of a port (R375). -/
def State.flitBytes (s : State) (n : Nat) (f : Flit) : List Byte :=
  let p := s.port n
  let ack := (p.rxNext + 4095) % 4096
  let b := toBytes 2 (f.seq % 4096 + f.fk % 16 * 4096) ++ toBytes 2 (ack + b2n p.nakDue * 4096) ++ toBytes 4 (b2n (s.poolFull n)) ++ padTo 240 f.bytes
  b ++ toBytes 8 (crc64 b).toNat
/-- Flits are put on the link of a port, in order; the first carries a NAK that is owed (R375, R376). -/
def State.putWire (s : State) (n : Nat) (fs : List Flit) : State :=
  fs.foldl (fun (s : State) f => s.setPort n { s.port n with wire := (s.port n).wire ++ [s.flitBytes n f], nakDue := false }) s

/-- A flit goes out, or waits while 2,048 are unacknowledged (R376). -/
def LinkPort.send (p : LinkPort) (now fk : Nat) (b : List Byte) (dsts : List Nat := []) : LinkPort :=
  let f : Flit := { seq := p.txSeq % 4096, fk := fk, bytes := b, dsts := dsts }
  let p := { p with txSeq := (p.txSeq + 1) % 4096 }
  if p.queue.isEmpty && p.unacked.length < 2048 then
    { p with unacked := p.unacked ++ [f], lastAck := if p.unacked.isEmpty then now else p.lastAck }
  else { p with queue := p.queue ++ [f] }

/-- A port sends a flit: it goes on the link unless it must wait (R376). -/
def State.sendFlit (s : State) (n fk : Nat) (b : List Byte) : State :=
  let p := s.port n
  let s := s.setPort n (p.send s.ctl.devTime fk b)
  if p.queue.isEmpty && p.unacked.length < 2048 then s.putWire n [{ seq := p.txSeq % 4096, fk := fk, bytes := b }] else s
/-- A flit is discarded, and the port answers with a NAK, in an idle flit of its own (R376). -/
def State.sendNak (s : State) (n : Nat) : State := (s.setPort n { s.port n with nakDue := true }).sendFlit n 0 []

/-- The tag of a stream window under the key of a pair of modules: the GMAC of AES-256-GCM over its slots; `src` and `dst` are
ranks (R379). How the nonce's parts lie in its 96 bits is not stated (assumption log 5). -/
def State.tagOf (s : State) (other src dst plane cls num : Nat) (slots : List Byte) : Nat :=
  bytesNat (gcmTag (natBytes 32 (assoc s.links.keys other)) (beBytes 12 (Config.streamNonce [src, dst, plane, cls, num]))
    (slots.map (·.toNat)) [])

def TxWin.is (w : TxWin) (dst plane cls : Nat) : Bool := w.dst = dst && w.plane = plane && w.cls = cls
def State.txWin (s : State) (dst plane cls : Nat) : TxWin :=
  (s.links.txWins.find? fun w => w.is dst plane cls).getD { dst := dst, plane := plane, cls := cls }
def State.setTxWin (s : State) (w : TxWin) : State :=
  let l := s.links.txWins
  let l := if l.any fun v => v.is w.dst w.plane w.cls then l.map fun v => if v.is w.dst w.plane w.cls then w else v else l ++ [w]
  { s with links := { s.links with txWins := l } }

/-- Slots of class 3 in use at the receiver of a port: it has 256 of its own (R381). -/
def LinkPort.mgmt (p : LinkPort) : Nat := ((p.used.filter fun e => e.1 / 64 = 3).map (·.2)).sum
/-- A transaction is put into a flit, unless it is a tag for which class 3 has no room, or stands behind one (R381). -/
def State.sendSlots (s : State) (plane dst : Nat) (tx : List Byte) : State :=
  let p := s.port plane
  let tag := (TxHdr.of tx).kind = 0x0B
  let n := tx.length / 16
  if (s.links.late.any fun e => e.1 = plane) || (tag && 256 < p.mgmt + n) then
    { s with links := { s.links with late := s.links.late ++ [(plane, dst, tx)] } }
  else (if tag then s.setPort plane { p with used := putAssoc p.used 192 (assoc p.used 192 + n) } else s).sendFlit plane 1 tx
/-- What waited behind a tag leaves, in its order, as far as class 3 has room (R381). -/
def State.sendLate (s : State) : State :=
  s.links.late.foldl (fun (s : State) e => s.sendSlots e.1 e.2.1 e.2.2) { s with links := { s.links with late := [] } }
/-- Closes a window that has slots: its tag transaction is sent, in AOP the class of the stream (R379). -/
def State.closeWin (s : State) (w : TxWin) : State :=
  if w.slots.isEmpty then s
  else
    let tag := s.tagOf w.dst s.rank w.dst w.plane w.cls w.num w.slots
    let tx := txBytes { addr := w.num, src := s.rank, aop := w.cls, kind := 0x0B } (toBytes 16 tag)
    (s.sendSlots w.plane w.dst tx).setTxWin { w with num := (w.num + 1) % 2 ^ 57, slots := [] }
/-- A transaction goes out on a plane to a rank: it joins its stream's window, which closes at 240 slots (R379). -/
def State.sendTx (s : State) (plane dst : Nat) (tx : List Byte) : State :=
  let cls := classOf (TxHdr.of tx).kind
  let s := s.sendSlots plane dst tx
  if cls = 3 then s
  else
    let w := s.txWin dst plane cls
    let w := { w with slots := w.slots ++ tx, start := if w.slots.isEmpty then s.ctl.cycle else w.start }
    if 3840 ≤ w.slots.length then s.closeWin w else s.setTxWin w

/-! ### Requests that leave (R378, R381) -/

/-- Whether a request may be sent on a plane now: its port is up, its slots fit the reserve of its (c, p) at the receiver or the
receiver's pool is not full, and its response has space in this module's own store, in its reserve or in the pool (R381, R382). -/
def State.canSend (s : State) (plane : Nat) (q : OutReq) : Bool :=
  let p := s.port plane
  let part := s.partOf q
  let c := classOf (TxHdr.of (s.reqTx q)).kind
  let n := (s.reqTx q).length / 16
  let use := s.storeUse plane
  let after := s.poolTaken (use ++ [(64 + part, q.respSlots)])
  s.portUp plane && p.unacked.length < 2048 && !(s.links.late.any fun e => e.1 = plane) &&
    (assoc p.used (64 * c + part) + n ≤ s.minShare c part || !p.poolFull) &&
    (after ≤ s.poolTaken use || after ≤ s.poolSize)
def State.sendReqTx (s : State) (plane : Nat) (q : OutReq) : State :=
  let tx := s.reqTx q
  let k := 64 * classOf (TxHdr.of tx).kind + s.partOf q
  let p := s.port plane
  let s := s.setPort plane { p with used := putAssoc p.used k (assoc p.used k + tx.length / 16) }
  { s with links := { s.links with out := s.links.out.map fun (r : OutReq) => if r.id = q.id then { r with sent := some plane } else r } }.sendTx plane q.rank tx
/-- The full peer address of a request. -/
def OutReq.peer (q : OutReq) : Nat := (q.rank + 1) * 2 ^ 48 + q.addr
/-- Waiting requests are sent, oldest first; one that must wait stops the later ones of its plane, class and partition, and no
other partition's (R378, R382). -/
def State.pump (s : State) : State :=
  let s := s.sendLate
  let w := s.links.out.filter fun q => q.sent.isNone
  (w.foldl (fun (acc : State × List (Nat × Nat × Nat)) q =>
    let k := (acc.1.planeOf q.peer, classOf (TxHdr.of (acc.1.reqTx q)).kind, acc.1.partOf q)
    if acc.2.contains k then acc
    else if acc.1.canSend k.1 q then (acc.1.sendReqTx k.1 q, acc.2)
    else (acc.1, acc.2 ++ [k])) (s, [])).1
/-- A request joins those outstanding, and leaves when it can. -/
def State.pushOut (s : State) (q : OutReq) : State := { s with links := { s.links with out := s.links.out ++ [q] } }.pump

/-! ### Answers to requests that came in (R371, R373) -/

/-- Where a transaction came in: a fabric plane, or one direction of a UCIe module. -/
inductive Via where
  | fabric (plane : Nat)
  | die (k : Nat)
  deriving DecidableEq, Repr

/-- A plane, or 16 more than a direction, as what waits here notes where it came in. -/
def Via.num : Via → Nat
  | .fabric p => p
  | .die k => 16 + k
def Via.of (n : Nat) : Via := if n < 16 then .fabric n else .die (n - 16)

/-- One direction of a UCIe module: `2 × module`, and one more for the way down the ring or in from the link die. -/
def State.ucie (s : State) (k : Nat) : LinkPort := s.links.ucie.getD k {}
def State.setUcie (s : State) (k : Nat) (p : LinkPort) : State := { s with links := { s.links with ucie := s.links.ucie.set k p } }
/-- The dies that a direction leads to and comes from. -/
def farDie (k : Nat) : Nat :=
  let g := k / 8
  if g < 4 then (if k % 2 = 0 then (g + 1) % 4 else g) else if k % 2 = 0 then 4 + (g - 4) / 2 else g - 4
def nearDie (k : Nat) : Nat := farDie (k ^^^ 1)
/-- The flit that is being filled leaves (R400). -/
def LinkPort.close (p : LinkPort) (now : Nat) : LinkPort :=
  if p.fill.isEmpty then p else { p.send now 1 (p.fill.flatMap (·.2)) (p.fill.map (·.1)) with fill := [] }
def LinkPort.filled (p : LinkPort) : Nat := (p.fill.map fun e => e.2.length).sum
/-- The adapter packs a transaction into the 15 slots of a flit: none straddles two, and a full one leaves (R400). -/
def LinkPort.pack (p : LinkPort) (now dst : Nat) (tx : List Byte) : LinkPort :=
  let p := if 240 < p.filled + tx.length then p.close now else p
  let p := { p with fill := p.fill ++ [(dst, tx)] }
  if 240 ≤ p.filled then p.close now else p
/-- A transaction leaves die `here` for die `dst`: by the module that serves its line in the first group of its path. None when no path
is left (R373). -/
def State.sendDie (s : State) (here dst : Nat) (tx : List Byte) : Option State :=
  match route s.map.units here dst with
  | some (g :: _) => (pickModule s.map.units g (TxHdr.of tx).addr).map fun m =>
    let k := 2 * m + (if nearDie (2 * m) = here then 0 else 1)
    s.setUcie k ((s.ucie k).pack s.ctl.devTime dst tx)
  | _ => none
/-- Where a cycle has ended, the flits that have been begun leave (R400). -/
def State.endCycle (s : State) (ended : Bool) : State :=
  { s with links := { s.links with ucie := s.links.ucie.map fun p => if p.fill.isEmpty || !ended then p else p.close s.ctl.devTime } }
/-- The die that a transaction between dies is for: of sync space the die it names, of device memory the die of its stack. -/
def TxHdr.die (h : TxHdr) : Nat := if h.kind = 5 || bit h.addr 56 then h.addr % 2 ^ 56 / 2 ^ 40 % 4 else h.addr / 2 ^ 37 % 4
/-- An answer goes back to where its request came from. -/
def State.reply (s : State) (via : Via) (h : TxHdr) (kind : Nat) (data : List Byte) : State :=
  let r : TxHdr := { addr := h.addr, src := s.rank, tag := h.tag, part := h.part, asid := h.asid, kind := kind }
  match via with
  | .fabric p => s.sendTx p h.src (txBytes r data)
  | .die k => (s.sendDie (farDie k) h.src (txBytes { r with src := farDie k } data)).getD s
def State.replyErr (s : State) (via : Via) (h : TxHdr) (code : Nat) : State := s.reply via h 0x13 (toBytes 16 code)
/-- Read data, at most 8 slots in a transaction. -/
def State.replyData (s : State) (via : Via) (h : TxHdr) : (fuel : Nat) → List Byte → State
  | 0, _ => s
  | n + 1, b =>
    let s := s.reply via h 0x10 (b.take 128)
    if b.length ≤ 128 then s else s.replyData via h n (b.drop 128)
/-- A flit that the far adapter of a direction has accepted, by its own number or by that of the module that handed it over (R374). -/
def State.accepted (s : State) (k : Nat) (f : Flit) : Bool :=
  2048 ≤ (f.seq + 4096 - (s.ucie (if f.from_ = 0 then k else f.from_ - 1)).rxNext) % 4096
/-- The flit that comes in next by a direction: the first it has sent that has not been accepted. -/
def State.nextFlit (s : State) (k : Nat) : Option Flit := (s.ucie k).unacked.find? fun f => !s.accepted k f
/-- A ticket command of another die is answered: its result, or its error (R258, R261, R371). -/
def State.answerDie (s : State) (id : Nat) (res : Except Nat (List Byte)) : State :=
  match s.links.dieReqs.find? fun r => r.id = id with
  | none => s
  | some r =>
    let h := TxHdr.of r.tx
    let s := { s with links := { s.links with dieReqs := s.links.dieReqs.filter fun x => x.id ≠ id } }
    match res with
    | .ok b => s.reply (.die r.module) h 0x12 b
    | .error c => s.replyErr (.die r.module) h c
/-- Ticket commands of other dies whose network is lost are answered so. -/
def State.answerLost (s : State) : State := (s.links.dieReqs.filter fun r => r.code ≠ 0).foldl (fun s r => s.answerDie r.id (.error r.code)) s

end Sys2Proof.Machine
end

