-- ==== Sys2Proof/Machine/MemOps.lean ====
section
/-! DEFINITION. Memory: the canonical cell list, the memory controllers with keys, scrub bits and poison, the caches,
translation, the checks of an access, and one access of a thread (spec/08_memory.md R192 to R212, R428;
spec/10_sync.md R245, R246). -/
namespace Sys2Proof.Machine

/-! ### The cell list: addresses strictly rising, no byte equal to what an unlisted address reads as, which is 0 -/

def cellGet : List Host.Cell → Nat → Byte
  | [], _ => 0
  | (k, v) :: r, a => if a < k then 0 else if a = k then v else cellGet r a
def cellPut : List Host.Cell → Nat → Byte → List Host.Cell
  | [], a, v => if v = 0 then [] else [(a, v)]
  | (k, w) :: r, a, v =>
    if a < k then (if v = 0 then (k, w) :: r else (a, v) :: (k, w) :: r)
    else if a = k then (if v = 0 then r else (a, v) :: r)
    else (k, w) :: cellPut r a v
/-- The canonical form, with every address at or above `lo`. -/
def Memory.wfFrom : Nat → List Host.Cell → Bool
  | _, [] => true
  | lo, (k, v) :: r => lo ≤ k && v ≠ 0 && Memory.wfFrom (k + 1) r
/-- The canonical form of a memory. -/
def Memory.wf (m : List Host.Cell) : Bool := Memory.wfFrom 0 m

def cellsGet (m : List Host.Cell) (a : Nat) : Nat → List Byte
  | 0 => []
  | n + 1 => cellGet m a :: cellsGet m (a + 1) n
def cellsPut (m : List Host.Cell) (a : Nat) : List Byte → List Host.Cell
  | [] => m
  | b :: bs => cellsPut (cellPut m a b) (a + 1) bs

/-! ### Physical device memory as it is stored -/

def State.phys (s : State) (a n : Nat) : List Byte := cellsGet s.mem.phys a n
/-- What the walkers and the scheduler read of the protected region and the tables: a scrub-pending page reads as zero (R205). -/
def State.physNat (s : State) (a n : Nat) : Nat := if s.mem.scrub.contains (a / 65536) then 0 else ofBytes (s.phys a n)
/-- Bytes stored as they are, with no dirty bit: what hardware writes in the protected region. -/
def State.poke (s : State) (a : Nat) (bs : List Byte) : State :=
  { s with mem := { s.mem with phys := cellsPut s.mem.phys a bs } }
/-- Where a dirty bitmap copy lies (R196). -/
def dirtyBase (copy : Nat) : Nat := if copy = 0 then 0x400000 else 0x500000
/-- The bit of page `p` in the active copy is set (R207). -/
def State.setDirty (s : State) (p : Nat) : State :=
  let a := dirtyBase s.mem.dirtyActive + p / 8
  let b := cellGet s.mem.phys a
  if b.getLsbD (p % 8) then s else s.poke a [b ||| BitVec.ofNat 8 (2 ^ (p % 8))]
/-- A scrub-pending page of the protected region that hardware writes is swept first: zeroed, its poison gone (R205). -/
def State.sweepRaw (s : State) (p : Nat) : State :=
  if s.mem.scrub.contains p then
    { s with mem := { s.mem with
        phys := s.mem.phys.filter fun c => c.1 / 65536 ≠ p
        scrub := s.mem.scrub.filter (· ≠ p)
        poison := s.mem.poison.filter fun b => b / 4096 ≠ p } }.setDirty p
  else s
/-- A write to a page sets its bit in the active copy, whose own pages are swept where a scrub is pending (R205, R207). -/
def State.markDirty (s : State) (pa : Nat) : State :=
  let p := pa / 65536
  let base := dirtyBase s.mem.dirtyActive
  ((s.sweepRaw (base / 65536)).sweepRaw ((base + p / 8) / 65536)).setDirty p
def State.scrubPending (s : State) (pa : Nat) : Bool := s.mem.scrub.contains (pa / 65536)
/-- A poisoned block, or any block of a stack that is lost (R206, R417). -/
def State.poisoned (s : State) (pa : Nat) : Bool :=
  s.mem.poison.contains (pa / 16) || (s.map.unit (321 + pa / 2 ^ 36 % 8)).1 = 3

/-! ### Keys (R202 to R204) -/

/-- The key slot an access takes: the record's for the owner, else the slot not dropped that its context holds bound to the
buffer (R202). -/
def State.slotFor (s : State) (asid : Nat) (l : Leaf) : Option Nat :=
  if asid = l.br.owner then some l.br.key
  else (s.mem.keySlots.find? fun k => k.owner = asid && k.buf = some l.buf && !k.dropped).map (·.num)
/-- A slot first named by a record receives a key generated inside the module (R202). -/
def State.ensureKey (s : State) (asid : Nat) (l : Leaf) : State :=
  if asid ≠ l.br.owner || s.mem.keySlots.any (fun k => k.num = l.br.key) then s
  else
    { s with
      fresh := s.fresh + 1
      mem := { s.mem with keySlots := s.mem.keySlots ++
        [{ num := l.br.key, key := Config.freshKey s.fresh % 2 ^ 512, owner := asid }] } }
/-- The key of an access, if there is a slot and it is not dropped (R202). -/
def State.keyOf (s : State) (asid : Nat) (l : Leaf) : Option Nat :=
  match s.slotFor asid l with
  | none => none
  | some n =>
    match s.mem.keySlots.find? fun k => k.num = n with
    | some k => if k.dropped then none else some k.key
    | none => none
/-- DEFER of the buffer (R204). -/
def Leaf.defer (l : Leaf) : Bool := bit l.br.flags 1
/-- Whether stored bytes are the plain ones: untranslated, protected region, deferred (R196, R204, R428). -/
def Leaf.plain (l : Leaf) (pa : Nat) : Bool := l.raw || pa < 2 ^ 26 || l.defer
/-- The tweak of the block at a virtual address (R203). -/
def Leaf.tweak (l : Leaf) (va : Nat) : Nat := (va - l.br.base) / 16 % 2 ^ 64 + l.buf * 2 ^ 64
/-- What is stored for a block whose key is gone: free bytes, for the plaintext never leaves the chip (R203; assumption log 35). -/
def State.keyless (s : State) (pa : Nat) : List Byte :=
  (List.range 16).map fun i => BitVec.ofNat 8 (Config.freeValue (s.fresh * 2 ^ 48 + pa + i))
/-- A stored block made plain, and a plain block made ready to store. -/
def State.decBlock (s : State) (asid : Nat) (l : Leaf) (va pa : Nat) (b : List Byte) : List Byte :=
  if l.plain pa then b
  else match s.keyOf asid l with
    | some k => (xtsDec k (l.tweak va) (b.map (·.toNat))).map (BitVec.ofNat 8)
    | none => b
def State.encBlock (s : State) (asid : Nat) (l : Leaf) (va pa : Nat) (b : List Byte) : List Byte :=
  if l.plain pa then b
  else match s.keyOf asid l with
    | some k => (xtsEnc k (l.tweak va) (b.map (·.toNat))).map (BitVec.ofNat 8)
    | none => s.keyless pa

/-! ### Parity (spec/17_links.md R385, R399) -/

/-- PARITY of the buffer (R201). -/
def Leaf.parity (l : Leaf) : Bool := !l.raw && bit l.br.flags 2
/-- The parity group as PARITYCFG describes it: parity rank, number of data ranks, the members. -/
def parRank (d : Nat) : Nat := bits d 0 9
def parN (d : Nat) : Nat := bits d 9 4
def parData (d : Nat) : List Nat := (List.range (parN d)).map fun k => bits d (9 * k + 16) 9
def parMembers (d : Nat) : List Nat := if parN d = 0 then [] else parRank d :: parData d
/-- STATE of a rank entry (R383). -/
def State.rankState (s : State) (r : Nat) : Nat := bits (s.links.ranks.getD r 0).toNat 28 3
/-- This module holds its writes to PARITY buffers: a member of its group is lost or rebuilding, and it survives. -/
def State.parHold (s : State) : Bool :=
  let ms := parMembers s.links.parity
  ms.contains s.rank && s.rankState s.rank = 0 && ms.any fun r => s.rankState r = 1 || s.rankState r = 2
/-- A changed block of a PARITY buffer sends its delta to the parity rank. -/
def State.parDelta (s : State) (asid : Nat) (l : Leaf) (va : Nat) (old new : List Byte) : State :=
  if !l.parity || !(parData s.links.parity).contains s.rank || old = new then s
  else
    let d := List.zipWith (· ^^^ ·) old new
    let (id, s) := s.newUid
    s.pushOut { id := id, kind := 8, rank := parRank s.links.parity, addr := va % 2 ^ 48, size := 16, asid := asid
                data := toBytes 8 l.buf ++ toBytes 8 (va - l.br.base) ++ d }

/-! ### The memory controller: one 16-byte block, `va` and `pa` its first byte (R203 to R207) -/

/-- The plain bytes of a block; none when it is poisoned. -/
def State.ctlRead (s : State) (asid : Nat) (l : Leaf) (va pa : Nat) : Option (List Byte) :=
  if s.poisoned pa then none
  else if s.scrubPending pa then some (List.replicate 16 0)
  else some (s.decBlock asid l va pa (s.phys pa 16))

/-- A block is stored, enciphered; with `delta` a PARITY buffer's change is sent on (R203, R385). -/
def State.putBlock (s : State) (delta : Bool) (asid : Nat) (l : Leaf) (va pa : Nat) (new : List Byte) : State :=
  let old := if delta && l.parity then s.decBlock asid l va pa (s.phys pa 16) else new
  (s.poke pa (s.encBlock asid l va pa new)).parDelta asid l va old new
/-- The sweep of a scrub-pending page: zeroed under the key of the write that sweeps it (R205). It read as zero before, so that no
delta leaves. -/
def State.sweep (s : State) (asid : Nat) (l : Leaf) (va pa : Nat) : State :=
  let p := pa / 65536
  let p0 := p * 65536
  let v0 := va - pa % 65536
  let s := { s with mem := { s.mem with
    scrub := s.mem.scrub.filter (· ≠ p)
    poison := s.mem.poison.filter fun b => b / 4096 ≠ p } }
  let z : List Byte := List.replicate 16 0
  ((List.range 4096).foldl
    (fun s k => s.putBlock false asid l (v0 + 16 * k) (p0 + 16 * k) z) s).markDirty pa

/-- Bytes written over a block; a position with none keeps its byte. -/
def overlay (old : List Byte) (w : List (Option Byte)) : List Byte := List.zipWith (fun o n => n.getD o) old w
/-- A write of some bytes of a block; the Bool is false when poison turned it away (R205 to R207). A rebuild writes without delta. -/
def State.ctlWrite (s : State) (asid : Nat) (l : Leaf) (va pa : Nat) (w : List (Option Byte)) (delta : Bool := true) : State × Bool :=
  let full := w.all Option.isSome
  if s.poisoned pa && !full then (s, false)
  else
    let s := if s.scrubPending pa then s.sweep asid l va pa else s
    let old := if full then List.replicate 16 0 else s.decBlock asid l va pa (s.phys pa 16)
    let s := s.putBlock delta asid l va pa (overlay old w)
    let s := { s with mem := { s.mem with poison := s.mem.poison.filter (· ≠ pa / 16) } }
    (s.markDirty pa, true)
/-- `bs` at position `off` of a block, as what to write. -/
def blockOfBytes (off : Nat) (bs : List Byte) : List (Option Byte) :=
  (List.range 16).map fun i => if off ≤ i then bs[i - off]? else none

/-- Bytes that hardware of the module stores at a physical address as they are: fault-ring records and saved images. It is a
write like any other: it sweeps a scrub-pending page, clears poison where it is whole, and sets dirty bits (R205 to R207). -/
def State.hwWrite (s : State) : (fuel : Nat) → (a : Nat) → (bs : List Byte) → State
  | 0, _, _ => s
  | n + 1, a, bs =>
    if bs.isEmpty then s
    else
      let o := a % 16
      let k := 16 - o
      (s.ctlWrite oprAsid { lg := 39, addr := 0, kind := 0, r := true, w := true, x := true, buf := 0, br := {}, raw := true } (a - o) (a - o)
        (blockOfBytes o (bs.take k))).1.hwWrite n (a + k) (bs.drop k)

/-! ### Caches of 128-byte lines (R197) -/

def Line.is (x : Line) (unit pa asid buf : Nat) : Bool :=
  x.unit = unit && x.pa = pa && x.asid = asid && x.leaf.buf = buf
/-- Every byte of `n` from `off` is valid. -/
def Line.has (x : Line) (off n : Nat) : Bool := (List.range n).all fun i => x.valid.getLsbD (off + i)
/-- Bytes written into a line. -/
def Line.store (x : Line) (off : Nat) (bs : List Byte) : Line :=
  let m := lanesMask ((List.range bs.length).map (off + ·))
  { x with data := patch x.data off bs, valid := x.valid ||| m, dirty := x.dirty ||| m }
/-- Bytes that are not valid are filled in. -/
def Line.fill (x : Line) (off : Nat) (bs : List Byte) : Line :=
  (List.range bs.length).foldl (fun x i =>
    if x.valid.getLsbD (off + i) then x
    else { x with data := x.data.set (off + i) (bs.getD i 0), valid := x.valid ||| (1#128 <<< (off + i)) }) x
def newLine (unit pa asid va : Nat) (l : Leaf) : Line :=
  { unit := unit, pa := pa, asid := asid, va := va, leaf := l, data := List.replicate 128 0, valid := 0, dirty := 0 }
/-- The dirty bytes of block `k` of a line, as what to write. -/
def Line.dirtyBlock (x : Line) (k : Nat) : List (Option Byte) :=
  (List.range 16).map fun i => if x.dirty.getLsbD (16 * k + i) then some (x.data.getD (16 * k + i) 0) else none

/-- A slice line's dirty bytes reach the controller (R197, R206). -/
def State.wbSliceLine (s : State) (x : Line) : State :=
  (List.range 8).foldl (fun s k =>
    let w := x.dirtyBlock k
    if w.all Option.isNone then s else (s.ctlWrite x.asid x.leaf (x.va + 16 * k) (x.pa + 16 * k) w).1) s
/-- A dirty line that the controllers hold back for its parity group (R385). -/
def State.lineHeld (s : State) (x : Line) : Bool := x.dirty ≠ 0 && x.leaf.parity && s.parHold
/-- What a release at .dom waits for besides: deltas of the context that are not applied, and lines held back (R385). -/
def State.parBusy (s : State) (asid : Nat) : Bool :=
  (s.links.out.any fun q => q.kind = 8 && q.asid = asid) ||
    ((s.mem.l1 ++ s.mem.slice).any fun x => x.asid = asid && s.lineHeld x)
/-- Puts a line into its slice, evicting the oldest when the slice is full. -/
def State.putSlice (s : State) (x : Line) : State :=
  let others := s.mem.slice.filter fun y => !y.is x.unit x.pa x.asid x.leaf.buf
  let mine := others.filter fun y => y.unit = x.unit
  if mine.length < 16384 then { s with mem := { s.mem with slice := others ++ [x] } }
  else
    match (mine.filter fun y => !s.lineHeld y).head? with
    | none => { s with mem := { s.mem with slice := others ++ [x] } }
    | some old =>
      let s := s.wbSliceLine old
      { s with mem := { s.mem with
        slice := others.filter (fun y => !y.is old.unit old.pa old.asid old.leaf.buf) ++ [x] } }
/-- A line of the slice, new when it is not there. -/
def State.sliceLine (s : State) (unit pa asid va : Nat) (l : Leaf) : Line :=
  (s.mem.slice.find? fun y => y.is unit pa asid l.buf).getD (newLine unit pa asid va l)
/-- The dirty bytes of an L1 line reach the slice of its core (R197). -/
def State.wbL1Line (s : State) (x : Line) : State :=
  if x.dirty = 0 then s
  else
    let y := s.sliceLine (sliceOfCore x.unit) x.pa x.asid x.va x.leaf
    s.putSlice ((List.range 128).foldl (fun (y : Line) i =>
      if x.dirty.getLsbD i then y.store i [x.data.getD i 0] else y) y)
/-- Puts a line into its L1, evicting the oldest when the L1 is full. -/
def State.putL1 (s : State) (x : Line) : State :=
  let others := s.mem.l1.filter fun y => !y.is x.unit x.pa x.asid x.leaf.buf
  let mine := others.filter fun y => y.unit = x.unit
  if mine.length < 1024 then { s with mem := { s.mem with l1 := others ++ [x] } }
  else
    match mine.head? with
    | none => s
    | some old =>
      let s := s.wbL1Line old
      { s with mem := { s.mem with
        l1 := others.filter (fun y => !y.is old.unit old.pa old.asid old.leaf.buf) ++ [x] } }

/-- A slice line with its bytes fetched from the controllers; poisoned blocks stay out. -/
def State.fetchSlice (s : State) (unit pa asid va : Nat) (l : Leaf) : State × Line :=
  let x := s.sliceLine unit pa asid va l
  let x := (List.range 8).foldl (fun (x : Line) k =>
    if x.has (16 * k) 16 then x
    else match s.ctlRead asid l (va + 16 * k) (pa + 16 * k) with
      | some bs => x.fill (16 * k) bs
      | none => x) x
  (s.putSlice x, x)

/-- A read of a cached portion, through the slice alone (`eng`) or through the core's L1 (R197, R220). -/
def State.cacheRead (s : State) (eng : Bool) (core asid : Nat) (l : Leaf) (va pa n : Nat) : State × Option (List Byte) :=
  let off := pa % 128
  let la := pa - off
  let lv := va - off
  if eng then
    let x := s.sliceLine (sliceOfCore core) la asid lv l
    if x.has off n then (s, some (slice x.data off n))
    else
      let r := s.fetchSlice (sliceOfCore core) la asid lv l
      (r.1, if r.2.has off n then some (slice r.2.data off n) else none)
  else
    let x := (s.mem.l1.find? fun y => y.is core la asid l.buf).getD (newLine core la asid lv l)
    if x.has off n then (s, some (slice x.data off n))
    else
      let r := s.fetchSlice (sliceOfCore core) la asid lv l
      let x := (List.range 128).foldl (fun (x : Line) i =>
        if r.2.valid.getLsbD i then x.fill i [r.2.data.getD i 0] else x) x
      (r.1.putL1 x, if x.has off n then some (slice x.data off n) else none)
/-- A write of a cached portion: it allocates its line without fetching it (R197). -/
def State.cacheWrite (s : State) (eng : Bool) (core asid : Nat) (l : Leaf) (va pa : Nat) (bs : List Byte) : State :=
  let off := pa % 128
  let la := pa - off
  let lv := va - off
  let s := if eng then s.putSlice ((s.sliceLine (sliceOfCore core) la asid lv l).store off bs)
    else
      let x := (s.mem.l1.find? fun y => y.is core la asid l.buf).getD (newLine core la asid lv l)
      s.putL1 (x.store off bs)
  s.markDirty pa

/-- Sets scrub-pending on a page; every cached copy of its lines goes without write-back (R205). -/
def State.setScrub (s : State) (page : Nat) : State :=
  let keep (x : Line) : Bool := x.pa / 65536 ≠ page
  { s with mem := { s.mem with
    scrub := if s.mem.scrub.contains page then s.mem.scrub else s.mem.scrub ++ [page]
    l1 := s.mem.l1.filter keep, slice := s.mem.slice.filter keep } }

/-! ### Sync storage (spec/10_sync.md R245, R246) -/

/-- The backing of offset `o` of die `d`. -/
def syncBacking (d o : Nat) : Nat := (2 * d + 1) * 2 ^ 36 + 2 ^ 36 - 2 ^ 32 + o
/-- A line of an engine's SRAM goes back to its backing. -/
def State.wbSram (s : State) (x : SramLine) : State :=
  (List.range 4).foldl (fun s k =>
    (s.ctlWrite x.asid x.leaf (x.va + 16 * k) (syncBacking x.die x.off + 16 * k)
      ((slice x.data (16 * k) 16).map some)).1) s
/-- Makes a line the most recently used of its die's SRAM, evicting the least recently used when it is full; only a dirty line is
written back (R246). -/
def State.putSram (s : State) (x : SramLine) : State :=
  let others := s.mem.sram.filter fun y => !(y.die = x.die && y.off = x.off)
  let mine := others.filter fun y => y.die = x.die
  if mine.length < 65536 then { s with mem := { s.mem with sram := others ++ [x] } }
  else
    match mine.head? with
    | none => s
    | some old =>
      let s := if old.dirty then s.wbSram old else s
      { s with mem := { s.mem with sram := others.filter (fun y => !(y.die = old.die && y.off = old.off)) ++ [x] } }
/-- A held line is the one that an access means: the same key makes its bytes plain (R202, R203). -/
def State.sameKey (s : State) (x : SramLine) (asid : Nat) (l : Leaf) : Bool :=
  x.leaf.buf = l.buf && x.leaf.br.base = l.br.base && x.leaf.defer = l.defer && s.keyOf x.asid x.leaf = s.keyOf asid l
/-- A line held under another key leaves the SRAM before an access reaches its word: no plaintext passes from one key to another. -/
def State.sramPart (s : State) (asid : Nat) (l : Leaf) (d o : Nat) : State :=
  match s.mem.sram.find? fun y => y.die = d && y.off = o / 64 * 64 && !s.sameKey y asid l with
  | none => s
  | some x =>
    let s := if x.dirty then s.wbSram x else s
    { s with mem := { s.mem with sram := s.mem.sram.filter fun y => !(y.die = x.die && y.off = x.off) } }
/-- The line of a sync word, fetched from its backing on a miss; none when a block of it is poisoned. -/
def State.sramLine (s : State) (asid : Nat) (l : Leaf) (va d o : Nat) : Option SramLine :=
  let lo := o / 64 * 64
  match s.mem.sram.find? fun y => y.die = d && y.off = lo with
  | some x => some x
  | none =>
    let bs := (List.range 4).map fun k =>
      s.ctlRead asid l (va - o % 64 + 16 * k) (syncBacking d lo + 16 * k)
    if bs.all Option.isSome then
      some { die := d, off := lo, asid := asid, va := va - o % 64, leaf := l, data := bs.flatMap fun b => b.getD [] }
    else none
/-- `n` bytes within one line of sync storage. -/
def State.syncRead (s : State) (asid : Nat) (l : Leaf) (va d o n : Nat) : State × Option (List Byte) :=
  let s := s.sramPart asid l d o
  match s.sramLine asid l va d o with
  | some x => (s.putSram x, some (slice x.data (o % 64) n))
  | none => (s, none)
def State.syncWrite (s : State) (asid : Nat) (l : Leaf) (va d o : Nat) (bs : List Byte) : State × Bool :=
  let s := s.sramPart asid l d o
  match s.sramLine asid l va d o with
  | some x => ((s.putSram { x with data := patch x.data (o % 64) bs, dirty := true }).markDirty (syncBacking d o), true)
  | none => (s, false)

/-! ### Translation (R198 to R200, R428) -/

/-- What an access asks of its pages. -/
inductive Want where
  | rd | wr | rw | ex
  deriving DecidableEq, Repr
def Want.ok (w : Want) (l : Leaf) : Bool :=
  match w with | .rd => l.r | .wr => l.w | .rw => l.r && l.w | .ex => l.x

/-- A record of the buffer table (R201). -/
def State.bufRec (s : State) (buf : Nat) : BufRec :=
  let a := 0x200000 + 32 * buf
  let fl := s.physNat (a + 20) 1
  let len := s.physNat (a + 8) 8
  let base := s.physNat a 8
  { base := base, len := len, key := s.physNat (a + 16) 2 % 4096, owner := s.physNat (a + 18) 2, flags := fl
    ok := bit fl 0 && bits fl 5 3 = 0 && s.physNat (a + 21) 11 = 0 && s.physNat (a + 16) 2 < 4096 }
/-- The space of R193 that a local address lies in, as KIND names it. -/
def spaceOf (va : Nat) : Nat := match bits va 46 2 with | 2 => 1 | 3 => 2 | _ => 0
/-- log2 of the page that a leaf of a level maps, and the index bits of a level (R198). -/
def levelLg (n : Nat) : Nat := match n with | 1 => 16 | 2 => 21 | 3 => 30 | _ => 39

/-- A walk from a table of level `n` down (R198, R199): a leaf, or 0x3003, or 0x3010. -/
def State.walk (s : State) (opr : Bool) (va : Nat) : (n : Nat) → (table : Nat) → Except Nat Leaf
  | 0, _ => .error 0x3003
  | n + 1, table =>
    let lg := levelLg (n + 1)
    let idx := if n = 0 then bits va 16 5 else bits va lg 9
    let e := s.physNat (table + 16 * idx) 16
    let addr := bits e 32 64
    let leaf := bit e 6
    let kind := bits e 4 2
    let buf := bits e 96 16
    if !bit e 0 then .error 0x3010
    else if bits e 7 25 ≠ 0 || bits e 112 16 ≠ 0 || (leaf && n + 1 = 4) || (!leaf && n = 0) then .error 0x3003
    else if !leaf then
      if buf ≠ 0 || addr % 512 ≠ 0 || 2 ^ 39 ≤ addr then .error 0x3003 else s.walk opr va n addr
    else if kind ≠ spaceOf va || addr % 2 ^ lg ≠ 0
        || (kind = 0 && (2 ^ 39 ≤ addr || (!opr && addr < 2 ^ 26)))
        || (kind = 2 && (4 ≤ addr / 2 ^ 40 || 2 ^ 31 ≤ addr % 2 ^ 40)) then .error 0x3003
    else .ok { lg := lg, addr := addr, kind := kind, r := bit e 1, w := bit e 2, x := bit e 3, buf := buf
               br := s.bufRec buf }

/-- Puts a translation into a TLB or a die's translation cache, the oldest giving way (R200). -/
def State.putTlb (s : State) (e : Tlb) (cap : Nat) : State :=
  let mine := s.mem.tlb.filter fun x => x.unit = e.unit
  let rest := if mine.length < cap then s.mem.tlb
    else match mine.head? with | some o => s.mem.tlb.erase o | none => s.mem.tlb
  { s with mem := { s.mem with tlb := rest ++ [e] } }
def Tlb.hit (e : Tlb) (unit asid va : Nat) : Bool := e.unit = unit && e.asid = asid && e.va = va / 2 ^ e.leaf.lg * 2 ^ e.leaf.lg
/-- Drops every translation of an ASID (R200). -/
def State.dropTlb (s : State) (asid : Nat) : State :=
  { s with mem := { s.mem with tlb := s.mem.tlb.filter fun e => e.asid ≠ asid } }

/-- The operator's own view before its root is set (R428). -/
def rawLeaf : Leaf := { lg := 39, addr := 0, kind := 0, r := true, w := true, x := true, buf := 0, br := {}, raw := true }
/-- The root entry's address (R196). -/
def rootAddr (asid : Nat) : Nat := if asid = oprAsid then 0x4000 else asid * 16

/-- The walk of a local address, from the root (R198). -/
def State.walkRoot (s : State) (asid va : Nat) : Except Nat Leaf :=
  let r := s.physNat (rootAddr asid) 16
  if asid = oprAsid then
    if !bit r 64 then (if va < 2 ^ 39 then .ok rawLeaf else .error 0x3003)
    else if 2 ^ 39 ≤ r % 2 ^ 64 then .error 0x3003 else s.walk true va 4 (r % 2 ^ 64)
  else if !bit r 64 || 1024 ≤ asid || 2 ^ 39 ≤ r % 2 ^ 64 then .error 0x3003
  else s.walk false va 4 (r % 2 ^ 64)

/-- Translates a local address for a core: its TLB, its die's translation cache, a walk (R200). A page that is not
present gives 0x3011 when the context's page quota is exhausted, which the spec puts in no register (assumption log 41). -/
def State.translate (s : State) (core asid va : Nat) : State × Except Nat Leaf :=
  match s.mem.tlb.find? fun e => e.hit core asid va with
  | some e => (s, .ok e.leaf)
  | none =>
    let put (s : State) (l : Leaf) : State :=
      if l.raw then s else s.putTlb { unit := core, asid := asid, va := va / 2 ^ l.lg * 2 ^ l.lg, leaf := l } 512
    match s.mem.tlb.find? fun e => e.hit (1000 + dieOfCore core) asid va with
    | some e => (put s e.leaf, .ok e.leaf)
    | none =>
      match s.walkRoot asid va with
      | .ok l =>
        let s := if l.raw then s
          else s.putTlb { unit := 1000 + dieOfCore core, asid := asid, va := va / 2 ^ l.lg * 2 ^ l.lg, leaf := l } 32768
        (put s l, .ok l)
      | .error c => (s, .error (if c = 0x3010 && asid < 1024 && Config.quotaSpent asid s.ticks then 0x3011 else c))

/-! ### The checks of R210 -/

/-- The portions of an access by 16-byte parts (R212). -/
def parts : (fuel : Nat) → (ea n : Nat) → List (Nat × Nat)
  | 0, _, _ => []
  | k + 1, ea, n =>
    if n = 0 then []
    else
      let m := Nat.min n (16 - ea % 16)
      (ea % 2 ^ 64, m) :: parts k (ea + m) (n - m)

/-- Whether a rank is valid in the rank table (spec/17_links.md R383). -/
def State.rankValid (s : State) (r : Nat) : Bool := r < 384 && (s.links.ranks.getD r 0).getLsbD 31

/-- Step 1: the window and the range (R192 to R194, R384). Answers the local address, and the rank of a peer. For the operator:
with V = 0 in its root no peer address is valid (R428); with V = 1 its own rank is the local window and an absent rank 0x8001, and
another module has no context of the operator's to translate by (assumption log 106). -/
def State.window (s : State) (opr : Bool) (ea : Nat) : Except Nat (Nat × Option Nat) :=
  let g := bits ea 48 9
  let va := ea % 2 ^ 48
  if 2 ^ 57 ≤ ea then .error 0x3003
  else if g = 0 then .ok (va, none)
  else if 0x180 < g || (opr && !bit (s.physNat 0x4000 16) 64) then .error 0x3003
  else if g - 1 = s.rank then .ok (va, none)
  else if !s.rankValid (g - 1) then .error 0x8001
  else if opr || bits va 46 2 = 2 then .error 0x3003
  else .ok (va, some (g - 1))

/-- Steps 1 and 2 over the portions in ascending order, each step over every byte (R210). -/
def State.locate (s : State) (core asid : Nat) (w : Want) (ps : List (Nat × Nat)) : State × Except (Nat × Nat) (List Piece) :=
  match ps.findSome? fun p => match s.window (asid = oprAsid) p.1 with | .error c => some (c, p.1) | .ok _ => none with
  | some e => (s, .error e)
  | none =>
    ps.foldl (fun acc p =>
      match acc with
      | (s, .error e) => (s, .error e)
      | (s, .ok l) =>
        match s.window (asid = oprAsid) p.1 with
        | .error c => (s, .error (c, p.1))
        | .ok (va, some r) =>
          (s, .ok (l ++ [{ ea := p.1, va := va, n := p.2, leaf := rawLeaf, pa := va, peer := some r }]))
        | .ok (va, none) =>
          match s.translate core asid va with
          | (s, .error c) => (s, .error (c, p.1))
          | (s, .ok lf) =>
            if !w.ok lf then (s, .error (0x3002, p.1))
            else (s, .ok (l ++ [{ ea := p.1, va := va, n := p.2, leaf := lf, pa := lf.addr + va % 2 ^ lf.lg }]))) (s, .ok [])
/-- Step 3: the lowest byte of a portion outside its buffer (R201); a tenant may not use the operator's records. -/
def Piece.outside (asid : Nat) (p : Piece) : Option Nat :=
  if p.leaf.raw || p.peer.isSome then none
  else
    let b := p.leaf.br
    if !b.ok || (b.owner = oprAsid && asid ≠ oprAsid) || p.va < b.base || b.base + b.len ≤ p.va then some p.ea
    else if b.base + b.len < p.va + p.n then some (p.ea + (b.base + b.len - p.va))
    else none
/-- Step 4: the key (R202). Device and sync pages take one. -/
def State.noKey (s : State) (asid : Nat) (p : Piece) : Bool :=
  !(p.leaf.raw || p.peer.isSome || p.leaf.kind = 1 || (p.leaf.kind = 0 && p.pa < 2 ^ 26)) && (s.keyOf asid p.leaf).isNone

/-- Whether a request from a core can be delivered: a path is left to the die, the link die or the port that serves it, and its
peer is not lost (spec/17_links.md R373, R374, R384; R193). -/
def State.pieceReach (s : State) (core asid : Nat) (p : Piece) : Bool :=
  let d := dieOfCore core
  let us := s.map.units
  if p.peer.any fun r => s.rankState r = 1 then false
  else if 256 ≤ core && asid ≠ oprAsid then true
  else if p.peer.isSome then linkJoined us d (s.planeOf p.ea / 8)
  else match p.leaf.kind with
    | 1 => linkJoined us d (d / 2)
    | 2 => ringJoined us d (p.pa / 2 ^ 40)
    | _ => ringJoined us d (p.pa / 2 ^ 37)

/-- Steps 1 to 4 of R210 over some portions: the portions found, or the code and the lowest byte that fails. -/
def State.checkParts (s : State) (core asid : Nat) (w : Want) (l : List (Nat × Nat)) : State × Except (Nat × Nat) (List Piece) :=
  match s.locate core asid w l with
  | (s, .error e) => (s, .error e)
  | (s, .ok ps) =>
    match ps.findSome? (Piece.outside asid) with
    | some a => (s, .error (0x3001, a))
    | none =>
      let s := ps.foldl (fun (s : State) p => if p.leaf.raw || p.peer.isSome || p.leaf.kind = 1 then s else s.ensureKey asid p.leaf) s
      match ps.find? (s.noKey asid) with
      | some p => (s, .error (0x3031, p.ea))
      | none => (s, .ok ps)
/-- Steps 1 to 4 of R210 over `n` bytes. -/
def State.check (s : State) (core asid : Nat) (w : Want) (ea n : Nat) : State × Except (Nat × Nat) (List Piece) :=
  s.checkParts core asid w (parts (n / 16 + 2) ea n)

/-- Step 6 of R210 for requests that cannot be delivered: the lowest byte that fails with 0x8004. -/
def State.lostAt (s : State) (core asid : Nat) (ps : List Piece) : Option Nat :=
  (ps.find? fun p => !s.pieceReach core asid p).map (·.ea)

/-! ### Performing portions (R197, R212 to R214, R220, R222, R428) -/

/-- A PRIVATE window whose TDI is in ERROR: its transfers complete with 0x9004 (spec/17_links.md R386, R387). The VF that
serves the context is one of L0 before one of L1, the lowest number first (R389). -/
def State.tdiBad (s : State) (asid : Nat) (l : Leaf) : Bool :=
  l.kind = 1 && bit (assoc s.links.hostWin l.buf) 2 &&
    match s.links.vfs.find? fun v => 1 ≤ v.num % 64 && v.num % 64 ≤ 62 && bits v.entry.toNat 32 10 = asid with
    | some v => v.tdi = 3
    | none => false
/-- The address translation cache of the link die of a core's own die takes the page of a bus address: 4,096 entries each, the oldest
gives way (spec/17_links.md R386). -/
def State.atcFill (s : State) (core bus : Nat) : State :=
  let e := (dieOfCore core / 2, bus / 4096)
  let l := s.links.atc
  let l := if 4096 ≤ (l.filter fun x => x.1 = e.1).length then l.eraseP fun x => x.1 = e.1 else l
  if s.links.atc.contains e then s else { s with links := { s.links with atc := l ++ [e] } }
/-- Bytes of host memory at a bus address, or the code of a bad completion (R210 step 6). -/
def State.hostRead (s : State) (asid : Nat) (l : Leaf) (a n : Nat) : Except Nat (List Byte) :=
  if s.tdiBad asid l then .error 0x9004
  else
  match s.mem.hostBad.find? fun e => e.1 = a / 4096 with
  | some e => .error e.2
  | none => .ok (cellsGet s.mem.host a n)
/-- Posted writes to the host. -/
def State.hostWrite (s : State) (a : Nat) (bs : List Byte) : State :=
  { s with mem := { s.mem with host := cellsPut s.mem.host a bs } }

/-- Reads a local portion: `eng` for an engine's path. -/
def State.readPiece (s : State) (eng : Bool) (core asid : Nat) (p : Piece) : State × Except Nat (List Byte) :=
  match p.leaf.kind with
  | 1 => (s.atcFill core p.pa, s.hostRead asid p.leaf p.pa p.n)
  | 2 =>
    let r := s.syncRead asid p.leaf p.va (p.pa / 2 ^ 40) (p.pa % 2 ^ 40) p.n
    (r.1, match r.2 with | some b => .ok b | none => .error 0x3030)
  | _ =>
    if 256 ≤ core then
      let o := p.pa % 16
      (s, match s.ctlRead asid p.leaf (p.va - o) (p.pa - o) with
        | some b => .ok (slice b o p.n)
        | none => .error 0x3030)
    else
      let r := s.cacheRead eng core asid p.leaf p.va p.pa p.n
      (r.1, match r.2 with | some b => .ok b | none => .error 0x3030)

/-- Every byte of the block at `pa` is dirty in the caches on a path: a full store to it has cleared its poison there, and its
write-back will clear it at the controller (R206). -/
def State.blockOwn (s : State) (eng : Bool) (core asid : Nat) (l : Leaf) (pa : Nat) : Bool :=
  let la := pa / 128 * 128
  let up := ((s.mem.slice.find? fun y => y.is (sliceOfCore core) la asid l.buf).map (·.dirty)).getD 0
  let low := if eng then 0 else ((s.mem.l1.find? fun y => y.is core la asid l.buf).map (·.dirty)).getD 0
  core < 256 && (List.range 16).all fun i => (up ||| low).getLsbD (pa % 128 / 16 * 16 + i)
/-- Whether a write of a portion meets poison: a block of which it writes a part, or an engine's line (R206, R210). -/
def State.writeFails (s : State) (eng : Bool) (core asid : Nat) (p : Piece) : Bool :=
  match p.leaf.kind with
  | 1 => false
  | 2 => ((s.sramPart asid p.leaf (p.pa / 2 ^ 40) (p.pa % 2 ^ 40)).sramLine asid p.leaf p.va (p.pa / 2 ^ 40) (p.pa % 2 ^ 40)).isNone
  | _ => s.poisoned p.pa && p.n < 16 && !s.blockOwn eng core asid p.leaf p.pa

/-- An operator store to a root entry drops the translations of its ASID (R200). -/
def State.rootStore (s : State) (pa : Nat) : State :=
  if pa < 0x4000 then s.dropTlb (pa / 16) else if pa < 0x4010 then s.dropTlb oprAsid else s

/-- Writes a local portion. -/
def State.writePiece (s : State) (eng : Bool) (core asid : Nat) (p : Piece) (bs : List Byte) : State :=
  match p.leaf.kind with
  | 1 => (s.atcFill core p.pa).hostWrite p.pa bs
  | 2 => (s.syncWrite asid p.leaf p.va (p.pa / 2 ^ 40) (p.pa % 2 ^ 40) bs).1
  | _ =>
    if 256 ≤ core then
      let o := p.pa % 16
      ((s.ctlWrite asid p.leaf (p.va - o) (p.pa - o) (blockOfBytes o bs)).1).rootStore p.pa
    else s.cacheWrite eng core asid p.leaf p.va p.pa bs

/-- What became of an access. -/
inductive AccRes where
  | done (bytes : List Byte)
  | err (code addr : Nat)
  /-- Held for a page (R211). -/
  | hold (code addr : Nat)
  /-- It goes to a peer. -/
  | peer (rank : Nat)
  /-- A store that waits at the controller for its parity group (spec/17_links.md R385). -/
  | wait
  /-- It is the operator's, and reaches the scheduler window at this offset (spec/15_launch.md R338). -/
  | regs (off : Nat)
  deriving DecidableEq, Repr

/-- A code of steps 1 and 2 that holds the access (R211). -/
def accErr (e : Nat × Nat) : AccRes := if e.1 = 0x3010 || e.1 = 0x3011 then .hold e.1 e.2 else .err e.1 e.2

/-- The code and the lowest byte of the steps of R210 that an access has failed so far: poison, and completion. -/
structure AccErrs where
  poison : Option Nat := none
  last   : Option (Nat × Nat) := none
  deriving DecidableEq, Repr
/-- Reads one portion after the others: step 5 over every byte comes before step 6 (R210). A peer's own portion is read there. -/
def State.readNext (s : State) (eng : Bool) (core asid : Nat) (got : List Byte × AccErrs) (p : Piece) : State × List Byte × AccErrs :=
  let (bs, e) := got
  if !s.pieceReach core asid p then (s, bs, { e with last := some (e.last.getD (0x8004, p.ea)) })
  else
    match if p.peer.isSome then (s, .ok []) else s.readPiece eng core asid p with
    | (s, .ok b) => (s, bs ++ b, e)
    | (s, .error c) =>
      (s, bs, if c = 0x3030 then { e with poison := some (e.poison.getD p.ea) } else { e with last := some (e.last.getD (c, p.ea)) })
/-- Reads every portion that is not a peer's. -/
def State.readPieces (s : State) (eng : Bool) (core asid : Nat) (ps : List Piece) : State × AccRes :=
  match ps.foldl (fun (acc : State × List Byte × AccErrs) p => acc.1.readNext eng core asid acc.2 p) (s, [], {}) with
  | (s, bs, e) =>
    (s, match e.poison, e.last with
      | some a, _ => .err 0x3030 a
      | none, some x => .err x.1 x.2
      | none, none => .done bs)
/-- What keeps a write from being made: poison, then what cannot be delivered or is answered badly (R210 steps 5 and 6). -/
def State.writeStops (s : State) (eng : Bool) (core asid : Nat) (ps : List Piece) : Option (Nat × Nat) :=
  match ps.find? fun p => p.peer.isNone && s.writeFails eng core asid p with
  | some p => some (0x3030, p.ea)
  | none => ps.findSome? fun p =>
    if !s.pieceReach core asid p then some (0x8004, p.ea) else if s.tdiBad asid p.leaf then some (0x9004, p.ea) else none
/-- Writes every portion. -/
def State.putPieces (s : State) (eng : Bool) (core asid : Nat) (ps : List Piece) (bs : List Byte) : State :=
  (ps.foldl (fun (acc : State × List Byte) p =>
    (acc.1.writePiece eng core asid p (acc.2.take p.n), acc.2.drop p.n)) (s, bs)).1
/-- Writes every portion, or none when one fails (R210). -/
def State.writePieces (s : State) (eng : Bool) (core asid : Nat) (ps : List Piece) (bs : List Byte) : State × AccRes :=
  match s.writeStops eng core asid ps with
  | some e => (s, .err e.1 e.2)
  | none => (s.putPieces eng core asid ps bs, .done [])

/-- The bytes a re-run has itself written stand before memory (spec/20_health.md R412). -/
def divertRead (d : List (Nat × Byte)) (va : Nat) (bs : List Byte) : List Byte :=
  bs.mapIdx fun i b => ((d.find? fun e => e.1 = va + i).map (·.2)).getD b
/-- One 16-byte part of a write, into the digest of a run (spec/20_health.md R413). -/
def digestPart (d : BitVec 128) (ea : Nat) (bs : List Byte) : BitVec 128 :=
  let o := ea % 16
  let m := (2 ^ bs.length - 1) * 2 ^ o
  let x := List.replicate o 0 ++ bs.map (·.toNat) ++ List.replicate (16 - o - bs.length) 0
  d + BitVec.ofNat 128 (bytesNat (shake256 (natBytes 8 (ea - o) ++ natBytes 2 m ++ x) 16))

/-- A portion of a PARITY buffer whose writes are held (spec/17_links.md R385). -/
def State.pieceHeld (s : State) (p : Piece) : Bool := p.peer.isNone && p.leaf.kind = 0 && p.leaf.parity && s.parHold
/-- Whether a portion is device global memory of this module. -/
def Piece.isDev (p : Piece) : Bool := p.peer.isNone && p.leaf.kind = 0

/-- An address under its one name: the module's own rank is the local window (R194). -/
def State.norm (s : State) (ea : Nat) : Nat := if bits ea 48 9 = s.rank + 1 && ea < 2 ^ 57 then ea % 2 ^ 48 else ea
/-- The offset in the scheduler window that an operator's KIND 1 access reaches: BAR 2 of the physical function of L0, mapped by
the control-core firmware (spec/15_launch.md R338). -/
def schedOff (asid : Nat) (ps : List Piece) : Option Nat :=
  match ps with
  | [] => none
  | p :: _ =>
    if asid = oprAsid && ps.all fun q => q.leaf.kind = 1 && Config.schedBar ≤ q.pa && q.pa + q.n ≤ Config.schedBar + 0x18000
    then some (p.pa - Config.schedBar) else none

/-! ### The save pool, and what a re-run writes (spec/15_launch.md R353, R362; spec/20_health.md R412, R413) -/

/-- What ranges in rising order leave free between two addresses. -/
def gaps : (used : List (Nat × Nat)) → (lo hi : Nat) → List (Nat × Nat)
  | [], lo, hi => if lo < hi then [(lo, hi - lo)] else []
  | u :: us, lo, hi => (if lo < Nat.min u.1 hi then [(lo, Nat.min u.1 hi - lo)] else []) ++ gaps us (Nat.max lo (u.1 + u.2)) hi
/-- The free ranges of the save pool, and its free bytes: the images of stopped blocks and the check buffers of re-runs stand in it. -/
def State.poolGaps (s : State) : List (Nat × Nat) :=
  let used := s.sched.images.flatMap (·.2) ++ s.sched.pool.flatMap fun n => n.clusters.flatMap (·.buf)
  gaps (used.mergeSort fun a b => a.1 ≤ b.1) s.sched.poolBase (s.sched.poolBase + s.sched.poolLen)
def State.poolFree (s : State) : Nat := (s.poolGaps.map (·.2)).sum
/-- The first `n` bytes of some ranges. -/
def takeRanges : (rs : List (Nat × Nat)) → (n : Nat) → List (Nat × Nat)
  | [], _ => []
  | r :: rs, n => if n = 0 then [] else (r.1, Nat.min r.2 n) :: takeRanges rs (n - r.2)
/-- Ranges of the pool take sealed bytes, which nobody can read (assumption log 6). -/
def State.sealTo (s : State) (rs : List (Nat × Nat)) : State :=
  let k := s.fresh
  rs.foldl (fun (s : State) r =>
    s.hwWrite (r.2 / 16 + 2) r.1 ((List.range r.2).map fun i => BitVec.ofNat 8 (Config.freeValue (k * 2 ^ 40 + r.1 + i)))) { s with fresh := k + 1 }

/-- The run of a block: 0 for a first run, and for anything that is no block's. -/
def State.runOf (s : State) (blk : Nat) : Nat := ((s.block? blk).map (·.run)).getD 0
/-- What the re-run of a block has written, any of the blocks of its cluster (R412). -/
def State.divertOf (s : State) (blk : Nat) : List (Nat × Byte) :=
  match s.block? blk with
  | none => []
  | some b => if b.run = 0 then [] else ((s.clusterOf b).map (·.divert)).getD []
/-- What the check buffer of a block's run still wants of the pool for some portions: 16 bytes for each 16-byte part that holds a
diverted byte, in units of 4 KiB with the 80 bytes of a sealed image (R412; assumption log 128). -/
def State.bufMore (s : State) (blk : Nat) (ps : List Piece) : Nat :=
  match s.block? blk with
  | none => 0
  | some b =>
    match if b.run = 0 then none else s.clusterOf b with
    | none => 0
    | some c =>
      let old : List Nat := c.divert.map fun e => e.1 / 16
      let new : List Nat := (ps.filter Piece.isDev).map fun p => p.va / 16
      let units := (old ++ new).eraseDups.length
      4096 * ceilDiv (16 * units + 80) 4096 - (c.buf.map (·.2)).sum
/-- Portions have room in the check buffer (R412). -/
def State.bufRoom (s : State) (blk : Nat) (ps : List Piece) : Bool := s.bufMore blk ps ≤ s.poolFree
/-- The check buffer takes what it still wants, and is sealed anew. -/
def State.growBuf (s : State) (blk : Nat) (ps : List Piece) : State :=
  match s.block? blk with
  | none => s
  | some b =>
    if b.run = 0 then s
    else
      let more := takeRanges s.poolGaps (s.bufMore blk ps)
      let s := s.modCluster b.node b.clu fun _ c => { c with buf := c.buf ++ more }
      s.sealTo (((s.clusterOf b).map (·.buf)).getD [])
/-- Portions of a write to device memory join the digest of a run, and what a re-run has written (R412, R413). -/
def Cluster.note (c : Cluster) (run : Nat) (ps : List Piece) (bs : List Byte) : Cluster :=
  (ps.foldl (fun (acc : Cluster × List Byte) p =>
    let me := acc.2.take p.n
    (if p.isDev then { acc.1 with
        digest := acc.1.digest.modify run fun d => digestPart d p.va me
        divert := if run = 0 then acc.1.divert
          else acc.1.divert.filter (fun e => !(p.va ≤ e.1 && e.1 < p.va + p.n)) ++ me.mapIdx fun i x => (p.va + i, x) }
      else acc.1, acc.2.drop p.n)) (c, bs)).1
def State.noteWrite (s : State) (blk : Nat) (ps : List Piece) (bs : List Byte) : State :=
  match s.block? blk with
  | none => s
  | some b => if !b.checkable && b.run = 0 then s else s.modCluster b.node b.clu fun _ c => c.note b.run ps bs
/-- One portion of a block's write that has passed its checks is made: in memory, or, of a re-run, in its check buffer. -/
def State.putOne (s : State) (eng : Bool) (core asid blk : Nat) (p : Piece) (bs : List Byte) : State :=
  let s := if s.runOf blk ≠ 0 && p.isDev then s.growBuf blk [p] else s.writePiece eng core asid p bs
  s.noteWrite blk [p] bs

/-- One load of a thread or engine of a block (R210, R213). -/
def State.load (s : State) (eng : Bool) (core asid : Nat) (blk : Nat) (ea n : Nat) : State × AccRes :=
  match s.check core asid .rd ea n with
  | (s, .error e) => (s, accErr e)
  | (s, .ok ps) =>
    match ps.findSome? (·.peer) with
    | some r =>
      -- what of it lies in this module's own window is checked before what the peer may fail
      match s.readPieces eng core asid ps with
      | (s, .err c a) => (s, .err c a)
      | (s, _) => (s, .peer r)
    | none =>
      match schedOff asid ps with
      | some off => (s, .regs off)
      | none =>
      match s.readPieces eng core asid ps with
      | (s, .done bs) =>
        let d := s.divertOf blk
        (s, .done (if d.isEmpty then bs else divertRead d (ea % 2 ^ 48) bs))
      | x => x

/-- One store of a thread or engine of a block (R210, R214). -/
def State.store (s : State) (eng : Bool) (core asid : Nat) (blk : Nat) (ea : Nat) (bs : List Byte) : State × AccRes :=
  match s.check core asid .wr ea bs.length with
  | (s, .error e) => (s, accErr e)
  | (s, .ok ps) =>
    match ps.findSome? (·.peer) with
    | some r => (s, match s.writeStops eng core asid ps with | some e => .err e.1 e.2 | none => .peer r)
    | none =>
      match schedOff asid ps with
      | some off => (s, .regs off)
      | none =>
      if s.runOf blk ≠ 0 then
        match s.lostAt core asid ps with
        | some a => (s, .err 0x8004 a)
        | none => if s.bufRoom blk ps then ((s.growBuf blk ps).noteWrite blk ps bs, .done []) else (s, .wait)
      else if ps.any s.pieceHeld && (s.writeStops eng core asid ps).isNone then (s, .wait)
      else
        match s.writePieces eng core asid ps bs with
        | (s, .done _) => (s.noteWrite blk ps bs, .done [])
        | x => x

end Sys2Proof.Machine
end

