-- ==== Sys2Proof/Machine/Cross.lean ====
section
/-! DEFINITION. Requests of threads to the synchronisation engines of other compute dies, as transactions on the links between the dies
(spec/17_links.md R371, R373, R374; spec/18_program_tickets.md R400). -/
namespace Sys2Proof.Machine

/-- The transaction of a load or of a store. -/
def HeldAcc.tx (a : HeldAcc) (h : TxHdr) : List Byte :=
  if a.write then writeTx h a.data else txBytes { h with kind := 1 } (toBytes 16 a.size)

/-- What a pending operation asks of a synchronisation engine: the right it needs, where, the scope of its release if it makes one, and
its transaction. -/
structure Ask where
  w   : Want
  ea  : Nat
  n   : Nat
  rel : Option Nat := none
  tx  : TxHdr → List Byte
/-- AOP of a ticket command between dies: 3 TKNEW.dev, 4 TKDRAIN.close, 5 .open, 6 .free, 7 TKSAVE, 8 TKLOAD (assumption log 32). -/
def tkAop (kind : Nat) : Nat := match kind with | 0 => 3 | 2 => 7 | 3 => 8 | k => k
/-- The request of an operation that is still to be performed: a header alone for TAKE and TKDRAIN, and one data slot for the others
(R400). -/
def Todo.ask : Todo → Option Ask
  | .access a => some { w := if a.write then .wr else .rd, ea := a.ea, n := a.size, tx := a.tx }
  | .acq o sc => some { w := .rd, ea := o, n := 8, tx := fun h => txBytes { h with kind := 5, ord := 1, sc := sc } [] }
  | .rel o sc => some { w := .rw, ea := o, n := 8, rel := some sc, tx := fun h => txBytes { h with kind := 5, ord := 2, sc := sc } [] }
  | .take w ord sc =>
    some { w := .rd, ea := w / 8 * 8, n := 8, rel := if ord = 2 then some sc else Option.none
           tx := fun h => txBytes { h with kind := 5, aop := 2, ord := ord, sc := sc } [] }
  | .tk kind w b =>
    some { w := .rd, ea := w / 8 * 8, n := 8
           tx := fun h => txBytes { h with kind := 5, aop := tkAop kind } (if 4 ≤ kind then [] else toBytes 16 b) }
  | _ => Option.none

/-- Where an access of a thread lies, when that is sync space of another die to which a path is left, its checks passed: the die, and
die and offset as a transaction carries them (R371, R373; assumption log 138). -/
def State.farHome (s : State) (fg : Nat) (w : Want) (ea n : Nat) : Option (Nat × Nat) :=
  let core := s.coreOf fg
  if spaceOf (s.norm ea % 2 ^ 48) ≠ 2 then none
  else
    match (s.check core (s.asidOf fg) w ea n).2 with
    | .ok (p :: ps) =>
      let d := p.pa / 2 ^ 40
      if (p :: ps).all (fun q => q.peer.isNone && q.leaf.kind = 2 && q.pa / 2 ^ 40 = d && s.pieceReach core (s.asidOf fg) q) && d ≠ dieOfCore core
      then some (d, p.pa % 2 ^ 56) else none
    | _ => none

/-- The request of an operation of a thread that has been sent to another die and is not answered. -/
def State.crossOf (s : State) (fg lane uid : Nat) : Option Cross :=
  s.links.cross.find? fun e => e.fg = fg && e.lane = lane && e.uid = uid && !e.gone
/-- The answer of an operation is still to come over the links: it has no result for its thread before. -/
def State.atSea (s : State) (fg lane uid : Nat) : Bool := s.links.cross.any fun e => e.fg = fg && e.lane = lane && e.uid = uid && !e.gone && !e.red
def State.setCross (s : State) (l : List Cross) : State := { s with links := { s.links with cross := l } }
def State.modCross (s : State) (e : Cross) (f : Cross → Cross) : State := s.setCross (s.links.cross.map fun x => if x = e then f x else x)
def State.dropCross (s : State) (e : Cross) : State := s.setCross (s.links.cross.filter fun x => x ≠ e)

/-- TAG of the request of a lane: of a TAKE its lane and its core, by which the far engine finds its wire (spec/10_sync.md R254), else
what is left of its identity (assumption log 32). -/
def State.crossTag (s : State) (fg lane uid : Nat) (take : Bool) : Nat :=
  if take then lane % 128 + 128 * (s.coreOf fg % 256) else uid % 2 ^ 16
/-- The request as it will stand among those sent. -/
def State.crossFor (s : State) (fg lane uid req : Nat) (iaddr : DWord) (red : Bool) (ea : Nat) (home : Nat × Nat)
    (tx : TxHdr → List Byte) : Cross × List Byte :=
  let h := TxHdr.of (tx { kind := 0 })
  let c : Cross :=
    { uid := uid, fg := fg, lane := lane, req := req, iaddr := iaddr, ea := ea, kind := h.kind
      tag := s.crossTag fg lane uid (h.kind = 5 && h.aop = 2), addr := 2 ^ 56 + home.2, src := dieOfCore (s.coreOf fg), dst := home.1, red := red }
  (c, tx { addr := c.addr, src := c.src, tag := c.tag, part := ((s.ctx? (s.asidOf fg)).map (·.part)).getD 0, asid := s.asidOf fg, kind := 0 })
/-- Two requests that a die could not tell apart by the header of an answer. -/
def Cross.clash (a b : Cross) : Bool := a.tag = b.tag && a.src = b.src && a.dst = b.dst && a.addr = b.addr
/-- A request leaves, as one transaction (R400). -/
def State.sendCross (s : State) (x : Cross × List Byte) : State :=
  match s.sendDie x.1.src x.1.dst x.2 with
  | some s => s.setCross (s.links.cross ++ [x.1])
  | none => s

end Sys2Proof.Machine
end

