-- ==== Sys2Proof/Machine/Memory.lean ====
section
/-! DEFINITION. Memory access instructions (spec/08_memory.md R208 to R218). -/
namespace Sys2Proof.Machine

/-! ### Scratchpad (R195, R210; spec/09_ordering.md R220) -/

/-- Bytes of a scratchpad with the stores of its bank queues over them, as the generic path reads them. -/
def Block.scratchGen (b : Block) (off n : Nat) : List Byte :=
  slice (b.bankQ.foldl (fun l q => patch l q.off q.bytes) b.scratch) off n
/-- What a store leaves in the write queues: its portion of each 16-byte part, in the queue of the part's bank (R220). -/
def bankParts (ea : Nat) (bs : List Byte) : List BankStore :=
  ((parts (bs.length / 16 + 2) ea bs.length).foldl (fun (acc : List BankStore × List Byte) p =>
    (acc.1 ++ [{ off := p.1, bytes := acc.2.take p.2 }], acc.2.drop p.2)) ([], bs)).1
def BankStore.bank (q : BankStore) : Nat := Config.bankOf (q.off / 16)
/-- The queue of one bank writes its oldest entry into the bank: the queues of the banks have no order among themselves (R220). -/
def Block.drainBank (b : Block) (k : Nat) : Block :=
  match b.bankQ.find? fun q => q.bank = k with
  | none => b
  | some q => { b with scratch := patch b.scratch q.off q.bytes, bankQ := b.bankQ.erase q }
/-- Every waiting store reaches its bank. -/
def Block.drainBanks (b : Block) : Block :=
  { b with scratch := b.bankQ.foldl (fun l q => patch l q.off q.bytes) b.scratch, bankQ := [] }
/-- A scratchpad access in range, counting a wrap as failing; else the lowest byte that fails (R210). -/
def Block.scratchBad (b : Block) (ea n : Nat) : Option Nat :=
  if ea + n ≤ b.scratch.length then none else if b.scratch.length ≤ ea then some ea else some b.scratch.length

/-- The effective address of a global and of a scratchpad access (R210). -/
def eaGlobal (s : State) (t : Thread) (f : FmtM) : Nat :=
  wrap 64 ((regU s t (f.u = 1#1) f.a.toNat 2 : Int) + f.off.toInt)
def eaScratch (s : State) (t : Thread) (f : FmtM) : Nat :=
  wrap 32 ((regU s t (f.u = 1#1) f.a.toNat 1 : Int) + f.off.toInt)
/-- Size of R210. -/
def mSize (f : FmtM) : Nat := match f.vn.toNat with | 0 => tyWidth f.ty.toNat / 8 | 1 => 8 | _ => 16
/-- The registers that loaded bytes are written to (R213). -/
def loadWords (ty vn : Nat) (bs : List Byte) : List Word := if vn = 0 then writeD (ofBytes bs) ty else bytesWords bs
/-- The bytes that a store takes from its registers (R214). -/
def storeBytes (s : State) (t : Thread) (f : FmtM) : List Byte :=
  toBytes (mSize f) (regL s t f.d.toNat (mRegs f.vn.toNat f.ty.toNat))

/-! ### One global access of a thread, and its result in the pending operation (R210, R211, R213, R214) -/

/-- A held access joins its hold (R211). In a command window nothing is held: the access fails (R87). -/
def State.holdAcc (s : State) (t : Thread) (code addr : Nat) (a : HeldAcc) : State :=
  if t.win then s.modPend t.fg t.lane a.uid fun p => { p with err := some (code, BitVec.ofNat 64 addr) }
  else
    (s.holdFor (s.coreOf t.fg) (s.asidOf t.fg) code t.pc (if code = 0x3010 then addr / 65536 * 65536 else 0) 1 0xFF 0xFF
      fun e => { e with accs := e.accs ++ [a] }).2

/-- Everything pending of a thread, in program order, its trap record's first. -/
def Thread.allPend (t : Thread) : List Pending := (match t.trap.record with | some r => r.pend | none => []) ++ t.pend
/-- A pending operation has arrived: its access is performed. -/
def Pending.arrived (p : Pending) : Bool := p.val.isSome || p.err.isSome
/-- The operations that issued before `uid`. -/
def Thread.before (t : Thread) (uid : Nat) : List Pending := t.allPend.takeWhile fun p => p.uid ≠ uid
/-- An access still to be made, as the rules of order see it: where it lies, and whether it loads or stores (R215; spec/09_ordering.md
R222, R233). -/
structure Touch where
  ea : Nat
  n  : Nat
  rd : Bool := false
  wr : Bool := false
  deriving DecidableEq, Repr
def HeldAcc.touch (a : HeldAcc) : Touch := { ea := a.ea, n := a.size, rd := !a.write, wr := a.write }
/-- The accesses that a pending operation of a thread has still to make: left for later, held for a page, waiting at the controller,
what follows an access over two windows, an atomic that has not been served, an operation on a word. -/
def State.unmade (s : State) (t : Thread) (p : Pending) : List Touch :=
  let mine (fg lane uid : Nat) : Bool := fg = t.fg && lane = t.lane && uid = p.uid
  (match p.todo with
    | .access a | .parts a _ _ | .regs _ _ _ a => [a.touch]
    | .acq o _ | .rel o _ => [{ ea := o, n := 8, rd := true }]
    | .tk _ w _ | .take w _ _ => [{ ea := w, n := 8 }]
    | .tdef ea _ => [{ ea := ea, n := 128, rd := true }]
    | .none | .fence _ _ _ _ | .launch _ | .tseal _ | .cancel _ _ | .wait => []) ++
  ((s.opr.held.flatMap (·.accs) ++ s.links.parWait).filter fun a => mine a.fg a.lane a.uid).map HeldAcc.touch ++
  ((s.links.out.filter fun q => q.rest ≠ 0 && mine q.fg q.lane q.uid).map fun q =>
    { ea := if q.addr = 0 then (q.rank + 1) * 2 ^ 48 - q.rest else (q.rank + 1) * 2 ^ 48 + q.addr + q.size, n := q.rest
      rd := q.kind = 0, wr := q.kind = 1 }) ++
  (s.sync.reqs.flatMap fun r => (r.lanes.filter fun l => !r.sp && mine r.fg l.lane l.uid).map fun l =>
    { ea := l.ea, n := 8, rd := !r.red }) ++
  ((s.links.hostAtoms.filter fun h => h.st ≠ 3 && mine h.fg h.lane h.uid).map fun h => { ea := h.ea, n := 8, rd := !h.red })
/-- The 128-byte lines of a peer that an access lies in; none of this module's own windows. -/
def State.peerLines (s : State) (x : Touch) : Option (Nat × Nat) :=
  let a := s.norm x.ea
  if a + x.n ≤ 2 ^ 48 then none else some (a / 128, (a + x.n - 1) / 128)
/-- Whether an access lies in the host windows with its first or its last byte. -/
def State.inHost (s : State) (x : Touch) : Bool :=
  [x.ea, (x.ea + x.n - 1) % 2 ^ 64].any fun a => s.norm a < 2 ^ 48 && spaceOf (s.norm a) = 1
/-- Whether access `y` of a thread must be made before its later access `x`: two stores to the same bytes (R215), two loads of the
same bytes, so that no read goes back, or two accesses to one line of a peer (spec/09_ordering.md R222), a store to the host before
any access to it (spec/09_ordering.md R233). -/
def State.inOrder (s : State) (y x : Touch) : Bool :=
  (s.norm x.ea < s.norm y.ea + y.n && s.norm y.ea < s.norm x.ea + x.n && ((x.rd && y.rd) || (x.wr && y.wr)))
    || (match s.peerLines x, s.peerLines y with | some a, some b => a.1 ≤ b.2 && b.1 ≤ a.2 | _, _ => false)
    || (y.wr && s.inHost y && s.inHost x)
/-- An access of the operation `uid` of a thread waits for an earlier one that must be made before it. -/
def State.accWaits (s : State) (t : Thread) (uid : Nat) (x : Touch) : Bool :=
  (t.before uid).any fun p => !p.arrived && (s.unmade t p).any fun y => s.inOrder y x
/-- An access is left to be performed later, by LONG_LATENCY_COMMIT (spec/09_ordering.md R221, R237). -/
def State.postpone (s : State) (t : Thread) (a : HeldAcc) : State :=
  s.modPend t.fg t.lane a.uid fun p => { p with todo := .access a }
/-- A request of an access to a peer leaves the core; a store is then complete (R214), unless `rest` bytes follow: those of `a.pre`. -/
def State.accessPeer (s : State) (t : Thread) (a : HeldAcc) (rank rest : Nat) : State :=
  let (id, s) := s.newUid
  let s := s.pushOut
    { id := id, kind := if a.write then 1 else 0, rank := rank, addr := a.ea % 2 ^ 48, size := a.size, data := a.data
      asid := s.asidOf t.fg, fg := t.fg, lane := t.lane, uid := a.uid, op := a.vn, at_ := a.ty, pre := a.pre, rest := rest }
  if a.write && rest = 0 then s.modPend t.fg t.lane a.uid fun p => { p with val := some [] } else s
/-- An access that straddles two windows, one of them at least a peer's, its checks passed: each window serves its part (R194). The
peer's part of a store is made first, and the other when the peer has answered, so that a store that fails writes nothing here (R210;
assumption log 123). -/
def State.accessSplit (s : State) (t : Thread) (a : HeldAcc) (m : Nat) : State :=
  let core := s.coreOf t.fg
  let asid := s.asidOf t.fg
  let blk := ((s.fg? t.fg).map (·.blk)).getD 0
  let lo : HeldAcc := { a with size := m, data := a.data.take m }
  let hi : HeldAcc := { a with ea := (a.ea + m) % 2 ^ 64, size := a.size - m, data := a.data.drop m }
  let rankOf (x : HeldAcc) : Option Nat := match s.window (asid = oprAsid) x.ea with | .ok (_, r) => r | .error _ => none
  if a.write then
    match rankOf lo, rankOf hi with
    | some r, _ => s.accessPeer t { lo with pre := hi.data } r hi.size
    | none, some r => s.accessPeer t { hi with pre := lo.data } r m
    | none, none => s
  else
    match rankOf lo with
    | some r => s.accessPeer t lo r (a.size - m)
    | none =>
      match s.load false core asid blk lo.ea m, rankOf hi with
      | (s, .done bs), some r => s.accessPeer t { hi with pre := a.pre ++ bs } r 0
      | (s, .err c x), _ => s.modPend t.fg t.lane a.uid fun p => { p with err := some (c, BitVec.ofNat 64 x) }
      | (s, _), _ => s
/-- An access of a thread whose operation `a.uid` is pending is made. -/
def State.accessHere (s : State) (t : Thread) (a : HeldAcc) : State :=
  let core := s.coreOf t.fg
  let asid := s.asidOf t.fg
  let blk := ((s.fg? t.fg).map (·.blk)).getD 0
  match if a.write then s.store false core asid blk a.ea a.data else s.load false core asid blk a.ea a.size with
  | (s, .done bs) => s.modPend t.fg t.lane a.uid fun p => { p with val := some (if a.write then [] else loadWords a.ty a.vn (a.pre ++ bs)) }
  | (s, .err code addr) => s.modPend t.fg t.lane a.uid fun p => { p with err := some (code, BitVec.ofNat 64 addr) }
  | (s, .hold code addr) => s.holdAcc t code addr a
  | (s, .wait) =>
    -- for its parity group, or, in a re-run, for room in the save pool (spec/20_health.md R412)
    if s.runOf blk ≠ 0 then s.postpone t a else { s with links := { s.links with parWait := s.links.parWait ++ [a] } }
  | (s, .regs off) => s.modPend t.fg t.lane a.uid fun p => { p with todo := .regs a.write off a.size a }
  | (s, .peer rank) =>
    let m := 2 ^ 48 - a.ea % 2 ^ 48
    if a.size ≤ m then s.accessPeer t a rank 0 else s.accessSplit t a m
/-- Performs, or performs again, an access of a thread whose operation `a.uid` is pending; it waits for an earlier one that goes before
it, and, in sync space of another die, for its way there (spec/18_program_tickets.md R400). -/
def State.access (s : State) (t : Thread) (a : HeldAcc) : State :=
  if s.accWaits t a.uid a.touch || (s.farHome t.fg (if a.write then .wr else .rd) a.ea a.size).isSome then s.postpone t a
  else s.accessHere t a

/-- One 16-byte part of an access is performed: the `k`-th of those left (R212). -/
def State.putPart (s : State) (t : Thread) (a : HeldAcc) (left : List Piece) (got : List (Nat × List Byte)) (k : Nat) : State :=
  let core := s.coreOf t.fg
  let asid := s.asidOf t.fg
  match left[k % left.length]? with
  | none => s
  | some p =>
    let o := (p.ea + 2 ^ 64 - a.ea) % 2 ^ 64
    let left := left.eraseIdx (k % left.length)
    let ends (s : State) (got : List (Nat × List Byte)) : State :=
      s.modPend t.fg t.lane a.uid fun q =>
        if left.isEmpty then
          let bs := got.foldl (fun l e => patch l e.1 e.2) (List.replicate a.size 0)
          { q with todo := .none, val := some (if a.write then [] else loadWords a.ty a.vn bs) }
        else { q with todo := .parts a left got }
    if a.write then
      let bs := slice a.data o p.n
      ends (s.putOne false core asid (((s.fg? t.fg).map (·.blk)).getD 0) p bs) []
    else
      match s.readPiece false core asid p with
      | (s, .ok b) => ends s (got ++ [(o, b)])
      | (s, .error c) => s.modPend t.fg t.lane a.uid fun q => { q with todo := .none, err := some (c, BitVec.ofNat 64 p.ea) }
/-- The portions of an access that lies in this module's memory and passes every check of R210. -/
def State.partsOf (s : State) (t : Thread) (a : HeldAcc) : Option (List Piece) :=
  let core := s.coreOf t.fg
  let asid := s.asidOf t.fg
  match s.check core asid (if a.write then .wr else .rd) a.ea a.size with
  | (_, .error _) => none
  | (s, .ok ps) =>
    let ok := if a.write then (s.writeStops false core asid ps).isNone && !ps.any s.pieceHeld
      else match (s.readPieces false core asid ps).2 with | .done _ => true | _ => false
    if ok && a.pre.isEmpty && (schedOff asid ps).isNone && !(ps.any fun p => p.peer.isSome) && ((s.blockOf t.fg).map (·.run)).getD 0 = 0
    then some ps else none
/-- An access that was left for later is performed: whole when `k` is 0, or when it cannot be performed part by part; else the
`k`-th of its parts alone (R212; spec/09_ordering.md R237). -/
def State.accessLater (s : State) (t : Thread) (a : HeldAcc) (k : Nat) : State :=
  match if k = 0 then none else s.partsOf t a with
  | some ps => s.putPart t a ps [] (k - 1)
  | none => (s.modPend t.fg t.lane a.uid fun q => { q with todo := .none }).accessHere t a
/-- The parts that are left are performed, all of them when `k` is 0. -/
def State.partsLater (s : State) (t : Thread) (a : HeldAcc) (left : List Piece) (got : List (Nat × List Byte)) : (k : Nat) → State
  | 0 => left.foldl (fun (s : State) _ =>
      match (s.thread? t.fg t.lane).bind fun u => u.allPend.find? fun q => q.uid = a.uid with
      | some q => (match q.todo with | Todo.parts a left got => s.putPart t a left got 0 | _ => s)
      | none => s) s
  | k + 1 => s.putPart t a left got k

/-- The read that a pending operation makes for its own use, from the byte that it has not got yet (R194, R210): its bytes, or `peer`
while a part of them is still to come from another module. -/
def State.readOwn (s : State) (t : Thread) (p : Pending) (ea n : Nat) : State × AccRes :=
  let core := s.coreOf t.fg
  let asid := s.asidOf t.fg
  let blk := ((s.fg? t.fg).map (·.blk)).getD 0
  let at_ := (ea + p.lo.length) % 2 ^ 64
  let left := n - p.lo.length
  let m := Nat.min left (2 ^ 48 - at_ % 2 ^ 48)
  let rankOf (x : Nat) : Option Nat := match s.window (asid = oprAsid) x with | .ok (_, r) => r | .error _ => none
  let ask (s : State) (r x n rest : Nat) (pre : List Byte) : State × AccRes :=
    let (id, s) := s.newUid
    let q : OutReq := { id := id, kind := 0, rank := r, addr := x % 2 ^ 48, size := n, asid := asid, fg := t.fg, lane := t.lane, uid := p.uid
                        pre := pre, rest := rest }
    ((s.pushOut q).modPend t.fg t.lane p.uid fun q => { q with held := true }, .peer r)
  match p.got with
  | some b => (s, .done b)
  | none =>
    match s.load false core asid blk at_ left with
    | (s, .done b) => (s, .done (p.lo ++ b))
    | (s, .peer r) =>
      match rankOf at_ with
      | some r => ask s r at_ m (left - m) p.lo
      | none =>
        match s.load false core asid blk at_ m with
        | (s, .done b) => ask s r ((at_ + m) % 2 ^ 64) (left - m) 0 (p.lo ++ b)
        | x => x
    | x => x
/-- The bytes that a pending operation stores for its own, in each window the part that lies there (R194, R210). -/
def State.writeOwn (s : State) (t : Thread) (p : Pending) (ea : Nat) (bs : List Byte) : State × AccRes :=
  let core := s.coreOf t.fg
  let asid := s.asidOf t.fg
  let blk := ((s.fg? t.fg).map (·.blk)).getD 0
  let m := Nat.min bs.length (2 ^ 48 - ea % 2 ^ 48)
  let one (s : State) (x : Nat) (b : List Byte) : State :=
    match if b.isEmpty then .error 0 else s.window (asid = oprAsid) x with
    | .ok (_, some r) =>
      let (id, s) := s.newUid
      s.pushOut { id := id, kind := 1, rank := r, addr := x % 2 ^ 48, size := b.length, data := b, asid := asid, fg := t.fg, lane := t.lane, uid := p.uid }
    | .ok (_, none) => (s.store false core asid blk x b).1
    | .error _ => s
  match s.store false core asid blk ea bs with
  | (s, .peer _) => (one (one s ea (bs.take m)) ((ea + m) % 2 ^ 64) (bs.drop m), .done [])
  | x => x

/-- An address that a node with SIDE = 0 may not store to: a host window, a peer, sync space (spec/15_launch.md R337). -/
def State.sideAddr (s : State) (ea : Nat) : Bool :=
  ea < 2 ^ 57 && if bits ea 48 9 = 0 || bits ea 48 9 = s.rank + 1 then spaceOf (ea % 2 ^ 48) ≠ 0 else bits ea 48 9 ≤ 0x180
/-- A store of `n` bytes that such a node may not make: with its first or its last byte there. -/
def State.sideStore (s : State) (t : Thread) (ea n : Nat) : Bool :=
  s.sideless t.fg && (s.sideAddr ea || s.sideAddr ((ea + n - 1) % 2 ^ 64))

/-- LD and ST hand one access of each thread to the memory system (R213, R214): `go` performs it, or leaves it for later. -/
def issueLd (f : FmtM) (s : State) (go : State → Thread → HeldAcc → State) : State :=
  issueEach s rightsAll f.guard fun p s t =>
    let ea := eaGlobal s t f
    let r := s.pendU t (fmtMPend f p (mRegs f.vn.toNat f.ty.toNat))
    .ok (go r.2 t { fg := t.fg, lane := t.lane, uid := r.1, write := false, ea := ea, size := mSize f
                    ty := f.ty.toNat, vn := f.vn.toNat })
def issueSt (f : FmtM) (s : State) (go : State → Thread → HeldAcc → State) : State :=
  issueEach s rightsAll f.guard fun p s t =>
    let ea := eaGlobal s t f
    if s.sideStore t ea (mSize f) then .trap 0x4001 s.noAddr
    else
      let r := s.pendU t (fmtMPend f p 0)
      .ok (go r.2 t { fg := t.fg, lane := t.lane, uid := r.1, write := true, ea := ea, size := mSize f
                      data := storeBytes s t f })
def execLd (f : FmtM) (s : State) : Out := .next (issueLd f s State.access)
def execSt (f : FmtM) (s : State) : Out := .next (issueSt f s State.access)
/-- LDS (R213): the scratchpad with its queues, as the generic path sees it. -/
def execLds (f : FmtM) (s : State) : Out :=
  .next (issueEach s rightsAll f.guard fun p s t =>
    let ea := eaScratch s t f
    let base := fmtMPend f p (mRegs f.vn.toNat f.ty.toNat)
    match s.blockOf t.fg with
    | none => .ok (s.pendL t { base with err := some (0x3004, BitVec.ofNat 64 ea) })
    | some b =>
      match b.scratchBad ea (mSize f) with
      | some a => .ok (s.pendL t { base with err := some (0x3004, BitVec.ofNat 64 a) })
      | none => .ok (s.pendL t { base with val := some (loadWords f.ty.toNat f.vn.toNat (b.scratchGen ea (mSize f))) }))
/-- STS (R214): the store enters the write queues of the banks it lies in (R220). -/
def execSts (f : FmtM) (s : State) : Out :=
  .next (issueEach s rightsAll f.guard fun p s t =>
    let ea := eaScratch s t f
    let base := fmtMPend f p 0
    match s.blockOf t.fg with
    | none => .ok (s.pendL t { base with err := some (0x3004, BitVec.ofNat 64 ea) })
    | some b =>
      match b.scratchBad ea (mSize f) with
      | some a => .ok (s.pendL t { base with err := some (0x3004, BitVec.ofNat 64 a) })
      | none =>
        let b := { b with bankQ := b.bankQ ++ bankParts ea (storeBytes s t f) }
        .ok ((s.setBlock b).pendL t { base with val := some [] }))

/-- One line of PRF: fetched into the L1, or skipped (R216). -/
def State.prefetch (s : State) (core asid ea : Nat) : State :=
  if 256 ≤ core then s
  else
    match s.check core asid .rd ea 128 with
    | (s', .ok ps) =>
      match ps with
      | p :: _ => if p.isDev && s'.pieceReach core asid p then (s'.cacheRead false core asid p.leaf p.va p.pa 128).1 else s
      | [] => s
    | (_, .error _) => s
def execPrf (f : FmtM) (s : State) : Out :=
  .next (issueEach s rightsAll f.guard fun p s t =>
    let ea := eaGlobal s t f / 128 * 128
    let n := 2 ^ f.vn.toNat
    let s := (List.range n).foldl
      (fun s k => s.prefetch (s.coreOf t.fg) (s.asidOf t.fg) ((ea + 128 * k) % 2 ^ 64)) s
    .ok (s.pendL t { fmtMPend f p 0 with val := some [] }))

/-- What MPROBE commits (R217): the leaf, and the code that a one-byte load would raise by steps 1 to 4; of a peer address only
the rank check. -/
def State.probe (s : State) (core asid ea : Nat) : State × Nat × Nat :=
  let g := bits ea 48 9
  match s.window (asid = oprAsid) ea with
  | .error c =>
    if ea < 2 ^ 57 && 1 ≤ g && g ≤ 0x180 then (s, 0, if s.rankValid (g - 1) then 0 else 0x8001) else (s, 0, c)
  | .ok (_, some _) => (s, 0, 0)
  | .ok (va, none) =>
    match s.translate core asid va with
    | (s, .error c) => (s, 0, c)
    | (s, .ok l) =>
      if l.raw then (s, 0, 0)
      else
        let d := 2 ^ 31 + b2n l.r * 2 ^ 30 + b2n l.w * 2 ^ 29 + b2n l.x * 2 ^ 28 + l.kind * 2 ^ 26
          + (match l.lg with | 16 => 0 | 21 => 1 | _ => 2) * 2 ^ 24 + l.buf
        match s.check core asid .rd ea 1 with
        | (s, .error e) => (s, d, e.1)
        | (s, .ok _) => (s, d, 0)
def execMprobe (f : FmtM) (s : State) : Out :=
  .next (issueEach s rightsAll f.guard fun p s t =>
    let r := s.probe (s.coreOf t.fg) (s.asidOf t.fg) (eaGlobal s t f)
    .ok (r.1.pendL t { fmtMPend f p 2 with val := some [BitVec.ofNat 32 r.2.1, BitVec.ofNat 32 r.2.2] }))

/-- The inactive copy is zeroed and becomes the active one (R218). -/
def State.swapDirty (s : State) : State :=
  let new := 1 - s.mem.dirtyActive
  let b := dirtyBase new
  { s with mem := { s.mem with
    dirtyActive := new
    phys := s.mem.phys.filter fun c => !(b ≤ c.1 && c.1 < b + 0x100000) } }
def execDirtysw (f : FmtL) (s : State) : Out :=
  .next (issueEach s rightsOpr f.guard fun p s t =>
    let s := s.swapDirty
    .ok (s.pendL t { fmtLPend f p 1 with val := some [BitVec.ofNat 32 s.mem.dirtyActive] }))

end Sys2Proof.Machine
end

