-- ==== Sys2Proof/Machine/Ordering.lean ====
section
/-! DEFINITION. Releases, acquires, fences and bindings (spec/09_ordering.md R219 to R235, R238 to R243). -/
namespace Sys2Proof.Machine

/-! ### Write-back and discard between a core and a scope's meeting point (R219, R225, R226) -/

/-- The dirty bytes of lines of a context move toward the meeting point of the scope that `sc` gives each line: from
the core's L1 at .clu and wider, from its slice at .sgp and wider. Control cores have no cache (R428). -/
def State.writeBack (s : State) (core asid : Nat) (sc : Line → Nat) : State :=
  if 256 ≤ core then s
  else
    let p1 (x : Line) : Bool := x.unit = core && x.asid = asid && x.dirty ≠ 0 && 3 ≤ sc x
    let s := (s.mem.l1.filter p1).foldl State.wbL1Line s
    let s := { s with mem := { s.mem with l1 := s.mem.l1.map fun x => if p1 x then { x with dirty := 0 } else x } }
    let p2 (x : Line) : Bool := x.unit = sliceOfCore core && x.asid = asid && x.dirty ≠ 0 && 4 ≤ sc x && !s.lineHeld x
    let s := (s.mem.slice.filter p2).foldl State.wbSliceLine s
    { s with mem := { s.mem with slice := s.mem.slice.map fun x => if p2 x then { x with dirty := 0 } else x } }

/-- The clean bytes of lines of a context are discarded between a core and the meeting point (R226). -/
def State.discardClean (s : State) (core asid : Nat) (sc : Line → Nat) : State :=
  if 256 ≤ core then s
  else
    let drop (unit lo : Nat) (l : List Line) : List Line :=
      (l.map fun x => if x.unit = unit && x.asid = asid && lo ≤ sc x then { x with valid := x.valid &&& x.dirty } else x).filter
        fun x => x.valid ≠ 0
    { s with mem := { s.mem with
      l1 := drop core 3 s.mem.l1
      slice := drop (sliceOfCore core) 4 s.mem.slice } }

/-- A block that leaves a core takes its view of memory with it (R235). -/
def State.flushCtx (s : State) (core asid : Nat) : State :=
  (s.writeBack core asid fun _ => 5).discardClean core asid fun _ => 5

/-- Dirty bytes of a context in every L1 and then in every slice reach the controllers, for the lines that `k` names; a parity
group may keep some back in their slices (spec/17_links.md R385). -/
def State.writeBackAll (s : State) (asid : Nat) (k : Line → Bool) : State :=
  let p (x : Line) : Bool := x.asid = asid && x.dirty ≠ 0 && k x
  let s := (s.mem.l1.filter p).foldl State.wbL1Line s
  let s := { s with mem := { s.mem with l1 := s.mem.l1.map fun x => if p x then { x with dirty := 0 } else x } }
  let q (x : Line) : Bool := p x && !s.lineHeld x
  let s := (s.mem.slice.filter q).foldl State.wbSliceLine s
  { s with mem := { s.mem with slice := s.mem.slice.map fun x => if q x then { x with dirty := 0 } else x } }
/-- Clean bytes of a context go from every L1 and slice, for the lines that `k` names (R343, R232). -/
def State.discardAll (s : State) (asid : Nat) (k : Line → Bool) : State :=
  let drop (l : List Line) : List Line :=
    (l.map fun x => if x.asid = asid && k x then { x with valid := x.valid &&& x.dirty } else x).filter fun x => x.valid ≠ 0
  { s with mem := { s.mem with l1 := drop s.mem.l1, slice := drop s.mem.slice } }
/-- Lines that a parity group still keeps back after that. -/
def State.keptBack (s : State) (asid : Nat) (k : Line → Bool) : Bool := s.mem.slice.any fun x => x.asid = asid && k x && s.lineHeld x
/-- The leaves of KIND 0 below a table of level `n`, of which `va` is the first address: address, log2 of the size, frame. -/
def State.leaves (s : State) : (n : Nat) → (table va : Nat) → List (Nat × Nat × Nat)
  | 0, _, _ => []
  | n + 1, table, va =>
    (List.range (if n = 0 then 32 else 512)).flatMap fun k =>
      let e := s.physNat (table + 16 * k) 16
      let here := va + k * 2 ^ levelLg (n + 1)
      if !bit e 0 then []
      else if bit e 6 then (if bits e 4 2 = 0 && n < 3 then [(here, levelLg (n + 1), bits e 32 64)] else [])
      else s.leaves n (bits e 32 64) here
/-- A context's tables translate a local address to a frame. -/
def State.mapsTo (s : State) (asid va pa : Nat) : Bool :=
  match s.walkRoot asid va with
  | .ok l => l.kind = 0 && l.addr + va % 2 ^ l.lg = pa
  | .error _ => false
/-- Whether a bound region names the frame of a line, as the tables stand, by the address it was cached under or by another
(R224). -/
def State.covers (s : State) (asid : Nat) (b : Binding) (x : Line) : Bool :=
  let inside (va : Nat) : Bool := b.base ≤ va && va < b.base + b.len && s.mapsTo asid va x.pa
  let r := s.physNat (rootAddr asid) 16
  inside x.va || (bit r 64 && (s.leaves 4 (r % 2 ^ 64) 0).any fun e =>
    e.2.2 ≤ x.pa && x.pa < e.2.2 + 2 ^ e.2.1 && inside (e.1 + (x.pa - e.2.2)))
/-- The effective scope of a line under some bindings (R224): the widest of those that cover it. -/
def State.boundScope (s : State) (asid sc : Nat) (bs : List Binding) (x : Line) : Nat :=
  bs.foldl (fun m b => if s.covers asid b x then Nat.max m (Nat.min b.sc sc) else m) 0

/-- The synchronisation object that contains an address (R224). -/
def State.objOf (s : State) (ea : Nat) : Nat := s.norm (ea / 8 * 8)
/-- The bindings of the context to an object. -/
def State.boundTo (s : State) (asid obj : Nat) : List Binding :=
  ((s.ctx? asid).map fun c => c.bindings.filter fun b => b.obj = obj).getD []

/-! ### Waiting for earlier accesses (R221, R225 steps 1 and 2) -/

/-- Step 2 of R225 for what a thread issued before identity `uid`: its reductions are performed at their elements (R221); at .dom and
wider every peer has acknowledged its stores and reductions, and the writes of jobs in its phases (R234, R284); at .sys the host has
performed its atomics (R233). Plain stores to sync space and to the host are performed when they complete. -/
def State.storesDone (s : State) (fg lane uid sc : Nat) (jobs : List Nat) : Bool :=
  !(s.sync.reqs.any fun r => r.red && r.fg = fg && r.lanes.any fun l => l.lane = lane && l.uid < uid) &&
    (sc < 6 || !(s.links.out.any fun q => ((q.kind = 1 || q.kind = 3) && q.job.isNone && q.fg = fg && q.lane = lane && q.uid < uid)
      || jobs.contains q.id)) &&
    (sc < 7 || !(s.links.hostAtoms.any fun h => h.red && h.fg = fg && h.lane = lane && h.uid < uid && h.st ≠ 3))
/-- Steps 1 and 2 of R225: earlier accesses are complete, and earlier stores performed where S reaches. -/
def State.releaseReady (s : State) (t : Thread) (uid sc : Nat) : Bool :=
  (t.before uid).all Pending.arrived && s.storesDone t.fg t.lane uid sc t.jobOut
/-- A store of the thread was lost with its peer: a release at .dom or wider completes with 0x8004 (R234). -/
def Thread.relLost (t : Thread) (sc : Nat) : Bool := 6 ≤ sc && t.lost
def State.failLost (s : State) (t : Thread) (uid : Nat) : State :=
  (s.modThread t.fg t.lane fun u => { u with lost := false }).modPend t.fg t.lane uid fun q =>
    { q with err := some (0x8004, s.noAddr), todo := .none }
/-- Lines that a release writes back past the slice are kept there by their parity group (spec/17_links.md R385): the release waits
until their stores are performed. -/
def State.heldBack (s : State) (core asid : Nat) (sc : Line → Nat) : Bool :=
  core < 256 && s.mem.slice.any fun x => x.unit = sliceOfCore core && x.asid = asid && 4 ≤ sc x && s.lineHeld x
/-- What a release still waits for once its write-back is made: lines kept back, and at .dom and wider every delta (R385). -/
def State.relWaits (s : State) (core asid sc : Nat) (by_ : Line → Nat) : Bool :=
  s.heldBack core asid by_ || (6 ≤ sc && s.parBusy asid)

/-! ### Performing a pending ordering operation -/

/-- The steps of FENCE.eng (R231): bank queues drained, every dirty L1 line of the context to the slice. -/
def State.fenceEng (s : State) (t : Thread) : State :=
  let s := match s.blockOf t.fg with | some b => s.setBlock b.drainBanks | none => s
  s.writeBack (s.coreOf t.fg) (s.asidOf t.fg) fun _ => 3

/-- FENCE (R228, R231, R240). -/
def State.doFence (s : State) (t : Thread) (eng rel acq : Bool) (sc : Nat) : State :=
  let core := s.coreOf t.fg
  let asid := s.asidOf t.fg
  if eng then s.fenceEng t
  else
    let s := if rel then s.writeBack core asid fun _ => sc else s
    if acq then s.discardClean core asid fun _ => sc else s

/-- A sync object found by ACQ or REL: its portion, or what it completes with (R241). -/
def State.findObj (s : State) (core asid : Nat) (w : Want) (obj : Nat) : State × Except AccRes Piece :=
  match s.check core asid w obj 8 with
  | (s, .error e) => (s, .error (accErr e))
  | (s, .ok (p :: _)) =>
    match p.peer with
    | some r => (s, .error (if s.pieceReach core asid p then .peer r else .err 0x8004 p.ea))
    | none =>
      if p.leaf.kind ≠ 2 then (s, .error (.err 0x5006 (Config.freeValue s.ticks)))
      else if !s.pieceReach core asid p then (s, .error (.err 0x8004 p.ea))
      else (s, .ok p)
  | (s, .ok []) => (s, .error (.err 0x5006 (Config.freeValue s.ticks)))

/-- What a pending operation becomes when its access ends otherwise than done: an error, a hold, a peer request. -/
def State.pendAcc (s : State) (t : Thread) (p : Pending) (kind obj sc : Nat) : AccRes → State
  | .done _ | .wait | .regs _ => s
  | .err c a => s.modPend t.fg t.lane p.uid fun q => { q with err := some (c, BitVec.ofNat 64 a), todo := .none }
  | .hold c a =>
    (s.modPend t.fg t.lane p.uid fun q => { q with held := true }).holdAcc t c a
      { fg := t.fg, lane := t.lane, uid := p.uid, write := false, ea := obj, size := 0 }
  | .peer r =>
    let (id, s) := s.newUid
    let q : OutReq := { id := id, kind := kind, rank := r, addr := obj % 2 ^ 48, size := 8, asid := s.asidOf t.fg
                        fg := t.fg, lane := t.lane, uid := p.uid, sc := sc }
    (s.pushOut q).modPend t.fg t.lane p.uid fun q => { q with todo := .none }

/-- ACQ (R226, R241): the word is read, and the clean bytes of the bound regions go. -/
def State.doAcq (s : State) (t : Thread) (p : Pending) (obj sc : Nat) : State :=
  let core := s.coreOf t.fg
  let asid := s.asidOf t.fg
  match s.findObj core asid .rd obj with
  | (s, .error e) => s.pendAcc t p 5 obj sc e
  | (s, .ok c) =>
    match s.readPiece false core asid c with
    | (s, .error code) => s.pendAcc t p 5 obj sc (.err code obj)
    | (s, .ok bs) =>
      (s.discardClean core asid (s.boundScope asid sc p.bound)).modPend t.fg t.lane p.uid fun q =>
        { q with val := some (bytesWords bs), todo := .none }
/-- REL (R225, R241): its checks, a store lost before it (R234), the write-back of the bound regions, and the increment. -/
def State.doRel (s : State) (t : Thread) (p : Pending) (obj sc : Nat) (sent : Bool := false) : State :=
  let core := s.coreOf t.fg
  let asid := s.asidOf t.fg
  let by_ := s.boundScope asid sc p.bound
  match s.findObj core asid .rw obj with
  | (s, .error (.peer r)) =>
    -- a peer's object: the write-back is made before the request leaves
    if t.relLost sc then s.failLost t p.uid
    else
      let s := s.writeBack core asid by_
      if s.relWaits core asid sc by_ then s else s.pendAcc t p 6 obj sc (.peer r)
  | (s, .error e) => s.pendAcc t p 6 obj sc e
  | (s, .ok c) =>
    if !sent && t.relLost sc then s.failLost t p.uid
    else
      match s.readPiece false core asid c with
      | (s, .error code) => s.pendAcc t p 6 obj sc (.err code obj)
      | (s, .ok bs) =>
        let s := if sent then s else s.writeBack core asid by_
        let v := toBytes 8 ((ofBytes bs + 1) % 2 ^ 64)
        if !sent && s.relWaits core asid sc by_ then s
        else
          (s.writePiece false core asid c v).modPend t.fg t.lane p.uid fun q => { q with val := some (bytesWords v), todo := .none }

/-! ### The instructions (R238, R240 to R243) -/

def execFence (f : FmtL) (s : State) : Out :=
  let eng := FmtL.op f = 1
  let ord := FmtL.ord f
  .next (issueEach s rightsAll f.guard fun p s t =>
    .ok (s.pendL t { fmtLPend f p 0 with
      todo := .fence eng (ord = 0 || ord = 2) (ord = 0 || ord = 1) (FmtL.sc f) }))
def execAcq (f : FmtL) (s : State) : Out :=
  .next (issueEach s rightsAll f.guard fun p s t =>
    let obj := s.objOf (regL s t f.a.toNat 2)
    .ok (s.pendL t { fmtLPend f p 2 with todo := .acq obj (FmtL.sc f), bound := s.boundTo (s.asidOf t.fg) obj }))
def execRel (f : FmtL) (s : State) : Out :=
  .next (issueEach s rightsAll f.guard fun p s t =>
    if s.sideless t.fg then .trap 0x4001 s.noAddr
    else
      let obj := s.objOf (regL s t f.a.toNat 2)
      .ok (s.pendL t { fmtLPend f p 2 with todo := .rel obj (FmtL.sc f), bound := s.boundTo (s.asidOf t.fg) obj }))

/-- The lowest number below `n` that a list does not hold. -/
def lowestFree (used : List Nat) (n : Nat) : Option Nat := (List.range n).find? fun k => !used.contains k
/-- BIND (R242): what it commits, or its error. -/
def State.bind (s : State) (asid base len obj sc : Nat) : State × Except Nat Nat :=
  let b := s.norm base
  match s.ctx? asid with
  | none => (s, .ok 0xFFFFFFFF)
  | some c =>
    if len = 0 || 2 ^ 47 < b + len then (s, .ok 0xFFFFFFFF)
    else if 2 ^ 57 ≤ obj || 0x180 < bits obj 48 9 || spaceOf (obj % 2 ^ 48) ≠ 2 then (s, .error 0x5006)
    else
      match lowestFree (c.bindings.map (·.num)) 4096 with
      | none => (s, .error 0x5004)
      | some n =>
        let lo := b / 128 * 128
        let nb : Binding := { num := n, base := lo, len := (b + len + 127) / 128 * 128 - lo, obj := obj, sc := sc }
        (s.modCtx asid fun c => { c with bindings := c.bindings ++ [nb] }, .ok n)
def execBind (f : FmtL) (s : State) : Out :=
  .next (issueEach s rightsOwn f.guard fun p s t =>
    if s.sideless t.fg then .trap 0x4001 s.noAddr
    else
      let r := s.bind (s.asidOf t.fg) (regL s t f.a.toNat 2) (regL s t f.b.toNat 2) (s.objOf (regL s t f.c.toNat 2))
        (FmtL.fn f % 8)
      let base := fmtLPend f p 1
      .ok (r.1.pendL t (match r.2 with
        | .ok n => { base with val := some [BitVec.ofNat 32 n] }
        | .error c => { base with err := some (c, s.noAddr) })))
/-- UNBIND (R243). -/
def execUnbind (f : FmtL) (s : State) : Out :=
  .next (issueEach s rightsOwn f.guard fun p s t =>
    if s.sideless t.fg then .trap 0x4001 s.noAddr
    else
      let n := regL s t f.a.toNat 1
      let asid := s.asidOf t.fg
      let has := ((s.ctx? asid).map fun c => c.bindings.any fun b => b.num = n).getD false
      let s := s.modCtx asid fun c => { c with bindings := c.bindings.filter fun b => b.num ≠ n }
      .ok (s.pendL t { fmtLPend f p 1 with val := some [if has then 0 else 0xFFFFFFFF#32] }))

end Sys2Proof.Machine
end

