-- ==== Sys2Proof/Machine/EventRing.lean ====
section
/-! DEFINITION. Event records and their rings (spec/04_system.md R119; spec/17_links.md R389, R392 to R394). -/
namespace Sys2Proof.Machine

def State.vf? (s : State) (n : Nat) : Option Vf := s.links.vfs.find? fun v => v.num = n
def State.setVf (s : State) (v : Vf) : State :=
  { s with links := { s.links with vfs := s.links.vfs.map fun w => if w.num = v.num then v else w } }
/-- STATE and ASID of a VF-table entry (R392). -/
def Vf.state (v : Vf) : Nat := bits v.entry.toNat 0 2
def Vf.asid (v : Vf) : Nat := bits v.entry.toNat 32 10
/-- VFs 1 to 62 of each link die belong to tenants (R21). -/
def Vf.tenant (v : Vf) : Bool := 1 ≤ v.num % 64 && v.num % 64 ≤ 62
/-- The VF that serves a context: one of L0 before one of L1, the lowest number first (R389). -/
def State.vfFor (s : State) (asid : Nat) : Option Vf := s.links.vfs.find? fun v => v.tenant && v.asid = asid

/-- Records of a ring, and whether it has room (R389). -/
def Vf.evrRoom (v : Vf) : Bool := (v.evrTail + 2 ^ 32 - v.evrHead) % 2 ^ 32 < 2 ^ v.evrLog
/-- A discarded record is counted, saturating (R389, R393). -/
def Vf.discard (v : Vf) (n : Nat) : Vf := { v with evrDisc := Nat.min (v.evrDisc + n) (2 ^ 32 - 1) }
/-- MSI-X vector 0 is raised: sent in state 0, held pending in states 1 and 2 (R393). -/
def Vf.raise (v : Vf) : Vf :=
  if v.num % 64 ≠ 0 && v.state ≠ 0 || v.msixMask then { v with msixPend := true } else { v with msixSent := v.msixSent + 1 }

/-- The 32 bytes of an event record (R119). -/
def eventRec (type asid time payload detail : Nat) : List Byte :=
  toBytes 2 type ++ toBytes 2 asid ++ toBytes 4 0 ++ toBytes 8 time ++ toBytes 8 payload ++ toBytes 8 detail

/-- Writes a record at the tail of a ring that has room. A tenant's is a store of its context, performed at the memory
controllers or at the peer its ring lies in; when it fails by R210 the record is discarded, and while the controllers keep it back
it waits (R393; spec/17_links.md R385). The physical function's goes to the host (R394). -/
def State.writeEvent (s : State) (v : Vf) (rec : List Byte) : State :=
  let a := v.evrBase + 32 * (v.evrTail % 2 ^ v.evrLog)
  let next := { v with evrTail := (v.evrTail + 1) % 2 ^ 32 }
  if v.num % 64 = 0 then (s.hostWrite a rec).setVf next.raise
  else
    match s.store false 256 v.asid 0 a rec with
    | (s, .done _) => s.setVf next.raise
    | (s, .peer r) =>
      let (id, s) := s.newUid
      (s.pushOut { id := id, kind := 1, rank := r, addr := a % 2 ^ 48, size := 32, data := rec, asid := v.asid, job := some id }).setVf next.raise
    | (s, .wait) => { s with links := { s.links with evWait := (v.num, rec) :: s.links.evWait } }
    | (s, _) => s.setVf (v.discard 1)

/-- A record that the hardware posts to a context's ring: discarded where there is no ring, the ring is disabled or its
function is in reset; waiting while the ring is full (R389, R393). -/
def State.postRecord (s : State) (asid : Nat) (rec : List Byte) : State :=
  match s.vfFor asid with
  | none => s
  | some v =>
    if !v.evrEn || v.state = 3 then s.setVf (v.discard 1)
    else if v.evrRoom && !(s.links.evWait.any fun w => w.1 = v.num) then s.writeEvent v rec
    else { s with links := { s.links with evWait := s.links.evWait ++ [(v.num, rec)] } }

/-- A hardware record of a type, with the code and its detail (R119). -/
def State.hwEvent (s : State) (asid type payload detail : Nat) : State :=
  s.postRecord asid (eventRec type asid s.ctl.devTime payload detail)

/-- EVPOST's posting: 0 posted, 1 full, 2 disabled (R119, R393). Records posted to a function in reset are discarded. -/
def State.post (s : State) (v : Option Vf) (rec : List Byte) : State × Nat :=
  match v with
  | none => (s, 2)
  | some v =>
    if !v.evrEn then (s, 2)
    else if v.num % 64 ≠ 0 && v.state = 3 then (s.setVf (v.discard 1), 0)
    else if !v.evrRoom then (s, 1)
    else (s.writeEvent v rec, 0)

/-! ### The request ring of the proxy (spec/17_links.md R389, R390) -/

/-- The 32 bytes of a request (R389): AOP as in R249, the address, operand and compare value. -/
def HostAtom.entry (h : HostAtom) : List Byte :=
  toBytes 4 h.seq ++ toBytes 1 h.op ++ toBytes 1 h.at_ ++ toBytes 2 h.asid ++ toBytes 8 h.bus ++ toBytes 8 h.x ++ toBytes 8 h.y
/-- PX_HEAD: the first entry whose response has not been accepted, or the tail. -/
def State.pxHeadOf (s : State) (v : Vf) : Nat :=
  match s.links.hostAtoms.find? fun h => h.vf = v.num && (h.st = 2 || h.st = 3) with
  | some h => h.seq
  | none => v.pxTail
/-- Requests that wait are written at PX_TAIL while the ring has room: bytes 8 to 31, then bytes 0 to 7. -/
def State.pumpPx (s : State) (vf : Nat) : State :=
  (s.links.hostAtoms.filter fun h => h.vf = vf && h.st = 1).foldl (fun (s : State) h =>
    match s.vf? vf with
    | none => s
    | some v =>
      if 2 ^ v.pxLog ≤ (v.pxTail + 2 ^ 32 - v.pxHead) % 2 ^ 32 then s
      else
        let h := { h with st := 2, seq := v.pxTail, startNs := s.ctl.devTime }
        let a := v.pxBase + 32 * (v.pxTail % 2 ^ v.pxLog)
        let s := (s.hostWrite (a + 8) (h.entry.drop 8)).hostWrite a (h.entry.take 8)
        let s := s.setVf { v with pxTail := (v.pxTail + 1) % 2 ^ 32 }
        { s with links := { s.links with hostAtoms := s.links.hostAtoms.map fun g => if g.id = h.id then h else g } }) s

end Sys2Proof.Machine
end

