-- ==== Sys2Proof/Machine/Sync.lean ====
section
/-! DEFINITION. Atomics, tickets and barriers (spec/10_sync.md R244 to R272; spec/17_links.md R388 to R390). -/
namespace Sys2Proof.Machine

/-! ### The operations on an element (R249) -/

/-- The TY of an AT code. -/
def atTy (at_ : Nat) : Nat := match at_ with | 0 => 2 | 1 => 6 | 2 => 3 | 3 => 7 | 4 => 8 | 5 => 9 | _ => 10
def atWidth (at_ : Nat) : Nat := tyWidth (atTy at_)
def atBytes (at_ : Nat) : Nat := atWidth at_ / 8
/-- The new value of an element (R249); `x` is operand B, `y` operand C. -/
def atomNew (op at_ old x y : Nat) : Nat :=
  let ty := atTy at_
  match op with
  | 0 => if ty < 8 then rAdd ty old x else let F := fmtOf ty; (rFadd F 0 0 (F.value old) (F.value x)).1
  | 1 => rMin ty old x
  | 2 => rMax ty old x
  | 3 => old &&& x
  | 4 => old ||| x
  | 5 => old ^^^ x
  | 6 => x
  | 7 => if old = x then y else old
  | 8 => if x ≤ old then 0 else old + 1
  | _ => if old = 0 || x < old then x else old - 1

/-! ### Requests (R247, R250, R251) -/

def State.setReq (s : State) (r : AtomReq) : State :=
  { s with sync := { s.sync with
    reqs := if r.lanes.isEmpty then s.sync.reqs.filter (fun q => q.id ≠ r.id)
      else s.sync.reqs.map fun q => if q.id = r.id then r else q } }

/-- Issues an atomic, reduction or .sp form: one request per path, whose lanes bring their operands. -/
def issueAtom (s : State) (f : FmtL) (sp red : Bool) : State :=
  let at_ := FmtL.at_ f
  let n := atRegs at_
  let w := atWidth at_
  let (id, s) := s.newUid
  let fg := match s.paths with | p :: _ => p.fg | [] => 0
  let r : AtomReq := { id := id, fg := fg, op := FmtL.op f, at_ := at_, sp := sp, red := red, ord := FmtL.ord f, sc := FmtL.sc f }
  let s := { s with sync := { s.sync with reqs := s.sync.reqs ++ [r] } }
  let s := issueEach s rightsAll f.guard fun p s t =>
    if !sp && s.sideless t.fg then .trap 0x4001 s.noAddr
    else
      let a := if sp then regL s t f.a.toNat 1 else regL s t f.a.toNat 2
      let ea := a / atBytes at_ * atBytes at_
      let asid := s.asidOf t.fg
      let bound := if sp then [] else s.boundTo asid (s.objOf ea)
      let r := s.pendU t { fmtLPend f p (if red then 0 else n) with bound := bound }
      let l : AtomLane := { lane := t.lane, uid := r.1, ea := ea, x := regL s t f.b.toNat n % 2 ^ w
                            y := regL s t f.c.toNat n % 2 ^ w }
      let s := if asid < 1024 then r.2.countEv asid 6 1 else r.2
      .ok { s with sync := { s.sync with
        reqs := s.sync.reqs.map fun q => if q.id = id then { q with lanes := q.lanes ++ [l] } else q } }
  { s with sync := { s.sync with reqs := s.sync.reqs.filter fun q => !(q.id = id && q.lanes.isEmpty) } }

def execAtom (f : FmtL) (s : State) : Out := .next (issueAtom s f false false)
def execAtomSp (f : FmtL) (s : State) : Out := .next (issueAtom s f true false)
def execRed (f : FmtL) (s : State) : Out := .next (issueAtom s f false true)
def execRedSp (f : FmtL) (s : State) : Out := .next (issueAtom s f true true)

/-- The bindings a pending operation took with it. -/
def State.boundOf (s : State) (fg lane uid : Nat) : List Binding :=
  match s.thread? fg lane with
  | some t => ((t.allPend.find? fun p => p.uid = uid).map (·.bound)).getD []
  | none => []
/-- R226 after an operation with .acq, on the regions bound to its word (R230). -/
def State.acqAfter (s : State) (fg lane uid sc : Nat) : State :=
  let asid := s.asidOf fg
  s.discardClean (s.coreOf fg) asid (s.boundScope asid sc (s.boundOf fg lane uid))
/-- R225 step 3 before an operation with .rel, on the regions bound to its word (R230). -/
def State.relBefore (s : State) (fg lane uid sc : Nat) : State :=
  let asid := s.asidOf fg
  s.writeBack (s.coreOf fg) asid (s.boundScope asid sc (s.boundOf fg lane uid))

/-- Whether the release of an operation with .rel has still to wait after that write-back. -/
def State.relHolds (s : State) (fg lane uid sc : Nat) : Bool :=
  let asid := s.asidOf fg
  s.relWaits (s.coreOf fg) asid sc (s.boundScope asid sc (s.boundOf fg lane uid))

/-- An atomic's result, or its error; a RED that has completed posts the code as an owner event (R251). -/
def State.atomDone (s : State) (r : AtomReq) (l : AtomLane) (res : Except Nat Nat) : State :=
  match res with
  | .ok old =>
    let s := if r.ord = 1 then s.acqAfter r.fg l.lane l.uid r.sc else s
    if r.red then s else s.modPend r.fg l.lane l.uid fun p => { p with val := some (writeX old (atTy r.at_)) }
  | .error c =>
    if r.red && r.sent then s.hwEvent (s.asidOf r.fg) 0 c 0
    else s.modPend r.fg l.lane l.uid fun p => { p with err := some (c, BitVec.ofNat 64 l.ea) }

/-- The entry of the host window table for a buffer (R387): NOATOM, MODE and PRIVATE. -/
def State.hostWinOf (s : State) (buf : Nat) : Nat := ((s.links.hostWin.find? fun e => e.1 = buf).map (·.2)).getD 0
/-- Operations and types that travel as AtomicOps (R388). -/
def hostNative (op at_ : Nat) : Bool := (op = 0 && at_ ≤ 3) || ((op = 6 || op = 7) && at_ ≤ 4)

/-- A lane's host-window atomic: as an AtomicOp, by the proxy, or ended with 0x9002 (R388, R389). -/
def State.sendHost (s : State) (r : AtomReq) (l : AtomLane) (p : Piece) : State :=
  let asid := s.asidOf r.fg
  let win := s.hostWinOf p.leaf.buf
  let (id, s) := s.newUid
  let h : HostAtom := { id := id, fg := r.fg, lane := l.lane, uid := l.uid, asid := asid, buf := p.leaf.buf, ea := l.ea, bus := p.pa
                        op := r.op, at_ := r.at_, x := l.x, y := l.y, ord := r.ord, sc := r.sc, red := r.red
                        startNs := s.ctl.devTime }
  let add (h : HostAtom) : State := { s with links := { s.links with hostAtoms := s.links.hostAtoms ++ [h] } }
  if s.tdiBad asid p.leaf then s.atomDone r l (.error 0x9004)
  else if hostNative r.op r.at_ && !bit win 0 then add h
  else if hostNative r.op r.at_ && !bit win 1 then s.atomDone r l (.error 0x9002)
  else
    match s.vfFor asid with
    | none => s.atomDone r l (.error 0x9002)
    | some v => if v.pxEn then (add { h with st := 1, vf := v.num }).pumpPx v.num else s.atomDone r l (.error 0x9002)

/-- What becomes of a lane of a request on its way out of the core. -/
inductive LaneFate where
  | stay | gone | held
  deriving DecidableEq, Repr
/-- A lane's checks, R210 steps 1 to 5 or 0x3004, and whether its request can be delivered (R250). -/
def State.checkLane (s : State) (r : AtomReq) (l : AtomLane) : State × LaneFate :=
  let n := atBytes r.at_
  let core := s.coreOf r.fg
  let asid := s.asidOf r.fg
  let bad (s : State) (c a : Nat) : State × LaneFate :=
    (s.modPend r.fg l.lane l.uid fun p => { p with err := some (c, BitVec.ofNat 64 a) }, .gone)
  if r.sp then
    match s.blockOf r.fg with
    | none => (s, .gone)
    | some b => match b.scratchBad l.ea n with | some a => bad s 0x3004 a | none => (s, .stay)
  else
    match s.check core asid .rw l.ea n with
    | (s, .error e) =>
      match accErr e, s.thread? r.fg l.lane with
      | .hold c a, some t =>
        (s.holdAcc t c a { fg := r.fg, lane := l.lane, uid := l.uid, write := true, ea := l.ea, size := 0 }, .held)
      | _, _ => bad s e.1 e.2
    | (s, .ok []) => (s, .gone)
    | (s, .ok (p :: ps)) =>
      if p.peer.isNone && ((p.leaf.kind = 0 && s.poisoned p.pa) || (p.leaf.kind = 2 && s.writeFails false core asid p)) then bad s 0x3030 l.ea
      else match s.lostAt core asid (p :: ps) with | some a => bad s 0x8004 a | none => (s, .stay)
/-- A lane that has passed them leaves: to a peer, to the host, or to its element's engine, on another die as a transaction
(spec/18_program_tickets.md R400), where it stays for the passes. -/
def State.sendLane (s : State) (r : AtomReq) (l : AtomLane) : State × LaneFate :=
  let n := atBytes r.at_
  let asid := s.asidOf r.fg
  if r.sp then (s, .stay)
  else
    match s.check (s.coreOf r.fg) asid .rw l.ea n with
    | (s, .ok (p :: _)) =>
      match p.peer with
      | some rank =>
        let (id, s) := s.newUid
        (s.pushOut { id := id, kind := if r.red then 3 else 2, rank := rank, addr := l.ea % 2 ^ 48, size := n
                     data := toBytes 8 l.x ++ toBytes 8 l.y, asid := asid, fg := r.fg, lane := l.lane, uid := l.uid
                     op := r.op, at_ := r.at_, sc := r.sc, ord := r.ord }, .gone)
      | none =>
        if p.leaf.kind = 1 then (s.sendHost { r with sent := true } l p, .gone)
        else
          match s.farHome r.fg .rw l.ea n with
          | some home =>
            let tx (h : TxHdr) : List Byte :=
              txBytes { h with kind := if r.red then 4 else 3, aop := r.op, at_ := r.at_, ord := r.ord, sc := r.sc } (toBytes 8 l.x ++ toBytes 8 l.y)
            (s.sendCross (s.crossFor r.fg l.lane l.uid r.id 0 r.red l.ea home tx), .stay)
          | none => (s, .stay)
    | (s, _) => (s, .stay)

/-- A lane whose operation is performed now at its element (R244): the old value, or a code. -/
def State.performAtom (s : State) (r : AtomReq) (l : AtomLane) : State × Except Nat Nat :=
  let n := atBytes r.at_
  if r.sp then
    match s.blockOf r.fg with
    | none => (s, .error 0x3004)
    | some b =>
      let b := b.drainBanks
      let old := field b.scratch l.ea n
      (s.setBlock { b with scratch := patch b.scratch l.ea (toBytes n (atomNew r.op r.at_ old l.x l.y)) }, .ok old)
  else
    let asid := s.asidOf r.fg
    match s.check (s.coreOf r.fg) asid .rw l.ea n with
    | (s, .error e) => (s, .error e.1)
    | (s, .ok []) => (s, .error 0x3003)
    | (s, .ok (p :: _)) =>
      -- core 256 stands for the path that passes through no cache
      match s.readPiece false 256 asid p with
      | (s, .error c) => (s, .error c)
      | (s, .ok bs) =>
        let old := ofBytes bs
        (s.writePiece false 256 asid p (toBytes n (atomNew r.op r.at_ old l.x l.y)), .ok old)

/-- The synchronisation word an operation not yet performed acts on. -/
def Todo.word : Todo → Option Nat
  | .acq o _ | .rel o _ => some (o / 8)
  | .tk _ w _ | .take w _ _ => some (w / 8)
  | _ => Option.none
/-- Whether an operation of the thread that issued before `uid` acts on the word and is not performed yet: those of one
thread on one word are performed in issue order (spec/09_ordering.md R215, R222). -/
def State.wordBusy (s : State) (t : Thread) (uid w : Nat) : Bool :=
  (t.before uid).any (fun p => p.todo.word = some w) ||
  s.sync.reqs.any fun r => !r.sp && r.fg = t.fg && r.lanes.any fun l => l.lane = t.lane && l.ea / 8 = w && l.uid ≠ uid &&
    (t.before uid).any fun p => p.uid = l.uid
/-- Whether a lane of a request must wait for an earlier operation of its thread on its element's word. -/
def State.laneWaits (s : State) (r : AtomReq) (l : AtomLane) : Bool :=
  match s.thread? r.fg l.lane with
  | none => false
  | some t =>
    if r.sp then s.sync.reqs.any fun q => q.sp && q.fg = r.fg && q.id ≠ r.id && q.lanes.any fun k =>
      k.lane = l.lane && k.ea / 8 = l.ea / 8 && (t.before l.uid).any fun p => p.uid = k.uid
    else s.wordBusy t l.uid (l.ea / 8) || s.accWaits t l.uid { ea := l.ea, n := atBytes r.at_, rd := !r.red }
/-- Whether a request may leave its core: no lane held, none behind an earlier operation on its word, and no request out under a tag
of its own. -/
def State.reqReady (s : State) (r : AtomReq) : Bool :=
  r.sent || r.lanes.all fun l => !l.held && !s.laneWaits r l && !(s.links.cross.any fun e => e.tag = l.uid % 2 ^ 16)
/-- With .rel: every lane's earlier accesses are complete (R225). -/
def State.reqReleased (s : State) (r : AtomReq) : Bool :=
  r.ord ≠ 2 || r.lanes.all fun l => match s.thread? r.fg l.lane with | some t => s.releaseReady t l.uid r.sc | none => true
/-- The winners of a pass: for every element the lowest lane that addresses it (R247). -/
def winners (ls : List AtomLane) : List AtomLane :=
  ls.filter fun l => ls.all fun k => k.ea ≠ l.ea || l.lane ≤ k.lane

/-- A lane whose element lies in a PARITY buffer whose writes are held (spec/17_links.md R385). -/
def State.laneHeld (s : State) (r : AtomReq) (l : AtomLane) : Bool :=
  !r.sp && s.parHold && match (s.check (s.coreOf r.fg) (s.asidOf r.fg) .rw l.ea (atBytes r.at_)).2 with
    | .ok ps => ps.any s.pieceHeld
    | .error _ => false
/-- A RED lane that has left its core, or been accepted by its bank, is complete (R251). -/
def State.redDone (s : State) (r : AtomReq) (l : AtomLane) : State :=
  if r.red then s.modPend r.fg l.lane l.uid fun p => if p.err.isSome then p else { p with val := some [] } else s
/-- Some lanes go through a step: those that stay, those held, marked so; a lane that goes is a RED's end of its issue. -/
def laneStep (f : State → AtomLane → State × LaneFate) (done : State → AtomLane → State) (s : State) (ls : List AtomLane) : State × List AtomLane :=
  ls.foldl (fun (acc : State × List AtomLane) l =>
    let x := f acc.1 l
    match x.2 with
    | .stay => (x.1, acc.2 ++ [l])
    | .gone => (done x.1 l, acc.2)
    | .held => (x.1, acc.2 ++ [{ l with held := true }])) (s, [])
/-- The release of a request with .rel: lanes whose threads have lost a store fail with 0x8004 (R234), the others write back. -/
def State.releaseReq (s : State) (r : AtomReq) : State × List AtomLane :=
  if r.ord ≠ 2 then (s, r.lanes)
  else laneStep (fun s l => match s.thread? r.fg l.lane with
    | some t => if t.relLost r.sc then (s.failLost t l.uid, .gone) else (s.relBefore r.fg l.lane l.uid r.sc, .stay)
    | none => (s, .stay)) (fun s _ => s) s r.lanes
/-- The request leaves its core: its checks, then with .rel its release, then its lanes go (R250). A lane that fails or is held
does so before any lane waits for a release. -/
def State.sendReq (s : State) (r : AtomReq) : State × AtomReq :=
  let c := laneStep (fun s l => s.checkLane r l) (fun s _ => s) s r.lanes
  let r := { r with lanes := c.2 }
  let s := c.1
  if (r.lanes.any (·.held)) || !s.reqReleased r then (s, r)
  else
    let x := s.releaseReq r
    let r := { r with lanes := x.2 }
    let s := x.1
    if r.ord = 2 && r.lanes.any (fun l => s.relHolds r.fg l.lane l.uid r.sc) then (s, r)
    else
      let y := laneStep (fun s l => s.sendLane r l) (fun s l => s.redDone r l) s r.lanes
      (y.2.foldl (fun s l => s.redDone r l) y.1, { r with lanes := y.2, sent := true })

/-- ATOMIC_REQUEST_SERVE: the request leaves its core if it has not, and one pass is performed once all its lanes are at their engines
(R247; spec/18_program_tickets.md R400). -/
def execAtomicRequestServe (s : State) : Out :=
  match s.sync.reqs.find? fun r => r.id = s.ev.a with
  | none => .next s
  | some r =>
    if !s.reqReady r then .next s
    else
      let r0 := if r.sent then (s, r) else s.sendReq r
      let r := r0.2
      let s := r0.1
      if !r.sent || r.lanes.any (fun l => (s.crossOf r.fg l.lane l.uid).any fun e => e.st = 0) then .next (s.setReq r)
      else
        let win := (winners r.lanes).filter fun l => !s.laneHeld r l
        let s := win.foldl (fun s l => let x := s.performAtom r l; x.1.atomDone r l x.2) s
        .next (s.setReq { r with lanes := r.lanes.filter fun l => !win.contains l })

/-! ### Requests at the engine of another die (spec/17_links.md R374) -/

/-- A request of a thread between dies can no longer be delivered, or its answer cannot: it completes with 0x8004. -/
def State.lostCross (s : State) (e : Cross) : State :=
  let s := s.dropCross e
  if e.gone then s
  else
    let s := (s.sync.reqs.filter fun r => r.fg = e.fg && r.id = e.req).foldl (fun (s : State) r =>
      s.setReq { r with lanes := r.lanes.filter fun l => l.uid ≠ e.uid }) s
    if e.red then s.hwEvent (s.asidOf e.fg) 0 0x8004 0
    else s.modPend e.fg e.lane e.uid fun p => { p with val := none, err := some (0x8004, BitVec.ofNat 64 e.ea), todo := .none }
/-- The answer of a request that its engine has performed: KIND and data. -/
def State.crossRes (s : State) (e : Cross) : Option (Nat × List Byte) :=
  if e.red then (if s.sync.reqs.any fun r => r.fg = e.fg && r.lanes.any fun l => l.uid = e.uid then none else some (0x11, []))
  else
    ((s.thread? e.fg e.lane).bind fun t => t.allPend.find? fun p => p.uid = e.uid).bind fun p =>
      match p.err, p.val with
      | some c, _ => some (0x13, toBytes 16 c.1)
      | none, some ws => some (if e.kind = 2 then (0x11, []) else (if e.kind = 1 then 0x10 else 0x12, ws.flatMap fun w => toBytes 4 w.toNat))
      | none, none => none
/-- What the engines have performed for threads of other dies is answered. -/
def State.answerCross (s : State) : State :=
  (s.links.cross.filter fun e => e.st = 1).foldl (fun (s : State) e =>
    if e.gone then s.dropCross e
    else
      match s.crossRes e with
      | none => s
      | some x =>
        let h : TxHdr := { addr := e.addr, src := e.dst, tag := e.tag, asid := s.asidOf e.fg
                           part := ((s.ctx? (s.asidOf e.fg)).map (·.part)).getD 0, kind := x.1 }
        match s.sendDie e.dst e.src (txBytes h x.2) with
        | some s => s.modCross e fun c => { c with st := 2 }
        | none => s.lostCross e) s

/-! ### Ticket networks (R253 to R261) -/

/-- Stage and step of a layer (R253). -/
def layerSU (L : Nat) : Nat × Nat :=
  match L with
  | 0 => (1, 0) | 1 => (2, 0) | 2 => (2, 1) | 3 => (3, 0) | 4 => (3, 1) | 5 => (3, 2)
  | 6 => (4, 0) | 7 => (4, 1) | 8 => (4, 2) | _ => (4, 3)
def partner (L x : Nat) : Nat :=
  let su := layerSU L
  let k := 2 ^ su.1
  if su.2 = 0 then x ^^^ (k - 1) else x ^^^ (k / 2 ^ (su.2 + 1))
/-- The balancer of layer L that a wire enters: how many lower wires are the lower of their pair (R253). -/
def balancerOf (L x : Nat) : Nat :=
  let lo := Nat.min x (partner L x)
  ((List.range lo).filter fun y => y < partner L y).length
/-- A token passes one layer: its wire, and the balancer bits after it. -/
def passLayer (b : BitVec 80) (L x : Nat) : BitVec 80 × Nat :=
  let k := 8 * L + balancerOf L x
  let y := partner L x
  (b ^^^ (1#80 <<< k), if b.getLsbD k then Nat.max x y else Nat.min x y)
/-- A token passes layers from L on. -/
def passLayers : (n : Nat) → BitVec 80 → (L x : Nat) → BitVec 80 × Nat
  | 0, b, _, x => (b, x)
  | n + 1, b, L, x => let r := passLayer b L x; passLayers n r.1 (L + 1) r.2

/-- Where a network lives: a die and an offset of its sync storage, or a plane and a peer address (R257). -/
structure NetKey where
  dom  : Bool
  home : Nat
  word : Nat
  deriving DecidableEq, Repr
def Net.is (n : Net) (k : NetKey) : Bool := n.dom = k.dom && n.home = k.home && n.word = k.word
def State.net? (s : State) (k : NetKey) : Option Net := s.sync.nets.find? fun n => n.is k
def State.setNet (s : State) (k : NetKey) (n : Net) : State :=
  { s with sync := { s.sync with nets := s.sync.nets.map fun m => if m.is k then n else m } }

/-- The word of a ticket instruction: checked by R210 steps 1 to 4 with the read right, KIND 2 (R259, R261). A local
name is a die network's, a peer name a domain network's. -/
def State.findNet (s : State) (core asid ea : Nat) : State × Except AccRes NetKey :=
  let ea := ea / 8 * 8
  let peer := bits ea 48 9 ≠ 0
  match s.check core asid .rd ea 8 with
  | (s, .error e) => (s, .error (accErr e))
  | (s, .ok []) => (s, .error (.err 0x5006 (Config.freeValue s.ticks)))
  | (s, .ok (p :: _)) =>
    if (p.peer.isSome && spaceOf (ea % 2 ^ 48) ≠ 2) || (p.peer.isNone && p.leaf.kind ≠ 2) then
      (s, .error (.err 0x5006 (Config.freeValue s.ticks)))
    else if !s.pieceReach core asid p then (s, .error (.err 0x8004 p.ea))
    else if peer then (s, .ok { dom := true, home := s.planeOf ea, word := ea })
    else (s, .ok { dom := false, home := p.pa / 2 ^ 40, word := p.pa % 2 ^ 40 })

/-- A pending operation ends with a value, with an error, or is held (R211). -/
def State.pendVal (s : State) (t : Thread) (uid : Nat) (ws : List Word) : State :=
  s.modPend t.fg t.lane uid fun p => { p with val := some ws, todo := .none }
def State.pendStop (s : State) (t : Thread) (uid ea : Nat) (e : AccRes) : State :=
  match e with
  | .err c a => s.modPend t.fg t.lane uid fun p => { p with err := some (c, BitVec.ofNat 64 a), todo := .none }
  | .hold c a =>
    (s.modPend t.fg t.lane uid fun p => { p with held := true }).holdAcc t c a
      { fg := t.fg, lane := t.lane, uid := uid, write := false, ea := ea, size := 0 }
  | _ => s

/-- The wire a TAKE enters on (R254). -/
def takeWire (s : State) (k : NetKey) (core lane : Nat) : Nat :=
  (lane + core + (if k.dom then s.rank else 0)) % 16

/-- A token enters a network, or waits while it is closed (R258). -/
def Net.enter (n : Net) (x : Token) : Net := if n.open_ then { n with tokens := n.tokens ++ [x] } else { n with waiters := n.waiters ++ [x] }
/-- TAKE reaches its network (R258, R261). -/
def State.doTake (s : State) (t : Thread) (p : Pending) (ea ord sc : Nat) : State :=
  match s.findNet (s.coreOf t.fg) (s.asidOf t.fg) ea with
  | (s, .error e) => s.pendStop t p.uid ea e
  | (s, .ok k) =>
    if ord = 2 && t.relLost sc then s.failLost t p.uid
    else
    let s := if ord = 2 then s.relBefore t.fg t.lane p.uid sc else s
    if (ord = 2 && s.relHolds t.fg t.lane p.uid sc) || (k.dom && !s.portUp k.home) then s
    else
    match s.net? k with
    | none =>
      -- a word of a plane that is lost, whose network was not made again (spec/17_links.md R398)
      let lost := k.dom && s.links.lost.getD (planeHash (ea % 2 ^ 57)) false
      s.pendStop t p.uid ea (.err (if lost then 0x8003 else 0x4004) (Config.freeValue s.ticks))
    | some n =>
      let (id, s) := s.newUid
      let tok : Token := { id := id, fg := t.fg, lane := t.lane, uid := p.uid, ea := ea, wire := takeWire s k (s.coreOf t.fg) t.lane
                           ord := ord, sc := sc }
      (s.setNet k (n.enter tok)).modPend t.fg t.lane p.uid fun q => { q with todo := .none }

def execTake (f : FmtL) (s : State) : Out :=
  .next (issueEach s rightsAll f.guard fun p s t =>
    if s.sideless t.fg then .trap 0x4001 s.noAddr
    else
      let ea := regL s t f.a.toNat 2
      .ok (s.pendL t { fmtLPend f p 2 with
        todo := .take ea (FmtL.ord f) (FmtL.sc f), bound := s.boundTo (s.asidOf t.fg) (s.objOf ea) }))

/-- What waited at a network ends, in a thread or for another die. -/
def State.netEnd (s : State) (fg lane uid : Nat) (ws : List Word) : State :=
  if fg = dieFg then s.answerDie uid (.ok (ws.flatMap fun w => toBytes 4 w.toNat))
  else s.modPend fg lane uid fun p => { p with val := some ws }
/-- TKDRAIN.close operations complete once no token is in flight, though the network has been opened again (R258). -/
def State.netQuiet (s : State) (k : NetKey) (n : Net) : State :=
  if n.tokens.isEmpty then
    n.closers.foldl (fun s c => s.netEnd c.1 c.2.1 c.2.2 [0])
      (s.setNet k { n with closers := [] })
  else s.setNet k n

/-- TICKET_TOKEN_EXIT: token `ev.b` of network number `ev.a` passes `ev.c` layers, or all that are left when that is
0; leaving layer 9 it takes its ticket. Tokens enter layer 0 in their order (R254). -/
def execTicketTokenExit (s : State) : Out :=
  match s.sync.nets[s.ev.a]? with
  | none => .next s
  | some n =>
    let k : NetKey := { dom := n.dom, home := n.home, word := n.word }
    match n.tokens.find? fun x => x.id = s.ev.b with
    | none => .next s
    | some x =>
      let first := (n.tokens.find? fun y => y.layer = 0).map (·.id)
      if x.layer = 0 && first ≠ some x.id then .next s
      else
        let left := 10 - x.layer
        let m := if s.ev.c = 0 then left else Nat.min s.ev.c left
        let r := passLayers m n.bits x.layer x.wire
        if m < left then
          .next (s.setNet k { n with
            bits := r.1, tokens := n.tokens.map fun y => if y.id = x.id then { x with layer := x.layer + m, wire := r.2 } else y })
        else
          let c := n.ctrs.getD r.2 0
          let ticket := (n.base + r.2 + 16 * c) % 2 ^ 64
          let n := { n with bits := r.1, ctrs := n.ctrs.set r.2 ((c + 1) % 2 ^ 48), tokens := n.tokens.filter fun y => y.id ≠ x.id }
          let s := if x.ord = 1 then s.acqAfter x.fg x.lane x.uid x.sc else s
          .next ((s.netEnd x.fg x.lane x.uid (natWords ticket 2)).netQuiet k n)

/-- The magic of a saved network (R260). -/
def tickMagic : List Byte := [0x4B, 0x52, 0x4E, 0x54, 0x49, 0x43, 0x4B, 0x54]
/-- The image of a network, and a network from an image (R260). -/
def Net.image (n : Net) : List Byte :=
  tickMagic ++ toBytes 8 n.base ++ toBytes 10 n.bits.toNat ++ List.replicate 6 0 ++ n.ctrs.flatMap (toBytes 6)
def Net.ofImage (n : Net) (b : List Byte) : Option Net :=
  if b.take 8 ≠ tickMagic || field b 26 6 ≠ 0 then none
  else some { n with base := field b 8 8, bits := BitVec.ofNat 80 (field b 16 10)
                     ctrs := (List.range 16).map fun i => field b (32 + 6 * i) 6 }

/-- A network by the table of R258: TKNEW.dev 0, .dom 1, TKDRAIN.close 4, .open 5, .free 6, and for TKSAVE 2 and TKLOAD 3 whether
they may go on. The status; none while the network drains. A TKDRAIN.free of a network with TAKEs waiting at it leaves them with no
network, 0x4004 (assumption log 107). -/
def State.netCmd (s : State) (k : NetKey) (kind b asid : Nat) (who : Nat × Nat × Nat) : State × Option Nat :=
  match s.net? k with
  | none =>
    if 1 < kind then (s, some 2)
    else if (s.sync.nets.filter fun n => n.dom = k.dom && n.home = k.home).length < (if k.dom then 1024 else 256) then
      let n : Net := { dom := k.dom, home := k.home, word := k.word, asid := asid, base := b }
      ({ s with sync := { s.sync with nets := s.sync.nets ++ [n] } }, some 0)
    else (s, some 1)
  | some n =>
    let quiet := !n.open_ && n.tokens.isEmpty
    match kind with
    | 4 =>
      if n.tokens.isEmpty then (s.setNet k { n with open_ := false }, some 0)
      else (s.setNet k { n with open_ := false, closers := n.closers ++ [who] }, none)
    | 5 => (s.setNet k { n with open_ := true, tokens := n.tokens ++ n.waiters, waiters := [] }, some 0)
    | _ =>
      if !quiet then (s, some 0x5003)
      else if kind ≤ 1 then
        (s.setNet k { n with base := b, bits := 0, ctrs := List.replicate 16 0, open_ := true, tokens := n.waiters, waiters := [] }, some 0)
      else if kind = 6 then (s.loseNet n 0x4004, some 0)
      else (s, some 0)
/-- TKNEW, TKSAVE, TKLOAD and TKDRAIN (R258 to R260). -/
def State.doTk (s : State) (t : Thread) (p : Pending) (kind ea b : Nat) : State :=
  let core := s.coreOf t.fg
  let asid := s.asidOf t.fg
  let ret (s : State) (v : Nat) : State := s.pendVal t p.uid [BitVec.ofNat 32 v]
  let peer := bits ea 48 9 ≠ 0
  match s.findNet core asid ea with
  | (s, .error e) => s.pendStop t p.uid ea e
  | (s, .ok k) =>
    if (kind = 0 && peer) || (kind = 1 && !peer) then s.pendStop t p.uid ea (.err 0x5006 (Config.freeValue s.ticks))
    else if k.dom && !s.portUp k.home then s
    else
      match s.netCmd k kind b asid (t.fg, t.lane, p.uid) with
      | (s, none) => s.modPend t.fg t.lane p.uid fun q => { q with todo := .none }
      | (s, some v) =>
        match if v = 0 && (kind = 2 || kind = 3) then s.net? k else none with
        | none => ret s v
        | some n =>
          if kind = 2 then
            match s.writeOwn t p b n.image with
            | (s, .done _) => ret s 0
            | (s, e) => s.pendStop t p.uid b e
          else
            match s.readOwn t p b 128 with
            | (s, .done bs) =>
              match n.ofImage bs with
              | some m => ret (s.setNet k m) 0
              | none => ret s 3
            | (s, e) => s.pendStop t p.uid b e

/-- Issues a ticket-network instruction; its effect is performed while it is pending. -/
def issueTk (s : State) (f : FmtL) (kind : Nat) (b : State → Thread → Nat) : State :=
  issueEach s rightsAll f.guard fun p s t =>
    if s.sideless t.fg then .trap 0x4001 s.noAddr
    else .ok (s.pendL t { fmtLPend f p 1 with todo := .tk kind (regL s t f.a.toNat 2) (b s t) })

def execTknew (f : FmtL) (s : State) : Out :=
  .next (issueTk s f (if FmtL.fn f = 6 then 1 else 0) fun s t => regL s t f.b.toNat 2)
def execTksave (f : FmtL) (s : State) : Out := .next (issueTk s f 2 fun s t => regL s t f.b.toNat 2)
def execTkload (f : FmtL) (s : State) : Out := .next (issueTk s f 3 fun s t => regL s t f.b.toNat 2)
def execTkdrainClose (f : FmtL) (s : State) : Out := .next (issueTk s f 4 fun _ _ => 0)
def execTkdrainOpen (f : FmtL) (s : State) : Out := .next (issueTk s f 5 fun _ _ => 0)
def execTkdrainFree (f : FmtL) (s : State) : Out := .next (issueTk s f 6 fun _ _ => 0)

/-- Whether the checks on a release's word end it here: they come before its waits (R225, R241, R257). -/
def State.relStops (s : State) (t : Thread) (obj : Nat) : Bool :=
  match (s.findObj (s.coreOf t.fg) (s.asidOf t.fg) .rw obj).2 with
  | .error (.peer _) | .ok _ => false
  | .error _ => true
def State.takeStops (s : State) (t : Thread) (ea : Nat) : Bool :=
  match (s.findNet (s.coreOf t.fg) (s.asidOf t.fg) ea).2 with | .error _ => true | .ok _ => false

/-- An operation of a request waits for the same of its lower virtual lanes: tokens enter, and nodes are accepted, in that order
(R254; spec/15_launch.md R357). -/
def State.lowerFirst (s : State) (t : Thread) (p : Pending) : Bool :=
  s.threads.any fun u => u.fg = t.fg && u.lane < t.lane && u.allPend.any fun q =>
    q.req = p.req && q.iaddr = p.iaddr && match q.todo with | .take _ _ _ | .launch _ => true | _ => false
/-- An operation is performed only while its block stands on a core: a TAKE withdrawn with its block waits for the restore
(R247; spec/03_encoding.md R85). -/
def State.mayPerform (s : State) (t : Thread) : Bool :=
  match s.blockOf t.fg with | some b => b.place = .resident || b.place = .stopping | none => true
/-- A TAKE that would wait at a closed network: it is not drained, and its request is made anew after the restore (R85). -/
def State.takeAway (s : State) (t : Thread) (p : Pending) : Bool :=
  match p.todo with
  | .take ea _ _ =>
    match (s.findNet (s.coreOf t.fg) (s.asidOf t.fg) ea).2 with
    | .ok k => (s.net? k).any fun n => !n.open_
    | .error _ => false
  | _ => false
/-- A TAKE that its stopping block leaves behind at a closed network: it is neither performed nor waited for (R258; spec/03_encoding.md
R85). -/
def State.leftBehind (s : State) (t : Thread) (p : Pending) : Bool :=
  ((s.blockOf t.fg).map fun (b : Block) => decide (b.place = Place.stopping)).getD false && s.takeAway t p
/-- What of a thread's pending operations commits in its order: a TAKE left behind holds nothing up (spec/03_encoding.md R84, R85). -/
def State.ending (s : State) (t : Thread) : List Pending := t.pend.filter fun p => !s.leftBehind t p
/-- An operator's FENCE.sys waits for every access that keeps a translation made before the drop that it orders: in flight to the host,
on its way to the scheduler window, performed in part, or inside a ticket network (spec/08_memory.md R200; assumption log 124). -/
def State.dropWaits (s : State) (t : Thread) (uid sc : Nat) : Bool :=
  sc = 7 && s.asidOf t.fg = oprAsid &&
    ((s.links.hostAtoms.any fun h => h.id < uid && h.st ≠ 3)
      || (s.threads.any fun u => u.allPend.any fun q => q.uid < uid && match q.todo with | .regs _ _ _ _ | .parts _ _ _ => true | _ => false)
      || s.sync.nets.any fun n => n.tokens.any fun k => k.uid < uid)
/-- A pending operation waits for earlier ones of its thread: on its word, or by the order of their accesses. -/
def State.todoWaits (s : State) (t : Thread) (p : Pending) : Bool :=
  (match p.todo.word with | some w => s.wordBusy t p.uid w | none => false) || (s.unmade t p).any (s.accWaits t p.uid)
/-- The release of a path's TAKE is ready for every thread whose TAKE is still to enter (spec/18_program_tickets.md R400). -/
def State.takeReleased (s : State) (t : Thread) (p : Pending) (sc : Nat) : Bool :=
  s.threads.all fun u => u.fg ≠ t.fg || u.allPend.all fun q =>
    q.req ≠ p.req || q.iaddr ≠ p.iaddr || (match q.todo with | .take _ _ _ => s.releaseReady u q.uid sc | _ => true)
/-- The operations of one instruction of a path: they are one request (R247; spec/18_program_tickets.md R400). -/
def State.mates (s : State) (t : Thread) (p : Pending) : List (Thread × Pending) :=
  ((s.threads.filter fun u => u.fg = t.fg).mergeSort fun a b => a.lane ≤ b.lane).flatMap fun u =>
    (u.allPend.filter fun q => q.req = p.req && q.iaddr = p.iaddr).map fun q => (u, q)
/-- What an operation has to ask of the engine of another die, and where. A release that has lost a store asks nothing: it fails (R234). -/
def State.farAsk (s : State) (t : Thread) (p : Pending) : Option (Ask × Nat × Nat) :=
  match p.todo.ask with
  | none => none
  | some a => if a.rel.any t.relLost then none else (s.farHome t.fg a.w a.ea a.n).map fun h => (a, h)
/-- Whether the request of an operation may leave its die: its thread's accesses before it are ordered, its release has been waited
for, and no other request is out that a die could not tell from it. -/
def State.mayCross (s : State) (t : Thread) (p : Pending) (x : Ask × Nat × Nat) : Bool :=
  let c := (s.crossFor t.fg t.lane p.uid p.req p.iaddr false x.1.ea x.2 x.1.tx).1
  !p.held && s.mayPerform t && !s.todoWaits t p && !s.leftBehind t p && !(s.links.cross.any fun e => e.clash c) &&
    (match x.1.rel with | some sc => s.releaseReady t p.uid sc | none => true)
/-- How an operation stands that may lie on another die: with `true` it is performed now. Those of one path leave together, in
ascending lane, once the release of each is made; they are performed in that order, once all have come in
(spec/18_program_tickets.md R400). -/
def State.crossing (s : State) (t : Thread) (p : Pending) : State × Bool :=
  match s.crossOf t.fg t.lane p.uid with
  | some e =>
    (s, e.st = 1 && (s.mates t p).all fun m => match s.crossOf m.1.fg m.1.lane m.2.uid with
      | some x => x.st ≠ 0 && (t.lane ≤ x.lane || m.2.todo = .none)
      | none => true)
  | none =>
    if (s.farAsk t p).isNone then (s, true)
    else
      let ms := (s.mates t p).filterMap fun m =>
        if (s.crossOf m.1.fg m.1.lane m.2.uid).isSome then none else (s.farAsk m.1 m.2).map fun x => (m, x)
      if !(ms.all fun m => s.mayCross m.1.1 m.1.2 m.2) then (s, false)
      else
        let rel (s : State) (f : State → Nat → Nat → Nat → Nat → State × Bool) : State × Bool :=
          ms.foldl (fun acc m => match m.2.1.rel with
            | some sc => let r := f acc.1 m.1.1.fg m.1.1.lane m.1.2.uid sc; (r.1, acc.2 || r.2)
            | none => acc) (s, false)
        let s := (rel s fun s fg lane uid sc => (s.relBefore fg lane uid sc, false)).1
        if (rel s fun s fg lane uid sc => (s, s.relHolds fg lane uid sc)).2 then (s, false)
        else (ms.foldl (fun (s : State) m =>
          s.sendCross (s.crossFor m.1.1.fg m.1.1.lane m.1.2.uid m.1.2.req m.1.2.iaddr false m.2.1.ea m.2.2 m.2.1.tx)) s, false)
/-- Everything a thread may have pending is performed as far as it can be: the releases, acquires, fences and ticket
operations whose time has come (R225, R226, R258). `uid` names one. -/
def State.performTodo (s : State) (t : Thread) (p : Pending) (k : Nat := 0) : State :=
  if p.held || !s.mayPerform t || s.todoWaits t p || s.leftBehind t p then s
  else
    let c := s.crossing t p
    let s := c.1
    -- the release of a request that came over the links was made before it left
    let sent := (s.crossOf t.fg t.lane p.uid).isSome
    if !c.2 then s
    else
    match p.todo with
    | .none => s
    | .fence eng rel acq sc =>
      if s.releaseReady t p.uid (if rel then sc else 0) || (!eng && !rel) then
        if s.dropWaits t p.uid sc then s
        else if rel && t.relLost sc then s.failLost t p.uid
        else
          let s := s.doFence t eng rel acq sc
          if rel && s.relWaits (s.coreOf t.fg) (s.asidOf t.fg) sc (fun _ => sc) then s
          else s.modPend t.fg t.lane p.uid fun q => { q with val := some [], todo := .none }
      else s
    | .acq obj sc => s.doAcq t p obj sc
    | .rel obj sc => if sent || s.releaseReady t p.uid sc || s.relStops t obj then s.doRel t p obj sc sent else s
    | .tk kind w b => s.doTk t p kind w b
    | .take w ord sc =>
      if !s.lowerFirst t p && (sent || ord ≠ 2 || s.takeReleased t p sc || s.takeStops t w)
      then s.doTake t p w (if sent && ord = 2 then 0 else ord) sc else s
    | .access a => s.accessLater t a k
    | .parts a left got => s.partsLater t a left got k
    | .cancel js n =>
      if s.eng.jobs.any fun j => js.contains j.id && j.state ≠ .counted then s
      else s.modPend t.fg t.lane p.uid fun q => { q with val := some [BitVec.ofNat 32 n], todo := .none }
    | .launch _ | .tdef _ _ | .tseal _ | .regs _ _ _ _ | .wait => s

/-! ### Barriers (R262 to R269) -/

/-- The 128 bits of a barrier (R262). -/
def Bar.bits (b : Bar) : Nat :=
  b.pending % 2 ^ 64 * 2 ^ 64 + b.error % 2 ^ 16 * 2 ^ 48 + b.phase % 2 * 2 ^ 44 + b.expected % 4096 * 2 ^ 32 + b.current % 4096
def Block.bar (b : Block) (n : Nat) : Bar := b.bars.getD n {}

/-- A waiter's status after a change: `done` says a phase completed, with the phase as it then stands (R268). -/
def barWake (n : Nat) (done : Bool) (phase : Nat) (st : Status) : Option Status :=
  match st with
  | .barrier b mode =>
    if b ≠ n then none
    else if mode = 1 && done then some .pooled
    else if (mode = 2 && phase = 1) || (mode = 3 && phase = 0) then some .pooled
    else none
  | _ => none
/-- The threads of a block that wait at barrier `n` and may go are released, in their trap records too: a thread in its handler
then waits no more once it returns. Peer writes of jobs counted on the barrier become its own earlier stores
(spec/12_copy.md R284), and a phase that a .clu or .dom arrival completed discards what R226 says (R267). -/
def State.wakeBar (s : State) (blk n : Nat) (done : Bool) (phase sc : Nat) : State :=
  let gs := (s.fgs.filter fun g => g.blk = blk).map (·.id)
  let up (st : Status) : Option Status := barWake n done phase st
  let go (t : Thread) : Bool := gs.contains t.fg && ((up t.status).isSome || t.trap.record.any fun r => (up r.status).isSome)
  let jobs := (s.links.out.filter fun q => q.kind = 1 && q.bar = some (blk, n)).map (·.id)
  let wake (t : Thread) : Thread :=
    let t1 := match up t.status with
      | some st => { t with status := st, pooledAt := s.ticks }
      | none => t
    let saved (r : TrapRecord) : TrapRecord := { r with status := (up r.status).getD r.status }
    { t1 with jobOut := (t.jobOut ++ jobs).eraseDups, trap := { t.trap with record := t.trap.record.map saved } }
  let s' := { s with threads := s.threads.map fun t => if go t then wake t else t }
  if sc ≠ 0 && s.threads.any go then
    match s.block? blk with
    | some b => s'.discardClean b.core b.asid fun _ => sc
    | none => s'
  else s'
/-- One change to a barrier, and the completion of its phase (R263). `sc` is the scope of a .clu or .dom arrival. -/
def State.changeBar (s : State) (blk n sc : Nat) (f : Bar → Bar) : State :=
  match s.block? blk with
  | none => s
  | some b =>
    let r := f (b.bar n)
    if r.current = r.expected && r.pending % 2 ^ 64 = 0 then
      let ph := 1 - r.phase
      (s.setBlock { b with bars := b.bars.set n { r with current := 0, phase := ph, pending := 0 } }).wakeBar blk n true ph sc
    else s.setBlock { b with bars := b.bars.set n { r with pending := r.pending % 2 ^ 64 } }
/-- ERROR takes a code if it holds none (R263, R264). -/
def Bar.fail (b : Bar) (code : Nat) : Bar := if b.error = 0 && code ≠ 0 then { b with error := code } else b
/-- The threads of an arrival that waits: their arrival is counted, or it overflowed and they are not held. -/
def State.markWait (s : State) (fg lane n : Nat) (st : Status) : State :=
  let f (x : Status) : Status := match x with | .barrier b 0 => if b = n then st else x | _ => x
  s.modThread fg lane fun t =>
    { t with status := f t.status, trap := { t.trap with record := t.trap.record.map fun r => { r with status := f r.status } } }

/-- A thread's arrival overflows: 0x5005 at its next clause boundary, or at once where it is held, asleep or at a barrier; a
BARWAIT does not hold it (R263). -/
def State.overflow (s : State) (fg lane n : Nat) (iaddr : DWord) : State :=
  match s.thread? fg lane with
  | none => s
  | some t0 =>
    let s := s.markWait fg lane n .pooled
    let t := (s.thread? fg lane).getD t0
    let d : Due := { code := 0x5005, addr := BitVec.ofNat 64 n, iaddr := iaddr }
    match t0.status with
    | .pooled | .issuing | .oprHeld _ | .exited => s.setThread { t with due := t.due ++ [d] }
    | _ =>
      let t := t.atRest s.ticks
      (s.setThread t).takeTrap t d.code d.addr d.iaddr false

/-- A code written into ERROR by itself is no change that can complete a phase (R263). -/
def State.failBar (s : State) (blk n err : Nat) : State :=
  match s.block? blk with
  | none => s
  | some b => s.setBlock { b with bars := b.bars.set n ((b.bar n).fail err) }
/-- An arrival or byte count is applied (R263, R264): bytes are one change, and the arrival, counted or overflowing, the next. -/
def State.applyArrival (s : State) (a : Arrival) : State :=
  let n := a.bar
  let less (r : Bar) : Bar := { r with pending := (r.pending + 2 ^ 64 - a.bytes % 2 ^ 64) % 2 ^ 64 }
  let s := if a.bytes ≠ 0 then s.changeBar a.blk n (if a.count then 0 else a.sc) fun r => (less r).fail a.err
    else if a.count then s else s.failBar a.blk n a.err
  match s.block? a.blk with
  | none => s
  | some b =>
    let bar := b.bar n
    if !a.count then s
    else if bar.current + 1 ≤ bar.expected then
      let s := if a.hold then a.from_.foldl (fun s e => s.markWait e.1 e.2.1 n (.barrier n 1)) s else s
      s.changeBar a.blk n a.sc fun r => { r.fail a.err with current := r.current + 1 }
    else
      -- not counted: a trap in each living thread it carries; 0x5005 in ERROR for a thread that has exited, and for what is none
      let living := a.from_.filter fun e => ((s.thread? e.1 e.2.1).map Thread.living).getD false
      let s := living.foldl (fun s e => s.overflow e.1 e.2.1 n a.iaddr) s
      s.changeBar a.blk n a.sc fun r =>
        let r := r.fail a.err
        if living.isEmpty || living.length < a.from_.length then r.fail 0x5005 else r

/-- An arrival waits until the accesses before it are complete (R223, R264). -/
def State.arrivalReady (s : State) (a : Arrival) : Bool :=
  a.from_.all fun e =>
    match s.thread? e.1 e.2.1 with
    | none => true
    | some t => t.allPend.all fun p => p.arrived || !e.2.2.contains p.uid
/-- BARRIER_ARRIVAL_COUNT: arrival `ev.a` is applied as one change (R263). -/
def execBarrierArrivalCount (s : State) : Out :=
  match s.sync.arrivals.find? fun a => a.seq = s.ev.a with
  | none => .next s
  | some a =>
    if !s.arrivalReady a then .next s
    else .next ({ s with sync := { s.sync with arrivals := s.sync.arrivals.filter fun x => x.seq ≠ a.seq } }.applyArrival a)

/-- What a thread has outstanding, by identity. -/
def Thread.waits (t : Thread) : List Nat := (t.allPend.filter fun p => !p.arrived).map (·.uid)
/-- An arrival joins those on their way. -/
def State.arrive (s : State) (a : Arrival) : State :=
  let (id, s) := s.newUid
  { s with sync := { s.sync with arrivals := s.sync.arrivals ++ [{ a with seq := id }] } }
def State.blkId (s : State) (fg : Nat) : Nat := ((s.fg? fg).map (·.blk)).getD 0

/-- Groups whose every living thread has executed the .fg instruction send their one arrival (R264). -/
def State.closeGather (s : State) (fg : Nat) : State :=
  let living := (s.living fg).map (·.lane)
  let done (g : FgGather) : Bool := g.fg = fg && !g.lanes.isEmpty && living.all fun l => g.lanes.any fun e => e.2.1 = l
  let s' := (s.sync.gather.filter done).foldl (fun s g =>
    s.arrive { seq := 0, blk := s.blkId fg, bar := g.bar, kind := 1, from_ := g.lanes, iaddr := g.iaddr, hold := g.hold }) s
  { s' with sync := { s'.sync with gather := s'.sync.gather.filter fun g => !done g } }
/-- A thread executes ARRIVE.fg or BARWAIT.fg (R264). -/
def State.gatherFg (s : State) (t : Thread) (bar : Nat) (iaddr : DWord) (hold : Bool) : State :=
  let e := (t.fg, t.lane, t.waits)
  let fits (g : FgGather) : Bool :=
    g.fg = t.fg && g.bar = bar && g.iaddr = iaddr && !(g.lanes.any fun x => x.2.1 = t.lane)
  let l := s.sync.gather
  let l := match l.findIdx? fits with
    | some i => l.modify i fun g => { g with lanes := g.lanes ++ [e] }
    | none => l ++ [{ fg := t.fg, bar := bar, iaddr := iaddr, hold := hold, lanes := [e] }]
  { s with sync := { s.sync with gather := l } }

/-- BARINIT (R266): once per path, with the operand of its lowest guard-true lane. -/
def execBarinit (f : FmtA) (s : State) : Out :=
  .next (issueOnce s rightsAll f.guard fun _ s act =>
    match act with
    | [] => .ok s
    | t :: _ =>
      let n := srcB s t f 6
      if 4095 < n then .trap 0x5007 s.noAddr
      else .ok (s.changeBar (s.blkId t.fg) f.a.toNat 0 fun b => { b with expected := n, current := 0, pending := 0, error := 0 }))
def execExpect (f : FmtA) (s : State) : Out :=
  .next (issueEach s rightsAll f.guard fun _ s t =>
    let n := srcB s t f 6
    .ok (s.changeBar (s.blkId t.fg) f.a.toNat 0 fun b => { b with pending := (b.pending + n) % 2 ^ 64 }))
/-- A thread's own arrival, or its part of a group's (R264, R267, R268). -/
def State.arriveBy (s : State) (p : Path) (t : Thread) (f : FmtA) (hold : Bool) : State :=
  if f.fn = 1#5 then (s.gatherFg t f.a.toNat p.iaddr hold).closeGather t.fg
  else s.arrive { seq := 0, blk := s.blkId t.fg, bar := f.a.toNat, kind := 0, from_ := [(t.fg, t.lane, t.waits)]
                  iaddr := p.iaddr, hold := hold }
def execArrive (f : FmtA) (s : State) : Out :=
  .next (issueEach s rightsAll f.guard fun p s t => .ok (s.arriveBy p t f false))
/-- BARWAIT (R268). -/
def execBarwait (f : FmtA) (s : State) : Out :=
  .next (issueEach s rightsAll f.guard fun p s t =>
    let n := f.a.toNat
    if f.fn = 2#5 then
      let ph := regL s t f.b.toNat 1 % 2
      let now := ((s.blockOf t.fg).map fun b => (b.bar n).phase).getD 0
      let jobs := (s.links.out.filter fun q => q.kind = 1 && q.bar = some (s.blkId t.fg, n)).map (·.id)
      .ok (s.setThread (if now ≠ ph then { t with jobOut := (t.jobOut ++ jobs).eraseDups }
        else { t with after := .barrier n (2 + ph) }))
    else .ok ((s.setThread { t with after := .barrier n 0 }).arriveBy p t f true))
/-- BARTEST (R269). -/
def execBartest (f : FmtA) (s : State) : Out :=
  .next (issueEach s rightsAll f.guard fun _ s t =>
    match s.blockOf t.fg with
    | none => .ok s
    | some b =>
      let n := f.a.toNat
      let s := s.setThread (t.put f.d.toNat (natWords (b.bar n).bits 4))
      .ok (if f.fn = 1#5 then s.setBlock { b with bars := b.bars.modify n fun r => { r with error := 0 } } else s))

/-! ### Remote arrivals and the lay-by (R267, R270 to R272) -/

def execArriveClu (f : FmtA) (s : State) : Out :=
  .next (issueEach s rightsAll f.guard fun _ s t =>
    match s.blockOf t.fg with
    | none => .trap 0x4004 s.noAddr
    | some b =>
      let want := b.core / 4 * 4 + srcB s t f 6 % 4
      match s.blocks.find? fun c => c.node = b.node && c.clu = b.clu && c.run = b.run && c.core = want with
      | none =>
        -- a block of the cluster that has ended: the arrival is discarded (R272)
        let was := ((s.sched.pool.find? fun n => n.id = b.node).map fun n => n.clusters.any fun k =>
          k.num = b.clu && k.cores.any fun e => e.1 = b.run && e.2 % 4 = want % 4).getD false
        if was then .ok s else .trap 0x4004 s.noAddr
      | some c =>
        .ok { s with sync := { s.sync with remote := s.sync.remote ++
          [{ fg := t.fg, lane := t.lane, waits := t.waits, uid := s.uid, bar := f.a.toNat, dom := false, blk := c.id
             asid := b.asid, tag := b.tag, node := b.node }] } })
def execArriveDom (f : FmtA) (s : State) : Out :=
  .next (issueEach s rightsAll f.guard fun _ s t =>
    if s.sideless t.fg then .trap 0x4001 s.noAddr
    else
      match s.blockOf t.fg with
      | none => .trap 0x4004 s.noAddr
      | some b =>
        let x := regL s t f.b.toNat 2
        let rank := bits x 32 9
        if b.tag = 0 then .trap 0x4004 s.noAddr
        else if !s.rankValid rank then .trap 0x8001 s.noAddr
        else
          .ok { s with sync := { s.sync with remote := s.sync.remote ++
            [{ fg := t.fg, lane := t.lane, waits := t.waits, uid := s.uid, jobs := t.jobOut, bar := f.a.toNat, dom := true, blk := x % 2 ^ 32
               rank := rank, asid := b.asid, tag := b.tag, node := b.node }] } })

/-- An arrival reaches a block of this module: counted where it is resident, parked where it is stopped, discarded where
it has ended (R270, R272). -/
def State.remoteAt (s : State) (b : Block) (bar sc : Nat) : State :=
  if b.place = .stopped || b.place = .sealed then
    { s with sync := { s.sync with layby := s.sync.layby ++
      [{ die := dieOfCore b.core, asid := b.asid, node := b.node, blk := b.num, bar := bar, sc := sc }] } }
  else s.arrive { seq := 0, blk := b.id, bar := bar, kind := 2, sc := sc }

end Sys2Proof.Machine
end

