-- ==== Sys2Proof/Machine/Records.lean ====
section
/-! DEFINITION. Tensor records and where their elements lie (spec/13_tensor.md R297 to R302, R310). -/
namespace Sys2Proof.Machine

/-! ### The fields of a record image (R297) -/

/-- A record's 128 bytes, by field. -/
structure TRec where
  fmt    : Nat
  ndim   : Nat
  sblock : Nat
  flags  : Nat
  buf    : Nat
  d0 : Nat
  d1 : Nat
  d2 : Nat
  d3 : Nat
  s0 : Nat
  s1 : Nat
  s2 : Nat
  s3 : Nat
  scale  : Nat
  codes  : Nat
  seed   : Nat
  /-- Some reserved byte is not zero. -/
  dirty  : Bool
  deriving DecidableEq, Repr

/-- Reads a record image (R297): a dimension at or above NDIM reads as 1. -/
def TRec.of (b : List Byte) : TRec :=
  let n := field b 1 1
  let dim (k : Nat) : Nat := if k < n then field b (8 + 4 * k) 4 else 1
  { fmt := field b 0 1, ndim := n, sblock := field b 2 1, flags := field b 3 1, buf := field b 4 2
    d0 := dim 0, d1 := dim 1, d2 := dim 2, d3 := dim 3
    s0 := field b 24 8, s1 := field b 32 8, s2 := field b 40 8, s3 := field b 48 8
    scale := field b 56 8, codes := field b 64 8, seed := field b 72 4
    dirty := field b 6 2 ≠ 0 || (slice b 76 52).any fun x => x ≠ 0 }

/-- Bytes of an element: 2 for .f16 and .bf16 (R297). -/
def TRec.e (r : TRec) : Nat := if r.fmt = 9 || r.fmt = 10 then 2 else 1
def TRec.sparse (r : TRec) : Bool := bit r.flags 0
def TRec.coded (r : TRec) : Bool := r.codes ≠ 0
/-- Stored elements along dimension 0 (R298, R300). -/
def TRec.d0s (r : TRec) : Nat := if r.sparse then r.d0 / 2 else r.d0
/-- The stride of dimension d; at or above NDIM it is ignored. -/
def TRec.stride (r : TRec) (d : Nat) : Nat :=
  if r.ndim ≤ d then 0 else match d with | 0 => r.s0 | 1 => r.s1 | 2 => r.s2 | _ => r.s3
/-- Tiles across and down (R300). -/
def TRec.tc (r : TRec) : Nat := ceilDiv (r.d0s * r.e) 128
def TRec.tr (r : TRec) : Nat := ceilDiv r.d1 128
/-- The row-linear index ρ (R297). -/
def TRec.rho (r : TRec) (i1 i2 i3 : Nat) : Nat := (i3 * r.d2 + i2) * r.d1 + i1
/-- Offset from the buffer's base of a stored element (R298). -/
def TRec.off (r : TRec) (i0 i1 i2 i3 : Nat) : Nat :=
  i0 * r.e + i1 * r.stride 1 + i2 * r.stride 2 + i3 * r.stride 3
/-- Index of a tile's frame, when the tile is on the grid (R300). -/
def TRec.frame (r : TRec) (row0 col0 i2 i3 : Nat) : Option Nat :=
  let tr := row0 / 128
  let tc := col0 * r.e / 128
  if tr < r.tr && tc < r.tc && i2 < r.d2 && i3 < r.d3 then some (((i3 * r.d2 + i2) * r.tr + tr) * r.tc + tc) else none
/-- LEN of a frame as it is used (R300). -/
def frameLen (n : Nat) : Nat := Nat.max 16 (Nat.min 16384 (ceilDiv n 16 * 16))

/-- Where the bytes of tile rows `lo` to `hi - 1` lie in an uncoded tensor: position in the tile, offset in the buffer,
bytes; elements outside the dimensions have none (R291, R298). -/
def TRec.rows (r : TRec) (row0 col0 i2 i3 lo hi : Nat) : List (Nat × Nat × Nat) :=
  (List.range (hi - lo)).filterMap fun k =>
    let m := lo + k
    let i1 := row0 + m
    let w := Nat.min (col0 + 128 / r.e) r.d0s
    if i1 < r.d1 && i2 < r.d2 && i3 < r.d3 && col0 < w then some (128 * m, r.off col0 i1 i2 i3, (w - col0) * r.e) else none

/-- A sealed record that a handle names in a context (R302). -/
def State.sealedRec (s : State) (asid handle : Nat) : Option SealedRec :=
  (s.ctx? asid).bind fun c => c.records.find? fun r => r.handle.toNat = handle

/-! ### The canonical code (R300) -/

/-- Symbols of a length, ascending. -/
def symsOf (lens : List Byte) (n : Nat) : List Nat := (List.range 256).filter fun y => (lens.getD y 0).toNat = n
/-- The code words by length: length, first code, symbols in order. -/
def codeTable (lens : List Byte) : List (Nat × Nat × List Nat) :=
  ((List.range 15).foldl (fun (acc : List (Nat × Nat × List Nat) × Nat) k =>
    let n := k + 1
    let first := 2 * acc.2
    let ys := symsOf lens n
    (acc.1 ++ [(n, first, ys)], first + ys.length)) ([], 0)).1
/-- The Kraft sum in units of 2^−15 (R321). -/
def kraft (lens : List Byte) : Nat :=
  (lens.map fun l => if l = 0 then 0 else 2 ^ (15 - l.toNat)).sum
/-- One symbol from a bit list: tries each length. -/
def codeStep (tab : List (Nat × Nat × List Nat)) (w : Nat) : Option (Nat × Nat) :=
  -- w: the next 15 bits, most significant first
  tab.findSome? fun e =>
    let c := w / 2 ^ (15 - e.1)
    if e.2.1 ≤ c && c < e.2.1 + e.2.2.length then some (e.2.2.getD (c - e.2.1) 0, e.1) else none
/-- Bits `p` to `p + 14` of a stream, most significant bit of each byte first; beyond its end 0. -/
def peek15 (bs : List Byte) (p : Nat) : Nat :=
  let w := (bs.getD (p / 8) 0).toNat * 65536 + (bs.getD (p / 8 + 1) 0).toNat * 256 + (bs.getD (p / 8 + 2) 0).toNat
  w / 2 ^ (9 - p % 8) % 2 ^ 15
/-- Decodes `n` symbols. The stream's list is advanced as bytes are used up. -/
def decodeSyms (tab : List (Nat × Nat × List Nat)) : (n : Nat) → List Byte → (p : Nat) → List Byte
  | 0, _, _ => []
  | n + 1, bs, p =>
    let bs := bs.drop (p / 8)
    let p := p % 8
    match codeStep tab (peek15 bs p) with
    | some (y, l) => BitVec.ofNat 8 y :: decodeSyms tab n bs (p + l)
    | none => 0 :: decodeSyms tab n bs (p + 15)

/-! ### Seeded sparsity (R310) -/

/-- One step of the pattern generator. -/
def lfsr (s : Nat) : Nat := if bit s 0 then (s / 2) ^^^ 0x80200003 else s / 2
/-- The positions that a pattern keeps. -/
def keptOf (k : Nat) : Nat × Nat :=
  match k with | 0 => (0, 1) | 1 => (0, 2) | 2 => (0, 3) | 3 => (1, 2) | 4 => (1, 3) | _ => (2, 3)
/-- The logical positions kept in a block of 256, in order: 128 of them. -/
def keptPositions : (n g : Nat) → (s : Nat) → List Nat
  | 0, _, _ => []
  | n + 1, g, s =>
    let s := lfsr s
    let k := keptOf (s / 65536 * 6 / 65536)
    (4 * g + k.1) :: (4 * g + k.2) :: keptPositions n (g + 1) s
/-- Positions kept for stored row ρ, block b of 256 logical elements. -/
def TRec.kept (r : TRec) (rho b : Nat) : List Nat :=
  let x := r.seed ^^^ (rho * 0x9E3779B9 % 2 ^ 32) ^^^ (b * 0x85EBCA6B % 2 ^ 32)
  keptPositions 64 0 (if x = 0 then 1 else x)

end Sys2Proof.Machine
end

