-- ==== Sys2Proof/Machine/Engine.lean ====
section
/-! DEFINITION. What the streamer and the sequencer share: footprints, edges, slots and banks, counting on barriers,
held chunks, and an engine's own reads and writes (spec/12_copy.md R279 to R287; spec/13_tensor.md R303, R304). -/
namespace Sys2Proof.Machine

/-! ### Footprints and edges (R280, R281) -/

def Foot.meets (a b : Foot) : Bool := a.space = b.space && a.lo < b.hi && b.lo < a.hi
def meetsAny (a b : List Foot) : Bool := a.any fun x => b.any fun y => x.meets y
/-- A byte range as 128-byte lines of the address as given; as 16-byte parts of the scratchpad. -/
def footGlobal (a n : Nat) : List Foot := if n = 0 then [] else [{ space := 0, lo := a / 128, hi := (a + n - 1) / 128 + 1 }]
def footScratch (a n : Nat) : List Foot := if n = 0 then [] else [{ space := 1, lo := a / 16, hi := (a + n - 1) / 16 + 1 }]
def footSlot (k : Nat) : Foot := { space := 2, lo := k % 32, hi := k % 32 + 1 }
/-- Rows (row0 + i) mod 128 of a bank, for i below `n`. -/
def footRows (bank row0 n : Nat) : List Foot :=
  let n := Nat.min n 128
  let r := row0 % 128
  if n = 0 then []
  else if r + n ≤ 128 then [{ space := 3, lo := 128 * bank + r, hi := 128 * bank + r + n }]
  else [{ space := 3, lo := 128 * bank + r, hi := 128 * bank + 128 }, { space := 3, lo := 128 * bank, hi := 128 * bank + r + n - 128 }]
/-- Whether later work must wait for earlier work. -/
def conflicts (rd wr rd' wr' : List Foot) : Bool := meetsAny rd wr' || meetsAny wr rd' || meetsAny wr wr'

/-- The edge sources of new work of a block, and the windows it inherits from work whose counts are held (R281, R380). -/
def State.edgesOf (s : State) (blk : Nat) (rd wr : List Foot) : List Nat × List Nat :=
  let js := s.eng.jobs.filter fun j => j.blk = blk && conflicts rd wr j.rd j.wr
  let cs := s.eng.cmds.filter fun c => c.blk = blk && !c.waiting && conflicts rd wr c.rd c.wr
  (((js.filter fun j => j.state ≠ .counted).map (·.id)) ++ ((cs.filter fun c => c.state ≠ .counted).map (·.id)),
   ((js.filter fun j => j.state = .counted).flatMap (·.prov) ++ (cs.filter fun c => c.state = .counted).flatMap (·.prov)).eraseDups)

/-- A source that ends discharges its edges; its dependants depend on the windows it depended on (R281, R380). -/
def State.discharge (s : State) (id : Nat) (prov : List Nat) : State :=
  let st (e : List Nat) (x : JobState) : JobState := if x = .held && e.isEmpty then .ready else x
  { s with eng := { s.eng with
    jobs := s.eng.jobs.map fun j =>
      if j.edges.contains id then
        let e := j.edges.filter (· ≠ id)
        { j with edges := e, state := st e j.state, prov := (j.prov ++ prov).eraseDups }
      else j
    cmds := s.eng.cmds.map fun c =>
      if c.edges.contains id then
        let e := c.edges.filter (· ≠ id)
        { c with edges := e, state := st e c.state, prov := (c.prov ++ prov).eraseDups }
      else c } }

/-! ### Windows, queues, slots and banks of a core -/

/-- A block that stands on a core. -/
def State.onCore (s : State) (blk core : Nat) : Bool :=
  match s.block? blk with | some b => b.core = core && b.place ≠ .stopped && b.place ≠ .sealed | none => false
/-- The window of a core; its sequencer queue (R278, R312). -/
def State.window_ (s : State) (core : Nat) : List Job := s.eng.jobs.filter fun j => s.onCore j.blk core
def State.queue_ (s : State) (core : Nat) : List Cmd := s.eng.cmds.filter fun c => s.onCore c.blk core && !c.waiting
def State.setJob (s : State) (j : Job) : State :=
  { s with eng := { s.eng with jobs := s.eng.jobs.map fun k => if k.id = j.id then j else k } }
def State.setCmd (s : State) (c : Cmd) : State :=
  { s with eng := { s.eng with cmds := s.eng.cmds.map fun d => if d.id = c.id then c else d } }
/-- A slot, a bank that a block holds. -/
def State.slot? (s : State) (blk n : Nat) : Option Slot := s.eng.slots.find? fun x => x.blk = blk && x.num = n
def State.bank? (s : State) (blk n : Nat) : Option Bank := s.eng.banks.find? fun x => x.blk = blk && x.num = n
def State.setSlot (s : State) (x : Slot) : State :=
  { s with eng := { s.eng with slots := s.eng.slots.map fun y => if y.blk = x.blk && y.num = x.num then x else y } }
def State.setBank (s : State) (x : Bank) : State :=
  { s with eng := { s.eng with banks := s.eng.banks.map fun y => if y.blk = x.blk && y.num = x.num then x else y } }

/-- Marked slots and banks that no accepted, unended work of their block names are released (R304). -/
def State.releaseUnits (s : State) : State :=
  let used (blk : Nat) (f : Foot) : Bool :=
    (s.eng.jobs.any fun j => j.blk = blk && (j.rd.any f.meets || j.wr.any f.meets)) ||
    (s.eng.cmds.any fun c => c.blk = blk && (c.rd.any f.meets || c.wr.any f.meets))
  { s with eng := { s.eng with
    slots := s.eng.slots.filter fun x => !x.going || used x.blk (footSlot x.num)
    banks := s.eng.banks.filter fun x => !x.going || used x.blk { space := 3, lo := 128 * x.num, hi := 128 * x.num + 128 } } }

/-! ### The copy window deadlock's conditions (R286) -/

def State.windowStuck (s : State) (core : Nat) : Bool :=
  let js := s.window_ core
  64 ≤ js.length && js.all (fun j => j.state = .held) && (s.queue_ core).all fun c =>
    c.state ≠ .running || !(js.any fun j => j.edges.contains c.id)
/-- Each change of an engine's work starts or ends the time for which the conditions have held. -/
def State.touch (s : State) : State :=
  let stalls := s.eng.stalls.filter fun x => s.paths.any fun p => p.id = x.path
  -- one time for the core: what stalls later shares it
  let since (core : Nat) : Nat := ((stalls.filter fun x => x.core = core).findSome? (·.since)).getD s.ctl.cycle
  let f (x : CopyStall) : CopyStall := { x with since := if s.windowStuck x.core then some (since x.core) else none }
  { s with eng := { s.eng with stalls := stalls.map f } }

/-! ### Counting on a barrier (R264, R284, R314) -/

/-- A code written into ERROR counts in its node's FAULTS (spec/15_launch.md R344). -/
def State.faultOf (s : State) (blk : Nat) : State :=
  match s.block? blk with
  | none => s
  | some b =>
    { s with sched := { s.sched with pool := s.sched.pool.map fun n =>
      if n.id = b.node then { n with faults := Nat.min (n.faults + 1) (2 ^ 32 - 1) } else n } }
/-- Bytes, a code and perhaps an arrival of a job or command reach the block's barrier; with none of them nothing changes. -/
def State.countOn (s : State) (blk bar bytes err : Nat) (arrive : Bool) : State :=
  let code (s : State) : Nat := match s.block? blk with | some b => (b.bar bar).error | none => 0
  let t := if bytes = 0 && err = 0 && !arrive then s
    else s.applyArrival { seq := 0, blk := blk, bar := bar, kind := 3, bytes := bytes, count := arrive, err := err }
  if code s = 0 && code t ≠ 0 then t.faultOf blk else t

/-! ### An engine's own accesses (R283, R285) -/

/-- What became of a part of a chunk. -/
inductive EngRes where
  | ok
  | fail (code : Nat)
  | hold (code addr : Nat)
  /-- It waits at the controller for its parity group (spec/17_links.md R385). -/
  | wait
  /-- It needs lines of a peer that have not come: addresses and bytes. -/
  | ask (lines : List (Nat × Nat))
  deriving DecidableEq, Repr

/-- R285's code for a failure of R210 (R384: a lost rank answers as a link does). -/
def engCode (e : Nat × Nat) : EngRes :=
  if e.1 = 0x3010 || e.1 = 0x3011 then .hold e.1 e.2
  else if e.1 = 0x3030 then .fail 0x6003
  else if e.1 = 0x8004 || e.1 = 0x9003 || e.1 = 0x9004 || e.1 = 0x9005 then .fail e.1
  else .fail 0x6003

/-- The code of a failure that an answer of a link brings (R285). -/
def engFail (code : Nat) : Nat := match engCode (code, 0) with | .fail c => c | _ => 0x6003

/-- The portions of some global ranges, checked; sync space is refused. What is to be written is looked at for poison and for
what cannot be delivered too (R285); in a re-run it must have room in the check buffer (spec/20_health.md R412). -/
def State.engCheck (s : State) (core asid blk : Nat) (w : Want) (segs : List (Nat × Nat)) : State × Except EngRes (List Piece) :=
  match s.checkParts core asid w (segs.flatMap fun g => parts (g.2 / 16 + 2) g.1 g.2) with
  | (s, .error e) => (s, .error (engCode e))
  | (s, .ok ps) =>
    if ps.any fun p => if p.peer.isSome then spaceOf p.va = 2 else p.leaf.kind = 2 then (s, .error (.fail 0x6003))
    else if w = .rd then (s, .ok ps)
    else
      match s.writeStops true core asid ps with
      | some e => (s, .error (engCode e))
      | none => if ps.any s.pieceHeld || !s.bufRoom blk ps then (s, .error .wait) else (s, .ok ps)

/-- Portions grouped into the 128-byte lines that requests to a peer are made of: address and bytes. -/
def lineGroups : (cur : Option (Nat × Nat)) → List Piece → List (Nat × Nat)
  | cur, [] => cur.toList
  | none, p :: r => lineGroups (some (p.ea, p.n)) r
  | some (a, n), p :: r =>
    if p.ea = a + n && p.ea / 128 = a / 128 then lineGroups (some (a, n + p.n)) r
    else (a, n) :: lineGroups (some (p.ea, p.n)) r
/-- Peer lines of a source that have not come. -/
def missing (inbox : List (Nat × List Byte)) (ps : List Piece) : List (Nat × Nat) :=
  (lineGroups none (ps.filter fun p => p.peer.isSome)).filter fun l => !(inbox.any fun e => e.1 ≤ l.1 && l.1 + l.2 ≤ e.1 + e.2.length)
/-- Bytes of portions, of what was read here and what has come of peers. -/
def gatherBytes (inbox : List (Nat × List Byte)) (d : List (Nat × Byte)) (ps : List Piece) (here : List Byte) : List Byte :=
  (ps.foldl (fun (acc : List Byte × List Byte) p =>
    if p.peer.isSome then
      match inbox.find? fun e => e.1 ≤ p.ea && p.ea + p.n ≤ e.1 + e.2.length with
      | some e => (acc.1 ++ slice e.2 (p.ea - e.1) p.n, acc.2)
      | none => acc
    else
      let b := acc.2.take p.n
      (acc.1 ++ (if d.isEmpty then b else divertRead d p.va b), acc.2.drop p.n)) ([], here)).1
/-- The bytes of portions: what lies here is read first, with its poison; then a peer's must have come (R210, R283). -/
def State.engRead (s : State) (core asid blk : Nat) (inbox : List (Nat × List Byte)) (ps : List Piece) :
    State × Except EngRes (List Byte) :=
  match s.readPieces true core asid (ps.filter fun p => p.peer.isNone) with
  | (s, .done here) =>
    match missing inbox ps with
    | [] => (s, .ok (gatherBytes inbox (s.divertOf blk) ps here))
    | ls => match s.lostAt core asid (ps.filter fun p => p.peer.isSome) with
      | some _ => (s, .error (.fail 0x8004))
      | none => (s, .error (.ask ls))
  | (s, .err c _) => (s, .error (if c = 0x3030 then .fail 0x6003 else .fail c))
  | (s, _) => (s, .error .wait)
/-- Requests for lines of peers leave for a job or a command (R283, R380); their identities. -/
def State.askLines (s : State) (asid id : Nat) (ls : List (Nat × Nat)) : State × List Nat :=
  ls.foldl (fun (acc : State × List Nat) l =>
    let (q, s) := acc.1.newUid
    (s.pushOut { id := q, kind := 0, rank := bits l.1 48 9 - 1, addr := l.1 % 2 ^ 48, size := l.2, asid := asid, job := some id },
      acc.2 ++ [q])) (s, [])

/-- The lines of an instruction's own reads that have come (R76, R104). -/
def askedBytes (l : List Asked) (iaddr : DWord) : List (Nat × List Byte) :=
  l.filterMap fun a => if a.iaddr = iaddr then a.data.map fun b => (a.ea, b) else none
/-- The first of them that failed: the code and the byte. -/
def askedBad (l : List Asked) (iaddr : DWord) : Option (Nat × Nat) := l.findSome? fun a => if a.iaddr = iaddr then a.err else none
/-- The lines of peers that an instruction needs are asked for, those that are not on their way already. -/
def State.ask (s : State) (asid fg lane : Nat) (iaddr : DWord) (l : List Asked) (ls : List (Nat × Nat)) : State × List Asked :=
  ls.foldl (fun (acc : State × List Asked) e =>
    if acc.2.any fun a => a.iaddr = iaddr && a.ea = e.1 && a.n = e.2 then acc
    else
      let (q, s) := acc.1.newUid
      (s.pushOut { id := q, kind := 0, rank := bits e.1 48 9 - 1, addr := e.1 % 2 ^ 48, size := e.2, asid := asid, fg := fg, lane := lane, uid := q },
        acc.2 ++ [{ id := q, iaddr := iaddr, ea := e.1, n := e.2 }])) (s, l)
/-- Reads of an instruction that has not issued are answered, in its thread or its path. -/
def State.gotAsked (s : State) (id : Nat) (res : Except (Nat × Nat) (List Byte)) : State :=
  let f (a : Asked) : Asked := if a.id = id then (match res with | .ok b => { a with data := some b } | .error e => { a with err := some e }) else a
  { s with
    threads := s.threads.map fun t => { t with opIn := t.opIn.map f }
    paths := s.paths.map fun p => { p with asked := p.asked.map f } }
/-- A request was made by an instruction that has not issued. -/
def State.isAsked (s : State) (id : Nat) : Bool :=
  (s.threads.any fun t => t.opIn.any fun a => a.id = id) || s.paths.any fun p => p.asked.any fun a => a.id = id

/-- A line leaves the L1 of the block's core after an engine has written bytes of it (R284): those bytes and its clean
ones; other dirty bytes stay (R226). -/
def State.dropL1 (s : State) (core asid pa n : Nat) : State :=
  let f (x : Line) : Line :=
    if x.unit = core && x.asid = asid && x.pa < pa + n && pa < x.pa + 128 then
      let mine := lanesMask ((List.range n).filterMap fun i => if x.pa ≤ pa + i && pa + i < x.pa + 128 then some (pa + i - x.pa) else none)
      let d := x.dirty &&& ~~~mine
      { x with dirty := d, valid := d }
    else x
  { s with mem := { s.mem with l1 := (s.mem.l1.map f).filter fun x => x.valid ≠ 0 } }

/-- A write to a peer leaves as a request of a job (R284). -/
def State.jobWrite (s : State) (asid : Nat) (j : Job) (rank ea : Nat) (bs : List Byte) : State :=
  let (id, s) := s.newUid
  s.pushOut { id := id, kind := 1, rank := rank, addr := ea % 2 ^ 48, size := bs.length, data := bs, asid := asid
              job := some j.id, bar := some (j.blk, j.bar) }

/-- Writes portions that have been checked (R283, R284); a re-run's writes to device memory are diverted (R412). -/
def State.engWrite (s : State) (core asid : Nat) (j : Job) (ps : List Piece) (bs : List Byte) : State :=
  (ps.foldl (fun (acc : State × List Byte) p =>
    let me := acc.2.take p.n
    let s := acc.1
    let s := match p.peer with
      | some r => s.jobWrite asid j r p.ea me
      | none =>
        let t := s.putOne true core asid j.blk p me
        if p.leaf.kind = 0 && s.runOf j.blk = 0 then t.dropL1 core asid p.pa p.n else t
    (s, acc.2.drop p.n)) (s, bs)).1

/-- A chunk or command is held for a page: an operator record with no thread in it (R285, R313). `what` is 0 for a job,
1 for a command, 2 for a pennant write. -/
def State.holdWork (s : State) (core asid code addr what id : Nat) : State :=
  (s.holdFor core asid code (BitVec.ofNat 64 (2 ^ 63 + id)) (if code = 0x3010 then addr / 65536 * 65536 else 0) 0 0xFF 0xFF
    fun e => { e with jobs := e.jobs ++ [(what, id)] }).2

/-! ### Ends (R281, R282, R284, R305, R314, R380) -/

/-- The origin that a tag records: of a coded tensor the one of the tile grid (R300, R305). -/
def TRec.origin (r : TRec) (row0 col0 : Nat) : Nat × Nat :=
  if r.coded then (row0 / 128 * 128, col0 / (128 / r.e) * (128 / r.e)) else (row0, col0)
/-- The same, for the tensor that a handle names; of one that is not sealed the origin as given. -/
def State.originOf (s : State) (asid handle row0 col0 : Nat) : Nat × Nat :=
  match s.sealedRec asid handle with | some r => (TRec.of r.bytes).origin row0 col0 | none => (row0, col0)
/-- Whether a CPT.ld leaves its slot's tag valid (R305); one that has ended already touches only the tag that it set. -/
def State.jobTag (s : State) (j : Job) (ok : Bool) : State :=
  match j.kind with
  | .cpt 0 handle row0 col0 i2 i3 c =>
    match s.slot? j.blk (c % 32), s.block? j.blk with
    | some x, some b =>
      let o := s.originOf b.asid handle row0 col0
      if j.state = .counted && x.job ≠ j.id then s
      else s.setSlot { x with job := j.id, valid := ok, handle := handle, i2 := i2, i3 := i3, row0 := o.1, col0 := o.2 }
    | _, _ => s
  | _ => s
def Job.arrives (j : Job) : Bool := match j.kind with | .cpl _ _ => false | _ => true
/-- A job ends: it counts what is left and its arrival, and discharges its edges; on data not yet verified its counts
are held (R282, R284, R380). -/
def State.endJob (s : State) (j : Job) (err : Nat) : State :=
  let err := if j.err ≠ 0 then j.err else err
  let s := s.jobTag j (err = 0)
  let s := s.discharge j.id j.prov
  if j.prov.isEmpty then
    let s := { s with eng := { s.eng with jobs := s.eng.jobs.filter fun k => k.id ≠ j.id } }
    (s.countOn j.blk j.bar j.left err j.arrives).releaseUnits.touch
  else (s.setJob { j with state := .counted, err := err }).touch
/-- A command ends (R313, R314). -/
def State.endCmd (s : State) (c : Cmd) (err : Nat) : State :=
  let s := s.discharge c.id c.prov
  if c.prov.isEmpty then
    let s := { s with eng := { s.eng with cmds := s.eng.cmds.filter fun k => k.id ≠ c.id } }
    (s.countOn c.blk c.bar c.left err true).releaseUnits.touch
  else (s.setCmd { c with state := .counted, err := err }).touch
/-- Bytes that a job or command has written are subtracted, or held with its counts (R284, R380). -/
def State.countBytes (s : State) (blk bar n : Nat) (prov : List Nat) : State :=
  if prov.isEmpty && n ≠ 0 then s.countOn blk bar n 0 false else s

/-! ### Who may issue engine work -/

/-- Threads of a path that would execute. -/
def State.executing (s : State) (p : Path) (g : Guard) : List Thread := (p.lanes.filterMap fun l => s.thread? p.fg l).filter fun t => g.on t
/-- A file group that is not its block's producer (R278). -/
def State.notProducer (s : State) (fg : Nat) : Bool :=
  match s.fg? fg, s.blockOf fg with | some g, some b => g.num ≠ b.producer | _, _ => true

end Sys2Proof.Machine
end

