-- ==== Sys2Proof/Machine/Copy.lean ====
section
/-! DEFINITION. Copy instructions and the streamer (spec/12_copy.md R278 to R294). -/
namespace Sys2Proof.Machine

/-! ### Issue (R278, R281, R286) -/

/-- A new job with its edges; one with nothing to write and nothing to wait for ends at once (R281, R282, R290). -/
def State.addJob (s : State) (blk bar : Nat) (kind : JobKind) (rd wr : List Foot) (bytes : Nat) : State :=
  let (id, s) := s.newUid
  let e := s.edgesOf blk rd wr
  let j : Job := { id := id, blk := blk, bar := bar, kind := kind, rd := rd, wr := wr, edges := e.1, prov := e.2, left := bytes
                   state := if e.1.isEmpty then .ready else .held }
  let s := { s with eng := { s.eng with jobs := s.eng.jobs ++ [j] } }
  if bytes = 0 && e.1.isEmpty then s.endJob j 0 else s.touch

/-- Issues a copy instruction: the producer's alone, and only with a free entry for every job it creates; `perPath` says
one job serves the whole path. `bad` says a thread traps with 0x4001 (R337). -/
def issueCopy (s : State) (f : FmtL) (perPath : Bool) (bad : State → Thread → Bool)
    (go : Path → State → List Thread → State) : State :=
  match s.paths with
  | [] => s
  | p :: _ =>
    let pend (s : State) (t : Thread) : State := s.pendL t { fmtLPend f p 0 with val := some [] }
    if !rightsOwn.ok (authOf (s.asidOf p.fg)) then issueEach s rightsOwn f.guard fun _ s _ => .ok s
    else if s.notProducer p.fg then issueEach s rightsOwn f.guard fun _ s _ => .trap 0x4006 s.noAddr
    else
      let act := (s.executing p f.guard).filter fun t => !bad s t
      let need := if act.isEmpty then 0 else if perPath then 1 else act.length
      let core := s.coreOf p.fg
      if (s.window_ core).length + need ≤ 64 then
        let s := { s with eng := { s.eng with stalls := s.eng.stalls.filter fun x => x.path ≠ p.id } }
        -- jobs are accepted in virtual-lane order before the path goes on
        let s := if perPath then (if act.isEmpty then s else go p s act) else act.foldl (fun s t => go p s [t]) s
        issueEach s rightsOwn f.guard fun _ s t => if bad s t then .trap 0x4001 s.noAddr else .ok (pend s t)
      else
        let new : List CopyStall := if s.eng.stalls.any (fun x => x.path = p.id) then [] else [{ core := core, path := p.id }]
        { s with eng := { s.eng with stalls := s.eng.stalls ++ new } }.touch

/-- CPB (R290). -/
def execCpb (f : FmtL) (s : State) : Out :=
  let dstS := bit (FmtL.fn f) 0
  let srcS := bit (FmtL.fn f) 1
  let dst (s : State) (t : Thread) : Nat := regL s t f.a.toNat (if dstS then 1 else 2)
  .next (issueCopy s f false (fun s t => !dstS && s.sideStore t (dst s t) (regL s t f.c.toNat 1)) fun _ s act =>
    match act with
    | [] => s
    | t :: _ =>
      let a := dst s t
      let b := regL s t f.b.toNat (if srcS then 1 else 2)
      let n := regL s t f.c.toNat 1
      s.addJob (s.blkId t.fg) (FmtL.br f) (.cpb dstS srcS a b n)
        (if srcS then footScratch b n else footGlobal b n) (if dstS then footScratch a n else footGlobal a n) n)

/-- The record that a handle names for a block's context, with its buffer's base. -/
def State.tensorOf (s : State) (asid handle : Nat) : Option (TRec × Nat) :=
  (s.sealedRec asid handle).map fun r => let t := TRec.of r.bytes; (t, (s.bufRec t.buf).base)
/-- Where a tile's elements lie in its buffer (R291): address and bytes. -/
def tileSegs (r : TRec) (base row0 col0 i2 i3 : Nat) : List (Nat × Nat) :=
  if r.coded then match r.frame row0 col0 i2 i3 with | some k => [(base + 16384 * k, 16384)] | none => []
  else (r.rows row0 col0 i2 i3 0 128).map fun x => (base + x.2.1, x.2.2)

/-- CPT (R291). -/
def execCpt (f : FmtL) (s : State) : Out :=
  let fn := FmtL.fn f
  let h (s : State) (t : Thread) : Nat := regL s t f.a.toNat 1
  let o (s : State) (t : Thread) (k : Nat) : Nat := bits (regL s t f.b.toNat 4) (32 * k) 32
  let segs (s : State) (t : Thread) : List (Nat × Nat) :=
    match s.tensorOf (s.asidOf t.fg) (h s t) with | some r => tileSegs r.1 r.2 (o s t 0) (o s t 1) (o s t 2) (o s t 3) | none => []
  let bad (s : State) (t : Thread) : Bool := fn = 2 && (segs s t).any fun x => s.sideStore t x.1 x.2
  .next (issueCopy s f false bad fun _ s act =>
    match act with
    | [] => s
    | t :: _ =>
      let c := regL s t f.c.toNat 1
      let buf := (segs s t).flatMap fun x => footGlobal x.1 x.2
      let place := if fn = 0 then [footSlot c] else footScratch c 16384
      s.addJob (s.blkId t.fg) (FmtL.br f) (.cpt fn (h s t) (o s t 0) (o s t 1) (o s t 2) (o s t 3) c)
        (if fn = 2 then place else buf) (if fn = 2 then buf else place) 16384)

/-- CPL (R292). -/
def execCpl (f : FmtL) (s : State) : Out :=
  let st := FmtL.fn f = 1
  let ga (s : State) (t : Thread) : Nat := regL s t f.b.toNat 2
  .next (issueCopy s f true (fun s t => st && s.sideStore t (ga s t) 16) fun p s act =>
    let ls := act.map fun t => (t.lane, regL s t f.a.toNat 1, ga s t)
    let sc := ls.flatMap fun l => footScratch l.2.1 16
    let gl := ls.flatMap fun l => footGlobal l.2.2 16
    s.addJob (s.blkId p.fg) (FmtL.br f) (.cpl st ls) (if st then sc else gl) (if st then gl else sc) (16 * ls.length))

/-- The type of a CPA code, and its bytes (R288). -/
def cpaTy (fn : Nat) : Nat := match bits fn 1 5 with | 1 => 8 | 2 => 9 | 3 => 10 | c => c + 0x20
def cpaBytes (fn : Nat) : Nat := tyWidth (cpaTy fn) / 8
/-- Bank, row0 and rows of a selector (R293). -/
def selBank (b : Nat) : Nat := bits b 0 2
def selRow (b : Nat) : Nat := bits b 2 7
def selCount (b : Nat) : Nat := bits b 9 7 + 1
/-- CPA (R293). -/
def execCpa (f : FmtL) (s : State) : Out :=
  let fn := FmtL.fn f
  let into := bit fn 7
  .next (issueCopy s f false (fun _ _ => false) fun _ s act =>
    match act with
    | [] => s
    | t :: _ =>
      let a := regL s t f.a.toNat 1
      let b := regL s t f.b.toNat 1
      let n := selCount b
      let sc := footScratch a (128 * n * cpaBytes fn)
      let rows := footRows (selBank b) (selRow b) n
      s.addJob (s.blkId t.fg) (FmtL.br f) (.cpa fn a b) (if into then sc else rows) (if into then rows else sc)
        (128 * n * (if into then 4 else cpaBytes fn)))

/-- A chunk is under way: lines that it needs have been asked of a peer. Every other chunk is performed in one step. -/
def Job.performing (j : Job) : Bool := j.state = .running && !(j.reads.isEmpty && j.inbox.isEmpty && j.failed.isEmpty)
/-- CPCAN ends jobs with 0x6002, in order (R294). A running job ends after the chunk it is performing: one whose lines of a peer are
asked for or have come. -/
def State.cancelJobs (s : State) (js : List Job) : State :=
  js.foldl (fun s j => match s.eng.jobs.find? fun k => k.id = j.id with
    | some k => if k.performing then s.setJob { k with cancel := true } else s.endJob k 0x6002
    | none => s) s
/-- CPCAN (R294): once for each path; its threads commit the count when the jobs have ended. -/
def execCpcan (f : FmtL) (s : State) : Out :=
  .next (match s.paths with
    | [] => s
    | p :: _ =>
      if !rightsOwn.ok (authOf (s.asidOf p.fg)) then issueEach s rightsOwn f.guard fun _ s _ => .ok s
      else if s.notProducer p.fg then issueEach s rightsOwn f.guard fun _ s _ => .trap 0x4006 s.noAddr
      else
        let act := s.executing p f.guard
        let blk := s.blkId p.fg
        let js := if act.isEmpty then [] else s.eng.jobs.filter fun j => j.blk = blk && j.bar = FmtL.br f && j.state ≠ .counted
        let on := js.filter Job.performing
        issueEach (s.cancelJobs js) rightsOwn f.guard fun p s t =>
          let base := fmtLPend f p 1
          .ok (s.pendL t (if on.isEmpty then { base with val := some [BitVec.ofNat 32 js.length] }
            else { base with todo := .cancel (on.map (·.id)) js.length })))

/-! ### Chunks (R283 to R285) -/

/-- What a chunk came to. -/
inductive ChunkRes where
  /-- Bytes written; whether it was the last. -/
  | done (n : Nat) (last : Bool)
  | fail (code : Nat)
  | hold (code addr : Nat)
  /-- It has asked a peer for its source. -/
  | wait

def EngRes.chunk : EngRes → ChunkRes
  | .ok => .done 0 true
  | .fail c => .fail c
  | .hold c a => .hold c a
  | .wait | .ask _ => .wait

/-- Reads a chunk's global source, asking a peer first where it must. -/
def State.chunkRead (s : State) (core asid : Nat) (j : Job) (segs : List (Nat × Nat)) : State × Except ChunkRes (List Byte) :=
  match s.engCheck core asid j.blk .rd segs with
  | (s, .error e) => (s, .error e.chunk)
  | (s, .ok ps) =>
    match s.engRead core asid j.blk j.inbox ps with
    | (s, .ok b) => (s, .ok b)
    | (s, .error (.ask ls)) =>
      -- a line that a peer has answered with an error is not asked for again
      match j.failed.find? fun e => ls.any fun l => l.1 = e.1 with
      | some e => (s, .error (.fail e.2))
      | none =>
        let r := s.askLines asid j.id ls
        (r.1.setJob { j with reads := j.reads ++ r.2 }, .error .wait)
    | (s, .error e) => (s, .error e.chunk)

/-- Writes a chunk's global destination; on unverified data the writes are held (R380). -/
def State.chunkWrite (s : State) (core asid : Nat) (j : Job) (segs : List (Nat × Nat)) (bs : List Byte) : State × Option ChunkRes :=
  match s.engCheck core asid j.blk .wr segs with
  | (s, .error e) => (s, some e.chunk)
  | (s, .ok ps) =>
    if j.prov.isEmpty then (s.engWrite core asid j ps bs, none)
    else
      let w := (segs.foldl (fun (acc : List (Nat × List Byte) × List Byte) g => (acc.1 ++ [(g.1, acc.2.take g.2)], acc.2.drop g.2)) ([], bs)).1
      (s.setJob { j with heldWr := j.heldWr ++ w }, none)

/-- A scratchpad range as the engine port reads it, without the bank queues (R283). -/
def Block.scratchEng (b : Block) (off n : Nat) : Option (List Byte) := if off + n ≤ b.scratch.length then some (slice b.scratch off n) else none
def State.scratchPut (s : State) (b : Block) (off : Nat) (bs : List Byte) : State := s.setBlock { b with scratch := patch b.scratch off bs }

/-- Where the present chunk of a CPB lies in it: an overlapping copy upwards runs from the top (R283). -/
def cpbOff (dstS srcS : Bool) (a b len chunk : Nat) : Nat :=
  4096 * (if (dstS == srcS) && b < a && a < b + len then ceilDiv len 4096 - 1 - chunk else chunk)
/-- A CPB chunk (R283, R290). -/
def State.chunkCpb (s : State) (core asid : Nat) (j : Job) (blk : Block) (dstS srcS : Bool) (a b len : Nat) : State × ChunkRes :=
  let off := cpbOff dstS srcS a b len j.chunk
  let n := Nat.min 4096 (len - off)
  let last := ceilDiv len 4096 ≤ j.chunk + 1
  let src : State × Except ChunkRes (List Byte) :=
    if srcS then (s, match blk.scratchEng (b + off) n with | some x => .ok x | none => .error (.fail 0x6003))
    else s.chunkRead core asid j [(b + off, n)]
  match src with
  | (s, .error e) => (s, e)
  | (s, .ok bs) =>
    if dstS then
      if a + off + n ≤ blk.scratch.length then (s.scratchPut blk (a + off) bs, .done n last) else (s, .fail 0x6003)
    else
      match s.chunkWrite core asid j [(a + off, n)] bs with
      | (s, some e) => (s, e)
      | (s, none) => (s, .done n last)

/-- Tile bytes laid out of what was read: segments of position and length. -/
def layTile (segs : List (Nat × Nat)) (n : Nat) (bs : List Byte) : List Byte :=
  (segs.foldl (fun (acc : List Byte × List Byte) g => (patch acc.1 g.1 (acc.2.take g.2), acc.2.drop g.2)) (List.replicate n 0, bs)).1

/-- A CPT chunk: 32 rows of the tile (R283, R291, R300). -/
def State.chunkCpt (s : State) (core asid : Nat) (j : Job) (blk : Block) (fn handle row0 col0 i2 i3 c : Nat) : State × ChunkRes :=
  let lo := 32 * j.chunk
  let last := j.chunk = 3
  match s.tensorOf asid handle with
  | none => (s, .fail 0x6006)
  | some (r, base) =>
    if fn = 0 && (s.slot? j.blk (c % 32)).isNone then (s, .fail 0x6004)
    else if fn ≠ 0 && blk.scratch.length < c + 4096 * (j.chunk + 1) then (s, .fail 0x6003)
    else
      -- position in the chunk, address, bytes
      let plan : State × Except ChunkRes (List (Nat × Nat × Nat)) :=
        if !r.coded then (s, .ok ((r.rows row0 col0 i2 i3 lo (lo + 32)).map fun x => (x.1 - 128 * lo, base + x.2.1, x.2.2)))
        else
          match r.frame row0 col0 i2 i3 with
          | none => (s, .ok [])
          | some k =>
            if fn = 2 then (s, .ok [(0, base + 16384 * k + 4096 * j.chunk, 4096)])
            else
              match s.chunkRead core asid j [(r.codes + 256 + 4 * k, 4)] with
              | (s, .error e) => (s, .error e)
              | (s, .ok b) =>
                let n := Nat.min 4096 (frameLen (ofBytes b) - 4096 * j.chunk)
                (s, .ok (if n = 0 then [] else [(0, base + 16384 * k + 4096 * j.chunk, n)]))
      match plan with
      | (s, .error e) => (s, e)
      | (s, .ok segs) =>
        let gl := segs.map fun x => (x.2.1, x.2.2)
        if fn = 2 then
          let bs := segs.flatMap fun x => slice blk.scratch (c + 4096 * j.chunk + x.1) x.2.2
          match s.chunkWrite core asid j gl bs with
          | (s, some e) => (s, e)
          | (s, none) => (s, .done (gl.map (·.2)).sum last)
        else
          match s.chunkRead core asid j gl with
          | (s, .error e) => (s, e)
          | (s, .ok bs) =>
            let t := layTile (segs.map fun x => (x.1, x.2.2)) 4096 bs
            if fn = 1 then (s.scratchPut blk (c + 4096 * j.chunk) t, .done 4096 last)
            else
              match s.slot? j.blk (c % 32) with
              | some x =>
                let used := if segs.isEmpty then (if j.chunk = 0 then 0 else x.len) else 4096 * j.chunk + (gl.map (·.2)).sum
                (s.setSlot { x with data := patch x.data (4096 * j.chunk) t, len := if r.coded then used else 16384 }, .done 4096 last)
              | none => (s, .fail 0x6004)

/-- Bytes that a job has delivered count under event 5 (R289). -/
def State.countJob (s : State) (asid n : Nat) : State := if asid < 1024 && n ≠ 0 then s.countEv asid 5 n else s
/-- One lane copy of a CPL: what it came to (R292). -/
def State.laneCopy (s : State) (core asid : Nat) (j : Job) (st : Bool) (off ea : Nat) : State × ChunkRes :=
  match s.block? j.blk with
  | none => (s, .fail 0x6003)
  | some blk =>
    if st then
      match blk.scratchEng off 16 with
      | none => (s, .fail 0x6003)
      | some bs =>
        match s.chunkWrite core asid j [(ea, 16)] bs with
        | (s, some e) => (s, e)
        | (s, none) => (s, .done 16 false)
    else
      match s.chunkRead core asid j [(ea, 16)] with
      | (s, .error e) => (s, e)
      | (s, .ok bs) => if off + 16 ≤ blk.scratch.length then (s.scratchPut blk off bs, .done 16 false) else (s, .fail 0x6003)
/-- The job as it stands in the window now. -/
def State.job (s : State) (j : Job) : Job := (s.eng.jobs.find? fun k => k.id = j.id).getD j
/-- A lane copy of a CPL has been made or has failed: its 16 bytes are subtracted by themselves (R263, R292), or held with the counts of
the job (R380). -/
def State.countLane (s : State) (j : Job) (code : Nat) : State :=
  let k := s.job j
  if k.prov.isEmpty then (s.setJob { k with left := k.left - 16 }).countOn j.blk j.bar 16 code false
  else (s.setJob { k with owed := k.owed + 16 }).countOn j.blk j.bar 0 code false
/-- The lane copies of a CPL job that can be made now: what remains, and a hold. -/
def State.chunkCpl (s : State) (core asid : Nat) (j : Job) (st : Bool) (ls : List (Nat × Nat × Nat)) : State × ChunkRes :=
  let r := ls.foldl (fun (acc : State × List (Nat × Nat × Nat) × Option (Nat × Nat)) l =>
    match acc.1.laneCopy core asid (acc.1.job j) st l.2.1 l.2.2 with
    | (s, .done n _) => ((s.countJob asid n).countLane j 0, acc.2)
    | (s, .fail c) => (s.countLane j c, acc.2)
    | (s, .wait) => (s, acc.2.1 ++ [l], acc.2.2)
    | (s, .hold c a) => (s, acc.2.1 ++ [l], some (acc.2.2.getD (c, a)))) (s, [], none)
  let s := r.1.setJob { r.1.job j with kind := .cpl st r.2.1 }
  (s, match r.2.2 with | some h => .hold h.1 h.2 | none => .done 0 r.2.1.isEmpty)

/-- A value of the accumulator store under its bank's mode (R311). -/
def bankVal (s32 : Bool) (w : Word) : FV × Bool := if s32 then (FV.ofDyadic w.toInt 0, false) else (fmtOf 8).value w.toNat
/-- A CPA chunk (R293). -/
def State.chunkCpa (s : State) (j : Job) (blk : Block) (fn a b : Nat) : State × ChunkRes :=
  let ty := cpaTy fn
  let F := fmtOf ty
  let e := cpaBytes fn
  let n := selCount b
  let per := if bit fn 7 then 8 else 32 / e
  let lo := per * j.chunk
  let hi := Nat.min n (lo + per)
  let last := n ≤ lo + per
  let row (i : Nat) : Nat := (selRow b + i) % 128
  match s.bank? j.blk (selBank b) with
  | none => (s, .fail 0x6004)
  | some k =>
    if blk.scratch.length < a + 128 * hi * e then (s, .fail 0x6003)
    else if bit fn 7 then
      let words := (List.range (hi - lo)).foldl (fun (ws : List Word) i =>
        let vs := (List.range 128).map fun c =>
          BitVec.ofNat 32 (fit (fmtOf 8) 0 0 (F.value (field blk.scratch (a + (128 * (lo + i) + c) * e) e)).1).1
        putWords ws (128 * row (lo + i)) vs) k.words
      (s.setBank { k with words := words, s32 := false }, .done (512 * (hi - lo)) last)
    else
      let st := if bit fn 6 then 1 else if F.narrow then 2 else 0
      let bs := (List.range (hi - lo)).flatMap fun i => (List.range 128).flatMap fun c =>
        toBytes e (fit F (bits fn 0 1) st (bankVal k.s32 (k.words.getD (128 * row (lo + i) + c) 0)).1).1
      (s.scratchPut blk (a + 128 * lo * e) bs, .done bs.length last)

/-- COPY_JOB_START: the earliest accepted ready job of core `ev.a` takes a free running place (R282). Running jobs of a block that
resumes here keep their state by R287, so that more than 8 may then run; none starts until fewer do (assumption log 110). -/
def execCopyJobStart (s : State) : Out :=
  let js := s.window_ s.ev.a
  -- the jobs of a block whose threads have all exited go on
  let ready := js.filter fun j => j.state = .ready && match s.block? j.blk with | some b => b.place = .resident || b.place = .ended | none => false
  match (ready.map (·.id)).min? with
  | some id =>
    if (js.filter fun j => j.state = .running).length < 8 then
      let run (j : Job) : Job := if j.id = id then { j with state := .running } else j
      .next { s with eng := { s.eng with jobs := s.eng.jobs.map run } }.touch
    else .next s
  | none => .next s

/-- One chunk of a running job, with its end (R283 to R285). -/
def State.runChunk (s : State) (core : Nat) (j : Job) : State :=
  match s.block? j.blk with
  | none => s
  | some b =>
    let asid := b.asid
    let r : State × ChunkRes :=
      match j.kind with
      | .cpb d q a c len => if len = 0 then (s, .done 0 true) else s.chunkCpb core asid j b d q a c len
      | .cpt fn h r0 c0 i2 i3 c => s.chunkCpt core asid j b fn h r0 c0 i2 i3 c
      | .cpl st ls => s.chunkCpl core asid j st ls
      | .cpa fn a c => s.chunkCpa j b fn a c
    -- the lane copies of a CPL have counted as they were made
    let s := match r.2, j.kind with
      | .done _ _, .cpl _ _ => r.1
      | .done n _, _ => r.1.countJob asid n
      | _, _ => r.1
    let j := s.job j
    match r.2 with
    -- it goes on when what it waits for has come; other jobs go first
    | .wait => { s with eng := { s.eng with jobs := (s.eng.jobs.filter fun k => k.id ≠ j.id) ++ [j] } }
    | .fail c => s.endJob j c
    | .hold c a => (s.setJob { j with hold := true }).holdWork core asid c a 0 j.id
    | .done n last =>
      let s := s.countBytes j.blk j.bar n j.prov
      let j := { j with chunk := j.chunk + 1, inbox := [], failed := []
                        left := if j.prov.isEmpty then j.left - n else j.left, owed := if j.prov.isEmpty then j.owed else j.owed + n }
      if j.cancel then s.endJob j 0x6002
      else if last then s.endJob j 0
      else
        -- chunks are served in rotation
        { s with eng := { s.eng with jobs := (s.eng.jobs.filter fun k => k.id ≠ j.id) ++ [j] } }
/-- A job whose every window has verified: its held writes are performed and its held counts applied (R380). A page that
is not present holds it again. -/
def State.settleJob (s : State) (id : Nat) : State :=
  match s.eng.jobs.find? fun j => j.id = id with
  | none => s
  | some j =>
    if !j.prov.isEmpty || j.hold then s
    else
      match s.block? j.blk with
      | none => s
      | some b =>
        let r := j.heldWr.foldl (fun (acc : State × List (Nat × List Byte) × Option EngRes) w =>
          if acc.2.2.isSome then (acc.1, acc.2.1 ++ [w], acc.2.2)
          else
            match acc.1.engCheck b.core b.asid b.id .wr [(w.1, w.2.length)] with
            | (s, .ok ps) => (s.engWrite b.core b.asid j ps w.2, acc.2.1, none)
            | (s, .error e) => (s, acc.2.1 ++ [w], some e)) (s, [], none)
        let s := r.1
        match r.2.2 with
        | some (.fail c) => s.endJob { j with heldWr := [] } c
        | some (.hold c a) => (s.setJob { j with heldWr := r.2.1, hold := true }).holdWork b.core b.asid c a 0 j.id
        | some _ => { s with eng := { s.eng with jobs := (s.eng.jobs.filter fun k => k.id ≠ j.id) ++ [{ j with heldWr := r.2.1 }] } }
        | none =>
          if j.state = .counted then s.endJob { j with heldWr := [] } j.err
          else (s.setJob { j with heldWr := [], left := j.left - j.owed, owed := 0 }).countBytes j.blk j.bar j.owed []
/-- COPY_CHUNK: the next running job of core `ev.a` in rotation performs a chunk (R283). Of a block that is stopping only a chunk
under way is completed (R287). Writes that were held until their data was verified, and could not be made then, go first (R380). -/
def execCopyChunk (s : State) : Out :=
  let late (j : Job) : Bool := j.prov.isEmpty && !j.heldWr.isEmpty
  let ok (j : Job) : Bool := (j.state = .running || late j) && !j.hold && j.reads.isEmpty && match s.block? j.blk with
    | some b => b.place = .resident || b.place = .ended || (b.place = .stopping && j.performing)
    | none => false
  match (s.window_ s.ev.a).find? ok with
  | some j => .next (if late j then s.settleJob j.id else s.runChunk s.ev.a j)
  | none => .next s

/-- COPY_WINDOW_DEADLOCK on core `ev.a` (R286): each stalled thread traps at its instruction. -/
def execCopyWindowDeadlock (s : State) : Out :=
  let s := s.touch
  let due := s.eng.stalls.filter fun x => x.core = s.ev.a && match x.since with | some c => c + 1024 ≤ s.ctl.cycle | none => false
  .next (due.foldl (fun (s : State) x =>
    match s.paths.find? fun p => p.id = x.path with
    | none => s
    | some p =>
      let g : Guard := match clauseInstr p.words p.idx with
        | some (.cpb f, _) | some (.cpt f, _) | some (.cpl f, _) | some (.cpa f, _) => f.guard
        | _ => {}
      let go := (s.executing p g).map (·.lane)
      let s := go.foldl (fun (s : State) l =>
        match s.thread? p.fg l with
        | some t => s.takeTrap { t with pc := p.pc, idx := p.idx } 0x6001 0 p.iaddr true
        | none => s) s
      let rest := p.lanes.filter fun l => !go.contains l
      let s := if rest.isEmpty then s.dropPath p.id else s.setPath { p with lanes := rest }
      { s with eng := { s.eng with stalls := s.eng.stalls.filter fun y => y.path ≠ x.path } }) s)

end Sys2Proof.Machine
end

