-- ==== Sys2Proof/Machine/Tensor.lean ====
section
/-! DEFINITION. Tensor and matrix instructions, claims, the rendezvous latch, the sequencer and its K-steps
(spec/13_tensor.md R297 to R325). -/
namespace Sys2Proof.Machine

/-! ### Definition and sealing (R302, R320 to R322) -/

/-- An instruction performed once for its path, by the lowest executing thread for all of them (R302). -/
def issueShared (s : State) (f : FmtL) (todo : State → Thread → List (Nat × Nat) → Todo) : State :=
  match s.paths with
  | [] => s
  | p :: _ =>
    if !rightsOwn.ok (authOf (s.asidOf p.fg)) then issueEach s rightsOwn f.guard fun _ s _ => .ok s
    else
      let act := s.executing p f.guard
      let s1 := issueEach s rightsOwn f.guard fun p s t => .ok (s.pendL t (fmtLPend f p 1))
      match act with
      | [] => s1
      | t :: r =>
        -- the operations just issued are the last of their threads
        let uidOf (l : Nat) : Nat := ((s1.thread? p.fg l).bind fun u => (u.pend.getLast?.map (·.uid))).getD 0
        s1.modPend p.fg t.lane (uidOf t.lane) fun q => { q with todo := todo s t (r.map fun u => (u.lane, uidOf u.lane)) }

def execTdef (f : FmtL) (s : State) : Out := .next (issueShared s f fun s t l => .tdef (regL s t f.a.toNat 2) l)
def execTseal (f : FmtL) (s : State) : Out := .next (issueShared s f fun _ _ l => .tseal l)

/-- What a shared operation ends with, in every thread it serves. -/
def State.endShared (s : State) (t : Thread) (uid : Nat) (others : List (Nat × Nat)) (f : Pending → Pending) : State :=
  ((t.lane, uid) :: others).foldl (fun s e => s.modPend t.fg e.1 e.2 fun p => { f p with todo := .none, got := none, lo := [] }) s
/-- The read that a shared operation or NLAUNCH makes first (R210): bytes, or nothing when it has failed, is held, or
has been sent to a peer. -/
def State.todoRead (s : State) (t : Thread) (p : Pending) (ea n : Nat) (others : List (Nat × Nat)) : State × Option (List Byte) :=
  match s.readOwn t p ea n with
  | (s, .done b) => (s, some b)
  | (s, .err c a) => (s.endShared t p.uid others fun q => { q with err := some (c, BitVec.ofNat 64 a) }, none)
  | (s, .hold c a) => (s.pendStop t p.uid ea (.hold c a), none)
  | (s, .wait) | (s, .regs _) | (s, .peer _) => (s, none)

/-- TDEF (R320). -/
def State.doTdef (s : State) (t : Thread) (p : Pending) (ea : Nat) (others : List (Nat × Nat)) : State :=
  match s.todoRead t p ea 128 others with
  | (s, none) => s
  | (s, some b) =>
    let s := match s.fg? t.fg with | some g => s.setFg { g with defRec := b } | none => s
    s.endShared t p.uid others fun q => { q with val := some [0] }

/-- The checks of TSEAL but for the code lengths and the number of records: the first failure's reason (R321). -/
def sealCheck (asid : Nat) (br : BufRec) (held dropped decodeEn : Bool) (r : TRec) (codesOk : Bool) (full : Bool) : Nat :=
  let e := r.e
  let used := List.range r.ndim
  let dim (d : Nat) : Nat := match d with | 0 => r.d0 | 1 => r.d1 | 2 => r.d2 | _ => r.d3
  let last := (r.d0s - 1) * r.s0 + (r.d1 - 1) * r.stride 1 + (r.d2 - 1) * r.stride 2 + (r.d3 - 1) * r.stride 3 + e
  if !(r.fmt = 0 || r.fmt = 4 || r.fmt = 9 || r.fmt = 10 || (0x24 ≤ r.fmt && r.fmt ≤ 0x3F)) || r.dirty || 2 ≤ r.flags
      || !(r.sblock = 0 || r.sblock = 32 || r.sblock = 64) || !codesOk then 0x7001
  else if r.ndim = 0 || 4 < r.ndim || (used.any fun d => dim d = 0) || r.s0 ≠ e || (r.sparse && r.d0 % 4 ≠ 0)
      || (!r.coded && br.len < last) || (r.coded && br.len < 16384 * r.tc * r.tr * r.d2 * r.d3)
      || (!r.coded && bit br.flags 1 && (r.d0s * e % 16 ≠ 0 || used.any fun d => 1 ≤ d && r.stride d % 16 ≠ 0)) then 0x7002
  else if r.sblock ≠ 0 && r.scale % 16 ≠ 0 then 0x7003
  else if !br.ok || !(br.owner = asid || held) || dropped then 0x7004
  else if (r.sblock ≠ 0 && r.fmt < 0x24) || (r.sparse && e = 2) || (r.coded && !decodeEn) then 0x7005
  else if full then 0x7006
  else 0

/-- TSEAL (R302, R321). -/
def State.doTseal (s : State) (t : Thread) (p : Pending) (others : List (Nat × Nat)) : State :=
  let asid := s.asidOf t.fg
  let img := (s.fgOf t).defRec
  let r := TRec.of img
  let read : State × Option (List Byte) := if r.coded then s.todoRead t p r.codes 256 others else (s, some [])
  match read with
  | (s, none) => s
  | (s, some codes) =>
    let br := s.bufRec r.buf
    let slot := if br.owner = asid then s.mem.keySlots.find? fun k => k.num = br.key
      else s.mem.keySlots.find? fun k => k.owner = asid && k.buf = some r.buf
    let held := s.mem.keySlots.any fun k => k.owner = asid && k.buf = some r.buf
    let codesOk := !r.coded || (codes.all (fun l => l.toNat ≤ 15) && kraft codes = 2 ^ 15)
    match s.ctx? asid with
    | none => s
    | some c =>
      let reason := sealCheck asid br held ((slot.map (·.dropped)).getD false) s.health.decodeEn r codesOk (1024 ≤ c.records.length)
      if reason ≠ 0 then s.endShared t p.uid others fun q => { q with val := some [BitVec.ofNat 32 reason] }
      else
        let h := 2 ^ 31 + c.seals % 2 ^ 31
        let own := match s.blockOf t.fg with | some b => if b.run = 0 then none else some (b.node, b.clu) | none => none
        let sr : SealedRec := { handle := BitVec.ofNat 64 h, bytes := img, codes := codes, key := br.key, owner := own }
        let s := s.modCtx asid fun c => { c with records := c.records ++ [sr], seals := c.seals + 1 }
        s.endShared t p.uid others fun q => { q with val := some [BitVec.ofNat 32 h] }

/-- TDROP (R322). -/
def execTdrop (f : FmtL) (s : State) : Out :=
  .next (issueEach s rightsOwn f.guard fun p s t =>
    let h := regL s t f.a.toNat 1
    let asid := s.asidOf t.fg
    let has := (s.sealedRec asid h).isSome
    let s := s.modCtx asid fun c => { c with records := c.records.filter fun r => r.handle.toNat ≠ h }
    .ok (s.pendL t { fmtLPend f p 1 with val := some [if has then 0 else 0xFFFFFFFF#32] }))
/-- TQUERY (R322). -/
def execTquery (f : FmtL) (s : State) : Out :=
  let n := FmtL.fn f
  .next (issueEach s rightsOwn f.guard fun p s t =>
    let v := match s.sealedRec (s.asidOf t.fg) (regL s t f.a.toNat 1) with
      | some r => bytesWords (slice r.bytes (16 * n) 16)
      | none => List.replicate 4 0xFFFFFFFF#32
    .ok (s.pendL t { fmtLPend f p 4 with val := some v }))

/-! ### Gangs and claims (R304, R306, R323, R324) -/

/-- Bits of a byte. -/
def popc8 (n : Nat) : Nat := ((List.range 8).filter fun i => bit n i).length
/-- GANG (R323): once for each path, d written in every executing thread. -/
def execGang (f : FmtA) (s : State) : Out :=
  .next (issueOnce s rightsOwn f.guard fun _ s act =>
    match act with
    | [] => .ok s
    | t :: _ =>
      match s.blockOf t.fg with
      | none => .ok s
      | some b =>
        let a := srcA s t f 6 % 256
        let n := popc8 a
        let groups := (s.fgs.filter fun g => g.blk = b.id).map (·.num)
        let ok := (n = 0 || (2 ≤ n && n ≤ 6)) && ((List.range 8).all fun i => !bit a i || groups.contains i) && !b.latch.open_
          && !(s.eng.cmds.any fun c => c.blk = b.id)
        let d := b.gang.toNat + (if ok then 0 else 2 ^ 31)
        let s := if ok then s.setBlock { b with gang := BitVec.ofNat 8 a } else s
        .ok (act.foldl (fun s u => s.modThread u.fg u.lane fun v => v.put f.d.toNat [BitVec.ofNat 32 d]) s))

/-- A slot or bank of a core that a block other than `blk` holds. -/
def State.slotTaken (s : State) (core blk n : Nat) : Bool := s.eng.slots.any fun x => x.num = n && x.blk ≠ blk && s.onCore x.blk core
def State.bankTaken (s : State) (core blk n : Nat) : Bool := s.eng.banks.any fun x => x.num = n && x.blk ≠ blk && s.onCore x.blk core
/-- Whether a claim can be granted: everything free, and no claim that stalled earlier names any of it (R304). -/
def State.grantable (s : State) (core blk path slots banks : Nat) : Bool :=
  let earlier := (s.eng.claims.filter fun c => c.core = core && s.paths.any fun p => p.id = c.path).takeWhile fun c => c.path ≠ path
  ((List.range 32).all fun n => !bit slots n || !s.slotTaken core blk n) &&
  ((List.range 4).all fun n => !bit banks n || !s.bankTaken core blk n) &&
  earlier.all fun c => c.slots &&& slots = 0 && c.banks &&& banks = 0
/-- Grants a claim (R304). -/
def State.grant (s : State) (blk slots banks : Nat) : State :=
  let keepS := s.eng.slots.map fun x => if x.blk = blk && bit slots x.num then { x with going := false } else x
  let keepB := s.eng.banks.map fun x => if x.blk = blk && bit banks x.num then { x with going := false } else x
  let newS := ((List.range 32).filter fun n => bit slots n && (s.slot? blk n).isNone).map fun n => ({ num := n, blk := blk } : Slot)
  let newB := ((List.range 4).filter fun n => bit banks n && (s.bank? blk n).isNone).map fun n =>
    ({ num := n, blk := blk, words := List.replicate 16384 0 } : Bank)
  { s with eng := { s.eng with slots := keepS ++ newS, banks := keepB ++ newB } }
/-- OCLAIM (R304, R324): the path stalls until the claim can be granted. -/
def execOclaim (f : FmtL) (s : State) : Out :=
  .next (match s.paths with
    | [] => s
    | p :: _ =>
      let each (s : State) : State := issueEach s rightsOwn f.guard fun p s t => .ok (s.pendL t { fmtLPend f p 1 with val := some [0] })
      if !rightsOwn.ok (authOf (s.asidOf p.fg)) then each s
      else
        match s.executing p f.guard with
        | [] => each s
        | t :: _ =>
          let core := s.coreOf p.fg
          let blk := s.blkId p.fg
          let slots := regL s t f.a.toNat 1
          let banks := regL s t f.b.toNat 1 % 16
          if s.grantable core blk p.id slots banks then
            each ({ s with eng := { s.eng with claims := s.eng.claims.filter fun c => c.path ≠ p.id } }.grant blk slots banks)
          else if s.eng.claims.any fun c => c.path = p.id then s
          else { s with eng := { s.eng with
            claims := s.eng.claims ++ [{ core := core, blk := blk, path := p.id, slots := slots, banks := banks }] } })
/-- OREL (R304, R324). -/
def execOrel (f : FmtA) (s : State) : Out :=
  .next (issueOnce s rightsOwn f.guard fun _ s act =>
    match act with
    | [] => .ok s
    | t :: _ =>
      let blk := s.blkId t.fg
      let slots := srcA s t f 6
      let banks := srcB s t f 6 % 16
      let markS (x : Slot) : Slot := if x.blk = blk && bit slots x.num then { x with going := true } else x
      let markB (x : Bank) : Bank := if x.blk = blk && bit banks x.num then { x with going := true } else x
      .ok ({ s with eng := { s.eng with slots := s.eng.slots.map markS, banks := s.eng.banks.map markB } }.releaseUnits))

/-- CLAIM_GRANT on core `ev.a`: the earliest stalled claim that can be granted is, and its path goes on (R304). -/
def execClaimGrant (s : State) : Out :=
  match s.eng.claims.find? fun c => c.core = s.ev.a && s.grantable c.core c.blk c.path c.slots c.banks with
  | none => .next s
  | some c =>
    match s.paths.find? fun p => p.id = c.path with
    | none => .next { s with eng := { s.eng with claims := s.eng.claims.filter fun x => x.path ≠ c.path } }
    | some p =>
      match clauseInstr p.words p.idx with
      | some (.oclaim f, _) => execOclaim f { s with paths := p :: s.paths.filter fun q => q.id ≠ p.id }
      | _ => .next s

/-! ### Forming commands (R307, R308, R312, R325) -/

/-- The tag that the work accepted before now will leave in a slot (R325). -/
def State.tagToBe (s : State) (asid blk n : Nat) : Option (Nat × Nat × Nat × Nat × Nat) :=
  let js := s.eng.jobs.filterMap fun j =>
    match j.kind with
    | .cpt 0 h r0 c0 i2 i3 c => if j.blk = blk && c % 32 = n && j.state ≠ .counted then some (j.id, h, r0, c0, i2, i3) else none
    | _ => none
  match js.foldl (fun (m : Option (Nat × Nat × Nat × Nat × Nat × Nat)) x =>
      match m with | some y => if y.1 < x.1 then some x else some y | none => some x) none with
  | some (_, h, r0, c0, i2, i3) => let o := s.originOf asid h r0 c0; some (h, o.1, o.2, i2, i3)
  | none => (s.slot? blk n).map fun x => (x.handle, x.row0, x.col0, x.i2, x.i3)
/-- e of the record that a slot will hold; 1 where there is none. -/
def State.eToBe (s : State) (asid blk n : Nat) : Nat :=
  ((s.tagToBe asid blk n).bind fun x => (s.sealedRec asid x.1).map fun r => (TRec.of r.bytes).e).getD 1

/-- K-steps, bank, AROW of a descriptor, and the numbers of slots a K-step takes (R325). -/
def cmdK (a : Nat) : Nat := bits a 19 4 + 1
def cmdBank (a : Nat) : Nat := bits a 10 2
def cmdRow (a : Nat) : Nat := bits a 23 7
def cmdKS (op : Nat) : Nat := if op = 2 then 256 else 128
def cmdNA (op eA : Nat) : Nat := cmdKS op * eA / 128
def cmdNB (op eB : Nat) : Nat := if op = 2 then cmdKS op * eB / 256 else cmdKS op * eB / 128
/-- Moving and stationary slots of K-step j of a group that starts at `slot`. -/
def movSlots (op a eA j : Nat) : List Nat := (List.range (cmdNA op eA)).map fun i => (bits a 0 5 + j * cmdNA op eA + i) % 32
def staSlots (op slot eB j : Nat) : List Nat := (List.range (cmdNB op eB)).map fun i => (slot + j * cmdNB op eB + i) % 32
/-- The groups of a product command: rows and first stationary slot; MMAG's table holds 8 entries (R325). -/
def cmdGroups (op a tab : Nat) : List (Nat × Nat) :=
  if op = 1 then
    (List.range 8).filterMap fun g =>
      let x := bits tab (16 * g) 16
      let n := Nat.min 128 (bits x 0 8)
      if n = 0 then none else some (n, bits x 8 5)
  else [(bits a 12 7 + 1, bits a 5 5)]

/-- Logical elements along dimension 0 for which a slot's tile can hold an element that is not masked: first and one past the
last (R309, R310, R325). -/
def TRec.logical (r : TRec) (op : Nat) (moving : Bool) (col0 : Nat) : Nat × Nat :=
  if op = 2 && !moving then (2 * col0, Nat.min (2 * (col0 + 128 / r.e + col0 % 2)) (2 * r.d0s))
  else (col0, Nat.min (col0 + 128 / r.e) r.d0s)
/-- The scale codes of tile rows `rows` for logical k from `k.1` to `k.2 - 1`: row, address and bytes (R299). -/
def TRec.scaleSegs (r : TRec) (row0 i2 i3 : Nat) (rows : List Nat) (k : Nat × Nat) : List (Nat × Nat × Nat) :=
  if r.sblock = 0 then []
  else
    let lo := k.1 / r.sblock
    let hi := ceilDiv k.2 r.sblock
    rows.filterMap fun m =>
      let i1 := row0 + m
      if i1 < r.d1 && i2 < r.d2 && i3 < r.d3 && k.1 < k.2 then
        some (m, r.scale + r.rho i1 i2 i3 * ceilDiv r.d0 r.sblock + lo, hi - lo)
      else none

/-- The footprints of a command (R312). -/
def State.cmdFeet (s : State) (asid blk op a : Nat) (groups : List (Nat × Nat)) (eA eB : Nat) : List Foot × List Foot :=
  let k := cmdK a
  let rows := (groups.map (·.1)).sum
  let bank := if op = 3 then footRows (selBank a) (selRow a) (selCount a) else footRows (cmdBank a) (cmdRow a) rows
  if op = 3 then ([], bank)
  else
    let mov := if groups.isEmpty then [] else (List.range k).flatMap (movSlots op a eA)
    let sta := groups.flatMap fun g => (List.range k).flatMap (staSlots op g.2 eB)
    let scale (moving : Bool) (ms : List Nat) (n : Nat) : List Foot :=
      match s.tagToBe asid blk n with
      | none => []
      | some x =>
        match s.sealedRec asid x.1 with
        | none => []
        | some r =>
          let r := TRec.of r.bytes
          (r.scaleSegs x.2.1 x.2.2.2.1 x.2.2.2.2 ms (r.logical op moving x.2.2.1)).flatMap fun g => footGlobal g.2.1 g.2.2
    let mrows := (List.range (Nat.min rows 128)).map fun i => (cmdRow a + i) % 128
    ((mov ++ sta).eraseDups.map footSlot ++ bank ++ (mov.eraseDups.flatMap (scale true mrows))
      ++ (sta.eraseDups.flatMap (scale false (List.range 128))), bank)

/-- Bytes a command counts (R314). -/
def cmdBytes (op a : Nat) (groups : List (Nat × Nat)) : Nat := 512 * (if op = 3 then selCount a else (groups.map (·.1)).sum)
/-- A command is accepted into the sequencer with its edges (R312). -/
def State.acceptCmd (s : State) (c : Cmd) : State :=
  let asid := ((s.block? c.blk).map (·.asid)).getD oprAsid
  let eA := s.eToBe asid c.blk (bits c.a 0 5)
  let eB := match c.groups with | g :: _ => s.eToBe asid c.blk g.2 | [] => 1
  let ft := s.cmdFeet asid c.blk c.op c.a c.groups eA eB
  let e := s.edgesOf c.blk ft.1 ft.2
  { s with eng := { s.eng with cmds := s.eng.cmds ++
    [{ c with eA := eA, eB := eB, rd := ft.1, wr := ft.2, edges := e.1, prov := e.2, waiting := false
              state := if e.1.isEmpty then .ready else .held, left := cmdBytes c.op c.a c.groups }] } }.touch
/-- A command that is not accepted yet. -/
def newCmd (id blk bar op a tab fn : Nat) : Cmd :=
  { id := id, blk := blk, bar := bar, op := op, a := a, groups := if op = 3 then [] else cmdGroups op a tab, s32 := fn = 1
    rd := [], wr := [], state := .held, left := 0 }
def State.addCmd (s : State) (blk bar op a tab fn : Nat) : State :=
  let (id, s) := s.newUid
  s.acceptCmd (newCmd id blk bar op a tab fn)

/-- Every listed group that still has a living thread is present (R307). -/
def State.latchFull (s : State) (b : Block) (present : List Nat) : Bool :=
  s.fgs.all fun g => g.blk ≠ b.id || !b.gang.getLsbD g.num || (s.living g.id).isEmpty || present.contains g.num
/-- A latch that an exit closes forms its command, which waits for room (R307). -/
def State.latchExit (s : State) (blk : Nat) : State :=
  match s.block? blk with
  | none => s
  | some b =>
    if b.latch.open_ && s.latchFull b b.latch.present then
      let (id, s) := s.newUid
      let c := { newCmd id blk b.latch.br b.latch.op b.latch.a b.latch.b b.latch.fn with waiting := true }
      { s with eng := { s.eng with cmds := s.eng.cmds ++ [c] } }.setBlock { b with latch := {} }
    else s

/-- Issues a matrix instruction (R307, R308). -/
def issueMatrix (s : State) (f : FmtL) (op : Nat) : State :=
  match s.paths with
  | [] => s
  | p :: _ =>
    let each (s : State) : State := issueEach s rightsOwn f.guard fun p s t => .ok (s.pendL t { fmtLPend f p 0 with val := some [] })
    let trap (s : State) : State := issueEach s rightsOwn f.guard fun _ s _ => .trap 0x6005 s.noAddr
    let tab (t : Thread) : Nat := if op = 1 then regL s t f.b.toNat 4 else 0
    let room := 16 - (s.queue_ (s.coreOf p.fg)).length
    if !rightsOwn.ok (authOf (s.asidOf p.fg)) then each s
    else
      match s.executing p f.guard, s.blockOf p.fg, s.fg? p.fg with
      | t :: r, some b, some g =>
        if b.gang = 0 then
          if (t :: r).length ≤ room then
            each ((t :: r).foldl (fun s t => s.addCmd b.id (FmtL.br f) op (regL s t f.a.toNat 1) (tab t) (FmtL.fn f)) s)
          else s.setPath { p with waiting := true }
        else
          -- the address is compared too: the class chapter governs (spec/00_scope.md R3; assumption log 108)
          let me : Latch := { open_ := true, op := op, iaddr := p.iaddr, fn := FmtL.fn f, br := FmtL.br f
                              a := regL s t f.a.toNat 1, b := tab t, present := b.latch.present }
          if !b.gang.getLsbD g.num then trap s
          else if b.latch.open_ && b.latch.present.contains g.num then s.setPath { p with waiting := true }
          else if b.latch.open_ && b.latch ≠ me then trap s
          else
            let present := me.present ++ [g.num]
            if s.latchFull b present then
              if room = 0 then s.setPath { p with waiting := true }
              else each ((s.setBlock { b with latch := {} }).addCmd b.id me.br op me.a me.b me.fn)
            else each (s.setBlock { b with latch := { me with present := present } })
      | _, _, _ => each s
def execMma (f : FmtL) (s : State) : Out := .next (issueMatrix s f 0)
def execMmag (f : FmtL) (s : State) : Out := .next (issueMatrix s f 1)
def execMmas (f : FmtL) (s : State) : Out := .next (issueMatrix s f 2)
def execAccz (f : FmtL) (s : State) : Out := .next (issueMatrix s f 3)

/-- LATCH_COMMAND_ACCEPT on core `ev.a`: the first command that waits is accepted once the queue has room (R307). -/
def execLatchCommandAccept (s : State) : Out :=
  match s.eng.cmds.find? fun c => c.waiting && s.onCore c.blk s.ev.a with
  | some c =>
    if (s.queue_ s.ev.a).length < 16 then
      -- its place in the order of acceptance is now
      let (id, s) := { s with eng := { s.eng with cmds := s.eng.cmds.filter fun d => d.id ≠ c.id } }.newUid
      .next (s.acceptCmd { c with id := id })
    else .next s
  | none => .next s
/-- MATRIX_COMMAND_START on core `ev.a` (R312). -/
def execMatrixCommandStart (s : State) : Out :=
  let q := s.queue_ s.ev.a
  let live (c : Cmd) : Bool := match s.block? c.blk with | some b => b.place ≠ .stopping | none => false
  match ((q.filter fun c => c.state = .ready && live c).map (·.id)).min? with
  | some id =>
    if q.any fun c => c.state = .running then .next s
    else
      let run (c : Cmd) : Cmd := if c.id = id then { c with state := .running } else c
      .next { s with eng := { s.eng with cmds := s.eng.cmds.map run } }.touch
  | none => .next s

/-! ### The port and the operands (R299, R301, R309, R310) -/

/-- The value of an element by its record's format (R163, R166, R311). -/
def elemVal (fmt n : Nat) : FV :=
  if fmt = 0 then FV.ofDyadic (sext 8 n) 0 else if fmt = 4 then FV.ofDyadic ((n % 256 : Nat) : Int) 0 else ((fmtOf fmt).value n).1
/-- A value times the scale of a code (R169). -/
def scaled (x : FV) (c : Nat) : FV := if c = 255 then .nan else x.scale ((c : Int) - 127)

/-- A slot as a K-step reads it: its record, its tile as the port or the moving path gives it, its scale codes by row. -/
structure SlotView where
  trec   : TRec
  slot   : Slot
  bytes  : List Byte
  scales : List (Nat × List Byte)
  /-- Logical element of the first scale code's block. -/
  k0     : Nat
/-- The element of tile row `m` at stored position t, standing for logical element k (R309). -/
def SlotView.elem (v : SlotView) (m t k : Nat) : FV :=
  let r := v.trec
  if r.d0s ≤ v.slot.col0 + t || r.d1 ≤ v.slot.row0 + m || r.d2 ≤ v.slot.i2 || r.d3 ≤ v.slot.i3 then .zero false
  else
    let x := elemVal r.fmt (field v.bytes (128 * m + t * r.e) r.e)
    if r.sblock = 0 then x
    else
      match v.scales.find? fun e => e.1 = m with
      | some e => scaled x ((e.2.getD (k / r.sblock - v.k0 / r.sblock) 0).toNat)
      | none => .zero false
/-- A row of a K-step's operand read dense: its slots one after another. -/
def denseRow (vs : List SlotView) (m : Nat) : List FV :=
  vs.flatMap fun v => (List.range (128 / v.trec.e)).map fun t => v.elem m t (v.slot.col0 + t)
/-- A row of an MMAS stationary operand: stored elements at their logical k, every other position exact zero (R310). -/
def sparseRow (vs : List SlotView) (m : Nat) : List FV :=
  (vs.foldl (fun (acc : List FV × Nat) v =>
    let w := 128 / v.trec.e
    let rho := v.trec.rho (v.slot.row0 + m) v.slot.i2 v.slot.i3
    let row := (List.range w).foldl (fun (l : List FV) t =>
      let u := v.slot.col0 + t
      let k := 256 * (u / 128) + (v.trec.kept rho (u / 128)).getD (u % 128) 0
      if 2 * v.slot.col0 ≤ k then l.set (acc.2 + k - 2 * v.slot.col0) (v.elem m t k) else l) acc.1
    (row, acc.2 + 2 * w)) (List.replicate 256 (.zero false), 0)).1

/-- The tile of a stationary slot after the port's decryption and decoding (R301, R309); none when its key fails. -/
def State.portTile (s : State) (asid : Nat) (r : TRec) (codes : List Byte) (x : Slot) : Option (List Byte) :=
  let br := s.bufRec r.buf
  let leaf : Leaf := { lg := 16, addr := 0, kind := 0, r := true, w := true, x := true, buf := r.buf, br := br }
  let f := (r.frame x.row0 x.col0 x.i2 x.i3).getD 0
  let dec : Option (List Byte) :=
    if !bit br.flags 1 then some (padTo 16384 x.data)
    else match s.keyOf asid leaf with
      | none => none
      | some k => some ((List.range 1024).flatMap fun j =>
          let off := if r.coded then 16384 * f + 16 * j else r.off x.col0 (x.row0 + j / 8) x.i2 x.i3 + 16 * (j % 8)
          (xtsDec k (off / 16 % 2 ^ 64 + r.buf * 2 ^ 64) ((slice x.data (16 * j) 16).map (·.toNat))).map (BitVec.ofNat 8))
  dec.map fun b => if r.coded then decodeSyms (codeTable codes) 16384 (b.take x.len) 0 else b

/-- The view of a slot for a K-step of a command, or R313's failure, or scale lines that a peer must send. -/
def State.viewSlot (s : State) (core asid : Nat) (c : Cmd) (moving : Bool) (rows : List Nat) (n : Nat) :
    State × Except EngRes SlotView :=
  match s.slot? c.blk n with
  | none => (s, .error (.fail 0x6004))
  | some x =>
    match (if x.valid then s.sealedRec asid x.handle else none) with
    | none => (s, .error (.fail 0x6006))
    | some rc =>
      let r := TRec.of rc.bytes
      if r.e ≠ (if moving then c.eA else c.eB) || (!moving && r.coded && !s.health.decodeEn) then (s, .error (.fail 0x6006))
      else
        let l := r.logical c.op moving x.col0
        let segs := r.scaleSegs x.row0 x.i2 x.i3 rows l
        match s.engCheck core asid c.blk .rd (segs.map fun g => (g.2.1, g.2.2)) with
        | (s, .error e) => (s, .error e)
        | (s, .ok ps) =>
          match s.engRead core asid c.blk c.inbox ps with
          | (s, .error e) => (s, .error e)
          | (s, .ok bs) =>
            let sc := (segs.foldl (fun (acc : List (Nat × List Byte) × List Byte) g =>
              (acc.1 ++ [(g.1, acc.2.take g.2.2)], acc.2.drop g.2.2)) ([], bs)).1
            match (if moving then some (padTo 16384 x.data) else s.portTile asid r rc.codes x) with
            | none => (s, .error (.fail 0x6003))
            | some b => (s, .ok { trec := r, slot := x, bytes := b, scales := sc, k0 := l.1 })
/-- The views of some slots. -/
def State.viewSlots (s : State) (core asid : Nat) (c : Cmd) (moving : Bool) (rows : List Nat) (ns : List Nat) :
    State × Except EngRes (List SlotView) :=
  ns.foldl (fun acc n =>
    match acc with
    | (s, .error e) => (s, .error e)
    | (s, .ok l) => match s.viewSlot core asid c moving rows n with
      | (s, .error e) => (s, .error e)
      | (s, .ok v) => (s, .ok (l ++ [v]))) (s, .ok [])

/-! ### Accumulation (R311) -/

/-- An exact sum of products of a chunk. -/
def chunkSum (a b : List FV) : FV :=
  match List.zipWith (fun x y => (fvMul x y).1) a b with
  | [] => .zero false
  | t :: ts => ts.foldl (fun x y => (fvAdd 0 x y).1) t
/-- What one chunk brings to a word: S mod 2^32 of an integer command, t of a floating one. -/
def chunkVal (integer : Bool) (a b : List FV) : Word :=
  match chunkSum a b, integer with
  | .fin m e, true => BitVec.ofInt 32 (m * 2 ^ e.toNat)
  | _, true => 0
  | x, false => BitVec.ofNat 32 (fit (fmtOf 8) 0 0 x).1
/-- The values of the chunks of a K-step, in ascending k. -/
def chunkVals (integer : Bool) : (n : Nat) → (a b : List FV) → List Word
  | 0, _, _ => []
  | n + 1, a, b => chunkVal integer (a.take 32) (b.take 32) :: chunkVals integer n (a.drop 32) (b.drop 32)
/-- One value added to a word. -/
def accAdd (integer : Bool) (w t : Word) : Word :=
  if integer then w + t
  else
    let F := fmtOf 8
    BitVec.ofNat 32 (fit F 0 0 (fvAdd 0 (F.value w.toNat).1 (F.value t.toNat).1).1).1
/-- One word after the chunks of a K-step. -/
def accWord (integer : Bool) (n : Nat) (a b : List FV) (w : Word) : Word := (chunkVals integer n a b).foldl (accAdd integer) w

/-- The operands of a group K-step: whether it is integer, the rows of the moving operand and the columns of the stationary one. -/
structure KOperands where
  integer : Bool
  chunks  : Nat
  row     : Nat → List FV
  cols    : List (List FV)
def kOperands (c : Cmd) (mov sta : List SlotView) : KOperands :=
  let isInt (v : SlotView) : Bool := v.trec.fmt = 0 || v.trec.fmt = 4
  { integer := mov.all isInt && sta.all isInt, chunks := cmdKS c.op / 32, row := denseRow mov
    cols := (List.range 128).map fun n => if c.op = 2 then sparseRow sta n else denseRow sta n }
/-- The chunk values of output row `m`, by column, as the array forms them: with the faults that strike the row. -/
def KOperands.values (k : KOperands) (fs : List ColFault) (m : Nat) : List (List Word) :=
  let a := k.row m
  k.cols.mapIdx fun n b => (chunkVals k.integer k.chunks a b).mapIdx fun i t =>
    fs.foldl (fun t f => if f.row = m && f.col = n && f.chunk = i then t ^^^ f.mask else t) t
/-- A group K-step that passed its checks: the bank after it. -/
def addKStep (o : KOperands) (fs : List ColFault) (k : Bank) (base rows : Nat) : Bank :=
  let words := (List.range rows).foldl (fun (ws : List Word) r =>
    let m := (base + r) % 128
    let new := (o.values fs m).mapIdx fun n ts => ts.foldl (accAdd o.integer) (ws.getD (128 * m + n) 0)
    putWords ws (128 * m) new) k.words
  { k with words := words, s32 := o.integer }

/-! ### The shadow column (R316) -/

/-- Precision 12 with the exponent range of FP32. -/
def fmt12 : Fmt := { p := 12, bias := 127, w := 8 }
def round12 (x : FV) : FV := (fmt12.value (fit fmt12 0 0 x).1).1
def FV.abs : FV → FV
  | .fin m e => .fin m.natAbs e
  | .zero _ => .zero false
  | .inf _ => .inf false
  | .nan => .nan
def FV.finite : FV → Bool
  | .fin _ _ | .zero _ => true
  | _ => false
/-- A sum, every partial sum rounded to precision 12. -/
def sum12 (xs : List FV) : FV := xs.foldl (fun a x => round12 (fvAdd 0 a x).1) (.zero false)
/-- The exact sum of values. -/
def sumExact (xs : List FV) : FV := xs.foldl (fun a x => (fvAdd 0 a x).1) (.zero false)
/-- The check of one row fails: `ts` are the chunk values of its columns (R316; assumption log 25). -/
def KOperands.rowFails (o : KOperands) (m : Nat) (ts : List (List Word)) : Bool :=
  let a := o.row m
  let at_ (b : List FV) (k : Nat) : FV := b.getD k (.zero false)
  let ks := List.range (32 * o.chunks)
  if o.integer then
    let int (x : FV) : Int := match x with | .fin m e => m * 2 ^ e.toNat | _ => 0
    let sum := (ks.map fun k => int (at_ a k) * (o.cols.map fun b => int (at_ b k)).sum).sum
    let w := ((ts.flatMap fun l => l.map fun t => t.toInt).sum)
    wrap 16 sum ≠ wrap 16 w
  else
    let p (x y : FV) : FV := round12 (fvMul x y).1
    let q (k : Nat) : FV := sum12 (o.cols.map fun b => round12 (at_ b k))
    let u (k : Nat) : FV := sum12 (o.cols.map fun b => (round12 (at_ b k)).abs)
    let x (k : Nat) : FV := round12 (at_ a k)
    let S := sum12 (ks.map fun k => p (x k) (q k))
    let U := sum12 (ks.map fun k => p (x k).abs (u k))
    let W := round12 (sumExact (ts.flatMap fun l => l.map fun t => ((fmtOf 8).value t.toNat).1))
    W.finite && S.finite && U.finite &&
      0 < fvCmp (fvAdd 0 W S.neg).1.abs (fvAdd 0 (U.scale (-6)) (.fin 1 (-120))).1
/-- The shadow column's failure: 0xA002 to the operator, with no hold, and the core's score (R316, R415). -/
def State.columnMismatch (s : State) (core asid : Nat) : State :=
  let s := s.record { die := dieOfCore core, code := 0xA002, asid := if asid < 1024 then asid else 0xFFFF, core := core }
  let r := s.suspect [(core, 1024)]
  r.1.publish r.2

/-- What a group K-step comes to. -/
def State.kStep (s : State) (core asid : Nat) (c : Cmd) (g j : Nat) : State × EngRes :=
  match c.groups[g]? with
  | none => (s, .ok)
  | some grp =>
    let base := cmdRow c.a + ((c.groups.take g).map (·.1)).sum
    let rows := (List.range grp.1).map fun r => (base + r) % 128
    match s.bank? c.blk (cmdBank c.a) with
    | none => (s, .fail 0x6004)
    | some k =>
      let ms := movSlots c.op c.a c.eA j
      let ss := staSlots c.op grp.2 c.eB j
      if (ms ++ ss).any fun n => (s.slot? c.blk n).isNone then (s, .fail 0x6004)
      else
        match s.viewSlots core asid c true rows ms with
        | (s, .error e) => (s, e)
        | (s, .ok mov) =>
          match s.viewSlots core asid c false (List.range 128) ss with
          | (s, .error e) => (s, e)
          | (s, .ok sta) =>
            let o := kOperands c mov sta
            let fs := s.health.colFaults.filter fun f => f.core = core && rows.contains f.row
            let s := if fs.isEmpty then s else { s with health := { s.health with colFaults := s.health.colFaults.filter fun f => !fs.contains f } }
            -- a fault-free array never fails the check
            if fs.any fun f => o.rowFails f.row (o.values fs f.row) then (s.columnMismatch core asid, .fail 0xA002)
            else (s.setBank (addKStep o fs k base grp.1), .ok)

/-- ACCZ clears its rows and sets the mode (R325). -/
def State.clearRows (s : State) (c : Cmd) : State × EngRes :=
  match s.bank? c.blk (selBank c.a) with
  | none => (s, .fail 0x6004)
  | some k =>
    let ws := (List.range (selCount c.a)).foldl (fun (ws : List Word) i =>
      putWords ws (128 * ((selRow c.a + i) % 128)) (List.replicate 128 0)) k.words
    (s.setBank { k with words := ws, s32 := c.s32 }, .ok)

/-- GROUP_K_STEP: the running command of core `ev.a` performs its next group K-step (R313, R314, R325). -/
def execGroupKStep (s : State) : Out :=
  let core := s.ev.a
  -- of a block that is stopping only a K-step under way is completed (R315)
  let goes (c : Cmd) : Bool := match s.block? c.blk with | some b => b.place ≠ .stopping || !c.inbox.isEmpty | none => false
  match (s.queue_ core).find? fun c => c.state = .running && !c.hold && c.reads.isEmpty && goes c with
  | none => .next s
  | some c =>
    match s.block? c.blk with
    | none => .next s
    | some b =>
      let k := cmdK c.a
      let total := if c.op = 3 then 1 else c.groups.length * k
      if total = 0 then .next (s.endCmd c 0)
      else
        let r := if c.op = 3 then s.clearRows c else s.kStep core b.asid c (c.step / k) (c.step % k)
        let s := r.1
        match r.2 with
        | .wait => .next s
        | .ask ls =>
          let r := s.askLines b.asid c.id ls
          .next (r.1.setCmd { c with reads := r.2 })
        | .fail code => .next (s.endCmd c code)
        | .hold code addr => .next ((s.setCmd { c with hold := true }).holdWork core b.asid code addr 1 c.id)
        | .ok =>
          let n := if c.op = 3 then 512 * selCount c.a
            else if c.step % k = k - 1 then 512 * ((c.groups[c.step / k]?).map (·.1)).getD 0 else 0
          let s := if c.op ≠ 3 && b.asid < 1024 then s.countEv b.asid 4 1 else s
          let s := s.countBytes c.blk c.bar n c.prov
          let c := { c with step := c.step + 1, inbox := [], left := (if c.prov.isEmpty then c.left - n else c.left),
                            owed := (if c.prov.isEmpty then c.owed else c.owed + n) }
          if total ≤ c.step then .next (s.endCmd c 0) else .next (s.setCmd c)

end Sys2Proof.Machine
end

