-- ==== Sys2Proof/Machine/Sched.lean ====
section
/-! DEFINITION. Launch packets, nodes, edges, placement, the end of blocks and nodes, and the events of the scheduler
(spec/15_launch.md R331 to R354; spec/20_health.md R409 to R412). -/
namespace Sys2Proof.Machine

/-! ### Packets (R53, R332 to R334) -/

/-- Bytes of a register file that a file group needs (R19). -/
def groupNeed (threads regs : Nat) : Nat := ceilDiv threads 32 * 32 * regs * 4
/-- Assigns file groups in turn, each to the unit with the fewest groups among those with room, ties to the lower number
(R346). `load`: for each unit, its groups and bytes. -/
def assignUnits : (fgs need : Nat) → (load : List (Nat × Nat)) → Option (List Nat)
  | 0, _, _ => some []
  | n + 1, need, load =>
    let ok := (List.range 4).filter fun u => (load.getD u (4, 0)).1 < 4 && (load.getD u (4, 0)).2 + need ≤ 262144
    let least := (ok.map fun u => (load.getD u (4, 0)).1).min?
    match ok.find? fun u => some (load.getD u (4, 0)).1 = least with
    | none => none
    | some u =>
      match assignUnits n need (load.set u ((load.getD u (0, 0)).1 + 1, (load.getD u (0, 0)).2 + need)) with
      | some r => some (u :: r)
      | none => none

/-- A resolved footprint of entry `k` of a descriptor: mode, base, length; none when it breaks R53 (R334). -/
def footEntry (d : List Byte) (args : List DWord) (k : Nat) : Option (Nat × Nat × Nat) :=
  let o := 128 + 24 * k
  let arg := field d (o + 16) 1
  let mode := field d (o + 17) 1
  let base := field d o 8
  if mode = 0 || 3 < mode || (15 < arg && arg ≠ 0xFF) || field d (o + 18) 6 ≠ 0 then none
  else some (mode, if arg = 0xFF then base else (base + (args.getD arg 0).toNat) % 2 ^ 64, field d (o + 8) 8)
/-- Whether bytes are all 0. -/
def zeros (l : List Byte) (off n : Nat) : Bool := (slice l off n).all fun x => x = 0

/-- A packet and its descriptor, checked (R333): none is 0xB010. R333's list names no case for what stands in footprint entries at
or above FP_COUNT or in GANG bytes at or above GANG_COUNT, nor for a group that GANG names twice: none of these is looked at
(assumption log 63). -/
def parsePacket (p d : List Byte) : Option Packet :=
  let fl := field p 23 1
  let args := (List.range 16).map fun k => BitVec.ofNat 64 (field p (128 + 8 * k) 8)
  let nfoot := field d 88 1
  let ng := field d 75 1
  let feet := (List.range nfoot).map (footEntry d args)
  let gang := ((List.range ng).map fun k => field d (80 + k) 1)
  let q : Packet :=
    { desc := field p 0 8, code := field p 8 8, blocks := field p 16 4, cshape := field p 20 1, fgs := field p 21 1
      threads := field p 22 1, side := bit fl 0, notify := bit fl 1, pennant := field p 24 8, signal := field p 32 2
      wait := field p 34 2, ntype := field p 36 2, tag := field p 40 4, args := args, regs := field d 72 2
      scratch := field d 76 4, producer := field d 74 1, gang := gang.foldl (fun m g => m ||| 2 ^ g) 0
      entry := field d 64 8, feet := feet.filterMap fun x => x }
  if 4 ≤ fl || !zeros p 38 2 || !zeros p 44 84 || !zeros d 86 2 || !zeros d 89 3 || !zeros d 96 32 then none
  else if q.blocks = 0 || 2 ^ 24 < q.blocks || q.cshape = 0 || 4 < q.cshape || q.blocks % q.cshape ≠ 0
      || q.fgs = 0 || 8 < q.fgs || q.threads = 0 || 128 < q.threads then none
  else if 4095 < q.signal || 4095 < q.wait || q.pennant % 64 ≠ 0 then none
  else if q.regs % 8 ≠ 0 || q.regs = 0 || 240 < q.regs || 393216 < q.scratch || q.scratch % 256 ≠ 0 || q.fgs ≤ q.producer
      || !(ng = 0 || (2 ≤ ng && ng ≤ 6)) || gang.any (fun g => q.fgs ≤ g) || 16 < nfoot || feet.any Option.isNone then none
  else if q.feet.any fun f => 2 ^ 57 < f.2.1 + f.2.2 then none
  else if (assignUnits q.fgs (groupNeed q.threads q.regs) (List.replicate 4 (0, 0))).isNone then none
  else some q

def readMode (m : Nat) : Bool := m = 1 || m = 3
def writeMode (m : Nat) : Bool := m = 2 || m = 3
/-- The lines that footprints of a kind name (R334). -/
def Packet.lines (p : Packet) (k : Nat → Bool) : List Foot := (p.feet.filter fun f => k f.1).flatMap fun f => footGlobal f.2.1 f.2.2
def Packet.clusters (p : Packet) : Nat := p.blocks / p.cshape

/-! ### Nodes: lookups, discharge, caches (R341 to R343) -/

def State.part (s : State) (p : Nat) : PartEntry := s.sched.parts.getD p {}
def State.setPart (s : State) (p : Nat) (e : PartEntry) : State :=
  { s with sched := { s.sched with parts := s.sched.parts.set p e } }
def State.slotE (s : State) (k : Nat) : SlotEntry := s.sched.slots.getD k {}
def State.setSlotE (s : State) (k : Nat) (e : SlotEntry) : State :=
  { s with sched := { s.sched with slots := s.sched.slots.set k e } }

/-- A cached line that footprints of a kind cover, by the address it was cached under or by an alias of it (R232, R334). -/
def State.inFeet (s : State) (asid : Nat) (p : Packet) (k : Nat → Bool) (x : Line) : Bool :=
  p.feet.any fun f =>
    let lo := s.norm f.2.1 / 128
    let hi := (s.norm f.2.1 + f.2.2 - 1) / 128
    k f.1 && 0 < f.2.2 && ((lo ≤ x.va / 128 && x.va / 128 ≤ hi)
      || s.covers asid { num := 0, base := 128 * lo, len := 128 * (hi + 1 - lo), obj := 0, sc := 0 } x)
/-- A node that has nothing left to wait for becomes ready, and reads its footprints afresh (R342, R343). -/
def State.readyNode (s : State) (n : Node) : State :=
  if n.state = 1 && n.edges.isEmpty && !n.tagWait then
    (s.setNode { n with state := 2 }).discardAll n.asid (s.inFeet n.asid n.pkt readMode)
  else s
/-- Edges from a node are discharged: `war` says its write-after-read edges too (R341, R411). -/
def State.dischargeNode (s : State) (id : Nat) (war : Bool) : State :=
  let s := { s with sched := { s.sched with pool := s.sched.pool.map fun (n : Node) =>
    { n with edges := n.edges.filter fun e => !(e.1 = id && (war || !e.2)) } } }
  s.sched.pool.foldl State.readyNode s
/-- A tag is set: it releases every waiting node that names it (R345). -/
def State.setTag (s : State) (part tag : Nat) : State :=
  if tag = 0 || 4095 < tag then s
  else
    let e := s.part part
    let s := s.setPart part { e with tags := if e.tags.contains tag then e.tags else e.tags ++ [tag] }
    let s := { s with sched := { s.sched with pool := s.sched.pool.map fun (n : Node) =>
      if n.part = part && n.pkt.wait = tag then { n with tagWait := false } else n } }
    s.sched.pool.foldl State.readyNode s

/-! ### Acceptance (R331, R340, R341, R409) -/

/-- Every byte of a range lies in buffers whose records have CHECK (R409). -/
def State.allCheck (s : State) (asid : Nat) : (fuel : Nat) → (a n : Nat) → Bool
  | 0, _, n => n = 0
  | k + 1, a, n =>
    if n = 0 then true
    else
      match s.window false a with
      | .ok (va, none) =>
        match s.walkRoot asid va with
        | .ok l =>
          let pageEnd := va / 2 ^ l.lg * 2 ^ l.lg + 2 ^ l.lg
          let hi := Nat.min pageEnd (l.br.base + l.br.len)
          if l.br.ok && bit l.br.flags 3 && l.br.base ≤ va && va < hi then
            s.allCheck asid k (a + Nat.min n (hi - va)) (n - Nat.min n (hi - va))
          else false
        | .error _ => false
      | _ => false
/-- Checkable at acceptance (R409): a read-write footprint overlaps itself, whatever its length. -/
def State.isCheckable (s : State) (asid : Nat) (p : Packet) : Bool :=
  let w := p.feet.filter fun f => writeMode f.1
  !p.side && !w.isEmpty && !(p.feet.any fun f => f.1 = 3) && (w.all fun f => s.allCheck asid (f.2.2 / 65536 + 2) f.2.1 f.2.2) && !meetsAny (p.lines readMode) (p.lines writeMode)

/-- Unfinished nodes of a partition. -/
def State.unfinished (s : State) (part : Nat) : List Node := s.sched.pool.filter fun n => n.part = part
/-- Neither limit of R340 is reached. -/
def State.poolRoom (s : State) (part : Nat) : Bool := s.sched.pool.length < 4096 && (s.unfinished part).length < 256
/-- Write-after-read edges of a node stay while a cluster of it is unsettled (R411). -/
def Node.unsettled (n : Node) : Bool := n.clusters.any fun c => c.stage = 1 || c.stage = 2
/-- The scheduler accepts a node (R331, R340, R341). An ending node holds its edges until its release of R343 is done. -/
def State.acceptNode (s : State) (asid queue : Nat) (launchers : List Nat) (p : Packet) : State × Nat :=
  let part := ((s.ctx? asid).map (·.part)).getD 0
  let id := 2 ^ 31 + s.sched.accepted % 2 ^ 31
  let rd := p.lines readMode
  let wr := p.lines writeMode
  let edges := ((s.unfinished part).filter fun n => !launchers.contains n.id).flatMap fun n =>
    let hard := meetsAny rd (n.pkt.lines writeMode) || meetsAny wr (n.pkt.lines writeMode)
    let war := meetsAny wr (n.pkt.lines readMode)
    (if hard && !n.flushed then [(n.id, false)] else []) ++ (if war && (!n.flushed || n.unsettled) then [(n.id, true)] else [])
  let n : Node :=
    { id := id, asid := asid, part := part, queue := queue, launchers := launchers, pkt := p, edges := edges, state := 1
      tagWait := p.wait ≠ 0 && !(s.part part).tags.contains p.wait, seq := s.sched.accepted, checkable := s.isCheckable asid p }
  let s := { s with sched := { s.sched with pool := s.sched.pool ++ [n], accepted := s.sched.accepted + 1 } }
  (s.readyNode n, id)

/-- An access of the scheduler's own that is under way at a peer. -/
def State.peerRead? (s : State) (asid addr size who : Nat) : Option PeerRead :=
  s.sched.reads.find? fun r => r.asid = asid && r.addr = addr && r.size = size && r.who = who
/-- The scheduler asks a peer: its request leaves, and its entry waits for the answer. -/
def State.askPeer (s : State) (q : OutReq) (addr size who : Nat) : State :=
  let (id, s) := s.newUid
  let e : PeerRead := { id := id, asid := q.asid, addr := addr, size := size, who := who }
  ({ s with sched := { s.sched with reads := s.sched.reads ++ [e] } } : State).pushOut { q with id := id, job := some id }
def State.dropRead (s : State) (r : PeerRead) : State := { s with sched := { s.sched with reads := s.sched.reads.filter fun x => x.id ≠ r.id } }
/-- One read of the scheduler for a context: the bytes, a code, or `none` where a peer has still to answer. -/
def State.schedPart (s : State) (asid addr n : Nat) : State × Except (Option Nat) (List Byte) :=
  match s.peerRead? asid addr n 0 with
  | some r =>
    match r.data with
    | some d => (s.dropRead r, .ok d)
    | none => if r.err = 0 then (s, .error none) else (s.dropRead r, .error (some r.err))
  | none =>
    match s.load false 256 asid 0 addr n with
    | (s, .done d) => (s, .ok d)
    | (s, .err c _) | (s, .hold c _) => (s, .error (some c))
    | (s, .peer k) => (s.askPeer { id := 0, kind := 0, rank := k, addr := addr % 2 ^ 48, size := n, asid := asid } addr n 0, .error none)
    | (s, .wait) | (s, .regs _) => (s, .error none)
/-- The same for bytes that may lie in two windows (R333; spec/08_memory.md R194). -/
def State.schedRead (s : State) (asid addr n : Nat) : State × Except (Option Nat) (List Byte) :=
  let m := 2 ^ 48 - addr % 2 ^ 48
  if n ≤ m then s.schedPart asid addr n
  else
    match s.schedPart asid addr m with
    | (s, .ok a) => match s.schedPart asid ((addr + m) % 2 ^ 64) (n - m) with | (s, .ok b) => (s, .ok (a ++ b)) | x => x
    | x => x
/-- The descriptor of a packet, read by the scheduler; then the packet, or a rejection's status (R333). -/
def State.readPacket (s : State) (asid : Nat) (pk : List Byte) : State × Except (Option Nat) Packet :=
  match s.schedRead asid (field pk 0 8) 512 with
  | (s, .ok d) => match parsePacket pk d with | some p => (s, .ok p) | none => (s, .error (some 0xB010))
  | (s, .error e) => (s, .error e)

/-- The 64 bytes of a completion record (R344). -/
def pennantBytes (node status verdict faults ended start end_ tag signal : Nat) : List Byte :=
  padTo 64 (toBytes 4 node ++ toBytes 2 status ++ toBytes 1 verdict ++ [0] ++ toBytes 4 faults ++ toBytes 4 ended
    ++ toBytes 8 start ++ toBytes 8 end_ ++ toBytes 4 tag ++ toBytes 2 signal)
/-- Writes a completion record of node or rejected packet `who` as a store of a context (R344); what came of it. At a peer it is
done when the peer has acknowledged it. -/
def State.writePennant (s : State) (asid addr who : Nat) (bs : List Byte) : State × AccRes :=
  match s.peerRead? asid addr 0 who with
  | some r => if r.err ≠ 0 then (s.dropRead r, .err r.err addr) else if r.data.isSome then (s.dropRead r, .done []) else (s, .wait)
  | none =>
    match s.store false 256 asid 0 addr bs with
    | (s, .peer k) => (s.askPeer { id := 0, kind := 1, rank := k, addr := addr % 2 ^ 48, size := 64, data := bs, asid := asid } addr 0 who, .wait)
    | x => x
/-- A rejected packet's pennant is written, and its SIGNAL set. A write that is held for a page, or must wait, leaves it to be tried
again; one that fails is reported as a node's is, with node 0 (R333, R344). -/
def State.finishReject (s : State) (r : Reject) : State :=
  let gone (s : State) : State :=
    ({ s with sched := { s.sched with rejects := s.sched.rejects.filter fun x => x.id ≠ r.id } } : State).setTag r.part r.signal
  if r.hold then s
  else
    match s.writePennant r.asid r.addr r.id r.data with
    | (s, .done _) => gone s
    | (s, .hold c a) =>
      let me (x : Reject) : Reject := if x.id = r.id then { x with hold := true } else x
      ({ s with sched := { s.sched with rejects := s.sched.rejects.map me } } : State).holdWork 256 r.asid c a 2 r.id
    | (s, .err c _) =>
      if 1024 ≤ s.sched.evq.length then s
      else
        let e : EvqEntry := { node := 0, part := r.part, status := c, signal := r.signal, pennant := r.addr % 2 ^ 48, asid := r.asid }
        gone ({ s.hwEvent r.asid 0x8002 c 0 with sched := { s.sched with evq := s.sched.evq ++ [e] } })
    | (s, _) => s

/-! ### Queues (R338, R339) -/

def State.queue? (s : State) (q : Nat) : Option Queue := s.sched.queues[q]?
def State.setQueue (s : State) (q : Queue) : State := { s with sched := { s.sched with queues := s.sched.queues.set q.num q } }

/-- PACKET_TAKE: the scheduler takes packet QHEAD of queue `ev.a` (R333, R339, R340). -/
def execPacketTake (s : State) : Out :=
  match s.queue? s.ev.a with
  | none => .next s
  | some q =>
    let part := ((s.ctx? q.asid).map (·.part)).getD 0
    if !q.en || q.err ≠ 0 || q.head = q.tail || !s.poolRoom part then .next s
    else
      match s.schedRead q.asid (q.base + 256 * (q.head % 2 ^ q.logn)) 256 with
      | (s, .error none) => .next s
      | (s, .error (some c)) => .next (s.setQueue { q with err := c })
      | (s, .ok pk) =>
        let taken (s : State) : State := s.setQueue { q with head := (q.head + 1) % 2 ^ 32 }
        match s.readPacket q.asid pk with
        | (s, .error none) => .next s
        | (s, .ok p) => .next ((taken s).acceptNode q.asid q.num [] p).1
        | (s, .error (some st)) =>
          let pen := field pk 24 8
          let sig := field pk 32 2
          if pen = 0 then .next ((taken s).setTag part sig)
          else
            let now := s.ctl.devTime
            let (id, s) := (taken s).newUid
            let r : Reject := { id := id, asid := q.asid, part := part, addr := pen, signal := sig
                                data := pennantBytes 0 st 0 0 0 now now (field pk 40 4) sig }
            .next ({ s with sched := { s.sched with rejects := s.sched.rejects ++ [r] } }.finishReject r)

/-- A queue is bound to a tenant's doorbell page, of VF `vf` as 64 × die + v (R338). -/
def Queue.boundTo (q : Queue) (vf : Nat) : Bool := 1 ≤ q.vf && q.vf ≤ 62 && 64 * q.ld + q.vf = vf
/-- The queue whose registers stand at a 16-byte place of a doorbell page: the bound queues in number order (R338). -/
def State.doorbell (s : State) (vf k : Nat) : Option Queue := (s.sched.queues.filter fun q => q.boundTo vf)[k]?
/-- QTAIL_WRITE: the owner writes `ev.v` to offset `ev.b` of the doorbell page of VF `ev.a`; QTAIL of the queue that stands there
takes it (R338, R339). -/
def execQtailWrite (s : State) : Out :=
  match if s.ev.b % 16 = 8 then s.doorbell s.ev.a (s.ev.b / 16) else none with
  | none => .next s
  | some q =>
    let t := s.ev.v.toNat % 2 ^ 32
    .next (if (t + 2 ^ 32 - q.head) % 2 ^ 32 ≤ 2 ^ q.logn then s.setQueue { q with tail := t } else s)
/-- A write of QCTL; while EN = 1 only EN and ERR change (R338). -/
def Queue.ctlWrite (q : Queue) (v : Nat) : Queue :=
  let q1 := { q with err := bits v 16 16, en := bit v 0 }
  let n := bits v 8 4
  if q.en then q1
  else { q1 with asid := bits v 48 10, ld := bits v 40 1, vf := bits v 32 8, prio := bits v 1 2
                 logn := if 4 ≤ n && n ≤ 12 then n else q.logn }
/-- QCTL_WRITE: `ev.v` to QCTL of queue `ev.a` (R338); the Novig recovery image serves no queues (spec/20_health.md R426; assumption log
131). -/
def execQctlWrite (s : State) : Out :=
  .next (match if s.health.novig then none else s.queue? s.ev.a with | none => s | some q => s.setQueue (q.ctlWrite s.ev.v.toNat))
/-- QCTL as it reads (R338). -/
def Queue.ctl (q : Queue) : Nat :=
  q.asid % 1024 * 2 ^ 48 + q.ld * 2 ^ 40 + q.vf * 2 ^ 32 + q.err * 2 ^ 16 + q.logn * 2 ^ 8 + q.prio * 2 + b2n q.en

/-! ### Placement (R346, R347) -/

/-- Slots of a partition in logical order, with their logical numbers. -/
def State.slotsOf (s : State) (part : Nat) : List (Nat × Nat) :=
  let l := (List.range 64).filter fun k => let e := s.slotE k; e.assigned && e.part = part
  let pairs := l.map fun k => ((s.slotE k).lslice, k)
  (List.range 64).flatMap fun j => pairs.filter fun x => x.1 = j
def Block.there (b : Block) : Bool := b.place = .resident || b.place = .stopping
/-- Blocks that take a place on a core. -/
def State.blocksAt (s : State) (core : Nat) : List Block := s.blocks.filter fun b => b.core = core && b.there
/-- Groups and bytes that stand on each SIMD unit of a core (R19). -/
def State.unitLoad (s : State) (core : Nat) : List (Nat × Nat) :=
  let ids := (s.blocksAt core).map (·.id)
  (List.range 4).map fun u =>
    -- a group whose threads have all exited has given back its registers (spec/06_control.md R153)
    let gs := s.fgs.filter fun g => ids.contains g.blk && g.unit = u && s.threads.any fun t => t.fg = g.id && t.living
    (gs.length, (gs.map fun g => groupNeed g.n g.nregs).sum)
/-- Whether slot `k` takes new placements of a context: assigned, neither closed nor moving, and reserved for no other;
a context that holds reservations uses only those (R346). -/
def State.slotOpen (s : State) (asid k : Nat) : Bool :=
  let e := s.slotE k
  e.assigned && !e.closed && e.moving.isNone &&
    (match e.rsv with | some a => a = asid | none => !(s.sched.slots.any fun x => x.rsv = some asid))
/-- Units for a block on a core, when it fits (R346). `old` is a resumed block. -/
def State.coreFit (s : State) (n : Node) (core : Nat) (old : Option Block) : Option (List Nat) :=
  let bs := s.blocksAt core
  let oldOk := match old with
    | none => true
    | some b =>
      (s.eng.slots.all fun x => x.blk ≠ b.id || !s.slotTaken core b.id x.num)
      && (s.eng.banks.all fun x => x.blk ≠ b.id || !s.bankTaken core b.id x.num)
      && (s.window_ core).length + (s.eng.jobs.filter fun j => j.blk = b.id).length ≤ 64
      && (s.queue_ core).length + (s.eng.cmds.filter fun c => c.blk = b.id && !c.waiting).length ≤ 16
  if s.map.coreLive core && s.slotOpen n.asid (core / 4) && bs.length < 4
      && (bs.map fun b => b.scratch.length).sum + n.pkt.scratch ≤ 393216 && oldOk then
    assignUnits n.pkt.fgs (groupNeed n.pkt.threads n.pkt.regs) (s.unitLoad core)
  else none
/-- The cores of slot `k` that fit, in order, each with its units; `blks` are resumed blocks, in order (R347). -/
def State.slotFit (s : State) (n : Node) (k : Nat) (avoid : List Nat) (need : Nat) (blks : List Block) : Option (List (Nat × List Nat)) :=
  let cores := (List.range 4).map fun i => 4 * k + i
  let r := cores.foldl (fun (acc : List (Nat × List Nat)) c =>
    if need ≤ acc.length || avoid.contains c then acc
    else match s.coreFit n c (blks[acc.length]?) with
      | some us => acc ++ [(c, us)]
      | none => acc) []
  if r.length = need then some r else none
/-- The first slot in region order that takes the whole cluster; regions in `barred` are left alone (R347, R349). -/
def State.findPlace (s : State) (n : Node) (slots : List (Nat × Nat)) (barred : Option Nat) (avoid : List Nat) (need : Nat)
    (blks : List Block) : Option (List (Nat × List Nat)) :=
  slots.findSome? fun x => if barred = some (x.1 / 2) then none else s.slotFit n x.2 avoid need blks

/-- A block begins (R336). -/
def State.startBlock (s : State) (n : Node) (clu num core run : Nat) (units : List Nat) : State :=
  let (bid, s) := s.newUid
  let p := n.pkt
  let b : Block :=
    { id := bid, node := n.id, num := num, clu := clu, core := core, asid := n.asid, regs := p.regs, producer := p.producer
      scratch := List.replicate p.scratch 0, gang := BitVec.ofNat 8 p.gang, run := run, checkable := n.checkable && run = 0
      tag := p.tag, side := p.side, startNs := s.ctl.devTime }
  let sregs := p.args.flatMap fun a => natWords a.toNat 2
  let m0 := lanesMask (List.range p.threads)
  (List.range p.fgs).foldl (fun (s : State) k =>
    let (fid, s) := s.newUid
    let g : FileGroup :=
      { id := fid, blk := bid, num := k, unit := units.getD k 0, n := p.threads, nregs := p.regs
        s := sregs ++ List.replicate 32 0, m := m0 :: List.replicate 11 0 }
    let ts : List Thread := (List.range p.threads).map fun l =>
      { fg := fid, lane := l, pc := BitVec.ofNat 64 (p.code + p.entry), v := List.replicate p.regs 0, pooledAt := s.ticks }
    { s with fgs := s.fgs ++ [g], threads := s.threads ++ ts }) { s with blocks := s.blocks ++ [b] }
/-- A new cluster of a run stands on its cores (R342, R347). -/
def State.placeCluster (s : State) (n : Node) (clu run : Nat) (cores : List (Nat × List Nat)) : State :=
  let s := (cores.zipIdx).foldl (fun s x => s.startBlock n clu (n.pkt.cshape * clu + x.2) x.1.1 run x.1.2) s
  let mine := cores.map fun c => (run, c.1)
  let n := if run = 0 then
      { n with next := n.next + 1, state := 3, startNs := some (n.startNs.getD s.ctl.devTime)
               clusters := n.clusters ++ [{ num := clu, cores := mine, been := mine }] }
    else
      let f (c : Cluster) : Cluster :=
        if c.num = clu then { c with cores := c.cores ++ mine, been := c.been ++ mine, placed := true, ended := 0 } else c
      { n with clusters := n.clusters.map f }
  s.setNode n
/-- Parked arrivals are applied before any thread of the block issues (R271). -/
def State.applyLayby (s : State) (b : Block) : State :=
  let mine (p : Parked) : Bool := p.asid = b.asid && p.node = b.node && p.blk = b.num
  let ps := s.sync.layby.filter mine
  let s := { s with sync := { s.sync with layby := s.sync.layby.filter fun p => !mine p } }
  ps.foldl (fun (s : State) p => s.applyArrival { seq := 0, blk := b.id, bar := p.bar, kind := 2, sc := p.sc }) s
/-- A stopped block returns to a core (R235, R271, R287, R315, R353). -/
def State.resumeBlock (s : State) (b : Block) (core : Nat) (units : List Nat) : State :=
  let gs := s.fgs.filter fun g => g.blk = b.id
  let unitOf (g : FileGroup) : Nat := ((gs.zipIdx.find? fun x => x.1.id = g.id).map fun x => units.getD x.2 0).getD 0
  let ids := gs.map (·.id)
  let s := { s with
    fgs := s.fgs.map fun (g : FileGroup) => if g.blk = b.id then { g with unit := unitOf g } else g
    threads := s.threads.map fun (t : Thread) => if ids.contains t.fg then { t with stopDue := false, pooledAt := s.ticks } else t
    sched := { s.sched with images := s.sched.images.filter (fun i => i.1 ≠ b.id) } }
  let s := s.modCluster b.node b.clu fun _ c =>
    { c with cores := c.cores.map fun x => if x = (b.run, b.core) then (b.run, core) else x
             been := if c.been.contains (b.run, core) then c.been else c.been ++ [(b.run, core)] }
  -- what the caches of the new core and slice hold of its context may be older than what its threads have seen
  let s := s.discardClean core b.asid fun _ => 5
  (s.setBlock { b with core := core, place := .resident, startNs := s.ctl.devTime }).applyLayby { b with core := core }

/-! ### The dispatch pass (R348, R349, R412) -/

/-- What waits to be placed before the queue heads: stopped clusters and re-runs, in the order of their stop or selection. -/
inductive Early where
  | resume (seq node clu run : Nat)
  | rerun (seq node clu run : Nat)
  deriving DecidableEq, Repr
def Early.seq : Early → Nat | .resume k _ _ _ => k | .rerun k _ _ _ => k
/-- Stopped blocks of a cluster's run. -/
def State.stoppedOf (s : State) (node clu run : Nat) : List Block :=
  s.blocks.filter fun b => b.node = node && b.clu = clu && b.run = run && b.place = .stopped
/-- A context whose blocks may be placed: resident (spec/04_system.md R91). -/
def State.ctxRuns (s : State) (asid : Nat) : Bool := match s.ctx? asid with | some c => c.state = 1 | none => false
/-- The early work of a partition, in order. -/
def State.early (s : State) (part : Nat) : List Early :=
  let ns := s.sched.pool.filter fun n => n.part = part && s.ctxRuns n.asid
  let moving := (s.sched.stops.filter fun x => x.move.isSome).flatMap (·.done)
  let stopped := (s.blocks.filter fun b => b.place = .stopped && !moving.contains b.id && ns.any fun n => n.id = b.node)
  let rs := (stopped.map fun b => Early.resume (((s.stoppedOf b.node b.clu b.run).map (·.stopSeq)).min?.getD 0) b.node b.clu b.run).eraseDups
  let cs := ns.flatMap fun n => (n.clusters.filter fun c => (c.stage = 1 || c.stage = 2) && !c.placed).map fun c => Early.rerun c.seq n.id c.num c.stage
  (rs ++ cs).mergeSort fun a b => a.seq ≤ b.seq
/-- Cores on which another run of a cluster has been: no run stands on one of them (spec/20_health.md R412). -/
def Node.barredCores (n : Node) (clu run : Nat) : List Nat :=
  (n.clusters.filter fun c => c.num = clu).flatMap fun c => (c.been.filter fun x => x.1 ≠ run).map (·.2)
/-- Places one piece of early work where it fits. -/
def State.placeEarly (s : State) (part : Nat) (e : Early) : State :=
  let slots := s.slotsOf part
  -- a region in reserve takes no cluster but the blocked head's (R349)
  let barred (n : Node) : Option Nat := if (s.part part).blocked.any fun b => b.1 = n.id then none else (s.part part).reserve
  match e with
  | .resume _ node clu run =>
    match s.node? node with
    | none => s
    | some n =>
      let bs := (s.stoppedOf node clu run).mergeSort fun a b => a.num ≤ b.num
      let mates := s.blocks.filter fun b => b.node = node && b.clu = clu && b.run = run && b.there
      let slots := match mates with | m :: _ => slots.filter fun x => x.2 = m.core / 4 | [] => slots
      match s.findPlace n slots (barred n) (mates.map (·.core) ++ n.barredCores clu run) bs.length bs with
      | none => s
      | some cs => (bs.zip cs).foldl (fun s x => s.resumeBlock x.1 x.2.1 x.2.2) s
  | .rerun _ node clu run =>
    match s.node? node with
    | none => s
    | some n =>
      let used := n.barredCores clu run
      let fresh := slots.filter fun x => !(used.any fun c => c / 4 = x.2)
      if s.poolFree = 0 then s
      else
        match s.findPlace n fresh (barred n) used n.pkt.cshape [] with
        | some cs => s.placeCluster n clu run cs
        | none =>
          match s.findPlace n slots (barred n) used n.pkt.cshape [] with
          | some cs => s.placeCluster n clu run cs
          | none => s

/-- A node in ready or running with an unplaced cluster. -/
def Node.waits (n : Node) : Bool := (n.state = 2 || n.state = 3) && n.next < n.pkt.clusters
/-- The heads of a partition's queues that are not yet stuck, by priority and then by acceptance (R348). -/
def State.heads (s : State) (part : Nat) (stuck : List Nat) : List Node :=
  let ns := s.sched.pool.filter fun n => n.part = part && n.waits && s.ctxRuns n.asid && !stuck.contains n.queue
  let hs := ns.filter fun n => ns.all fun m => m.queue ≠ n.queue || n.seq ≤ m.seq
  let prio (n : Node) : Nat := ((s.queue? n.queue).map (·.prio)).getD 0
  hs.mergeSort fun a b => prio a < prio b || (prio a = prio b && a.seq ≤ b.seq)
/-- Heads place clusters until every queue is stuck (R348, R349). `past` says the blocked head has been passed. -/
def placeHeads : (fuel : Nat) → State → (part : Nat) → (stuck : List Nat) → (past : Bool) → State
  | 0, s, _, _, _ => s
  | k + 1, s, part, stuck, past =>
    match s.heads part stuck with
    | [] => s
    | n :: _ =>
      let e := s.part part
      let isBlocked := e.blocked.any fun b => b.1 = n.id
      match s.findPlace n (s.slotsOf part) (if isBlocked then none else e.reserve) [] n.pkt.cshape [] with
      | some cs =>
        let s := s.placeCluster n n.next 0 cs
        let e := if isBlocked then { e with blocked := none, reserve := none }
          else if past then { e with blocked := e.blocked.map fun b => (b.1, b.2.1, b.2.2 + 1) } else e
        placeHeads k (s.setPart part e) part stuck (past && !isBlocked)
      | none =>
        let s := if e.blocked.isNone then s.setPart part { e with blocked := some (n.id, s.ctl.devTime, 0) } else s
        placeHeads k s part (stuck ++ [n.queue]) (past || isBlocked || e.blocked.isNone)
/-- The lowest LSLICE that no slot of a partition has. -/
def State.freeLslice (s : State) (part : Nat) : Nat := (lowestFree ((s.slotsOf part).map (·.1)) 64).getD 0
/-- A slot that is leaving its partition moves when its last block has ended (R352). -/
def State.moveSlot (s : State) (k : Nat) : State :=
  let e := s.slotE k
  match e.moving with
  | none => s
  | some a =>
    if (List.range 4).all fun i => (s.blocksAt (4 * k + i)).isEmpty then
      s.setSlotE k { e with part := a, lslice := s.freeLslice a, moving := none }
    else s
/-- The same for every slot: one may have been empty when it was marked, or be emptied by a stop or a discard. -/
def State.moveSlots (s : State) : State := (List.range 64).foldl State.moveSlot s
/-- DISPATCH_PASS of partition `ev.a` (R348). -/
def execDispatchPass (s : State) : Out :=
  let part := s.ev.a
  if 64 ≤ part then .next s
  else
    let e := s.part part
    let still := match e.blocked with
      | some b => match s.node? b.1 with | some n => n.waits | none => false
      | none => true
    let s := (if still then s else s.setPart part { e with blocked := none, reserve := none }).moveSlots
    -- a node may have waited for one that a context's end has discarded
    let s := s.sched.pool.foldl State.readyNode s
    let s := (s.early part).foldl (fun s x => s.placeEarly part x) s
    .next (placeHeads 2100 s part [] false)

/-- REGION_RESERVE of partition `ev.a`: the ageing rule, which an open region enters reserve by (R349). -/
def execRegionReserve (s : State) : Out :=
  let part := s.ev.a
  let e := s.part part
  match e.blocked, e.reserve with
  | some b, none =>
    if 32 ≤ b.2.2 || b.2.1 + 500000 ≤ s.ctl.devTime then
      let slots := s.slotsOf part
      let regions := (slots.map fun x => x.1 / 2).eraseDups
      let free (r : Nat) : Nat := ((slots.filter fun x => x.1 / 2 = r).flatMap fun x => (List.range 4).filter fun i =>
        (s.blocksAt (4 * x.2 + i)).isEmpty).length
      let regions := regions.filter fun r => slots.any fun x => x.1 / 2 = r && !(s.slotE x.2).closed
      let most := (regions.map free).max?.getD 0
      match ((regions.filter fun r => free r = most).min?) with
      | some r => .next (s.setPart part { e with reserve := some r })
      | none => .next s
    else .next s
  | _, _ => .next s

/-- SERVICE_WINDOW: at the end of a 10 ms window (R352). -/
def execServiceWindow (s : State) : Out :=
  if s.ctl.devTime < s.sched.winStart + 10000000 then .next s
  else
    let parts := s.sched.parts.map fun p => { p with deliv := p.acc / 1000 % 2 ^ 32, acc := 0 }
    let s := { s with sched := { s.sched with parts := parts, winStart := s.ctl.devTime } }
    let want (p : PartEntry) : Nat := p.target * s.map.liveCores * 10000
    let idx := List.range 64
    let unders := idx.filter fun i => let p := s.part i; p.auto && p.blocked.isSome && p.deliv * 64 < want p
    let overs := idx.filter fun i => let p := s.part i; p.auto && 2 ≤ (s.slotsOf i).length && want p < p.deliv * 64
    let short (i : Nat) : Nat := want (s.part i) - (s.part i).deliv * 64
    let excess (i : Nat) : Nat := (s.part i).deliv * 64 - want (s.part i)
    let a := unders.find? fun i => unders.all fun j => short j ≤ short i
    let b := overs.find? fun i => overs.all fun j => excess j ≤ excess i
    match a, b with
    | some a, some b =>
      -- B's highest-numbered unreserved slot
      match ((s.slotsOf b).filter fun x => (s.slotE x.2).rsv.isNone).getLast? with
      | some x => .next ((s.setSlotE x.2 { s.slotE x.2 with moving := some a }).moveSlot x.2)
      | none => .next s
    | _, _ => .next s

/-! ### Ends (R343, R352, R410; spec/06_control.md R153) -/

/-- Whether a cluster is selected for re-execution (R410). -/
def State.selected (s : State) (node clu : Nat) : Bool :=
  let secret := natBytes 32 (Config.freshKey s.health.secretNo % 2 ^ 256)
  bytesNat (shake256 (secret ++ natBytes 4 node ++ natBytes 4 clu) 2) % 4096 < s.ctl.chkFrac
/-- A block's part in its cluster's run: the first run settles or is selected when its last block ends (R410, R411). -/
def State.clusterBlock (s : State) (b : Block) : State :=
  match s.node? b.node with
  | none => s
  | some n =>
    let one (c : Cluster) : Cluster := { c with ended := c.ended + 1 }
    match n.clusters.find? fun c => c.num = b.clu with
    | none => s
    | some c =>
      let c := one c
      let last := c.ended = n.pkt.cshape
      let sel := b.run = 0 && last && n.checkable && s.selected n.id b.clu
      let c := if b.run = 0 && last then
          (if sel then { c with stage := 1, placed := false, seq := s.sched.stopSeq, ended := 0 }
           else { c with stage := 3 })
        else c
      let n := { n with
        clusters := n.clusters.map fun d => if d.num = b.clu then c else d
        ended := if b.run = 0 then n.ended + 1 else n.ended
        endNs := if b.run = 0 then s.ctl.devTime else n.endNs
        verdict := if b.run = 0 && last && n.checkable then Nat.max n.verdict 1 else n.verdict }
      let s := s.setNode n
      if sel then { s with sched := { s.sched with stopSeq := s.sched.stopSeq + 1 } } else s
/-- Work of a node's blocks that R225 waits for at .dev: jobs, commands, and reductions not performed at their elements (R343). -/
def State.nodeBusy (s : State) (id : Nat) : Bool :=
  let bs := (s.blocks.filter fun b => b.node = id).map (·.id)
  let gs := (s.fgs.filter fun g => bs.contains g.blk).map (·.id)
  (s.eng.jobs.any fun j => bs.contains j.blk) || (s.eng.cmds.any fun c => bs.contains c.blk) || s.sync.reqs.any fun r => gs.contains r.fg
/-- A node that is ending performs R225 steps 1 to 3 at .dev, and its edges are discharged (R341, R343). -/
def State.flushNode (s : State) (id : Nat) : State :=
  match s.node? id with
  | none => s
  | some n =>
    if n.state ≠ 4 || n.flushed || s.nodeBusy id then s
    else
      let mine := s.inFeet n.asid n.pkt writeMode
      let s := s.writeBackAll n.asid mine
      if s.keptBack n.asid mine then s else (s.setNode { n with flushed := true }).dischargeNode id !n.unsettled
/-- A node whose last block has ended enters ending (R343). -/
def State.nodeEnding (s : State) (id : Nat) : State :=
  match s.node? id with
  | none => s
  | some n => if n.state = 3 && n.ended = n.pkt.blocks then (s.setNode { n with state := 4 }).flushNode id else s
/-- A block of which some engine work or request is still on its way. -/
def State.lingers (s : State) (b : Block) : Bool :=
  let gs := (s.fgs.filter fun g => g.blk = b.id).map (·.id)
  (s.eng.jobs.any fun j => j.blk = b.id) || (s.eng.cmds.any fun c => c.blk = b.id)
  || (s.links.out.any fun q => q.bar.any (fun x => x.1 = b.id) || (q.job.isNone && gs.contains q.fg))
  || (s.sync.remote.any fun r => gs.contains r.fg) || (s.sync.reqs.any fun r => gs.contains r.fg)
  || (s.links.hostAtoms.any fun h => gs.contains h.fg && h.st ≠ 3)
/-- The last living thread of a block has exited: the block ends, its claims with it (R153, R304, R352). -/
def State.blockEnd (s : State) (b : Block) : State :=
  let gs := (s.fgs.filter fun g => g.blk = b.id).map (·.id)
  let part := ((s.node? b.node).map (·.part)).getD 64
  let e := s.part part
  let s := if part < 64 then s.setPart part { e with acc := e.acc + b.ranNs + (s.ctl.devTime - b.startNs) } else s
  let s := { s with
    threads := s.threads.filter fun t => !gs.contains t.fg
    paths := s.paths.filter fun p => !gs.contains p.fg
    insts := s.insts.filter fun i => !gs.contains i.fg
    sync := { s.sync with gather := s.sync.gather.filter fun g => !gs.contains g.fg }
    sched := { s.sched with
      images := s.sched.images.filter fun i => i.1 ≠ b.id
      stops := s.sched.stops.map fun (x : StopCmd) => { x with blks := x.blks.filter fun k => k ≠ b.id } }
    eng := { s.eng with
      slots := s.eng.slots.filter fun x => x.blk ≠ b.id
      banks := s.eng.banks.filter fun x => x.blk ≠ b.id } }
  let s := if s.lingers b then s.setBlock { b with place := .ended }
    else { s with blocks := s.blocks.filter (fun c => c.id ≠ b.id), fgs := s.fgs.filter fun g => g.blk ≠ b.id }
  let s := if b.core < 256 then s.moveSlot (b.core / 4) else s
  (s.clusterBlock b).nodeEnding b.node
/-- A thread that has exited is in no instance of its file group any more: one that exits in its handler was (R146). -/
def State.leaveExited (s : State) (fg : Nat) : State :=
  let on (l : Nat) : Bool := ((s.thread? fg l).map Thread.living).getD false
  { s with insts := (s.insts.map fun (i : Inst) => if i.fg = fg then { i with lanes := i.lanes.filter on } else i).filter fun i => !i.lanes.isEmpty }
/-- A thread has exited: what waits on its group's living threads is looked at, and the block may end (R153, R264, R307). -/
def State.exited (s : State) (fg : Nat) : State :=
  match s.blockOf fg with
  | none => s
  | some b =>
    let s := ((s.leaveExited fg).closeGather fg).latchExit b.id
    let alive := s.fgs.any fun g => g.blk = b.id && !(s.living g.id).isEmpty
    if alive then s
    else match s.block? b.id with | some b => s.blockEnd b | none => s

/-- Issues EXIT: it does not issue while a scoreboard of an executing thread is not zero (R153). -/
def issueExit (s : State) (g : Guard) : State :=
  match s.paths with
  | [] => s
  | p :: _ =>
    let act := s.executing p g
    if act.any fun t => t.sb.any (· ≠ 0) then s
    else
      let s := issueEach s rightsAll g fun _ s t => .ok (s.setThread { t with status := .exited, after := .exited })
      if act.isEmpty then s else s.exited p.fg
def execExitShort (_f : FmtB1) (s : State) : Out := .next (issueExit s {})
def execExit (f : FmtB2) (s : State) : Out := .next (issueExit s f.guard)

/-- Blocks that have ended go when nothing of theirs is on its way any more. -/
def State.sweepEnded (s : State) : State :=
  let gone := (s.blocks.filter fun b => b.place = .ended && !s.lingers b).map (·.id)
  { s with blocks := s.blocks.filter (fun b => !gone.contains b.id), fgs := s.fgs.filter fun g => !gone.contains g.blk }

/-- NODE_COMPLETION: the end of node `ev.a` is made known, or that of a rejected packet (R344): R225 at .dev if it is still due and
then at .sys, the pennant, the entry of the event queue. -/
def execNodeCompletion (s : State) : Out :=
  let s := s.sweepEnded.flushNode s.ev.a
  match s.node? s.ev.a with
  | none => .next (match s.sched.rejects.find? fun r => r.id = s.ev.a with | some r => s.finishReject r | none => s)
  | some n =>
    if !n.flushed || n.posted || n.unsettled || n.hold || 1024 ≤ s.sched.evq.length || s.blocks.any (fun b => b.node = n.id) then .next s
    else
      let s := s.writeBackAll n.asid fun _ => true
      let bs := pennantBytes n.id 0 n.verdict n.faults n.ended (n.startNs.getD 0) n.endNs n.pkt.tag n.pkt.signal
      let r := if s.parBusy n.asid then (s, AccRes.wait)
        else if n.pkt.pennant = 0 then (s, AccRes.done []) else s.writePennant n.asid n.pkt.pennant n.id bs
      let s := r.1
      match r.2 with
      | .wait => .next s
      | .hold c a => .next ((s.setNode { n with hold := true }).holdWork 256 n.asid c a 2 n.id)
      | res =>
        let st := match res with | .err c _ => c | _ => 0
        let s := if st ≠ 0 then s.hwEvent n.asid 0x8002 st n.id else s
        let e : EvqEntry := { node := n.id, part := n.part, status := st, signal := n.pkt.signal, pennant := n.pkt.pennant % 2 ^ 48
                              notify := n.pkt.notify, ntype := n.pkt.ntype, asid := n.asid, payload := n.pkt.pennant }
        .next (({ s with sched := { s.sched with evq := s.sched.evq ++ [e] } } : State).setNode { n with posted := true })

/-- An entry of the event queue as a read returns it (R345). -/
def EvqEntry.bytes (e : EvqEntry) : List Byte :=
  toBytes 16 (e.node + e.part % 64 * 2 ^ 32 + e.status % 2 ^ 16 * 2 ^ 48 + e.signal % 2 ^ 16 * 2 ^ 64 + e.pennant % 2 ^ 48 * 2 ^ 80)
/-- A read of the event queue: its head entry, which a read by the control core of C0 pops (R345). -/
def State.evqRead (s : State) (pop : Bool) : State × List Byte :=
  match s.sched.evq with
  | e :: r => (if pop then { s with sched := { s.sched with evq := r } } else s, e.bytes)
  | [] => (s, List.replicate 16 0)
/-- A node whose end has been made known is done, and its place in the pool is free (R342). -/
def State.freeNode (s : State) (id : Nat) : State :=
  ({ s with sched := { s.sched with pool := s.sched.pool.filter fun m => m.id ≠ id } } : State).dischargeNode id true
/-- Step 4 of R344 for an entry of a node: EV_SET for SIGNAL, and the record that NOTIFY asks for. A node that its context's end
has discarded meanwhile has neither (R342). -/
def State.evqStep (s : State) (e : EvqEntry) : State :=
  match s.node? e.node with
  | none => s
  | some n =>
    if !n.posted then s
    else
      let s := s.setTag e.part e.signal
      let s := if e.notify then (s.post (s.vfFor e.asid) (eventRec e.ntype e.asid s.ctl.devTime e.payload 0)).1 else s
      s.freeNode e.node
/-- EVQ_READ: by the firmware on the control core of C0 (`ev.a` = 0), which pops the entry and does step 4 of R344, or through
BAR 2. The 16 bytes read are left in `ev.data`. -/
def execEvqRead (s : State) : Out :=
  let r := s.evqRead (s.ev.a = 0)
  let t := { r.1 with ev := { s.ev with data := r.2 } }
  .next (match s.sched.evq with | e :: _ => if s.ev.a = 0 then t.evqStep e else t | [] => t)
/-- A tag is cleared (R345). -/
def State.clearTag (s : State) (part tag : Nat) : State :=
  let e := s.part part
  s.setPart part { e with tags := e.tags.filter fun t => t ≠ tag }
/-- EV_SET_WRITE and EV_CLR_WRITE of `ev.v` (R345). -/
def execEvSetWrite (s : State) : Out := .next (s.setTag (bits s.ev.v.toNat 16 6) (bits s.ev.v.toNat 0 12))
def execEvClrWrite (s : State) : Out := .next (s.clearTag (bits s.ev.v.toNat 16 6) (bits s.ev.v.toNat 0 12))

end Sys2Proof.Machine
end

