-- ==== Sys2Proof/Machine/Launch.lean ====
section
/-! DEFINITION. Launch and placement instructions, and how blocks stop (spec/15_launch.md R353 to R362). -/
namespace Sys2Proof.Machine

/-! ### NLAUNCH, NWAIT, NQUERY (R357 to R359) -/

def execNlaunch (f : FmtL) (s : State) : Out :=
  .next (issueEach s rightsOwn f.guard fun p s t =>
    if s.sideless t.fg then .trap 0x4001 s.noAddr
    else .ok (s.pendL t { fmtLPend f p 1 with todo := .launch (regL s t f.a.toNat 2) }))

/-- NLAUNCH is performed: the packet is read and checked, the parent's lines of the child's read footprints are released
and discarded, and the node is accepted (R232, R357). It waits for the same instruction's lower lanes, while a limit of R340 is
reached, an earlier access is not complete, or a parity group keeps some of those lines back. -/
def State.doLaunch (s : State) (t : Thread) (p : Pending) (ea : Nat) : State :=
  let asid := s.asidOf t.fg
  if s.lowerFirst t p || !s.mayPerform t then s
  else
  match s.todoRead t p ea 256 [] with
  | (s, none) => s
  | (s, some pk) =>
    let keep (s : State) : State := s.modPend t.fg t.lane p.uid fun q => { q with got := some pk }
    match s.readPacket asid pk with
    | (s, .error none) => keep s
    | (s, .error (some st)) => s.endShared t p.uid [] fun q => { q with val := some [BitVec.ofNat 32 st] }
    | (s, .ok k) =>
      let part := ((s.ctx? asid).map (·.part)).getD 0
      if !s.poolRoom part || !s.releaseReady t p.uid 5 then keep s
      else
        match (s.blockOf t.fg).bind fun b => s.node? b.node with
        | none => s
        | some n =>
          let core := s.coreOf t.fg
          let mine (x : Line) : Bool := s.inFeet asid k readMode x
          let by_ (x : Line) : Nat := if mine x then 5 else 0
          let s := s.writeBack core asid by_
          if s.heldBack core asid by_ then keep s
          else
            let s := s.discardAll asid mine
            let r := s.acceptNode asid n.queue (n.id :: n.launchers) k
            r.1.endShared t p.uid [] fun q => { q with val := some [BitVec.ofNat 32 r.2] }

/-- A node of a context in the pool, by its identifier. -/
def State.nodeOf (s : State) (asid id : Nat) : Option Node := (s.node? id).bind fun n => if n.asid = asid then some n else none
/-- NWAIT (R358). -/
def execNwait (f : FmtA) (s : State) : Out :=
  .next (issueEach s rightsOwn f.guard fun _ s t =>
    let id := srcA s t f 6
    let n := Nat.min (srcB s t f 6) (2 ^ 24)
    if (s.nodeOf (s.asidOf t.fg) id).isNone then .ok (s.setThread (t.put f.d.toNat [0]))
    else .ok (s.setThread { t with after := .nwait id (if n = 0 then 0 else s.ctl.cycle + n) f.d.toNat }))
/-- NQUERY (R359): the operator may name any node, an owner its own. -/
def execNquery (f : FmtL) (s : State) : Out :=
  .next (issueEach s rightsAll f.guard fun p s t =>
    let asid := s.asidOf t.fg
    let id := regL s t f.a.toNat 1
    let v : List Nat := match s.node? id with
      | none => [0, 0, 0, 0]
      | some n =>
        if asid ≠ oprAsid && n.asid ≠ asid then [0, 0, 0, 0]
        else
          let age := match (s.part n.part).blocked with
            | some b => if b.1 = n.id then (s.ctl.devTime - b.2.1) / 1000 % 2 ^ 24 else 0
            | none => 0
          [n.state, n.next, n.ended, n.part % 64 + age * 256]
    .ok (s.pendL t { fmtLPend f p 4 with val := some (v.map (BitVec.ofNat 32)) }))

/-- A boundary event of R62 is due for a thread: an error completion, pre-emption, or the milestone trap of R102. -/
def State.eventDue (s : State) (t : Thread) : Bool :=
  !t.due.isEmpty || t.stopDue ||
    (!t.trap.inH && match s.blockOf t.fg with
      | some b => b.run = 0 && t.trap.mileSeen < s.map.version && ((s.ctx? b.asid).map (·.milePending)).getD false
      | none => false)
/-- NWAIT_WAKE of thread `ev.a`, `ev.b` (R358). -/
def execNwaitWake (s : State) : Out :=
  match s.thread? s.ev.a s.ev.b with
  | none => .next s
  | some t =>
    match t.status with
    | .nwait id wake dst =>
      if (s.nodeOf (s.asidOf t.fg) id).isNone then .next (s.setThread (t.wakeNwait dst 0 s.ticks))
      else if wake ≠ 0 && wake ≤ s.ctl.cycle then .next (s.setThread (t.wakeNwait dst 1 s.ticks))
      else if s.eventDue t then .next (s.setThread (t.wakeNwait dst 3 s.ticks))
      else .next s
    | _ => .next s

/-! ### PLACE (R360) -/

/-- Slots that a pair names. -/
def slotsIn (m : Nat) : List Nat := (List.range 64).filter fun k => bit m k
/-- An operator instruction whose result is committed at once. -/
def issueSys (s : State) (f : FmtL) (n : Nat) (go : State → Thread → State × List Nat) : State :=
  issueEach s rightsOpr f.guard fun p s t =>
    let r := go s t
    match r.1.thread? t.fg t.lane with
    | some u => .ok (r.1.pendL u { fmtLPend f p n with val := some (r.2.map (BitVec.ofNat 32)) })
    | none => .ok r.1
def execPlaceRsv (f : FmtL) (s : State) : Out :=
  .next (issueSys s f 1 fun s t =>
    let a := regL s t f.a.toNat 1
    let ks := slotsIn (regL s t f.b.toNat 2)
    match s.ctx? a with
    | none => (s, [0xB010])
    | some c =>
      if c.state = 0 || c.state = 5 || ks.any (fun k => let e := s.slotE k; !e.assigned || e.part ≠ c.part || e.rsv.any (· ≠ a)) then (s, [0xB010])
      else (ks.foldl (fun s k => s.setSlotE k { s.slotE k with rsv := some a }) s, [0]))
def execPlaceFree (f : FmtL) (s : State) : Out :=
  .next (issueSys s f 1 fun s t =>
    let a := regL s t f.a.toNat 1
    let free (e : SlotEntry) : SlotEntry := if e.rsv = some a then { e with rsv := none } else e
    if 1023 < a then (s, [0xB010]) else ({ s with sched := { s.sched with slots := s.sched.slots.map free } }, [0]))
/-- Sets or clears CLOSED. -/
def State.closeSlots (s : State) (ks : List Nat) (v : Bool) : State := ks.foldl (fun s k => s.setSlotE k { s.slotE k with closed := v }) s
def execPlaceClose (f : FmtL) (s : State) : Out :=
  .next (issueSys s f 1 fun s t => (s.closeSlots (slotsIn (regL s t f.b.toNat 2)) true, [0]))
def execPlaceOpen (f : FmtL) (s : State) : Out :=
  .next (issueSys s f 1 fun s t => (s.closeSlots (slotsIn (regL s t f.b.toNat 2)) false, [0]))

/-! ### Stopping blocks (R85, R235, R287, R308, R315, R353) -/

/-- The bytes that a stopped block's image takes (R353). -/
def State.imageSize (s : State) (b : Block) : Nat :=
  let n := ((s.fgs.filter fun g => g.blk = b.id).map fun g => groupNeed g.n g.nregs).sum + b.scratch.length
    + 16384 * (s.eng.slots.filter fun x => x.blk = b.id).length + 65536 * (s.eng.banks.filter fun x => x.blk = b.id).length + 8192
  4096 * ceilDiv (n + 80) 4096
/-- An image takes its place in the save pool, in the lowest free ranges, with bytes that nobody can read (R353; assumption log 6). -/
def State.saveImage (s : State) (b : Block) : Option State :=
  let n := s.imageSize b
  if s.poolFree < n then none
  else
    let at_ := takeRanges s.poolGaps n
    some (({ s with sched := { s.sched with images := s.sched.images ++ [(b.id, at_)] } } : State).sealTo at_)

/-- A path that stalls at issue is taken apart: its threads are saved at that instruction (R308). -/
def State.unstall (s : State) (p : Path) : State :=
  let s := { s with
    threads := s.threads.map fun (t : Thread) => if t.fg = p.fg && p.lanes.contains t.lane then
      { t with pc := p.pc, idx := p.idx, words := p.words, inst := p.inst, status := .pooled, stopDue := false } else t
    eng := { s.eng with
      claims := s.eng.claims.filter fun c => c.path ≠ p.id
      stalls := s.eng.stalls.filter fun c => c.path ≠ p.id } }
  s.dropPath p.id
/-- A thread that has nothing left to do before its block's state is saved: it has stopped, has exited, or is held by the
operator (R62, R85, R101). -/
def Thread.rests (t : Thread) : Bool := !t.stopDue || match t.status with | .exited | .oprHeld _ => true | _ => false
/-- Whether a path stalls at issue: at a claim, at a full window, at a latch or a full queue, or at a cross-lane
instruction for threads of its instance that rest (R146, R308). -/
def State.stalled (s : State) (p : Path) : Bool :=
  (s.eng.claims.any fun c => c.path = p.id) || (s.eng.stalls.any fun c => c.path = p.id) ||
    (p.waiting && match clauseInstr p.words p.idx with
      | some (.mma _, _) | some (.mmag _, _) | some (.mmas _, _) | some (.accz _, _) => true
      | some (i, _) =>
        (rdvMask i).isSome &&
          let here := (s.instPaths p).flatMap (·.lanes)
          (s.instOf p).lanes.all fun l => here.contains l || ((s.thread? p.fg l).map Thread.rests).getD true
      | none => false)
/-- A TAKE that waits at a closed network is withdrawn: it keeps its place and its window, and is made again after the restore
(R85). -/
def State.withdraw (s : State) (fgs : List Nat) : State :=
  let ws := s.sync.nets.flatMap fun n => n.waiters.filter fun k => fgs.contains k.fg
  let s := { s with sync := { s.sync with nets := s.sync.nets.map fun (n : Net) => { n with waiters := n.waiters.filter fun k => !fgs.contains k.fg } } }
  ws.foldl (fun s k => s.modPend k.fg k.lane k.uid fun p => { p with todo := .take k.ea k.ord k.sc }) s
/-- Whether what a thread has outstanding is drained: nothing but TAKEs at closed networks; what a trap saved, and what a thread
saved mid-clause has in windows, has arrived (R85). -/
def State.drained (s : State) (t : Thread) : Bool :=
  t.pend.all (fun p => s.takeAway t p || (t.idx ≠ 0 && p.arrived)) &&
    match t.trap.record with | some r => r.pend.all fun p => p.arrived || s.takeAway t p | none => true

/-- A stopping block stops once its threads stand at clause boundaries and are drained, no chunk or K-step of it is under way, and
nothing it has written is kept back from R235 (R235, R353). -/
def State.settleBlock (s : State) (id : Nat) : State :=
  match s.block? id with
  | none => s
  | some b =>
    if b.place ≠ .stopping then s
    else
      let gs := (s.fgs.filter fun g => g.blk = id).map (·.id)
      let s := (s.paths.filter fun p => gs.contains p.fg && s.stalled p).foldl State.unstall s
      let s := s.withdraw gs
      let ts := s.threads.filter fun t => gs.contains t.fg
      let running := (s.eng.jobs.any fun j => j.blk = id && j.performing) || s.eng.cmds.any fun c => c.blk = id && !(c.reads.isEmpty && c.inbox.isEmpty)
      let busy := (s.sync.reqs.any fun r => gs.contains r.fg) || (s.sync.arrivals.any fun a => a.blk = id && !a.from_.isEmpty)
        || s.links.cross.any fun e => gs.contains e.fg && !e.gone && !e.red && e.st = 2
      if s.paths.any (fun p => gs.contains p.fg) || !(ts.all fun t => t.rests && s.drained t) || running || busy then s
      else if b.run ≠ 0 && !s.map.coreLive b.core then
        -- a run of an unsettled cluster on a core that left the map is abandoned and placed again (R416)
        let s := (s.dropBlocks fun c => c.node = b.node && c.clu = b.clu && c.run = b.run).endRun b.node b.clu
        let out (l : List (Nat × Nat)) : List (Nat × Nat) := l.filter fun x => x.1 ≠ b.run
        let s := s.modCluster b.node b.clu fun _ c =>
          { c with placed := false, ended := 0, seq := s.sched.stopSeq, digest := c.digest.set b.run 0, cores := out c.cores, been := out c.been }
        { s with sched := { s.sched with stopSeq := s.sched.stopSeq + 1 } }
      else
        let rest (t : Thread) : Thread :=
          if !gs.contains t.fg then t
          else match t.status with
            | .sleeping _ => { t with status := .pooled }
            | .nwait _ _ d => t.wakeNwait d 3 s.ticks
            | _ => t
        let s := s.writeBack b.core b.asid fun _ => 5
        if s.heldBack b.core b.asid (fun _ => 5) then s
        else
        -- a pre-emption is counted, and is an operator trap with a record of its own (R95, R100, R116; assumption log 121)
        let s := if b.run = 0 && b.asid < 1024 then
            (s.countEv b.asid 8 1).record { die := dieOfCore b.core, code := 0xB002, asid := b.asid, core := recCore b.core }
          else s
        let s := s.flushCtx b.core b.asid
        -- a TAKE that is left behind is made anew; what has gone out for it is no longer the block's (R85)
        let s := s.setCross (s.links.cross.map fun e => if gs.contains e.fg && !e.red then { e with gone := true } else e)
        let b := { b.drainBanks with place := .stopped, stopSeq := s.sched.stopSeq, ranNs := b.ranNs + (s.ctl.devTime - b.startNs) }
        let s := s.setBlock b
        let cmd (c : Cmd) : Cmd := if c.blk = id && c.state = .running then { c with state := .ready } else c
        let stop (x : StopCmd) : StopCmd := if x.blks.contains id then { x with blks := x.blks.filter (· ≠ id), done := x.done ++ [id] } else x
        { s with
          threads := s.threads.map rest
          eng := { s.eng with cmds := s.eng.cmds.map cmd }
          sched := { s.sched with stopSeq := s.sched.stopSeq + 1, stops := s.sched.stops.map stop } }.touch

/-- The blocks that SLICESET.move stopped stand on the destination, and the tables change (R354). -/
def State.finishMove (s : State) (done : List Nat) (a b : Nat) : State :=
  let s := done.foldl (fun (s : State) id =>
    match s.block? id with
    | none => s
    | some x =>
      match s.node? x.node with
      | none => s
      | some n =>
        let core := 4 * b + x.core % 4
        -- a core on which another run of its cluster has been does not take it: it stays stopped
        match if (n.barredCores x.clu x.run).contains core then none else assignUnits n.pkt.fgs (groupNeed n.pkt.threads n.pkt.regs) (s.unitLoad core) with
        | some us => s.resumeBlock x core us
        | none => s) s
  let e := s.slotE a
  (s.setSlotE b { s.slotE b with assigned := true, part := e.part, lslice := e.lslice }).setSlotE a { e with assigned := false, part := 0, lslice := 0, moving := none }
/-- Stop commands whose blocks have all stopped complete (R354, R361). -/
def State.settleStops (s : State) : State :=
  let due := s.sched.stops.filter fun x => x.blks.isEmpty
  let s := { s with sched := { s.sched with stops := s.sched.stops.filter fun x => !x.blks.isEmpty } }
  due.foldl (fun (s : State) x =>
    let commit (s : State) (v : Nat) : State :=
      s.modPend x.fg x.lane x.uid fun p => { p with val := some [BitVec.ofNat 32 v], todo := .none }
    match x.move with
    | none => commit s x.done.length
    | some (a, b) => commit (s.finishMove x.done a b) 0) s
/-- Everything that is stopping is looked at. -/
def State.settle (s : State) : State :=
  ((s.blocks.filter fun b => b.place = .stopping).foldl (fun s b => s.settleBlock b.id) s).settleStops.moveSlots

/-- Blocks begin to stop and take their images' places, as long as the pool has room for each: those that did (R361). -/
def State.stopSaved (s : State) (bs : List Block) : State × List Nat :=
  let r := bs.foldl (fun (acc : State × List Nat × Bool) b =>
    if acc.2.2 then acc
    else match acc.1.saveImage b with
      | some s => (s, acc.2.1 ++ [b.id], false)
      | none => (acc.1, acc.2.1, true)) (s, [], false)
  (r.1.stopBlocks fun b => r.2.1.contains b.id, r.2.1)

/-- PREEMPT (R361). -/
def execPreempt (f : FmtL) (s : State) : Out :=
  .next (issueEach s rightsOpr f.guard fun p s t =>
    let ks := slotsIn (regL s t f.b.toNat 2)
    let r := s.stopSaved (s.blocks.filter fun b => b.place = .resident && b.core < 256 && ks.contains (b.core / 4))
    let q := r.1.pendU t { fmtLPend f p 1 with todo := .wait }
    let x : StopCmd := { fg := t.fg, lane := t.lane, uid := q.1, blks := r.2 }
    .ok { q.2 with sched := { q.2.sched with stops := q.2.sched.stops ++ [x] } }.settle)

/-! ### SLICESET (R354, R362) -/

/-- Whether a slot has a resident or saved block. -/
def State.slotUsed (s : State) (k : Nat) : Bool := s.blocks.any fun b => b.core < 256 && b.core / 4 = k && b.place ≠ .ended && b.place ≠ .sealed
def execSlicesetAssign (f : FmtL) (s : State) : Out :=
  .next (issueSys s f 1 fun s t =>
    let k := regL s t f.a.toNat 1
    let v := regL s t f.b.toNat 1
    let part := bits v 0 6
    if 63 < k || s.slotUsed k || (s.slotE k).rsv.isSome then (s, [0xB010])
    else if bit v 6 then
      let s := s.setSlotE k { s.slotE k with assigned := false }
      (s.setSlotE k { s.slotE k with assigned := true, part := part, lslice := s.freeLslice part, moving := none }, [0])
    else (s.setSlotE k { s.slotE k with assigned := false, moving := none }, [0]))
def execSlicesetTarget (f : FmtL) (s : State) : Out :=
  .next (issueSys s f 1 fun s t =>
    let k := regL s t f.a.toNat 1
    let v := regL s t f.b.toNat 1
    if 63 < k then (s, [0xB010])
    else (s.setPart k { s.part k with target := Nat.min 64 (bits v 0 7), auto := bit v 8 }, [0]))
def execSlicesetMove (f : FmtL) (s : State) : Out :=
  .next (issueEach s rightsOpr f.guard fun p s t =>
    let a := regL s t f.a.toNat 1
    let b := regL s t f.b.toNat 1
    let bs := s.blocks.filter fun x => x.place = .resident && x.core < 256 && x.core / 4 = a
    let live := (List.range 4).all fun i => s.map.coreLive (4 * b + i)
    let fits := (bs.foldl (fun (acc : Option State) x => acc.bind fun s => s.saveImage x) (some s)).isSome
    if 63 < a || 63 < b || !(s.slotE a).assigned || (s.slotE b).assigned || s.slotUsed b || !live || !fits then
      .ok (s.pendL t { fmtLPend f p 1 with val := some [0xB010] })
    else
      let s := s.setSlotE a { s.slotE a with closed := true }
      let r := s.stopSaved bs
      let q := r.1.pendU t { fmtLPend f p 1 with todo := .wait }
      let x : StopCmd := { fg := t.fg, lane := t.lane, uid := q.1, blks := r.2, move := some (a, b) }
      .ok { q.2 with sched := { q.2.sched with stops := q.2.sched.stops ++ [x] } }.settle)
def execSlicesetPool (f : FmtL) (s : State) : Out :=
  .next (issueSys s f 1 fun s t =>
    let base := regL s t f.b.toNat 2
    let len := regL s t f.c.toNat 2
    if base % 65536 ≠ 0 || len % 65536 ≠ 0 || len = 0 || base < 2 ^ 26 then (s, [0xB010])
    else ({ s with sched := { s.sched with poolBase := base, poolLen := len } }, [0]))

end Sys2Proof.Machine
end

