-- ==== Sys2Proof/Machine/Health.lean ====
section
/-! DEFINITION. Reset, self-test, firmware and recovery, failures of units, suspicion, and the end of re-runs
(spec/01_machine.md R17, R22 to R26; spec/08_memory.md R206; spec/20_health.md R409 to R427). -/
namespace Sys2Proof.Machine

/-! ### The health register (R418, R419) -/

/-- SIMD units whose spare lane is in use. -/
def sparesUsed (us : List (Nat × Nat)) : Nat :=
  ((us.take 256).map fun u => ((List.range 4).filter fun k => bits u.2 (6 * k) 6 ≠ 63).length).sum
/-- WHY, bits 1 to 7 of the health register. -/
def State.why (s : State) : Nat :=
  let us := s.map.units
  let some3 (lo n : Nat) : Bool := ((us.drop lo).take n).any fun u => u.1 = 3
  b2n (s.map.liveCores < 248) * 2 + b2n (32 ≤ sparesUsed us) * 4 + b2n (some3 256 72) * 8 + b2n (some3 328 32) * 16
    + b2n (((us.drop 362).take 16).any fun u => u.1 = 3 || u.1 = 4) * 32 + b2n (90 ≤ s.health.wear) * 64
    + b2n (4 ≤ s.health.restarts) * 128
/-- The health register (R418). -/
def State.healthReg (s : State) : Nat :=
  let degraded := (s.map.units.filter fun u => 1 ≤ u.1 && u.1 ≤ 4).length
  s.health.wear % 256 * 2 ^ 32 + Nat.min 255 s.health.restarts * 2 ^ 24 + Nat.min 255 degraded * 2 ^ 16 + s.why
    + b2n (s.why ≠ 0)

/-! ### Reset (R25, R416, R422 to R424, R426) -/

/-- One self-test record applied to the unit entries (R422, R423). RESULT 1 gives state 1 to a core or a UCIe module only: no
other kind uses that state (spec/01_machine.md R23). A core's record that names no lane gives state 1 with no lane in DETAIL
(assumption log 105). -/
def applyTest (us : List (Nat × Nat)) (r : List Byte) : List (Nat × Nat) :=
  let kind := field r 0 1
  let unit := field r 2 2
  let sub := field r 4 1
  let lane := field r 5 1
  let failed := field r 8 4 = 2
  let base := match kind with | 1 => 0 | 2 => 256 | 3 => 320 | 4 => 328 | 5 => 360 | 6 => 362 | _ => 400
  let n := base + unit
  if 400 ≤ n then us
  else if failed then us.modify n fun u => (3, u.2)
  else if kind = 1 && sub < 4 && lane < 33 then failLane us unit sub lane
  else if kind = 1 || kind = 4 then
    us.modify n fun u => (if u.1 = 0 then 1 else u.1, if kind = 4 then Nat.min 8 (u.2 % 16 + 1) else u.2)
  else us
/-- A module reset with the self-test's records, and whether NOVIG_SEL is asserted (R25, R422 to R426). What flash,
fuses and the host keep stays; so do the bytes of device memory, whose keys are gone (assumption log 46), but for the
operator's root entry, which has V = 0 (spec/08_memory.md R428), and the dirty bitmaps. A quarantined core is in state 2 though
its slice fails self-test: R416 says "whatever self-test finds" and R24 has its slot's cores take state 3 (assumption log 105). -/
def State.moduleReset (s : State) (tests : List (List Byte)) (strap : Bool) : State :=
  let us := closeUnits goodUnits (tests.foldl applyTest goodUnits)
  let us := s.health.quarantine.foldl (fun us c => us.modify c fun u => (2, u.2)) us
  let r := State.reset
  let v := s.health.storedVersion + 1
  let t := { r with
    map := { r.map with units := us, version := v }
    mem := { r.mem with
      phys := s.mem.phys.filter fun c => !((0x4000 ≤ c.1 && c.1 < 0x4010) || (0x400000 ≤ c.1 && c.1 < 0x600000))
      host := s.mem.host, hostBad := s.mem.hostBad, poison := s.mem.poison, scrub := s.mem.scrub }
    health := { s.health with
      shadowLog := [], selfTest := tests.take 256, restarts := 0, decodeEn := true, halfDue := [], sliceErrs := [], storedVersion := v
      strap := strap, novig := strap, secretNo := s.fresh }
    ticks := s.ticks, fresh := s.fresh + 1, uid := s.uid, ev := s.ev, agenda := s.agenda }
  if strap then t else t.loadBank
/-- 16-byte records of a byte list. -/
def recs16 : (fuel : Nat) → List Byte → List (List Byte)
  | 0, _ => []
  | n + 1, l => if l.isEmpty then [] else padTo 16 (l.take 16) :: recs16 n (l.drop 16)
/-- MODULE_RESET: `ev.data` holds the self-test's records, `ev.a` is 1 when NOVIG_SEL is asserted. -/
def execModuleReset (s : State) : Out := .next (s.moduleReset (recs16 s.ev.data.length s.ev.data) (s.ev.a = 1))

/-- Flash bank A is erased and written: WEAR rises by an amount that is free, up to 100 (R418; assumption log 45). -/
def State.writeBank (s : State) (img : List Byte) : State :=
  { s with
    health := { s.health with bankA := img, wear := Nat.max s.health.wear (Config.freeValue s.fresh % 101) }
    fresh := s.fresh + 1 }
/-- NOVIG_IMAGE_UPDATE: image `ev.data`, sent to the recovery image, is checked, written to bank A, and the module reset, with a
self-test of its own and the strap as it stands (R424, R426). -/
def execNovigImageUpdate (s : State) : Out :=
  if s.health.novig && s.accepts s.ev.data then
    let test := Config.selfTest s.fresh
    .next ((s.writeBank s.ev.data).moduleReset (recs16 test.length test) s.health.strap)
  else .next s
/-- Every act of service mode advances the security counter (R426). -/
def State.service (s : State) (h : Health → Health) : State :=
  if s.health.novig then { s with health := { h s.health with secCounter := s.health.secCounter + 1 } } else s
def execNovigQuarantineClear (s : State) : Out := .next (s.service fun h => { h with quarantine := [] })
/-- BUYER_KEY_ADD: `ev.data` is the key with the signature over it (R425). -/
def execBuyerKeyAdd (s : State) : Out :=
  let ok := Config.verifies Config.jexxiaKey s.ev.data || Config.verifies Config.firmwareKey s.ev.data
  .next (if s.health.buyerKey.isNone && ok then s.service fun h => { h with buyerKey := some (s.ev.data.take 1952) } else s)

/-! ### Units that fail (R206, R415 to R417, R420, R421) -/

def execLaneFailure (s : State) : Out :=
  .next (if s.ev.a < 256 && s.ev.b < 4 && s.ev.c < 33 then s.publish (failLane s.map.units s.ev.a s.ev.b s.ev.c) else s)
/-- Unit entry `n` (1 to 379) takes state 3. -/
def State.failUnit (s : State) (n : Nat) : State := s.publish (s.map.units.modify (n - 1) fun u => (3, u.2))
/-- Uncorrectable errors of slice `k` in the last hour (R417). -/
def State.sliceErrors (s : State) (k : Nat) : Nat :=
  (s.health.sliceErrs.filter fun e => e.1 = k && s.ctl.devTime < e.2 + 3600000000000).length
/-- SLICE_ERROR_RATE_FAIL of slice `ev.a`: its rate of uncorrectable errors is above 16 in an hour (R417). -/
def execSliceErrorRateFail (s : State) : Out :=
  .next (if s.ev.a < 64 && 16 < s.sliceErrors s.ev.a then s.failUnit (257 + s.ev.a) else s)
def execStackLost (s : State) : Out := .next (if s.ev.a < 8 then s.failUnit (321 + s.ev.a) else s)
def execCoreSelftestFail (s : State) : Out := .next (if s.ev.a < 256 then s.failUnit (1 + s.ev.a) else s)
/-- PCIE_LINK_CHANGE of the port of L`ev.a`: it now has `ev.b` lanes, and with none it is lost; its rate has changed when `ev.c` = 1,
which is a change of the map though no entry shows it (R417). Of a port in state 3 the rule states no width: DETAIL is then 0 here, and
what it was after a self-test (DESIGN CHOICE, assumption log 130). -/
def execPcieLinkChange (s : State) : Out :=
  let us := s.map.units.set (360 + s.ev.a) (if s.ev.b = 0 then (3, 0) else (0, s.ev.b % 32))
  .next (if s.ev.a < 2 then (if s.ev.c = 1 then s.newMap us else s.publish us) else s)

/-- Poison on a 16-byte block, with the operator's 0xA004 (R206). -/
def State.poisonBlock (s : State) (pa : Nat) : State :=
  let b := pa % 2 ^ 39 / 16
  let s := { s with mem := { s.mem with poison := if s.mem.poison.contains b then s.mem.poison else s.mem.poison ++ [b] } }
  s.record { die := 0, code := 0xA004 }
def execStackUncorrectable (s : State) : Out := .next (s.poisonBlock s.ev.a)
/-- PATROL_SCRUB of the line at `ev.a`: bit k of `ev.b` says its block k cannot be corrected (R420). -/
def execPatrolScrub (s : State) : Out :=
  .next ((List.range 8).foldl (fun s k => if bit s.ev.b k then s.poisonBlock (s.ev.a / 128 * 128 + 16 * k) else s) s)

/-- SRAM_UNCORRECTABLE: `ev.a` = 0 a store of core `ev.b`; 1 a slice or engine store of die `ev.b`, of slice `ev.c` - 1 when `ev.c` is
not 0, which counts it (R417); 2 the state of the
`ev.c`-th ticket network of die `ev.b`; 3 the control core of die `ev.b` (R261, R415, R421). -/
def execSramUncorrectable (s : State) : Out :=
  let rec_ (s : State) (core : Nat) : State :=
    s.record { die := dieOfCore core, code := 0xA003, core := if core < 256 then core else 0xFFFF }
  match s.ev.a with
  | 0 =>
    if s.ev.b < 256 then
      let r := (rec_ s s.ev.b).suspect [(s.ev.b, 2048)]
      .next (r.1.publish r.2)
    else .next s
  | 1 =>
    let now := s.ctl.devTime
    let old := s.health.sliceErrs.filter fun e => now < e.2 + 3600000000000
    let k := s.ev.c
    let s := if 1 ≤ k && k ≤ 64 then { s with health := { s.health with sliceErrs := old ++ [(k - 1, now)] } } else s
    .next (rec_ s 256)
  | 2 =>
    match (s.sync.nets.filter fun n => !n.dom && n.home = s.ev.b)[s.ev.c]? with
    | some n => .next ((rec_ s 256).loseNet n 0x5002)
    | none => .next s
  | _ => .next ((rec_ s 256).restartCore (s.ev.b % 4))
def execControlCoreRestart (s : State) : Out := .next (s.restartCore (s.ev.a % 4))
/-- SUSPICION_HALVING: one for each 2^32 cycles that have passed, when the tick of the device clock in which it fell is over (R415,
R416). -/
def execSuspicionHalving (s : State) : Out := .next s.halve

/-! ### The end of a re-run (R411 to R416) -/

/-- Two runs agree. -/
def agree (a b : Option (BitVec 128)) : Bool := a.isSome && a = b
/-- The digest of a run; of one that a trap has ended none, which matches no other (R412, R413). -/
def Cluster.digestOf (c : Cluster) (k : Nat) : Option (BitVec 128) := if c.bad.contains k then none else c.digest[k]?
/-- RERUN_END of cluster `ev.b` of node `ev.a`: the run's threads have all exited and its engine work has ended (R414). What the run
had for itself is freed (R412). -/
def execRerunEnd (s : State) : Out :=
  let s := s.sweepEnded
  match s.node? s.ev.a with
  | none => .next s
  | some n =>
    match n.clusters.find? fun c => c.num = s.ev.b with
    | none => .next s
    | some c =>
      if !((c.stage = 1 || c.stage = 2) && c.placed && c.ended = n.pkt.cshape)
          || s.blocks.any (fun b => b.node = n.id && b.clu = c.num) then .next s
      else
        let d (k : Nat) : Option (BitVec 128) := c.digestOf k
        let coresOf (k : Nat) : List Nat := (c.been.filter fun x => x.1 = k).map (·.2)
        let s := (if n.asid < 1024 then s.countEv n.asid 9 1 else s).endRun n.id c.num
        let set (s : State) (c : Cluster) (v : Nat) : State :=
          s.setNode { n with verdict := Nat.max n.verdict v, clusters := n.clusters.map fun x => if x.num = c.num then c else x }
        let again := { c with stage := 2, placed := false, ended := 0, divert := [], buf := [], seq := s.sched.stopSeq }
        let done := { c with stage := 3, divert := [], buf := [] }
        -- the verdict, or none when the arbiter has still to run; the scores raised
        let out : Option (Nat × List (Nat × Nat)) :=
          if c.stage = 1 then (if agree (d 0) (d 1) then some (2, []) else none)
          else if agree (d 0) (d 2) then some (3, (coresOf 1).map fun k => (k, 1024))
          else if agree (d 1) (d 2) then some (4, (coresOf 0).map fun k => (k, 1024))
          else some (4, ((coresOf 0 ++ coresOf 1 ++ coresOf 2).eraseDups).map fun k => (k, 512))
        match out with
        | none => .next { set s again 0 with sched := { (set s again 0).sched with stopSeq := s.sched.stopSeq + 1 } }
        | some (v, incs) =>
          let s := set s done v
          let s := if v = 4 then
              let low := ((incs.map (·.1)).min?).getD 0xFFFF
              s.record { die := dieOfCore low, code := 0xA005, asid := n.asid, core := low }
            else s
          let r := s.suspect incs
          let s := r.1.publish r.2
          -- write-after-read edges wait no longer once every cluster is settled
          match s.node? n.id with
          | some m => .next (if m.flushed && !m.unsettled then s.dischargeNode m.id true else s)
          | none => .next s

end Sys2Proof.Machine
end

