-- ==== Sys2Proof/Machine/Links.lean ====
section
/-! DEFINITION. Links between dies and the fabric as the receiver sees them: answers, flits, transactions, windows and
their verification, failures, parity, remote arrivals, and the fabric management instructions (spec/17_links.md R371 to
R385, R395 to R399; spec/18_program_tickets.md R400; spec/10_sync.md R270, R272). -/
namespace Sys2Proof.Machine

/-! ### What a request's answer does at its requester (R213, R226, R250, R251, R284, R380) -/

/-- A request that a job or command of the engines made. -/
def State.ofEngine (s : State) (id : Nat) : Bool := (s.eng.jobs.any fun j => j.id = id) || s.eng.cmds.any fun c => c.id = id
/-- A window whose data a job or command depends on. -/
def State.setProv (s : State) (id win : Nat) : State :=
  { s with eng := { s.eng with
    jobs := s.eng.jobs.map fun (j : Job) => if j.id = id then { j with prov := (j.prov ++ [win]).eraseDups } else j
    cmds := s.eng.cmds.map fun (c : Cmd) => if c.id = id then { c with prov := (c.prov ++ [win]).eraseDups } else c } }
/-- Bytes that a job or command has asked of a peer arrive (R380). -/
def State.engData (s : State) (q : OutReq) (id : Nat) (bs : List Byte) : State :=
  { s with eng := { s.eng with
    jobs := s.eng.jobs.map fun (j : Job) =>
      if j.id = id then { j with inbox := j.inbox ++ [(q.peer, bs)], reads := j.reads.filter (· ≠ q.id) } else j
    cmds := s.eng.cmds.map fun (c : Cmd) =>
      if c.id = id then { c with inbox := c.inbox ++ [(q.peer, bs)], reads := c.reads.filter (· ≠ q.id) } else c } }
/-- They do not: a lane copy of a CPL fails alone (R292), any other job and a command end (R285, R313). -/
def State.engLost (s : State) (q : OutReq) (id code : Nat) : State :=
  let c := engFail code
  match s.eng.jobs.find? fun j => j.id = id, s.eng.cmds.find? fun c => c.id = id with
  | some j, _ =>
    match j.kind with
    | .cpl _ _ => s.setJob { j with failed := j.failed ++ [(q.peer, c)], reads := j.reads.filter (· ≠ q.id) }
    | _ => s.endJob j c
  | none, some k => s.endCmd k c
  | none, none => s
/-- A write of a job is answered with an error: the code goes into ERROR, and a job that is still unended ends, unless it makes lane
copies, of which the others go on (R285, R292). -/
def State.lostWrite (s : State) (id blk bar code : Nat) : State :=
  match s.eng.jobs.find? fun j => j.id = id with
  | some j =>
    match j.kind with
    | .cpl _ _ => s.countOn blk bar 0 code false
    | _ => if j.state = .counted then s.countOn blk bar 0 code false else s.endJob j code
  | none => s.countOn blk bar 0 code false
/-- The scheduler's own access at a peer is answered. -/
def State.schedGot (s : State) (id : Nat) (res : Except Nat (List Byte)) : State :=
  let f (r : PeerRead) : PeerRead := if r.id = id then (match res with | .ok b => { r with data := some b } | .error c => { r with err := c }) else r
  { s with sched := { s.sched with reads := s.sched.reads.map f } }
def State.dropOut (s : State) (q : OutReq) : State := { s with links := { s.links with out := s.links.out.filter fun r => r.id ≠ q.id } }
/-- A thread's store, or a job's write that counts as its own, was lost (spec/09_ordering.md R234). -/
def State.lostStore (s : State) (q : OutReq) : State :=
  { s with threads := s.threads.map fun (t : Thread) =>
    if (q.job.isNone && t.fg = q.fg && t.lane = q.lane) || t.jobOut.contains q.id then { t with lost := true } else t }
/-- The delta of a write was lost: that write is not performed for any release, so every thread of its context has lost a store
(R234, R385; assumption log 111). -/
def State.lostDelta (s : State) (asid : Nat) : State :=
  { s with threads := s.threads.map fun (t : Thread) => if s.asidOf t.fg = asid then { t with lost := true } else t }

/-- A request of a thread is answered with an error, at the byte `off` of it: its operation ends, for the threads it is shared with
too (R81, R210). -/
def State.failReq (s : State) (q : OutReq) (code off : Nat) : State :=
  let bad (p : Pending) : Pending := { p with err := some (code, BitVec.ofNat 64 (q.peer + off)), held := false, todo := .none }
  match s.thread? q.fg q.lane with
  | none => s
  | some t =>
    let todo : Option Todo := (t.allPend.find? fun p => p.uid = q.uid).map fun p => p.todo
    match todo with
    | some (.tdef _ others) | some (.tseal others) => s.endShared t q.uid others bad
    | _ => s.modPend q.fg q.lane q.uid bad
/-- The first part of a store over two windows has been made: the other follows (spec/08_memory.md R194, R210). -/
def State.restStore (s : State) (q : OutReq) : State :=
  match if q.rest = 0 then none else s.thread? q.fg q.lane with
  | some t => s.access t { fg := q.fg, lane := q.lane, uid := q.uid, write := true, size := q.rest, data := q.pre
                           ea := if q.addr = 0 then q.peer - q.rest else (q.peer + q.size) % 2 ^ 64 }
  | none => s
/-- A read of a thread is answered: a load takes its value, or goes on in the next window; another operation keeps the bytes. -/
def State.gotRead (s : State) (q : OutReq) (b : List Byte) : State :=
  let keep (s : State) : State := s.modPend q.fg q.lane q.uid fun p =>
    match p.todo with
    | .none => { p with val := some (loadWords q.at_ q.op (q.pre ++ b)) }
    | _ => if q.rest = 0 then { p with got := some (q.pre ++ b), held := false } else { p with lo := q.pre ++ b, held := false }
  match if q.rest = 0 then none else s.thread? q.fg q.lane with
  | some t =>
    if t.allPend.any fun p => p.uid = q.uid && p.todo ≠ .none then keep s
    else s.access t { fg := q.fg, lane := q.lane, uid := q.uid, write := false, ea := (q.peer + q.size) % 2 ^ 64, size := q.rest
                      ty := q.at_, vn := q.op, pre := q.pre ++ b }
  | none => keep s
/-- A request is answered: bytes, or a code and the byte of it that failed. -/
def State.complete (s : State) (q : OutReq) (res : Except (Nat × Nat) (List Byte)) : State :=
  let s := s.dropOut q
  match q.kind, res with
  | 0, .ok b =>
    let b := b.take q.size
    match q.job with
    | some j => if s.ofEngine j then s.engData q j b else s.schedGot j (.ok b)
    | none => if s.isAsked q.id then s.gotAsked q.id (.ok b) else s.gotRead q b
  | 0, .error e =>
    match q.job with
    | some j => if s.ofEngine j then s.engLost q j e.1 else s.schedGot j (.error e.1)
    | none => if s.isAsked q.id then s.gotAsked q.id (.error (e.1, q.peer + e.2)) else s.failReq q e.1 e.2
  | 1, .ok _ =>
    let s := { s with threads := s.threads.map fun (t : Thread) => { t with jobOut := t.jobOut.filter (· ≠ q.id) } }
    match q.job with | some j => s.schedGot j (.ok []) | none => s.restStore q
  | 1, .error e =>
    if q.rest ≠ 0 then s.failReq q e.1 e.2
    else
    let s := s.lostStore q
    match q.job, q.bar with
    | some j, some b => s.lostWrite j b.1 b.2 (engFail e.1)
    | some j, none => s.schedGot j (.error e.1)
    | _, _ => s
  | 2, r | 3, r =>
    let a : AtomReq := { id := q.id, fg := q.fg, op := q.op, at_ := q.at_, sp := false, red := q.kind = 3
                         ord := q.ord, sc := q.sc, sent := true }
    let l : AtomLane := { lane := q.lane, uid := q.uid, ea := q.peer, x := 0, y := 0 }
    s.atomDone a l (match r with | .ok b => .ok (field b 0 (atBytes q.at_)) | .error e => .error e.1)
  | 5, .ok b =>
    let s := s.acqAfter q.fg q.lane q.uid q.sc
    s.modPend q.fg q.lane q.uid fun p => { p with val := some (bytesWords (padTo 8 b)) }
  | 6, .ok b => s.modPend q.fg q.lane q.uid fun p => { p with val := some (bytesWords (padTo 8 b)) }
  | 5, .error e | 6, .error e => s.failReq q e.1 0
  | 8, .error _ => s.lostDelta q.asid
  | _, _ => s

/-- A response is taken: read data of more than one transaction is gathered first. An error's code stands in data bits [15:0], the
byte that failed in [31:16] (assumption log 32). -/
def State.respond (s : State) (plane : Nat) (h : TxHdr) (data : List Byte) : State :=
  match s.outOf plane h with
  | none => s
  | some q =>
    if h.kind = 0x13 then s.complete q (.error (field data 0 2, field data 2 2))
    else if h.kind = 0x10 && q.kind = 0 && q.data.length + data.length < q.size then
      { s with links := { s.links with out := s.links.out.map fun (r : OutReq) => if r.id = q.id then { r with data := r.data ++ data } else r } }
    else s.complete q (.ok ((if q.kind = 0 then q.data else []) ++ data))

/-! ### Transactions performed at this module (R371; spec/08_memory.md R194; spec/09_ordering.md R234) -/

/-- The portions that a transaction is about. From the fabric its address is translated by the context's tables and
checked (R194); between dies it is physical, with bit 56 set for die and offset of sync space, or KIND 5. -/
def State.txPieces (s : State) (via : Via) (h : TxHdr) (w : Want) (n : Nat) : State × Except (Nat × Nat) (List Piece) :=
  match via with
  | .fabric _ =>
    match s.check 256 h.asid w (h.addr % 2 ^ 48) n with
    | (s, .error e) => (s, .error e)
    | (s, .ok ps) => if ps.any fun p => p.leaf.kind = 1 then (s, .error (0x3003, h.addr)) else (s, .ok ps)
  | .die _ =>
    let sync := h.kind = 5 || bit h.addr 56
    let a := h.addr % 2 ^ 56
    let lf := if sync then { rawLeaf with kind := 2 } else rawLeaf
    (s, if !sync && 2 ^ 39 < a + n then .error (0x8004, a)
      else .ok ((parts (n / 16 + 2) a n).map fun p => { ea := p.1, va := p.1, n := p.2, leaf := lf, pa := p.1 }))
/-- A portion of a PARITY buffer of this module while it is the rank that is rebuilt: accesses of other modules wait (R384). -/
def State.rebuilding (s : State) (p : Piece) : Bool := p.leaf.kind = 0 && p.leaf.parity && s.rankState s.rank = 2
/-- A request does its work on its portions; or it is answered with its error, held here for a page (spec/08_memory.md
R211), or waits for its parity group. -/
def State.onPieces (s : State) (via : Via) (tx : List Byte) (w : Want) (n : Nat) (k : State → List Piece → State) : State :=
  let h := TxHdr.of tx
  let plane := via.num
  match s.txPieces via h w n with
  | (s, .error (c, a)) =>
    if c = 0x3010 || c = 0x3011 then
      let (id, s) := s.newUid
      { s with links := { s.links with txHeld := s.links.txHeld ++ [(id, plane, tx)] } }.holdWork 256 h.asid c a 3 id
    else s.replyErr via h (c + (a - h.addr % 2 ^ 48) % 2 ^ 16 * 2 ^ 16)
  | (s, .ok ps) =>
    if (w ≠ .rd && h.kind ≠ 5 && ps.any s.pieceHeld) || ps.any s.rebuilding then { s with links := { s.links with txWait := s.links.txWait ++ [(plane, tx)] } }
    else k s ps

/-- A block of a parity member takes a delta (R385). -/
def State.parityApply (s : State) (h : TxHdr) (data : List Byte) : State × Bool :=
  let buf := field data 0 8 % 65536
  let br := s.bufRec buf
  match s.check 256 h.asid .wr (br.base + field data 8 8 / 16 * 16) 16 with
  | (s, .ok [p]) =>
    match s.ctlRead h.asid p.leaf p.va p.pa with
    | some old => (s.ctlWrite h.asid p.leaf p.va p.pa ((List.zipWith (· ^^^ ·) old (slice data 16 16)).map some))
    | none => (s, false)
  | (s, _) => (s, false)

/-- An arrival at a block of this module: of the earliest accepted node of the context that carries INSTANCE, the block
of that number (R270, R272; spec/15_launch.md R335). -/
def State.arriveAt (s : State) (asid tag num bar sc : Nat) : State :=
  let ns := s.sched.pool.filter fun n => n.asid = asid && n.pkt.tag = tag
  match ((ns.map (·.seq)).min?).bind fun k => ns.find? fun n => n.seq = k with
  | none => s
  | some n =>
    match s.blocks.find? fun b => b.node = n.id && b.num = num && b.run = 0 && b.place ≠ .ended with
    | some b => s.remoteAt b bar sc
    | none => s

/-- KIND codes (R371). -/
def kindKnown (k : Nat) : Bool := (1 ≤ k && k ≤ 0x0B) || (0x10 ≤ k && k ≤ 0x13)
/-- A header that is not performed: a reserved KIND, a LEN above 8, or a non-zero reserved field (R371). -/
def txBad (tx : List Byte) : Bool :=
  let h := TxHdr.of tx
  !kindKnown h.kind || 8 < h.len || bits (field tx 0 16) 65 6 ≠ 0

/-- The engine of the network stores or reads an image of 128 bytes for a command of another die, at its context's address (R258,
R260, R400). -/
def State.dieImage (s : State) (asid ea : Nat) (put : Option (List Byte)) : State × Except Nat (List Byte) :=
  match s.check 256 asid (if put.isSome then .wr else .rd) ea 128 with
  | (s, .error e) => (s, .error e.1)
  | (s, .ok ps) =>
    match (match put with | some b => s.writePieces false 256 asid ps b | none => s.readPieces false 256 asid ps) with
    | (s, .done b) => (s, .ok b)
    | (s, .err c _) => (s, .error c)
    | (s, _) => (s, .error 0x8004)
/-- A ticket command of another die (R258 to R261): AOP 2 TAKE, a header alone, whose TAG holds its lane in bits [6:0] and its core in
[14:7]; 3 TKNEW.dev with its base, 4 TKDRAIN.close, 5 .open, 6 .free; 7 TKSAVE and 8 TKLOAD with the address of the image (R400;
assumption log 32). -/
def State.dieTicket (s : State) (dir : Nat) (tx : List Byte) : State :=
  let h := TxHdr.of tx
  let data := tx.drop 16
  let k : NetKey := { dom := false, home := h.die, word := h.addr % 2 ^ 40 / 8 * 8 }
  let (id, s) := s.newUid
  let me : DieReq := { id := id, module := dir, tx := tx }
  let s := { s with links := { s.links with dieReqs := s.links.dieReqs ++ [me] } }
  let ret (s : State) (v : Nat) : State := s.answerDie id (.ok (toBytes 4 v))
  if h.aop = 2 then
    match s.net? k with
    | none => s.answerDie id (.error 0x4004)
    | some n =>
      let x : Token := { id := id, fg := dieFg, lane := 0, uid := id, ea := h.addr, wire := takeWire s k (bits h.tag 7 8) (bits h.tag 0 7)
                         ord := 0, sc := 0 }
      s.setNet k (n.enter x)
  else
    let kind := match h.aop with | 3 => 0 | 4 => 4 | 5 => 5 | 6 => 6 | 7 => 2 | _ => 3
    match s.netCmd k kind (field data 0 8) h.asid (dieFg, 0, id) with
    | (s, none) => s
    | (s, some v) =>
      match if v = 0 && (kind = 2 || kind = 3) then s.net? k else none with
      | none => ret s v
      | some n =>
        match s.dieImage h.asid (field data 0 8) (if kind = 2 then some n.image else none) with
        | (s, .error c) => s.answerDie id (.error c)
        | (s, .ok b) =>
          if kind = 2 then ret s 0
          else match n.ofImage b with | some x => ret (s.setNet k x) 0 | none => ret s 3
/-- A transaction is performed at this module, or answered with an error response of 0x8004 (R371). -/
def State.performTx (s : State) (via : Via) (tx : List Byte) : State :=
  let h := TxHdr.of tx
  let data := slice tx 16 (16 * Nat.min 8 h.len)
  let plane := via.num
  let bad (s : State) (c a : Nat) : State := s.replyErr via h (c + (a - h.addr % 2 ^ 48) % 2 ^ 16 * 2 ^ 16)
  if txBad tx then (if 0x10 ≤ h.kind && h.kind ≤ 0x13 then s else s.replyErr via h 0x8004)
  else
    match h.kind with
    | 1 =>
      s.onPieces via tx .rd (field data 0 8) fun s ps =>
        match s.readPieces false 256 h.asid ps with
        | (s, .done b) => s.replyData via h 40 b
        | (s, .err c a) => bad s c a
        | (s, _) => s.replyErr via h 0x8004
    | 2 =>
      if h.len = 0 then s.replyErr via h 0x8004
      else
      s.onPieces via tx .wr h.writeSize fun s ps =>
        match s.writePieces false 256 h.asid ps (slice data 0 h.writeSize) with
        | (s, .done _) => s.reply via h 0x11 []
        | (s, .err c a) => bad s c a
        | (s, _) => s.replyErr via h 0x8004
    | 3 | 4 =>
      let n := atBytes h.at_
      s.onPieces via tx .rw n fun s ps =>
        match ps with
        | [] => s
        | p :: _ =>
          match s.readPiece false 256 h.asid p with
          | (s, .error c) => s.replyErr via h c
          | (s, .ok b) =>
            let s := s.writePiece false 256 h.asid p (toBytes n (atomNew h.aop h.at_ (ofBytes b) (field data 0 n) (field data 8 n)))
            if h.kind = 4 then s.reply via h 0x11 [] else s.reply via h 0x12 b
    | 5 =>
      if h.aop ≠ 0 then
        -- a domain network lives in a switch, and is no module's to serve
        match via with
        | .die k => if 1 < h.aop && h.aop ≤ 8 then s.dieTicket k tx else s.replyErr via h 0x8004
        | .fabric _ => s.replyErr via h 0x8004
      else
        s.onPieces via tx (if h.ord = 2 then .rw else .rd) 8 fun s ps =>
          match ps with
          | [] => s
          | p :: _ =>
            if p.leaf.kind ≠ 2 then s.replyErr via h 0x5006
            else
              match s.readPiece false 256 h.asid p with
              | (s, .error c) => s.replyErr via h c
              | (s, .ok b) =>
                if h.ord ≠ 2 then s.reply via h 0x12 b
                else
                  let v := toBytes 8 ((ofBytes b + 1) % 2 ^ 64)
                  (s.writePiece false 256 h.asid p v).reply via h 0x12 v
    | 6 => (s.arriveAt h.asid (field data 4 4) (field data 0 4) (field data 8 1 % 16) h.sc).reply via h 0x11 []
    | 7 =>
      -- AOP 0 writes back, 1 discards, between every core and the meeting point of SC
      let one (s : State) (c : Nat) : State :=
        if h.aop = 0 then s.writeBack c h.asid fun _ => h.sc else s.discardClean c h.asid fun _ => h.sc
      ((List.range 256).foldl one s).reply via h 0x11 []
    | 8 => (s.dropTlb h.asid).reply via h 0x11 []
    | 9 => s.reply via h 0x11 []
    | 0x0A =>
      match s.parityApply h data with
      | (s, true) => s.reply via h 0x11 []
      | (s, false) => s.replyErr via h 0x3030
    | 0x0B => s
    | _ => s.respond plane h data
/-- The request of a thread that a transaction for die `dst` is, or that it answers: by TAG, ADDR and the two dies (R371). -/
def State.crossBy (s : State) (dst : Nat) (h : TxHdr) : Option Cross :=
  s.links.cross.find? fun e => e.tag = h.tag && e.addr = h.addr &&
    if 0x10 ≤ h.kind then e.st = 2 && e.src = dst && e.dst = h.src else e.st = 0 && e.src = h.src && e.dst = dst && e.kind = h.kind
/-- A transaction between dies cannot be delivered from die `here`: a request of a thread completes with 0x8004, its answer too; another
request is answered so (R374). -/
def State.lostTx (s : State) (here dst : Nat) (tx : List Byte) : State :=
  let h := TxHdr.of tx
  match s.crossBy dst h with
  | some e => s.lostCross e
  | none =>
    if 0x10 ≤ h.kind then s
    else (s.sendDie here h.src (txBytes { addr := h.addr, src := here, tag := h.tag, part := h.part, asid := h.asid, kind := 0x13 }
      (toBytes 16 0x8004))).getD s
/-- A transaction for die `dst` comes in by a direction of a UCIe module: it goes on to the next die of its way (R373), reaches the engine
that serves a thread's request, is the answer to one, or is performed (R371). -/
def State.dieTx (s : State) (k dst : Nat) (tx : List Byte) : State :=
  let h := TxHdr.of tx
  let here := farDie k
  if txBad tx then s.performTx (.die k) tx
  else if dst ≠ here then (s.sendDie here dst tx).getD (s.lostTx here dst tx)
  else
    match s.crossBy dst h with
    | some e => if 0x10 ≤ h.kind then s.dropCross e else s.modCross e fun c => { c with st := 1 }
    | none => s.performTx (.die k) tx

/-! ### Windows of incoming streams (R379, R380) -/

def RxWin.is (w : RxWin) (src plane cls : Nat) : Bool := w.src = src && w.plane = plane && w.cls = cls
/-- The next number of an incoming stream. -/
def State.rxNum (s : State) (src plane cls : Nat) : Nat :=
  ((s.links.rxNums.find? fun e => e.1 = src && e.2.1 = plane && e.2.2.1 = cls).map (·.2.2.2)).getD 0
def State.bumpNum (s : State) (src plane cls : Nat) : State :=
  let n := (s.rxNum src plane cls + 1) % 2 ^ 57
  { s with links := { s.links with
    rxNums := (s.links.rxNums.filter fun e => !(e.1 = src && e.2.1 = plane && e.2.2.1 = cls)) ++ [(src, plane, cls, n)] } }
def State.setRx (s : State) (w : RxWin) : State :=
  { s with links := { s.links with rxWins := s.links.rxWins.map fun v => if v.id = w.id then w else v } }

/-- A transaction comes in from the fabric: it joins its stream's window. Read data for a job is provisional at once
(R380); a tag closes the window. -/
def State.fabricTx (s : State) (plane : Nat) (tx : List Byte) : State :=
  let h := TxHdr.of tx
  let cls := if h.kind = 0x0B then h.aop else classOf h.kind
  let w? := s.links.rxWins.find? fun w => w.is h.src plane cls && w.tag.isNone
  if h.kind = 0x0B && !txBad tx then
    match w? with
    | some w => (s.setRx { w with tag := some (h.addr, field tx 16 16) }).bumpNum h.src plane cls
    | none => s
  else if cls = 3 then s.performTx (.fabric plane) tx
  else
    let (id, s) := s.newUid
    let r : State × RxWin := match w? with
      | some w => (s, w)
      | none =>
        let w : RxWin := { id := id, src := h.src, plane := plane, cls := cls, num := s.rxNum h.src plane cls, startNs := s.ctl.devTime }
        ({ s with links := { s.links with rxWins := s.links.rxWins ++ [w] } }, w)
    let w := r.2
    let s := r.1.setRx { w with slots := w.slots ++ tx, txs := w.txs ++ [tx] }
    match s.outOf plane h with
    | some q =>
      match q.job with
      | some j => if h.kind = 0x10 && q.kind = 0 && !txBad tx && s.ofEngine j then (s.complete q (.ok (tx.drop 16))).setProv j w.id else s
      | none => s
    | none => s

/-- TRANSACTION_RECEIVE: the transaction `ev.data` arrives. By direction `ev.a` of the UCIe modules (`ev.b` = 0), from a sender that is no
thread: it is sent on, performed, or answered with an error; by fabric plane `ev.a` (`ev.b` = 1) it joins its stream's window, which
TAG_VERIFY performs (R371, R373, R379). -/
def execTransactionReceive (s : State) : Out :=
  let k := s.ev.a % 64
  let h := TxHdr.of s.ev.data
  let dst := if 0x10 ≤ h.kind || txBad s.ev.data then farDie k else h.die
  .next (if s.ev.b ≠ 0 then s.fabricTx (s.ev.a % 16) s.ev.data
    else if dst = farDie k then s.performTx (.die k) s.ev.data else s.dieTx k dst s.ev.data)

/-- The windows that jobs and commands still depend on, without one. -/
def State.dropWin (s : State) (win : Nat) : State :=
  { s with eng := { s.eng with
    jobs := s.eng.jobs.map fun (j : Job) => { j with prov := j.prov.filter (· ≠ win) }
    cmds := s.eng.cmds.map fun (c : Cmd) => { c with prov := c.prov.filter (· ≠ win) } } }
/-- The same for a command. -/
def State.settleCmd (s : State) (id : Nat) : State :=
  match s.eng.cmds.find? fun c => c.id = id with
  | none => s
  | some c =>
    if !c.prov.isEmpty then s
    else if c.state = .counted then s.endCmd c c.err
    else (s.setCmd { c with left := c.left - c.owed, owed := 0 }).countBytes c.blk c.bar c.owed []
/-- Jobs and commands that depended on a window, in acceptance order. -/
def State.onWin (s : State) (win : Nat) : List Nat :=
  (((s.eng.jobs.filter fun j => j.prov.contains win).map (·.id)) ++ ((s.eng.cmds.filter fun c => c.prov.contains win).map (·.id))).mergeSort

/-- The slots of a window are free again, and its sender is told (R375, R381). -/
def State.returnSlots (s : State) (w : RxWin) : State :=
  let rs := w.txs.map fun t => (64 * w.cls + (TxHdr.of t).part, t.length / 16)
  -- the tag's own slots, of class 3
  let rs := rs ++ match w.tag with | some _ => [(192, 2)] | none => []
  let sums := (rs.map (·.1)).eraseDups.map fun k => (k, ((rs.filter fun e => e.1 = k).map (·.2)).sum)
  let recs := sums.map fun e => toBytes 8 (e.1 / 64 + 4 * (e.1 % 64) + 65536 * e.2)
  -- 30 records in a flit
  (List.range (ceilDiv recs.length 30)).foldl (fun (s : State) i =>
    s.sendFlit w.plane 2 (padTo 240 (((recs.drop (30 * i)).take 30).flatMap id))) s
def State.dropRx (s : State) (w : RxWin) : State := { s with links := { s.links with rxWins := s.links.rxWins.filter fun v => v.id ≠ w.id } }
/-- A window verifies: its requests are performed, its answers released, what depended on it settled (R379, R380). -/
def State.passWin (s : State) (w : RxWin) : State :=
  let ids := s.onWin w.id
  let s := (s.dropRx w).returnSlots w
  let s := w.txs.foldl (fun (s : State) t => s.performTx (.fabric w.plane) t) s
  ids.foldl (fun (s : State) i => (s.settleJob i).settleCmd i) (s.dropWin w.id)
/-- A window fails: its requests are answered with 0x8004, its answers count as lost, and what depended on it ends with
0x8002 (R379, R380). -/
def State.failWin (s : State) (w : RxWin) : State :=
  let ids := s.onWin w.id
  let s := (s.dropRx w).returnSlots w
  let s := w.txs.foldl (fun (s : State) t =>
    let h := TxHdr.of t
    if 0x10 ≤ h.kind then match s.outOf w.plane h with | some q => s.complete q (.error (0x8004, 0)) | none => s
    else s.replyErr (.fabric w.plane) h 0x8004) s
  ids.foldl (fun (s : State) i =>
    match s.eng.jobs.find? fun j => j.id = i with
    | some j => s.endJob { j with prov := [], heldWr := [], err := 0x8002 } 0x8002
    | none => match s.eng.cmds.find? fun c => c.id = i with | some c => s.endCmd { c with prov := [] } 0x8002 | none => s) s

/-- TAG_WINDOW_CLOSE of the stream to rank `ev.a` on plane `ev.b` in class `ev.c`: at 240 slots, or 512 cycles after its
first slot (R379). -/
def execTagWindowClose (s : State) : Out :=
  let w := s.txWin s.ev.a s.ev.b s.ev.c
  .next (if 3840 ≤ w.slots.length || w.start + 512 ≤ s.ctl.cycle then s.closeWin w else s)
/-- TAG_VERIFY of window `ev.a`, the oldest of its stream: what a stream brings is performed in its order (R378, R379; spec/09_ordering.md
R222). -/
def execTagVerify (s : State) : Out :=
  match s.links.rxWins.find? fun w => w.id = s.ev.a with
  | none => .next s
  | some w =>
    match if (s.links.rxWins.find? fun v => v.is w.src w.plane w.cls).any (fun v => v.id = w.id) then w.tag else none with
    | none => .next s
    | some (n, tag) =>
      .next (if n = w.num && tag = s.tagOf w.src w.src s.rank w.plane w.cls w.num w.slots then s.passWin w else s.failWin w)
/-- TAG_TIMEOUT of window `ev.a`: no tag within 1 ms of its first slot (R379). -/
def execTagTimeout (s : State) : Out :=
  match s.links.rxWins.find? fun w => w.id = s.ev.a with
  | none => .next s
  | some w =>
    .next (if w.tag.isNone && w.startNs + 1000000 ≤ s.ctl.devTime then (s.bumpNum w.src w.plane w.cls).failWin w else s)

/-! ### Flits (R374 to R376, R381) -/

/-- An ACK covers flits up to it; a NAK counts against the first that is left (R376). -/
def LinkPort.ack (p : LinkPort) (now a : Nat) (nak : Bool) : LinkPort :=
  let done (f : Flit) : Bool := (a + 4096 - f.seq) % 4096 < 2048
  let rest := p.unacked.filter fun f => !done f
  let moved := rest.length < p.unacked.length
  let room := 2048 - rest.length
  let naks := if moved then 0 else p.naks
  { p with
    unacked := rest ++ p.queue.take room, queue := p.queue.drop room
    lastAck := if moved then now else p.lastAck
    naks := if nak && !rest.isEmpty then naks + 1 else naks }
/-- A port takes an ACK: what it covers leaves the link; a NAK has every flit after it sent again, in order (R376). -/
def State.ackPort (s : State) (n a : Nat) (nak : Bool) : State :=
  let p := s.port n
  let q := p.ack s.ctl.devTime a nak
  let old := q.unacked.filter fun f => p.unacked.contains f
  let s := s.setPort n { q with wire := q.wire.filter fun b => old.any fun f => f.seq % 4096 = bits (field b 0 2) 0 12 }
  s.putWire n (if nak then q.unacked else q.unacked.drop old.length)
/-- The transactions that a flit's slots hold; none straddles flits, and an empty slot ends them (R400). -/
def flitTxs : (fuel : Nat) → List Byte → List (List Byte)
  | 0, _ => []
  | n + 1, b =>
    if b.length < 16 || field b 0 16 = 0 then []
    else
      let h := TxHdr.of b
      let m := 16 * (1 + (if h.len ≤ 8 then h.len else 0))
      if b.length < m then [] else b.take m :: flitTxs n (b.drop m)
/-- Slot-return records (R375, R381). -/
def slotReturns (used : List (Nat × Nat)) (b : List Byte) : List (Nat × Nat) :=
  (List.range 30).foldl (fun u k =>
    let r := field b (8 * k) 8
    let key := 64 * bits r 0 2 + bits r 2 6
    putAssoc u key (assoc u key - bits r 16 16)) used

/-- GUESTUS_FLIT_RECEIVE: the 256 bytes `ev.data` come in at port `ev.a` (R375, R376). -/
def execGuestusFlitReceive (s : State) : Out :=
  let n := s.ev.a % 16
  let b := s.ev.data
  let fk := bits (field b 0 2) 12 4
  if !s.portUp n then .next s
  else if b.length ≠ 256 || field b 248 8 ≠ (crc64 (b.take 248)).toNat || 2 < fk then .next (s.sendNak n)
  else
    let seq := bits (field b 0 2) 0 12
    let s := s.ackPort n (bits (field b 2 2) 0 12) (bit (field b 2 2) 12)
    let p := s.port n
    if seq ≠ p.rxNext then
      .next (if (seq + 4096 - p.rxNext) % 4096 < 2048 then s.sendNak n else s).pump
    else
      let pay := slice b 8 240
      let p := { p with rxNext := (seq + 1) % 4096, nakDue := false, poolFull := bit (field b 4 4) 0
                        used := if fk = 2 then slotReturns p.used pay else p.used }
      let s := s.setPort n p
      .next ((if fk = 1 then (flitTxs 15 pay).foldl (fun (s : State) t => s.fabricTx n t) s else s).pump)

/-- The acknowledgement of what the far adapter of a direction has accepted reaches the near one, whose waiting flits follow (R374). -/
def State.ackDie (s : State) (k : Nat) : State :=
  let p := s.ucie k
  let rest := p.unacked.filter fun f => !s.accepted k f
  let room := 2048 - rest.length
  s.setUcie k { p with unacked := rest ++ p.queue.take room, queue := p.queue.drop room
                       lastAck := if rest.length < p.unacked.length then s.ctl.devTime else p.lastAck }
/-- The transactions of a flit, each with the die that it is for. -/
def Flit.txs (f : Flit) : List (Nat × List Byte) := f.dsts.zip (flitTxs 15 (padTo 240 f.bytes))
/-- UCIE_FLIT_RECEIVE by direction `ev.a` of the UCIe modules: the next flit that its near adapter has sent comes in. Bit 0 of `ev.c` says
that its CRC holds: it is accepted, once and in order; else it is sent again. Bit 1 says that an acknowledgement then reaches the near
adapter (R374). -/
def execUcieFlitReceive (s : State) : Out :=
  let k := s.ev.a % 64
  if (s.map.unit (329 + k / 2)).1 = 3 then .next s
  else
    let ack (s : State) : State := if bit s.ev.c 1 then s.ackDie k else s
    match s.nextFlit k with
    | none => .next (ack s)
    | some f =>
      if !bit s.ev.c 0 then .next (s.setUcie k { s.ucie k with nakDue := true })
      else
        let s := s.setUcie k { s.ucie k with nakDue := false }
        let j := if f.from_ = 0 then k else f.from_ - 1
        let s := ack (s.setUcie j { s.ucie j with rxNext := (f.seq + 1) % 4096 })
        .next (f.txs.foldl (fun (s : State) e => s.dieTx k e.1 e.2) s)

/-! ### UCIe modules that degrade or fail (R372 to R374) -/

/-- The next live module of a group after `m`, in ascending order modulo 4 (R373). -/
def nextModule (us : List (Nat × Nat)) (m : Nat) : Option Nat :=
  ((List.range 3).map fun k => m / 4 * 4 + (m + 1 + k) % 4).find? fun j => (us.getD (328 + j) (3, 0)).1 ≠ 3
/-- The flits of one direction of a module that is lost go to the module that now serves its lines, which sends them before its own, with
their numbers; where none is left, the transactions that have not come in go another way, or are lost (R373, R374). -/
def State.moveFlits (s : State) (k : Nat) : State :=
  let p := (s.ucie k).close s.ctl.devTime
  let all : List Flit := p.unacked ++ p.queue
  let s := s.setUcie k { p with unacked := [], queue := [] }
  match nextModule s.map.units (k / 2) with
  | some j =>
    let k' := 2 * j + k % 2
    s.setUcie k' { s.ucie k' with unacked := (all.map fun f => { f with from_ := if f.from_ = 0 then 1 + k else f.from_ }) ++ (s.ucie k').unacked }
  | none =>
    ((all.filter fun f => !s.accepted k f).flatMap Flit.txs).foldl (fun (s : State) e =>
      if nearDie k = e.1 then s else (s.sendDie (nearDie k) e.1 e.2).getD (s.lostTx (nearDie k) e.1 e.2)) s
/-- A module is lost, in both directions (R374). -/
def State.loseModule (s : State) (m : Nat) : State :=
  let us := s.map.units.modify (328 + m) fun u => (3, u.2)
  let cut := (joinedPairs s.map.units).any fun x => !(joinedPairs us).contains x
  let s := ((s.publish us).moveFlits (2 * m)).moveFlits (2 * m + 1)
  if cut then s.record { die := 0, code := 0x8005 } else s
/-- UCIE_LANE_EVENT at module `ev.a`: `ev.b` = 0 a lane that it uses fails, 1 it falls back to x32, 2 it is lost, 3 a lane
that it no longer uses fails (R372, R374). -/
def execUcieLaneEvent (s : State) : Out :=
  let m := s.ev.a % 32
  let u := s.map.unit (329 + m)
  let back (s : State) : State := s.publish (s.map.units.modify (328 + m) fun u => (1, u.2))
  .next (if u.1 = 3 then s
    else match s.ev.b with
      | 0 =>
        if u.1 = 1 then s.loseModule m
        else if u.2 % 16 < 8 then s.publish (s.map.units.modify (328 + m) fun u => (u.1, u.2 % 16 + 1))
        else back s
      | 1 => if u.1 = 0 then back s else s
      | 2 => s.loseModule m
      | _ => s)

/-! ### Ports and ranks that fail (R376, R384) -/

/-- TAKEs of this module at the domain networks of a plane complete with 0x8003, other ticket commands with 0x8004. -/
def State.dropTakes (s : State) (plane : Nat) : State :=
  (s.sync.nets.filter fun n => n.dom && n.home = plane).foldl (fun (s : State) n =>
    let s := (n.tokens ++ n.waiters).foldl (fun (s : State) k =>
      s.modPend k.fg k.lane k.uid fun p => { p with err := some (0x8003, BitVec.ofNat 64 k.ea), todo := .none }) s
    let s := n.closers.foldl (fun (s : State) c => s.modPend c.1 c.2.1 c.2.2 fun p => { p with err := some (0x8004, s.noAddr), todo := .none }) s
    s.setNet { dom := true, home := n.home, word := n.word } { n with tokens := [], waiters := [], closers := [] }) s
/-- FABRIC_PORT_DOWN of port `ev.a`: eight NAKs for one SEQ, or 1 ms without an ACK advancing. `ev.b` = 1 says that the
plane's switch has died, and its networks with it (R376, R378). -/
def execFabricPortDown (s : State) : Out :=
  let n := s.ev.a % 16
  let p := s.port n
  let due := 8 ≤ p.naks || (!p.unacked.isEmpty && p.lastAck + 1000000 ≤ s.ctl.devTime)
  if !s.portUp n || !due then .next s
  else
    let s := s.publish (s.map.units.set (362 + n) (3, 0))
    let s := s.record { die := 0, code := 0x8005 }
    let s := s.setPort n {}
    let s : State := { s with links := { s.links with late := s.links.late.filter fun e => e.1 ≠ n } }
    let s := (s.links.out.filter fun q => q.sent = some n).foldl (fun (s : State) q => s.complete q (.error (0x8004, 0))) s
    let s := s.dropTakes n
    .next (if s.ev.b = 1 then { s with sync := { s.sync with nets := s.sync.nets.filter fun x => !(x.dom && x.home = n) } } else s)

def State.setRank (s : State) (r : Nat) (w : Word) : State := { s with links := { s.links with ranks := s.links.ranks.set r w } }
/-- RANK_LOSS of rank `ev.a` (R384). -/
def execRankLoss (s : State) : Out :=
  let r := s.ev.a
  if !s.rankValid r || s.rankState r = 1 then .next s
  else
    let s := s.setRank r (BitVec.ofNat 32 (setBits (s.links.ranks.getD r 0).toNat 28 3 1))
    .next ((s.links.out.filter fun q => q.rank = r).foldl (fun (s : State) q => s.complete q (.error (0x8004, 0))) s)

/-! ### Parity (R385) -/

/-- Holds are released: stores and peers' accesses that waited are performed, or wait on (R384, R385). -/
def State.releasePar (s : State) : State :=
  let ws := if s.parHold then [] else s.links.parWait
  let ts := s.links.txWait
  let s := { s with links := { s.links with parWait := if s.parHold then s.links.parWait else [], txWait := [] } }
  let s := ws.foldl (fun (s : State) a => match s.thread? a.fg a.lane with | some t => s.access t a | none => s) s
  ts.foldl (fun (s : State) e => s.performTx (Via.of e.1) e.2) s
/-- PARITY_REBUILD: block `ev.b` of buffer `ev.a` becomes the XOR of the surviving members' plaintext, whose 16-byte blocks
`ev.data` holds as they came; `ev.c` = 1 says it was the last (R385). No delta leaves for it. -/
def execParityRebuild (s : State) : Out :=
  let br := s.bufRec s.ev.a
  let n := (parMembers s.links.parity).length - 1
  if s.links.parPhase ≠ 3 || s.ev.data.length ≠ 16 * n || s.rankState s.rank ≠ 2 then .next s
  else
    let x := (List.range n).foldl (fun l k => List.zipWith (· ^^^ ·) l (slice s.ev.data (16 * k) 16)) (List.replicate 16 0)
    match s.check 256 br.owner .wr (br.base + 16 * s.ev.b) 16 with
    | (s, .ok [p]) =>
      let s := (s.ctlWrite br.owner p.leaf p.va p.pa (x.map some) false).1
      .next { s with links := { s.links with parBlocks := s.links.parBlocks + 1, parPhase := if s.ev.c = 1 then 4 else 3 } }
    | (s, _) => .next s

/-! ### Remote arrivals (R267, R270, R272) -/

/-- A local .clu or .dom arrival has made its release and leaves (R225, R267). -/
def State.sendArrival (s : State) (r : RemoteArr) : State :=
  let core := s.coreOf r.fg
  let sc := if r.dom then 6 else 3
  let s := s.writeBack core r.asid fun _ => sc
  if s.relWaits core r.asid sc (fun _ => sc) then s
  else
    let s := { s with sync := { s.sync with remote := s.sync.remote.erase r } }
    if !r.dom then match s.block? r.blk with | some b => s.remoteAt b r.bar 3 | none => s
    else if r.rank = s.rank then s.arriveAt r.asid r.tag r.blk r.bar 6
    -- for a rank that is lost it is discarded at the link (spec/10_sync.md R267)
    else if s.rankState r.rank = 1 then s
    else
      let (id, s) := s.newUid
      s.pushOut { id := id, kind := 7, rank := r.rank, addr := 0, size := 16, asid := r.asid, sc := 6
                  data := padTo 16 (toBytes 4 r.blk ++ toBytes 4 r.tag ++ toBytes 1 r.bar), job := some id }
/-- REMOTE_ARRIVAL: `ev.c` = 0, the `ev.a`-th arrival on its way here makes its release and reaches its target; 1, an
arrival from the fabric for block `ev.a` of the node of context `ev.b`, with barrier and INSTANCE in `ev.v`. -/
def execRemoteArrival (s : State) : Out :=
  if s.ev.c = 1 then .next (s.arriveAt s.ev.b (bits s.ev.v.toNat 32 32) s.ev.a (bits s.ev.v.toNat 0 4) 6)
  else
    match s.sync.remote[s.ev.a]? with
    | none => .next s
    | some r =>
      let issued := match s.thread? r.fg r.lane with
        | none => true
        | some t => t.allPend.all fun p => p.arrived || !r.waits.contains p.uid
      let ready := issued && s.storesDone r.fg r.lane r.uid (if r.dom then 6 else 3) r.jobs
      .next (if ready then s.sendArrival r else s)

/-! ### Fabric management instructions (R395 to R399) -/

/-- Issues an instruction of format Z whose result is written at once. -/
def issueZ (s : State) (f : FmtZ) (r : Rights) (go : State → Thread → State × Except Nat (List Word)) : State :=
  issueEach s r f.guard fun _ s t =>
    match go s t with
    | (s, .ok ws) => .ok (s.modThread t.fg t.lane fun t => t.put f.d.toNat ws)
    | (_, .error c) => .trap c s.noAddr
def word (n : Nat) : List Word := [BitVec.ofNat 32 n]

def execRankmapGet (f : FmtZ) (s : State) : Out :=
  .next (issueZ s f rightsAll fun s t =>
    let k := regL s t f.a.toNat 1 + f.imm.toNat
    if 383 < k then (s, .error 0x4004) else (s, .ok [s.links.ranks.getD k 0]))
/-- Whether a report is valid for a nonce (spec/04_system.md R113, R114): its identity signature, its certificate under a
key that this module holds, its nonce. -/
def State.reportOk (s : State) (b nonce : List Byte) : Bool :=
  let key := slice b 1440 1952
  let signed := slice b 1440 1952 ++ slice b 3392 3309
  let by_ (k : List Byte) : Bool := Config.verifies k signed
  Config.verifies key (slice b 0 6704 ++ slice b 6704 3309) && slice b 16 32 = nonce &&
    (if cellAt b 6701 = 1 then (match s.health.buyerKey with | some k => by_ k | none => false) else by_ Config.jexxiaKey)
where cellAt (b : List Byte) (k : Nat) : Nat := (b.getD k 0).toNat
/-- RANKMAP.set (R397). -/
def State.rankSet (s : State) (n w : Nat) : State × Nat :=
  let old := (s.links.ranks.getD n 0).toNat
  let port := bits w 0 9
  let other := (List.range 384).any fun r => r ≠ n && s.rankValid r && bits (s.links.ranks.getD r 0).toNat 0 9 = port
  if 383 < n || bits w 9 19 ≠ 0 || 383 < port || other then (s, 1)
  else
    let fresh := bit w 31 && !(bit old 31 && bits old 0 9 = port)
    let nonce := toBytes 32 (Config.freshKey s.fresh)
    let own := port = Config.ownPort.toNat
    if fresh && !own && !s.reportOk (Config.peerReport port s.fresh) nonce then ({ s with fresh := s.fresh + 1 }, 0xB014)
    else
      let s := if fresh && !own then
          { s with fresh := s.fresh + 2
                   links := { s.links with keys := putAssoc s.links.keys n (Config.freshKey (s.fresh + 1) % 2 ^ 256) } }
        else s
      let s := s.setRank n (BitVec.ofNat 32 w)
      let s := if s.rankState s.rank = 0 && s.links.parPhase = 4 then { s with links := { s.links with parPhase := 0 } } else s
      (s.releasePar, 0)
def execRankmapSet (f : FmtZ) (s : State) : Out :=
  .next (issueZ s f rightsOpr fun s t =>
    let r := s.rankSet f.imm.toNat (regL s t f.a.toNat 1)
    (r.1, .ok (word r.2)))

/-- Whether PLANEMAP.map of plane `n` to `p` is allowed (R398). -/
def State.mapOk (s : State) (n p : Nat) : Bool :=
  if p = n then s.portUp n else (s.map.unit (363 + n)).1 = 3 && s.portUp p && s.links.prt.getD p 0 = p
/-- Transactions outstanding on a plane. -/
def State.onPlane (s : State) (n : Nat) : Bool :=
  (s.links.out.any fun q => q.sent = some n) || (s.sync.nets.any fun x => x.dom && x.home = n && !(x.tokens.isEmpty && x.waiters.isEmpty))
/-- PLANEMAP.map, once the plane has drained (R398). -/
def State.planeMap (s : State) (n p : Nat) : State :=
  let was := s.links.prt.getD n 0
  let moved (x : Net) : Bool := x.dom && planeHash (x.word % 2 ^ 57) = n && (x.home ≠ p || was ≠ p)
  let s := { s with links := { s.links with prt := s.links.prt.set n p, lost := s.links.lost.set n (p ≠ n) } }
  let s := if p = n then (s.sync.nets.filter moved).foldl (fun s x => s.loseNet x 0x4004) s else s
  (if p = n then s else s.publish (s.map.units.set (362 + n) (4, p))).pump
/-- PLANEMAP.map stalls its path until no transaction is outstanding on the plane (R396, R398). -/
def execPlanemapMap (f : FmtZ) (s : State) : Out :=
  let n := f.imm.toNat % 16
  match s.paths with
  | [] => .next s
  | p :: _ =>
    let go (t : Thread) : Bool := rightsOpr.ok (authOf (s.asidOf p.fg)) && f.guard.on t && s.mapOk n (regL s t f.a.toNat 1 % 16)
    if (s.executing p f.guard).any go && s.onPlane n then .next s
    else
      .next (issueZ s f rightsOpr fun s t =>
        let dest := regL s t f.a.toNat 1 % 16
        if s.mapOk n dest then (s.planeMap n dest, .ok (word 0)) else (s, .ok (word 1)))
def execPlanemapShare (f : FmtZ) (s : State) : Out :=
  .next (issueZ s f rightsOpr fun s t =>
    let c := bits f.imm.toNat 6 2
    let k := 64 * c + bits f.imm.toNat 0 6
    let v := bits (regL s t f.a.toNat 1) 0 13
    let mins := putAssoc s.links.mins k v
    if c = 3 || 4096 < v || 4096 < (mins.map (·.2)).sum then (s, .ok (word 1))
    else ({ s with links := { s.links with mins := mins } }.pump, .ok (word 0)))
def execPlanemapGet (f : FmtZ) (s : State) : Out :=
  .next (issueZ s f rightsAll fun s _ =>
    let n := f.imm.toNat % 16
    (s, .ok (word (s.links.prt.getD n 0 + 16 * b2n (s.links.lost.getD n false)))))
/-- PLANEMAP.retrain (R398). Whether the link trains is the part's (assumption log 33): a free value. -/
def execPlanemapRetrain (f : FmtZ) (s : State) : Out :=
  .next (issueZ s f rightsOpr fun s _ =>
    let n := f.imm.toNat % 16
    let st := (s.map.unit (363 + n)).1
    if st ≠ 3 && st ≠ 4 then (s, .ok (word 1))
    else if Config.freeValue s.ticks % 2 = 1 then (s, .ok (word 2))
    else (((s.setPort n {}).publish (s.map.units.set (362 + n) (0, 0))).pump, .ok (word 0)))

/-- A malformed description of a parity group (R399). -/
def State.parityBad (s : State) (d : Nat) : Bool :=
  let n := parN d
  let ms := parMembers d
  bits d 13 3 ≠ 0 || (n = 0 && bits d 16 112 ≠ 0) || n ≠ 0 && (n = 1 || 8 < n || ms.eraseDups.length ≠ ms.length || ms.any (fun r => !s.rankValid r) || !ms.contains s.rank
    || bits d (9 * n + 16) (112 - 9 * n) ≠ 0)
def execParitycfgSet (f : FmtZ) (s : State) : Out :=
  .next (issueZ s f rightsOpr fun s t =>
    let d := regL s t f.a.toNat 4
    if s.parityBad d then (s, .ok (word 1))
    else ({ s with links := { s.links with parity := if parN d = 0 then 0 else d, parPhase := 0, parBlocks := 0 } }.releasePar, .ok (word 0)))
def execParitycfgRebuild (f : FmtZ) (s : State) : Out :=
  .next (issueZ s f rightsOpr fun s _ =>
    if s.rankState s.rank = 2 && (parMembers s.links.parity).contains s.rank then
      ({ s with links := { s.links with parPhase := 3, parBlocks := 0 } }, .ok (word 0))
    else (s, .ok (word 1)))
/-- The role of R399: 0 none, 1 member, 2 holding, 3 rebuilding, 4 rebuilt. -/
def State.parRole (s : State) : Nat :=
  if parN s.links.parity = 0 then 0 else if s.links.parPhase ≠ 0 then s.links.parPhase else if s.parHold then 2 else 1
def execParitycfgGet (f : FmtZ) (s : State) : Out :=
  .next (issueZ s f rightsOpr fun s _ =>
    let d := setBits (setBits s.links.parity 88 32 (s.links.parBlocks / 4096)) 120 8 s.parRole
    (s, .ok (natWords d 4)))

end Sys2Proof.Machine
end

