-- ==== Sys2Proof/Machine/HostPort.lean ====
section
/-! DEFINITION. The PCIe side: atomics to the host and the proxy, ATS, host writes, virtual functions and their rings,
TDIs, and the registers behind BAR 2 and the doorbell pages (spec/17_links.md R386 to R394; spec/15_launch.md R338, R351;
spec/20_health.md R418, R422, R427). -/
namespace Sys2Proof.Machine

/-! ### Host-window atomics (R388, R390) -/

/-- The request and the lane of a host-window atomic. -/
def HostAtom.req (h : HostAtom) : AtomReq :=
  { id := h.id, fg := h.fg, op := h.op, at_ := h.at_, sp := false, red := h.red, ord := h.ord, sc := h.sc, sent := true }
def HostAtom.lane_ (h : HostAtom) : AtomLane := { lane := h.lane, uid := h.uid, ea := h.ea, x := h.x, y := h.y }
def State.dropAtom (s : State) (id : Nat) : State :=
  { s with links := { s.links with hostAtoms := s.links.hostAtoms.filter fun h => h.id ≠ id } }
/-- HOST_ATOMIC_COMPLETION of atomic `ev.a`: `ev.b` = 0 successful, 1 Unsupported Request, 2 Completer Abort or poison,
3 timeout. A successful one is performed at the host's memory (R388). -/
def execHostAtomicCompletion (s : State) : Out :=
  match s.links.hostAtoms.find? fun h => h.id = s.ev.a && h.st = 0 with
  | none => .next s
  | some h =>
    let s := s.dropAtom h.id
    let fail (s : State) (c : Nat) : State := s.atomDone h.req h.lane_ (.error c)
    .next (match s.ev.b with
      | 0 =>
        let n := atBytes h.at_
        let old := ofBytes (cellsGet s.mem.host h.bus n)
        (s.hostWrite h.bus (toBytes n (atomNew h.op h.at_ old h.x h.y))).atomDone h.req h.lane_ (.ok old)
      | 1 => fail { s with links := { s.links with hostWin := putAssoc s.links.hostWin h.buf (setBits (s.hostWinOf h.buf) 0 1 1) } } 0x9001
      | 2 => fail s 0x9004
      | _ => fail s 0x9005)

/-- A response has been accepted for an entry of a ring: PX_HEAD moves on, and waiting requests with it. -/
def State.pxAccept (s : State) (id vf : Nat) : State :=
  let s := s.dropAtom id
  match s.vf? vf with
  | none => s
  | some v => (s.setVf { v with pxHead := s.pxHeadOf v }).pumpPx vf
/-- PX_RESP_WRITE at VF `ev.a`: the 16 bytes `ev.data` hold SEQ, status and old value (R389, R390). -/
def execPxRespWrite (s : State) : Out :=
  let seq := field s.ev.data 0 4
  match s.links.hostAtoms.find? fun h => h.vf = s.ev.a && (h.st = 2 || h.st = 3) && h.seq = seq with
  | none => .next s
  | some h =>
    let s' := s.pxAccept h.id h.vf
    .next (if h.st = 3 then s'
      else s'.atomDone h.req h.lane_ (if field s.ev.data 4 4 = 0 then .ok (field s.ev.data 8 (atBytes h.at_)) else .error 0x9004))
/-- PROXY_TIMEOUT of atomic `ev.a`: no response within 10 ms of its request; its entry stays in the ring (R390). -/
def execProxyTimeout (s : State) : Out :=
  match s.links.hostAtoms.find? fun h => h.id = s.ev.a && h.st = 2 with
  | none => .next s
  | some h =>
    if s.ctl.devTime < h.startNs + 10000000 then .next s
    else
      let f (g : HostAtom) : HostAtom := if g.id = h.id then { g with st := 3 } else g
      .next ({ s with links := { s.links with hostAtoms := s.links.hostAtoms.map f } }.atomDone h.req h.lane_ (.error 0x9005))

/-! ### ATS (R391) -/

/-- The global ranges that a job's present chunk reads or writes. -/
def State.nextSegs (s : State) (asid : Nat) (j : Job) : List (Nat × Nat) :=
  match j.kind with
  | .cpb dstS srcS a b len =>
    let off := cpbOff dstS srcS a b len j.chunk
    let n := Nat.min 4096 (len - off)
    (if dstS then [] else [(a + off, n)]) ++ (if srcS then [] else [(b + off, n)])
  | .cpt _ handle row0 col0 i2 i3 _ =>
    match s.tensorOf asid handle with
    | none => []
    | some (r, base) =>
      if !r.coded then (r.rows row0 col0 i2 i3 (32 * j.chunk) (32 * j.chunk + 32)).map fun x => (base + x.2.1, x.2.2)
      else match r.frame row0 col0 i2 i3 with
        | none => []
        | some k => [(r.codes + 256 + 4 * k, 4), (base + 16384 * k + 4096 * j.chunk, 4096)]
  | .cpl _ ls => ls.map fun l => (l.2.2, 16)
  | .cpa _ _ _ => []
def Job.lanesLeft (j : Job) : Nat := match j.kind with | .cpl _ ls => ls.length | _ => 0
/-- A range that touches a page of host memory. -/
def State.touches (s : State) (asid bus size : Nat) (g : Nat × Nat) : Bool :=
  (List.range (g.2 / 4096 + 2)).any fun k =>
    let va := Nat.min (g.1 + 4096 * k) (g.1 + g.2 - 1)
    match s.window false va with
    | .ok (va, none) =>
      match s.walkRoot asid va with
      | .ok l => l.kind = 1 && bus ≤ l.addr + va % 2 ^ l.lg && l.addr + va % 2 ^ l.lg < bus + size
      | .error _ => false
    | _ => false
/-- The chunks in flight under a translation: the present chunk of every running job that touches the page (R391). -/
def State.atsChunks (s : State) (bus size : Nat) : List (Nat × Nat × Nat) :=
  (s.eng.jobs.filter fun j => j.state = .running && match s.block? j.blk with
    | some b => (s.nextSegs b.asid j).any (s.touches b.asid bus size)
    | none => false).map fun j => (j.id, j.chunk, j.lanesLeft)
/-- Chunks of an invalidation that have not ended, and host atomics that have not completed. -/
def State.atsLeft (s : State) (a : Ats) : List (Nat × Nat × Nat) :=
  a.chunks.filter fun c => s.eng.jobs.any fun j => j.id = c.1 && j.state = .running && j.chunk = c.2.1 && j.lanesLeft = c.2.2
def State.atsDone (s : State) (a : Ats) : Bool :=
  (s.atsLeft a).isEmpty && (a.priv || !(s.links.hostAtoms.any fun h => a.atoms.contains h.id && h.st = 0))
/-- Invalidations that nothing withholds any more complete. -/
def State.atsSweep (s : State) : State := { s with links := { s.links with ats := s.links.ats.filter fun a => !s.atsDone a } }
/-- ATS_INVALIDATION of the page of `ev.b` bytes at bus address `ev.a`, of the window of buffer `ev.c`: the link dies forget
it. Its completion is withheld while requests under the old translation are in flight (R391). -/
def execAtsInvalidation (s : State) : Out :=
  let (id, s) := s.newUid
  let a : Ats := { id := id, bus := s.ev.a, size := s.ev.b, priv := bit (s.hostWinOf s.ev.c) 2, startNs := s.ctl.devTime
                   chunks := s.atsChunks s.ev.a s.ev.b
                   atoms := (s.links.hostAtoms.filter fun h => h.st = 0 && s.ev.a ≤ h.bus && h.bus < s.ev.a + s.ev.b).map (·.id) }
  let keep (e : Nat × Nat) : Bool := e.2 * 4096 + 4096 ≤ s.ev.a || s.ev.a + s.ev.b ≤ e.2 * 4096
  .next { s with links := { s.links with ats := s.links.ats ++ [a], atc := s.links.atc.filter keep } }.atsSweep
/-- The chunk of a job that is in flight under an invalidated translation fails (R391): of a CPL each lane copy that touches the page
fails alone (spec/12_copy.md R292). -/
def State.atsAbort (s : State) (a : Ats) (j : Job) : State :=
  match j.kind, s.block? j.blk with
  | .cpl st ls, some b =>
    let hit (l : Nat × Nat × Nat) : Bool := s.touches b.asid a.bus a.size (l.2.2, 16)
    let s := s.setJob { j with kind := .cpl st (ls.filter fun l => !hit l) }
    let s := (ls.filter hit).foldl (fun (s : State) _ => s.countLane j 0x9003) s
    if ls.all hit then s.endJob (s.job j) 0 else s
  | _, _ => s.endJob j 0x9003
/-- ATS_ABORT_TIMEOUT of invalidation `ev.a`, of a PRIVATE window: at 100 µs the chunks still in flight fail with 0x9003,
and it completes (R391); of a CPL the lane copies that touch the page (R292). -/
def execAtsAbortTimeout (s : State) : Out :=
  let s := s.atsSweep
  match s.links.ats.find? fun a => a.id = s.ev.a with
  | none => .next s
  | some a =>
    if !a.priv || s.ctl.devTime < a.startNs + 100000 then .next s
    else
      .next (((s.atsLeft a).foldl (fun (s : State) c =>
        match s.eng.jobs.find? fun j => j.id = c.1 with
        | some j => s.atsAbort a j
        | none => s) s).atsSweep)

/-! ### Host writes (spec/08_memory.md R207, spec/09_ordering.md R233) -/

/-- HOST_DMA_WRITE of `ev.data`: `ev.b` = 0, to address `ev.a` of context `ev.c` in device memory, at the memory
controllers; 1, to the host's own memory at bus address `ev.a` (assumption log 34). -/
def execHostDmaWrite (s : State) : Out :=
  if s.ev.b = 1 then .next (s.hostWrite s.ev.a s.ev.data)
  else
    match s.check 256 s.ev.c .wr (s.ev.a % 2 ^ 48) s.ev.data.length with
    | (s, .error _) => .next s
    | (s, .ok ps) =>
      if ps.any (fun p => p.leaf.kind = 1) || ps.any s.pieceHeld then .next s
      else .next (s.writePieces false 256 s.ev.c ps s.ev.data).1

/-! ### Virtual functions (R386, R392, R393) -/

/-- Records posted meanwhile and those not consumed are discarded and counted; MSI-X is cleared (R393). -/
def State.resetVf (s : State) (v : Vf) : State :=
  let n := (v.evrTail + 2 ^ 32 - v.evrHead) % 2 ^ 32 + (s.links.evWait.filter fun w => w.1 = v.num).length
  { s with links := { s.links with evWait := s.links.evWait.filter fun w => w.1 ≠ v.num } }.setVf
    { v.discard n with evrTail := v.evrHead, msixPend := false }
/-- Held MSI-X is sent on return to state 0 (R393). -/
def Vf.sendHeld (v : Vf) : Vf :=
  if v.msixPend && !v.msixMask && (v.num % 64 = 0 || v.state = 0) then { v with msixPend := false, msixSent := v.msixSent + 1 } else v
/-- A virtual function that is not up: the Novig recovery image runs, which brings up the physical functions only, and no entry of the VF
table names it from before (spec/20_health.md R426; assumption log 131). -/
def State.vfOff (s : State) (v : Vf) : Bool := s.health.novig && v.num % 64 ≠ 0 && v.entry = 0
/-- VF_TABLE_WRITE: `ev.v` to the entry of VF `ev.a`, 64 × die + v (R392, R393). -/
def execVfTableWrite (s : State) : Out :=
  match s.vf? s.ev.a with
  | none => .next s
  | some v =>
    if s.health.novig then .next s
    else
    let w := { v with entry := s.ev.v &&& 0x000003FF00000003#64 }
    .next (if w.state = 3 && v.state ≠ 3 then s.resetVf w else s.setVf w.sendHeld)
/-- FUNCTION_LEVEL_RESET of VF `ev.a`, or of a physical function, whose own ring follows the same rule (R393, R394). -/
def execFunctionLevelReset (s : State) : Out :=
  match s.vf? s.ev.a with
  | none => .next s
  | some v => .next (if s.vfOff v then s else s.resetVf v)
/-- EVENT_RECORD_DELIVERY: the first record that waits for the ring of VF `ev.a` is written, or discarded (R393). -/
def execEventRecordDelivery (s : State) : Out :=
  match s.links.evWait.find? fun w => w.1 = s.ev.a, s.vf? s.ev.a with
  | some w, some v =>
    let out (s : State) : State := { s with links := { s.links with evWait := s.links.evWait.erase w } }
    if !v.evrEn || v.state = 3 then .next ((out s).setVf (v.discard 1))
    else if v.evrRoom then .next ((out s).writeEvent v w.2)
    else .next s
  | _, _ => .next s
/-- TDI_STATE_CHANGE of VF `ev.a` to state `ev.b`: 0 CONFIG_UNLOCKED, 1 CONFIG_LOCKED, 2 RUN, 3 ERROR (R386). -/
def execTdiStateChange (s : State) : Out :=
  match s.vf? s.ev.a with
  | none => .next s
  | some v => .next (if v.tenant && !s.vfOff v && s.ev.b < 4 then s.setVf { v with tdi := s.ev.b } else s)
/-- HOST_ATOMICOP_TO_BAR: answered with Unsupported Request; nothing changes (R386). -/
def execHostAtomicopToBar (s : State) : Out := .next s

/-! ### Registers with no step of their own (R387, R389, R394; spec/15_launch.md R338; spec/20_health.md R427) -/

/-- An event ring's registers at +0, +8 and +18 (hexadecimal) of their block: BASE, CTL and HEAD can be written. -/
def Vf.evrWrite (v : Vf) (off x : Nat) : Vf :=
  match off with
  | 0x00 => { v with evrBase := x % 2 ^ 64 / 4096 * 4096 }
  | 0x08 =>
    let n := bits x 0 4
    { v with evrEn := bit x 8, evrLog := if 4 ≤ n && n ≤ 12 then n else v.evrLog }
  | 0x18 => { v with evrHead := x % 2 ^ 32 }
  | _ => v
/-- A proxy mailbox's registers: BASE and CTL can be written. -/
def Vf.pxWrite (v : Vf) (off x : Nat) : Vf :=
  match off with
  | 0x400 => { v with pxBase := x % 2 ^ 64 / 4096 * 4096 }
  | 0x408 =>
    let n := bits x 0 4
    { v with pxEn := bit x 8, pxLog := if 4 ≤ n && n ≤ 10 then n else v.pxLog }
  | _ => v
/-- A write of the host window table: NOATOM may be cleared, MODE and PRIVATE written (R387). -/
def hostWinWrite (old x : Nat) : Nat := bits x 1 2 * 2 + b2n (bit old 0 && bit x 0)
/-- A write of `x` at an offset of BAR 2 of the physical function of L`die`. -/
def State.barWrite (s : State) (die off x : Nat) : State :=
  if die = 0 && 0x10000 ≤ off && off < 0x18000 && off % 32 = 8 then
    match s.queue? ((off - 0x10000) / 32) with
    | some q => s.setQueue { q with base := x % 2 ^ 64 / 256 * 256 }
    | none => s
  else if die = 0 && off = 0x10 then s.setTag (bits x 16 6) (bits x 0 12)
  else if die = 0 && off = 0x18 then s.clearTag (bits x 16 6) (bits x 0 12)
  else if die = 0 && 0x10000 ≤ off && off < 0x18000 && off % 32 = 0 then
    match s.queue? ((off - 0x10000) / 32) with
    | some q => if s.health.novig then s else s.setQueue (q.ctlWrite x)
    | none => s
  else if off = 0x60008 then { s with health := { s.health with decodeEn := bit x 0 } }
  else if 0x62000 ≤ off && off < 0x62100 then
    match s.vf? (64 * die) with
    | some v => s.setVf (v.evrWrite (off - 0x62000) x)
    | none => s
  else if 0x80000 ≤ off && off < 0xC0000 && off % 4 = 0 then
    let b := (off - 0x80000) / 4
    { s with links := { s.links with hostWin := putAssoc s.links.hostWin b (hostWinWrite (s.hostWinOf b) x) } }
  else s
/-- REGISTER_WRITE of `ev.v` at offset `ev.b`: `ev.a` = 0 or 1, BAR 2 of the physical function of L0 or L1; 2, the doorbell
page of VF `ev.c`, by the owner; 3, the mask of MSI-X vector 0 of VF `ev.c` (R387, R389, R393, R394). Of the
VF table, which has a step of its own, and at offsets that hold no register nothing is written. -/
def execRegisterWrite (s : State) : Out :=
  let x := s.ev.v.toNat
  match s.ev.a with
  | 0 => .next (s.barWrite 0 s.ev.b x)
  | 1 => .next (s.barWrite 1 s.ev.b x)
  | 2 =>
    match s.vf? s.ev.c with
    | none => .next s
    | some v =>
      if !v.tenant || s.vfOff v then .next s
      else .next ((s.setVf (if s.ev.b < 0x480 then v.pxWrite s.ev.b x else v.evrWrite (s.ev.b - 0x480) x)).pumpPx v.num)
  | 3 =>
    match s.vf? s.ev.c with
    | none => .next s
    | some v => .next (if s.vfOff v then s else s.setVf { v with msixMask := bit x 0 }.sendHeld)
  | _ => .next s

/-! ### What the registers read as -/

/-- An entry of the slice table and of the partition table (spec/15_launch.md R351). -/
def SlotEntry.bits_ (e : SlotEntry) : Nat :=
  b2n e.rsv.isSome * 2 ^ 26 + e.rsv.getD 0 % 1024 * 2 ^ 16 + b2n e.closed * 2 ^ 14 + b2n e.moving.isSome * 2 ^ 13
    + b2n e.assigned * 2 ^ 12 + e.lslice % 64 * 2 ^ 6 + e.part % 64
def PartEntry.bits_ (e : PartEntry) : Nat := e.deliv % 2 ^ 32 * 2 ^ 32 + b2n e.auto * 2 ^ 8 + e.target % 128
/-- An event ring's registers as they read (R389, R394). -/
def Vf.evrRead (v : Vf) (off : Nat) : Nat :=
  match off with
  | 0x00 => v.evrBase
  | 0x08 => b2n v.evrEn * 256 + v.evrLog
  | 0x10 => v.evrTail
  | 0x18 => v.evrHead
  | 0x20 => v.evrDisc
  | _ => 0
/-- A doorbell page as its owner reads it, 8 bytes at a multiple of 8: QHEAD and QTAIL of the queues bound to it, and the registers of
R389 (spec/15_launch.md R338). -/
def State.pageRead (s : State) (v : Vf) (off : Nat) : Nat :=
  if off < 0x400 then ((s.doorbell v.num (off / 16)).map fun q => if off % 16 = 0 then q.head else q.tail).getD 0
  else match off with
    | 0x400 => v.pxBase
    | 0x408 => b2n v.pxEn * 256 + v.pxLog
    | 0x410 => v.pxTail
    | 0x418 => v.pxHead
    | _ => if 0x480 ≤ off then v.evrRead (off - 0x480) else 0
/-- The 8 bytes that a host read of BAR 2 of the physical function of L`die` returns at an offset, a multiple of 8; what
holds no register reads as zero (R387; spec/15_launch.md R338, R345, R351; spec/20_health.md R418, R422, R427). -/
def State.barRead (s : State) (die off : Nat) : Nat :=
  if off < 0x18000 then
    if die ≠ 0 then 0
    else if off < 0x10 then match s.sched.evq with | e :: _ => field e.bytes off 8 | [] => 0
    else if 0x100 ≤ off && off < 0x300 then (s.slotE ((off - 0x100) / 8)).bits_
    else if 0x400 ≤ off && off < 0x600 then (s.part ((off - 0x400) / 8)).bits_
    else if 0x10000 ≤ off then
      match s.queue? ((off - 0x10000) / 32) with
      | none => 0
      | some q => match off % 32 with | 0 => q.ctl | 8 => q.base | 16 => q.head | _ => q.tail
    else 0
  else if 0x50000 ≤ off && off < 0x50400 then ((s.vf? ((off - 0x50000) / 8)).map fun v => v.entry.toNat).getD 0
  else if off = 0x60000 then s.healthReg
  else if off = 0x60008 then b2n s.health.decodeEn
  else if 0x61000 ≤ off && off < 0x62000 then field (s.health.selfTest.getD ((off - 0x61000) / 16) []) (off % 16) 8
  else if 0x62000 ≤ off && off < 0x62100 then ((s.vf? (64 * die)).map fun v => v.evrRead (off - 0x62000)).getD 0
  else if 0x80000 ≤ off && off < 0xC0000 then
    s.hostWinOf ((off - 0x80000) / 4) + 2 ^ 32 * s.hostWinOf ((off - 0x80000) / 4 + 1)
  else 0

/-- The 8 bytes that the auditor reads at an offset of BAR 2 of virtual function 63 of either link die: the health register and the
self-test table (spec/20_health.md R418, R422); none while that function is not up (R426). -/
def State.auditRead (s : State) (off : Nat) : Option Nat :=
  if s.health.novig then none
  else some (if off = 0x60000 || (0x61000 ≤ off && off < 0x62000) then s.barRead 0 off else 0)

/-! ### The scheduler window as the operator's own loads and stores reach it (spec/15_launch.md R338, R345; assumption log 109) -/

/-- A load of `n` bytes at an offset of the window; the 16 bytes of EVQ pop their entry when the control core of C0 reads them. -/
def State.schedLoad (s : State) (core off n : Nat) : State × List Byte :=
  if off = 0 && n = 16 then
    let r := s.evqRead (core = 256)
    -- what is left of step 4 is the operator thread's own to do
    (match s.sched.evq with | e :: _ => if core = 256 && (s.node? e.node).any (·.posted) then r.1.freeNode e.node else r.1 | [] => r.1, r.2)
  else (s, slice ((List.range (n / 8 + 2)).flatMap fun k => toBytes 8 (s.barRead 0 (off / 8 * 8 + 8 * k))) (off % 8) n)
/-- A store of a register: of 8 bytes, or of 4 to EV_SET or EV_CLR. R10 calls an access outside a register's row a rights fault, no code of
R95 and no step of R210 names one, and an operator thread's store to QHEAD, QTAIL or EVQ here writes nothing, its load of EV_SET or EV_CLR
reads 0 (DESIGN CHOICE, assumption log 132). -/
def State.schedStore (s : State) (off : Nat) (bs : List Byte) : State :=
  if off % 8 = 0 && (bs.length = 8 || (bs.length = 4 && (off = 0x10 || off = 0x18))) then s.barWrite 0 off (ofBytes bs) else s
/-- An operator's pending access to the window is performed. -/
def State.doRegs (s : State) (t : Thread) (p : Pending) (write : Bool) (off n : Nat) (a : HeldAcc) : State :=
  let r := if write then (s.schedStore off a.data, []) else s.schedLoad (s.coreOf t.fg) off n
  r.1.modPend t.fg t.lane p.uid fun q => { q with val := some (if write then [] else loadWords a.ty a.vn r.2), todo := .none }

end Sys2Proof.Machine
end

