-- ==== Sys2Proof/Machine/System.lean ====
section
/-! DEFINITION. System, authority and trap instructions, and the events of contexts and operator records
(spec/04_system.md R87 to R120). -/
namespace Sys2Proof.Machine

/-! ### Traps (R97 to R101, R105, R106, R120) -/

/-- TRAP is taken at its clause boundary (R105). -/
def execTrap (f : FmtZ) (s : State) : Out :=
  .next (issueEach s rightsAll f.guard fun p s t =>
    .ok (s.setThread { t with trapDue := some { code := f.imm.toNat % 4096, addr := BitVec.ofNat 64 (regL s t f.a.toNat 1), iaddr := p.iaddr } }))
def execTret (f : FmtZ) (s : State) : Out :=
  .next (issueEach s rightsOwn f.guard fun _ s t =>
    match t.tret with
    | .trap c => .trap c s.noAddr
    | .ok u =>
      let s := s.setThread u
      .ok (match t.trap.record, u.ret with
        | some r, none => s.leaveInst r.inst [t.lane]
        | _, _ => s))
/-- What a hold keeps is released: threads go on, accesses are made again, jobs, commands, pennants and peers' requests are
checked again (R101, R106; spec/08_memory.md R211). -/
def State.releaseHold (s : State) (h : Held) : State :=
  let s := { s with opr := { s.opr with held := s.opr.held.filter fun e => e.hold ≠ h.hold } }
  let s := { s with threads := s.threads.map fun (t : Thread) =>
    if t.status = .oprHeld h.hold then { t with status := .pooled, pooledAt := s.ticks } else t }
  let s := h.accs.foldl (fun (s : State) a =>
    match s.thread? a.fg a.lane with
    | none => s
    | some t =>
      if a.size ≠ 0 then s.access t a
      else
        let s := s.modPend a.fg a.lane a.uid fun p => { p with held := false }
        { s with sync := { s.sync with reqs := s.sync.reqs.map fun (r : AtomReq) =>
          if r.fg = a.fg then { r with lanes := r.lanes.map fun (l : AtomLane) => if l.uid = a.uid then { l with held := false } else l } else r } }) s
  h.jobs.foldl (fun (s : State) j =>
    match j.1 with
    | 0 => { s with eng := { s.eng with jobs := s.eng.jobs.map fun (x : Job) => if x.id = j.2 then { x with hold := false } else x } }.settleJob j.2
    | 1 => { s with eng := { s.eng with cmds := s.eng.cmds.map fun (x : Cmd) => if x.id = j.2 then { x with hold := false } else x } }
    | 2 =>
      let s := { s with sched := { s.sched with
        pool := s.sched.pool.map fun (n : Node) => if n.id = j.2 then { n with hold := false } else n
        rejects := s.sched.rejects.map fun (x : Reject) => if x.id = j.2 then { x with hold := false } else x } }
      match s.sched.rejects.find? fun x => x.id = j.2 with
      | some x => s.finishReject x
      | none => s
    | _ =>
      match s.links.txHeld.find? fun e => e.1 = j.2 with
      | some e =>
        { s with links := { s.links with txHeld := s.links.txHeld.filter fun x => x.1 ≠ j.2 } }.performTx (Via.of e.2.1) e.2.2
      | none => s) s
def execTretRec (f : FmtZ) (s : State) : Out :=
  .next (issueZ s f rightsOpr fun s t =>
    match s.opr.held.find? fun h => h.hold = bits (regL s t f.a.toNat 1) 0 16 with
    | some h => (s.releaseHold h, .ok (word 0))
    | none => (s, .ok (word 0x4005)))
/-- YIELD ends the trap-critical region at its boundary (R98, R120). In a thread whose guard is false it does nothing, and the
region goes on: R120 does not say so (assumption log 113). -/
def execYield (f : FmtZ) (s : State) : Out :=
  .next (issueEach s rightsAll f.guard fun _ s t => .ok (s.setThread { t with trap := { t.trap with crit := false } }))

/-! ### Control registers (R92, R93, R107; spec/01_machine.md R28, R29) -/

/-- Scope of a control register. -/
inductive CrScope where
  | m | d | k | c | t
  deriving DecidableEq, Repr
/-- A row of R92: scope, number of indices, what the operator, the owner and the auditor may: 0 nothing, 1 read, 2 read and
write. -/
structure CrRow where
  scope : CrScope
  n   : Nat
  opr : Nat
  own : Nat
  aud : Nat
  deriving DecidableEq, Repr
def crRow (cr : Nat) : Option CrRow :=
  match cr with
  | 0x000 => some ⟨.c, 1, 1, 1, 0⟩
  | 0x001 => some ⟨.c, 1, 1, 1, 0⟩
  | 0x002 => some ⟨.c, 8, 1, 1, 0⟩
  | 0x003 => some ⟨.c, 1, 1, 1, 0⟩
  | 0x010 => some ⟨.m, 1, 1, 1, 1⟩
  | 0x011 => some ⟨.c, 1, 1, 1, 0⟩
  | 0x012 => some ⟨.m, 1, 2, 1, 1⟩
  | 0x020 => some ⟨.t, 1, 2, 2, 0⟩
  | 0x021 => some ⟨.t, 1, 2, 2, 0⟩
  | 0x022 => some ⟨.t, 1, 2, 2, 0⟩
  | 0x023 => some ⟨.t, 1, 2, 2, 0⟩
  | 0x024 => some ⟨.t, 1, 1, 1, 0⟩
  | 0x030 => some ⟨.c, 1, 0, 2, 0⟩
  | 0x031 => some ⟨.d, 1, 2, 0, 0⟩
  | 0x038 => some ⟨.d, 1, 2, 0, 0⟩
  | 0x039 => some ⟨.d, 1, 2, 0, 0⟩
  | 0x03A => some ⟨.d, 1, 1, 0, 0⟩
  | 0x040 => some ⟨.m, 1, 2, 1, 1⟩
  | 0x041 => some ⟨.m, 1, 2, 1, 1⟩
  | 0x042 => some ⟨.k, 256, 1, 0, 1⟩
  | 0x050 => some ⟨.m, 1, 2, 1, 1⟩
  | 0x060 => some ⟨.m, 64, 0, 0, 1⟩
  | 0x061 => some ⟨.m, 64, 0, 0, 1⟩
  | 0x062 => some ⟨.m, 256, 0, 0, 1⟩
  | 0x070 => some ⟨.m, 1, 1, 1, 1⟩
  | _ => none
/-- TRAP_STATE (R93). -/
def TrapRegs.state (r : TrapRegs) : Nat := r.count % 64 * 4 + b2n r.crit * 2 + b2n r.inH
/-- A control register as it reads (R92). -/
def State.crRead (s : State) (t : Thread) (c : Ctx) (die cr i : Nat) : Nat :=
  match cr with
  | 0x000 => c.asid
  | 0x001 => c.state
  | 0x002 => field c.meas (8 * i) 8
  | 0x003 => c.saveSeq % 2 ^ 64
  | 0x010 => s.map.version % 2 ^ 64
  | 0x011 => c.rmapAck % 2 ^ 64
  | 0x012 => s.ctl.rmapGrace
  | 0x020 => t.trap.code.toNat
  | 0x021 => t.trap.addr.toNat
  | 0x022 => t.trap.iaddr.toNat
  | 0x023 => t.trap.resume.toNat
  | 0x024 => t.trap.state
  | 0x030 => c.trapVec.toNat
  | 0x031 => (s.ctl.oprVec.getD die 0).toNat
  | 0x038 => s.ctl.opfBase.getD die 0
  | 0x039 => s.ctl.opfHead.getD die 0
  | 0x03A => s.ctl.opfTail.getD die 0
  | 0x040 => s.ctl.chkFrac
  | 0x041 => s.ctl.chkQthr
  | 0x042 => s.halve.ctl.susp.getD i 0
  | 0x050 => s.ctl.pwrMode
  | 0x060 => (s.ctl.cntCfg.getD i 0).toNat
  | 0x061 => s.ctl.cntVal.getD i 0
  | 0x062 => (s.ctl.mons.getD i {}).cfg.toNat
  | 0x070 => s.ctl.devTime % 2 ^ 64
  | _ => 0
/-- DETAIL of the clock bin in a power mode (spec/01_machine.md R23, R28). -/
def clockDetail (mode : Nat) : Nat := mode + 16 * (match mode with | 0 => 1800 | 1 => 1500 | _ => 1200)
/-- A control register written under its write rules (R92, R93; spec/01_machine.md R29). Of OPF_BASE the low bits are cleared before the
range is tested, which R92 leaves open (DESIGN CHOICE, assumption log 134). -/
def State.crWrite (s : State) (t : Thread) (asid die cr x : Nat) : State :=
  let trap (f : TrapRegs → TrapRegs) : State := s.modThread t.fg t.lane fun u => { u with trap := f u.trap }
  match cr with
  | 0x012 => { s with ctl := { s.ctl with rmapGrace := Nat.max 4096 (x % 2 ^ 32) } }
  | 0x020 => trap fun r => { r with code := BitVec.ofNat 16 x }
  | 0x021 => trap fun r => { r with addr := BitVec.ofNat 64 x }
  | 0x022 => trap fun r => { r with iaddr := BitVec.ofNat 64 x }
  | 0x023 => trap fun r => { r with resume := BitVec.ofNat 64 x &&& 0xF1FFFFFFFFFFFFFC#64 }
  | 0x030 => s.modCtx asid fun c => { c with trapVec := BitVec.ofNat 64 (x / 4 * 4) }
  | 0x031 => { s with ctl := { s.ctl with oprVec := s.ctl.oprVec.set die (BitVec.ofNat 64 x) } }
  | 0x038 =>
    let b := x % 2 ^ 64 / 8192 * 8192
    { s with ctl := { s.ctl with opfBase := s.ctl.opfBase.set die (if 0x600000 ≤ b && b ≤ 0x3FFE000 then b else 0) } }
  | 0x039 => { s with ctl := { s.ctl with opfHead := s.ctl.opfHead.set die (x % 256) } }
  | 0x040 => { s with ctl := { s.ctl with chkFrac := Nat.min 512 (x % 2 ^ 32) } }
  | 0x041 => { s with ctl := { s.ctl with chkQthr := x % 2 ^ 16 } }
  | 0x050 =>
    if x % 4 = 3 then s
    else { s with ctl := { s.ctl with pwrMode := x % 4 } }.publish (s.map.units.set 378 (0, clockDetail (x % 4)))
  | _ => s
/-- What an authority may do with a register. -/
def CrRow.may (r : CrRow) (a : Auth) : Nat := match a with | .operator => r.opr | .owner => r.own | .auditor => r.aud
/-- The context that a C-scope access means, or why there is none: the operator must name one, an owner may name only its
own, and only C scope takes a name (R107). `need` is 1 for a read, 2 for a write. That an index out of range comes before a missing right,
and that a name which the auditor gives for another scope answers as the operator's, are the model's (DESIGN CHOICE, assumption log 135). -/
def State.crCtx (s : State) (t : Thread) (cr i need : Nat) (given : Option Nat) : Except Nat (Option Ctx) :=
  let asid := s.asidOf t.fg
  let a := authOf asid
  match crRow cr with
  | none => .error 0x4004
  | some r =>
    if r.n ≤ i then .error 0x4004
    else if r.may a < need then .error 0x4002
    else
      match a, given with
      | .owner, some _ => .error 0x4002
      | .owner, none => .ok (s.ctx? asid)
      | _, g =>
        match r.scope, g with
        | .c, some k => match s.ctx? k with | some c => .ok (some c) | none => .error 0x4004
        | .c, none => .error 0x4004
        | _, some _ => .error 0x4004
        | _, none => .ok none
/-- CRD (R107). -/
def execCrd (f : FmtZ) (s : State) : Out :=
  let cr := f.cr.toNat
  .next (issueZ s f { opr := true, own := true, aud := true } fun s t =>
    let g := if f.a.toNat = 248 then none else some (regL s t f.a.toNat 1)
    match s.crCtx t cr f.imm.toNat 1 g with
    | .error c => (s, .error c)
    | .ok c => (s, .ok (natWords (s.crRead t (c.getD { asid := 0 }) (dieOfCore (s.coreOf t.fg)) cr f.imm.toNat) (crRegs cr))))
/-- CWR (R107): the register is written, and its new value returned. -/
def execCwr (f : FmtZ) (s : State) : Out :=
  let cr := f.cr.toNat
  .next (issueZ s f rightsAll fun s t =>
    match s.crCtx t cr f.imm.toNat 2 none with
    | .error c => (s, .error c)
    | .ok _ =>
      let asid := s.asidOf t.fg
      let die := dieOfCore (s.coreOf t.fg)
      let s := s.crWrite t asid die cr (regL s t f.a.toNat (crRegs cr))
      let t := (s.thread? t.fg t.lane).getD t
      (s, .ok (natWords (s.crRead t ((s.ctx? asid).getD { asid := 0 }) die cr f.imm.toNat) (crRegs cr))))

/-! ### The map and milestones (R102, R108; spec/01_machine.md R26) -/

def execMaprd (f : FmtZ) (s : State) : Out :=
  .next (issueZ s f { opr := true, own := true, aud := true } fun s t =>
    let k := regL s t f.a.toNat 1 + f.imm.toNat
    if 1024 ≤ k then (s, .error 0x4004) else (s, .ok (natWords (s.map.entry k) 4)))
def execMapack (f : FmtZ) (s : State) : Out :=
  .next (issueZ s f rightsOwn fun s t =>
    let v := regL s t f.a.toNat 2
    if v = s.map.version then
      (s.modCtx (s.asidOf t.fg) fun c => { c with rmapAck := v, milePending := false, grace := none }, .ok (word 1))
    else (s, .ok (word 0)))
/-- GRACE_PERIOD_EXPIRY of context `ev.a` (R26, R102). -/
def execGracePeriodExpiry (s : State) : Out :=
  match s.ctx? s.ev.a with
  | none => .next s
  | some c =>
    match c.grace with
    | none => .next s
    | some e =>
      if c.state ≠ 1 || !c.milePending || s.ctl.cycle < e then .next s
      else
        .next (((s.modCtx c.asid fun c => { c with state := 3, grace := none }).record { die := 0, code := 0xB003, asid := c.asid }).stopBlocks
          fun b => b.asid = c.asid)

/-! ### Operator records (R100) -/

/-- The 32 bytes of a record. -/
def OprRec.bytes (r : OprRec) : List Byte :=
  padTo 32 (toBytes 2 r.code ++ toBytes 2 r.asid ++ toBytes 2 r.core ++ toBytes 2 r.hold ++ toBytes 8 r.page ++ toBytes 8 r.time
    ++ toBytes 4 r.threads ++ toBytes 1 r.sub ++ toBytes 1 r.lane)
/-- OPF_RECORD_WRITE on die `ev.a`: the first record that waits there enters the ring, unless it is full or has no base. -/
def execOpfRecordWrite (s : State) : Out :=
  let d := s.ev.a
  let base := s.ctl.opfBase.getD d 0
  let tail := s.ctl.opfTail.getD d 0
  match s.opr.waiting.find? fun r => r.die = d with
  | none => .next s
  | some r =>
    if base = 0 || (tail + 1) % 256 = s.ctl.opfHead.getD d 0 then .next s
    else
      let s := s.hwWrite 3 (base + 32 * tail) r.bytes
      .next { s with
        opr := { s.opr with waiting := s.opr.waiting.erase r }
        ctl := { s.ctl with opfTail := s.ctl.opfTail.set d ((tail + 1) % 256) } }

/-! ### Operands in memory (R104) -/

/-- Why an operand in memory is not read or written: a fault that traps at issue, with a class 0x3 code; another failure, whose code is the
status in D; or bytes of a peer that have not come, a store that the controllers keep back (R104). -/
inductive OpStop where
  | fault (code addr : Nat)
  | status (code : Nat)
  | stall (lines : List (Nat × Nat))
  deriving DecidableEq, Repr
/-- What a failure of R210 does to an instruction with operands in memory: codes outside class 0x3 are statuses (R104). -/
def opFail (code addr : Nat) : OpStop := if code / 0x1000 = 3 then .fault code addr else .status code
def OpStop.res (e : OpStop) (put : Nat → Res) : Res :=
  match e with
  | .fault c a => .trap c (BitVec.ofNat 64 a)
  | .status c => put c
  | .stall ls => .stall ls
/-- The bytes of an operand that lies at a peer, in part at least: what lies here is read, and the lines of the peer must have come
(R104, spec/08_memory.md R194, R210). -/
def State.peerOpRead (s : State) (t : Thread) (iaddr : DWord) (ea n : Nat) : State × Except OpStop (List Byte) :=
  let core := s.coreOf t.fg
  let asid := s.asidOf t.fg
  match s.check core asid .rd ea n with
  | (s, .error e) => (s, .error (opFail e.1 e.2))
  | (s, .ok ps) =>
    match s.readPieces false core asid (ps.filter fun p => p.peer.isNone) with
    | (s, .done here) =>
      let inbox := askedBytes t.opIn iaddr
      match s.lostAt core asid ps, askedBad t.opIn iaddr, missing inbox ps with
      | some a, _, _ => (s, .error (opFail 0x8004 a))
      | none, some e, _ => (s, .error (opFail e.1 e.2))
      | none, none, [] => (s, .ok (gatherBytes inbox (s.divertOf (s.blkId t.fg)) ps here))
      | none, none, ls => (s, .error (.stall ls))
    | (s, .err c a) => (s, .error (opFail c a))
    | (s, _) => (s, .error (.stall []))
/-- Bytes of an operand (R104), once the earlier accesses of the thread that must be made before have been (R215; spec/09_ordering.md
R222, R233): identity 0 is before none of them. -/
def State.opRead (s : State) (t : Thread) (iaddr : DWord) (ea n : Nat) : State × Except OpStop (List Byte) :=
  if s.accWaits t 0 { ea := ea, n := n, rd := true } then (s, .error (.stall []))
  else
  match s.load false (s.coreOf t.fg) (s.asidOf t.fg) (s.blkId t.fg) ea n with
  | (s, .done b) => (s, .ok b)
  | (s, .err c a) | (s, .hold c a) => (s, .error (opFail c a))
  | (s, .regs off) => let r := s.schedLoad (s.coreOf t.fg) off n; (r.1, .ok r.2)
  | (s, .wait) => (s, .error (.stall []))
  | (s, .peer _) => s.peerOpRead t iaddr ea n
/-- An operand that lies at a peer, in part at least, is written: what lies here, and a request for each line of the peer, like a store of
the thread that has left it (R104; spec/08_memory.md R194, R214; assumption log 126). -/
def State.peerOpWrite (s : State) (t : Thread) (ea : Nat) (b : List Byte) : State × Except OpStop Unit :=
  let core := s.coreOf t.fg
  let asid := s.asidOf t.fg
  match s.check core asid .wr ea b.length with
  | (s, .error e) => (s, .error (opFail e.1 e.2))
  | (s, .ok ps) =>
    if ps.any s.pieceHeld then (s, .error (.stall []))
    else
      let one (s : State) (p : Piece) : State :=
        let me := slice b ((p.ea + 2 ^ 64 - ea) % 2 ^ 64) p.n
        if p.peer.isSome then s else s.putOne false core asid (s.blkId t.fg) p me
      let send (s : State) (l : Nat × Nat) : State :=
        let (q, s) := s.newUid
        s.pushOut { id := q, kind := 1, rank := bits l.1 48 9 - 1, addr := l.1 % 2 ^ 48, size := l.2, asid := asid, fg := t.fg, lane := t.lane, uid := q
                    data := slice b ((l.1 + 2 ^ 64 - ea) % 2 ^ 64) l.2 }
      ((lineGroups none (ps.filter fun p => p.peer.isSome)).foldl send (ps.foldl one s), .ok ())
def State.opWrite (s : State) (t : Thread) (ea : Nat) (b : List Byte) : State × Except OpStop Unit :=
  if s.accWaits t 0 { ea := ea, n := b.length, wr := true } then (s, .error (.stall []))
  else
  match s.store false (s.coreOf t.fg) (s.asidOf t.fg) (s.blkId t.fg) ea b with
  | (s, .done _) => (s, .ok ())
  | (s, .err c a) | (s, .hold c a) => (s, .error (opFail c a))
  | (s, .regs off) => (s.schedStore off b, .ok ())
  | (s, .wait) => (s, .error (.stall []))
  | (s, .peer _) => s.peerOpWrite t ea b
/-- Threads of a path that cannot issue an instruction yet, with the lines of peers that it needs. -/
def opAsks (s : State) (r : Rights) (g : Guard) (p : Path) (f : State → Thread → Res) : List (Nat × List (Nat × Nat)) :=
  p.lanes.filterMap fun lane =>
    (s.thread? p.fg lane).bind fun t =>
      let t := { t with pc := p.pc, idx := p.idx }
      if r.ok (authOf (s.asidOf p.fg)) && g.on t then
        match f (s.setThread t.passed) t.passed with
        | .stall ls => some (lane, ls)
        | _ => none
      else none
/-- Issues an instruction with operands in memory per thread: its path stalls, and asks peers for what is missing, until every operand
has come (R104). -/
def issueOps (s : State) (r : Rights) (g : Guard) (f : Path → State → Thread → Res) : State :=
  match s.paths with
  | [] => s
  | p :: _ =>
    match opAsks s r g p (f p) with
    | [] => issueEach s r g f
    | l => l.foldl (fun (s : State) e =>
        match s.thread? p.fg e.1 with
        | none => s
        | some t =>
          let x := s.ask (s.asidOf p.fg) p.fg e.1 p.iaddr t.opIn e.2
          x.1.modThread p.fg e.1 fun u => { u with opIn := x.2 }) s
/-- A word of a pair whose value the spec does not give. -/
def State.anyWord (s : State) : Nat := Config.freeValue s.ticks
/-- Issues a system instruction of format L whose outcome is known at once. -/
def issueLong (s : State) (f : FmtL) (r : Rights) (n : Nat) (go : Path → State → Thread → State × Except OpStop (List Nat)) : State :=
  issueOps s r f.guard fun p s t =>
    let put (s : State) (ws : List Nat) : Res :=
      match s.thread? t.fg t.lane with
      | some u => .ok (s.pendL u { fmtLPend f p n with val := some ((ws ++ [s.anyWord]).take n |>.map (BitVec.ofNat 32)) })
      | none => .ok s
    match go p s t with
    | (_, .error e) => e.res fun c => put s [c]
    | (s, .ok ws) => put s ws

/-! ### Sealing, ending and restoring contexts (R91, R109, R110) -/

/-- The length of a context's image, which R109 does not give (DESIGN CHOICE, assumption log 136). -/
def State.sealLen (s : State) (asid : Nat) : Nat :=
  4096 * ceilDiv (80 + 8192 + ((s.blocks.filter fun b => b.asid = asid).map s.imageSize).sum) 4096
/-- The bytes of some numbers below 256, and back. -/
def natsB (l : List Nat) : List Byte := l.map (BitVec.ofNat 8)
def bNats (l : List Byte) : List Nat := l.map (·.toNat)
/-- The header of an image: bytes 0 to 63 (R109). -/
def imageHead (asid seq version n : Nat) : List Byte :=
  "KRNIMAGE".toList.map (fun c => BitVec.ofNat 8 c.toNat) ++ toBytes 2 asid ++ toBytes 6 0 ++ toBytes 8 seq
    ++ toBytes 8 version ++ toBytes 8 n ++ toBytes 2 asid ++ toBytes 8 seq ++ toBytes 2 0 ++ toBytes 12 0
/-- An image: the header, the plaintext under AES-256-GCM with the nonce of bytes 40 to 51 and the header as associated data, the
tag (R109). -/
def sealImage (key : Nat) (head text : List Byte) : List Byte :=
  let k := natBytes 32 key
  let iv := bNats (slice head 40 12)
  let ct := gcmText k iv (bNats text)
  head ++ natsB ct ++ natsB (gcmTag k iv (bNats head) ct)
/-- The plaintext of an image, when its tag is right (R109, R110). -/
def openImage (key : Nat) (img : List Byte) : Option (List Byte) :=
  let k := natBytes 32 key
  let head := img.take 64
  let iv := bNats (slice head 40 12)
  let ct := bNats ((img.drop 64).take (img.length - 80))
  if 80 ≤ img.length && natsB (gcmTag k iv (bNats head) ct) = img.drop (img.length - 16) then some (natsB (gcmText k iv ct)) else none
/-- Whether a context has stopped, with nothing held but threads (R109, R211). -/
def State.sealReady (s : State) (asid : Nat) : Bool :=
  (s.blocks.all fun b => b.asid ≠ asid || b.place = .stopped || b.place = .sealed) &&
    (s.opr.held.all fun h => h.asid ≠ asid || (h.accs.isEmpty && h.jobs.isEmpty))
/-- Steps 2 to 4 of CTXSAVE.seal. A pending MSI-X of a paused function travels in the image (spec/17_links.md R393). What the
store of the image meets after the checks at issue, R104 does not say: the image is then not written, and the context is sealed all
the same (assumption log 6). -/
def State.finishSeal (s : State) (x : SealCmd) : State :=
  let s := { s with sched := { s.sched with seals := s.sched.seals.filter fun y => y ≠ x } }
  let commit (s : State) (a b : Nat) : State :=
    s.modPend x.fg x.lane x.uid fun p => { p with val := some [BitVec.ofNat 32 a, BitVec.ofNat 32 b], todo := .none }
  match s.ctx? x.asid with
  | none => commit s 0xB011 s.anyWord
  | some c =>
    if c.state ≠ 1 && c.state ≠ 3 then commit s 0xB011 s.anyWord
    else
      let n := s.sealLen x.asid
      let seq := (c.saveSeq + 1) % 2 ^ 64
      let text := padTo (n - 80) (Config.imageText s.fresh)
      let s := (s.store false (s.coreOf x.fg) (s.asidOf x.fg) 0 x.addr (sealImage c.key (imageHead x.asid seq s.map.version n) text)).1
      let msix := (s.links.vfs.find? fun v => v.tenant && v.asid = x.asid && v.state = 2 && v.msixPend)
      let s := match msix with | some v => s.setVf { v with msixPend := false } | none => s
      let ids := (s.blocks.filter fun b => b.asid = x.asid).map (·.id)
      let s := { s with
        fresh := s.fresh + 1
        images := s.images ++ [({ asid := x.asid, seq := seq, text := text, msix := msix.isSome } : SealedImage)]
        blocks := s.blocks.map fun (b : Block) => if b.asid = x.asid then { b with place := .sealed } else b
        sched := { s.sched with images := s.sched.images.filter fun i => !ids.contains i.1 } }
      commit (s.modCtx x.asid fun c => { c with state := 2, saveSeq := seq, grace := none }) 0 (n / 4096)
/-- Seals whose contexts have stopped are finished. -/
def State.settleSeals (s : State) : State :=
  (s.sched.seals.filter fun x => s.sealReady x.asid || (match s.ctx? x.asid with | some c => c.state ≠ 1 && c.state ≠ 3 | none => true)).foldl
    State.finishSeal s
/-- Everything that is stopping, the seals that wait for it, and the answers that are due to other dies. -/
def State.settleAll (s : State) : State := s.settle.settleSeals.answerLost

/-- CTXSAVE.seal (R109). An address that is not aligned to 8 bytes is taken as it is (DESIGN CHOICE, assumption log 136). -/
def execCtxsaveSeal (f : FmtL) (s : State) : Out :=
  .next (issueEach s rightsOpr f.guard fun p s t =>
    let asid := regL s t f.a.toNat 1
    let ok := match s.ctx? asid with | some c => c.state = 1 || c.state = 3 | none => false
    if !ok then .ok (s.pendL t { fmtLPend f p 2 with val := some [0xB011#32, BitVec.ofNat 32 s.anyWord] })
    else
      let addr := regL s t f.b.toNat 2
      match s.check (s.coreOf t.fg) (s.asidOf t.fg) .wr addr (s.sealLen asid) with
      | (s, .error e) => (opFail e.1 e.2).res fun c => .ok (s.pendL t { fmtLPend f p 2 with val := some [BitVec.ofNat 32 c, BitVec.ofNat 32 s.anyWord] })
      | (s, .ok _) =>
        let s := s.stopBlocks fun b => b.asid = asid
        let q := s.pendU t { fmtLPend f p 2 with todo := .wait }
        let x : SealCmd := { fg := t.fg, lane := t.lane, uid := q.1, asid := asid, addr := addr }
        .ok { q.2 with sched := { q.2.sched with seals := q.2.sched.seals ++ [x] } }.settleAll)
/-- CTXSAVE.reset (R109): the context ends; the operation completes when it has ended (R104). -/
def execCtxsaveReset (f : FmtL) (s : State) : Out :=
  .next (issueEach s rightsOpr f.guard fun p s t =>
    let asid := regL s t f.a.toNat 1
    let ok := match s.ctx? asid with | some c => c.state ≠ 0 && c.state ≠ 5 | none => false
    if !ok then .ok (s.pendL t { fmtLPend f p 2 with val := some [0xB011#32, BitVec.ofNat 32 s.anyWord] })
    else
      let q := (s.endContext asid 0xB022 0).pendU t { fmtLPend f p 2 with todo := .wait }
      .ok (q.2.modCtx asid fun c => { c with endWait := c.endWait ++ [q.1] }))

/-- Physical 64 KiB pages that a table of level `n` maps with leaves of KIND 0: first page and number (R198). -/
def State.leafPages (s : State) : (n : Nat) → (table : Nat) → List (Nat × Nat)
  | 0, _ => []
  | n + 1, table =>
    (List.range (if n = 0 then 32 else 512)).flatMap fun k =>
      let e := s.physNat (table + 16 * k) 16
      if !bit e 0 then []
      else if bit e 6 then (if bits e 4 2 = 0 && n < 3 then [(bits e 32 64 / 65536, 2 ^ (levelLg (n + 1) - 16))] else [])
      else if n = 0 then [] else s.leafPages n (bits e 32 64)
/-- What a context maps of device memory. -/
def State.ctxPages (s : State) (asid : Nat) : List (Nat × Nat) :=
  let r := s.physNat (rootAddr asid) 16
  if bit r 64 then s.leafPages 4 (r % 2 ^ 64) else []
def inPages (l : List (Nat × Nat)) (p : Nat) : Bool := l.any fun e => e.1 ≤ p && p < e.1 + e.2
/-- What the live contexts but one map (R91). A context is live in states 1 to 4: a free one and one that is ending are not
(assumption log 114). -/
def State.livePages (s : State) (but : Nat) : List (Nat × Nat) :=
  (s.ctxs.filter fun c => c.asid ≠ but && c.state ≠ 0 && c.state ≠ 5).flatMap fun c => s.ctxPages c.asid

/-- The key slots of a context, and the lines that they encrypt, are gone (R91). -/
def State.forgetKeys (s : State) (asid : Nat) : State :=
  { s with mem := { s.mem with
      keySlots := s.mem.keySlots.filter fun k => k.owner ≠ asid
      l1 := s.mem.l1.filter fun (x : Line) => x.asid ≠ asid, slice := s.mem.slice.filter fun (x : Line) => x.asid ≠ asid } }
/-- The numbers of the buffer-table records that some byte of memory is listed for; any other record reads as not VALID. -/
def State.bufNums (s : State) : List Nat :=
  ((s.mem.phys.filter fun c => 0x200000 ≤ c.1 && c.1 < 0x400000).map fun c => (c.1 - 0x200000) / 32).eraseDups
/-- The buffer-table records that a context owns are cleared: VALID := 0 (R91; spec/08_memory.md R201). -/
def State.clearRecords (s : State) (asid : Nat) : State :=
  (s.bufNums.filter fun b => (s.bufRec b).ok && (s.bufRec b).owner = asid).foldl
    (fun (s : State) b => s.hwWrite 2 (0x200000 + 32 * b + 20) [BitVec.ofNat 8 ((s.bufRec b).flags - 1)]) s
/-- CONTEXT_END_DONE of context `ev.a`: steps 2 to 5 of its ending, and it is free (R91). -/
def execContextEndDone (s : State) : Out :=
  match s.ctx? s.ev.a with
  | none => .next s
  | some c =>
    if c.state ≠ 5 then .next s
    else
      let asid := c.asid
      let others := s.livePages asid
      -- the event's store passes no check after step 4: it is made first (R342; assumption log 125)
      let s := if c.endCode = 0 then s else s.hwEvent asid 0x8001 c.endCode c.endDetail
      let pages := ((s.ctxPages asid).flatMap fun e => (List.range e.2).map (e.1 + ·)).eraseDups.filter fun p => p < 2 ^ 23 && !inPages others p
      let s := pages.foldl State.setScrub s
      let s := (s.forgetKeys asid).clearRecords asid
      let s := { s with
        images := s.images.filter fun i => i.asid ≠ asid
        sync := { s.sync with layby := s.sync.layby.filter fun p => p.asid ≠ asid } }
      let s := if c.endCode = 0 then s
        else s.record { die := 0, code := c.endCode, asid := asid, threads := pages.length }
      let s := { s.forgetKeys asid with ctxs := s.ctxs.filter fun d => d.asid ≠ asid }
      .next { s with threads := s.threads.map fun (t : Thread) =>
        { t with pend := t.pend.map fun p => if c.endWait.contains p.uid then { p with val := some [0, BitVec.ofNat 32 s.anyWord], todo := .none } else p } }

/-- The threads of a context have not seen the present VERSION, where a milestone is due (R26). -/
def State.unseen (s : State) (asid : Nat) (due : Bool) : State :=
  let gs := (s.fgs.filter fun g => s.asidOf g.id = asid).map (·.id)
  if due then
    { s with threads := s.threads.map fun (t : Thread) => if gs.contains t.fg then { t with trap := { t.trap with mileSeen := 0 } } else t }
  else s
/-- A context has cluster slots reserved (R110; spec/15_launch.md R360). -/
def State.hasSlots (s : State) (asid : Nat) : Bool := s.sched.slots.any fun e => e.rsv = some asid
/-- A block of another module's image takes its place among the stopped ones, its identities moved up by `k`; no milestone of this module
has been seen in it (R26, R109, R110). -/
def State.putImage (s : State) (asid k : Nat) (x : ImageBlock) : State :=
  let up (p : Pending) : Pending := { p with uid := p.uid + k }
  { s with
    blocks := s.blocks ++ [{ x.block with id := x.block.id + k, asid := asid, place := .stopped, stopSeq := s.sched.stopSeq }]
    fgs := s.fgs ++ x.fgs.map fun g => { g with id := g.id + k, blk := x.block.id + k }
    threads := s.threads ++ x.threads.map fun t => { t with
      fg := t.fg + k, pend := t.pend.map up, trap := { t.trap with mileSeen := 0, record := t.trap.record.map fun r => { r with pend := r.pend.map up } } }
    eng := { s.eng with
      slots := s.eng.slots ++ x.slots.map fun e => { e with blk := x.block.id + k, job := e.job + k }
      banks := s.eng.banks ++ x.banks.map fun e => { e with blk := x.block.id + k }
      jobs := s.eng.jobs ++ x.jobs.map fun j => { j with id := j.id + k, blk := x.block.id + k, edges := j.edges.map (· + k) }
      cmds := s.eng.cmds ++ x.cmds.map fun c => { c with id := c.id + k, blk := x.block.id + k, edges := c.edges.map (· + k) } } }
/-- The state that another module's image restores (R110; assumption log 6). -/
def State.restoreForeign (s : State) (asid : Nat) (text : List Byte) : State × Bool :=
  let img := imageState text
  let top := (img.blocks.flatMap fun x => List.flatten [[x.block.id], x.fgs.map (·.id), x.jobs.map (·.id), x.cmds.map (·.id),
    x.threads.flatMap fun t => (t.pend ++ ((t.trap.record.map (·.pend)).getD [])).map (·.uid)]).foldl Nat.max 0
  let s := img.blocks.foldl (fun (s : State) x => s.putImage asid s.uid x) s
  (({ s with uid := s.uid + top + 1 } : State).modCtx asid fun c => { c with
    trapVec := BitVec.ofNat 64 (img.trapVec / 4 * 4), records := img.records.map fun r => { r with owner := none }, seals := img.seals }, img.msix)
/-- The state inside an image stands again: the blocks that this module sealed in it, or what another module's image holds. Where a
milestone is pending, each thread takes its trap anew; an MSI-X that travelled is raised again (R26, R110; spec/17_links.md R393). -/
def State.restore (s : State) (c : Ctx) (text : List Byte) : State :=
  let r : State × Bool :=
    match s.images.find? fun i => i.asid = c.asid && i.seq = c.saveSeq && i.text = text with
    | some i =>
      let stop (x : Block) : Block := if x.asid = c.asid ∧ x.place = Place.sealed then { x with place := .stopped, stopSeq := s.sched.stopSeq } else x
      ({ s with blocks := s.blocks.map stop }, i.msix)
    | none => s.restoreForeign c.asid text
  let s := { r.1 with sched := { r.1.sched with stopSeq := r.1.sched.stopSeq + 1 } }
  let due := c.rmapAck ≠ s.map.version
  let s := (s.modCtx c.asid fun c => { c with state := 1, escrow := none, grace := none, milePending := due }).unseen c.asid due
  match (if r.2 then s.vfFor c.asid else none) with
  | some v => s.setVf v.raise
  | none => s
/-- CTXLOAD.image (R110): the tag under the context key, the ASID and SAVESEQ are checked before anything is restored. An image of another
ASID answers 0xB012, for which the rule gives no code (DEDUCED, assumption log 83). -/
def execCtxloadImage (f : FmtL) (s : State) : Out :=
  .next (issueLong s f rightsOpr 1 fun p s t =>
    let asid := regL s t f.a.toNat 1
    let b := regL s t f.b.toNat 2
    match s.ctx? asid with
    | none => (s, .ok [0xB011])
    | some c =>
      if c.state ≠ 2 && c.state ≠ 4 then (s, .ok [0xB011])
      else if !s.hasSlots asid then (s, .ok [0xB010])
      else
        match s.opRead t p.iaddr b 64 with
        | (s, .error e) => (s, .error e)
        | (s, .ok h) =>
          match s.opRead t p.iaddr b (Nat.min (field h 32 8) (2 ^ 39)) with
          | (s, .error e) => (s, .error e)
          | (s, .ok img) =>
            match openImage c.key img with
            | none => (s, .ok [0xB012])
            | some text =>
              if field h 8 2 ≠ asid then (s, .ok [0xB012])
              else if field h 16 8 ≠ c.saveSeq then (s, .ok [0xB013])
              else (s.restore c text, .ok [0]))
/-- CTXLOAD.new (R110). -/
def execCtxloadNew (f : FmtL) (s : State) : Out :=
  .next (issueLong s f rightsOpr 1 fun p s t =>
    let asid := regL s t f.a.toNat 1
    if 1023 < asid || (s.ctx? asid).isSome then (s, .ok [0xB011])
    else
      match s.opRead t p.iaddr (regL s t f.b.toNat 2) 1280 with
      | (s, .error e) => (s, .error e)
      | (s, .ok r) =>
        let c : Ctx := { asid := asid, state := 1, meas := shakeB r 64, rmapAck := s.map.version, recKey := r.take 1184
                         key := Config.freshKey s.fresh % 2 ^ 256, part := field r 1184 2 }
        ({ s with fresh := s.fresh + 1, ctxs := s.ctxs ++ [c] }, .ok [0]))
/-- CTXLOAD.resume (R110; spec/01_machine.md R26). -/
def execCtxloadResume (f : FmtL) (s : State) : Out :=
  .next (issueLong s f rightsOpr 1 fun _ s t =>
    let asid := regL s t f.a.toNat 1
    match s.ctx? asid with
    | none => (s, .ok [0xB011])
    | some c =>
      if c.state ≠ 3 then (s, .ok [0xB011])
      else if !s.hasSlots asid then (s, .ok [0xB010])
      else
        ((s.unseen asid true).modCtx asid fun c => { c with state := 1, milePending := true, grace := none }, .ok [0]))

/-! ### Keys (R111, R112) -/

/-- The key that wraps keys for a context: SHAKE256 of its context key. -/
def wrapKey (c : Ctx) : List Nat := shake256 (natBytes 32 c.key) 32
/-- The number of a free key slot, the highest. -/
def State.freeSlot (s : State) : Option Nat :=
  ((List.range 4096).map (4095 - ·)).find? fun k => !(s.mem.keySlots.any fun x => x.num = k)
/-- KWRAP.give (R111). Blob: buffer number, receiver's ASID, its CTX_MEAS[63:0] at 8, the wrapped key at 16. -/
def execKwrapGive (f : FmtL) (s : State) : Out :=
  .next (issueOps s rightsOwn f.guard fun p s t =>
    let asid := s.asidOf t.fg
    let dest := regL s t f.c.toNat 1
    let buf := regL s t f.a.toNat 1
    let dst := regL s t f.b.toNat 2
    let br := s.bufRec buf
    let put (s : State) (st : Nat) : Res := .ok (s.pendL t { fmtLPend f p 2 with val := some [BitVec.ofNat 32 st, BitVec.ofNat 32 s.anyWord] })
    if s.sideless t.fg then .trap 0x4001 s.noAddr
    else if 65535 < buf || !br.ok || br.owner ≠ asid then put s 0x4007
    else
      match s.ctx? dest with
      | none => put s 0xB011
      | some c =>
        let l : Leaf := { lg := 16, addr := 0, kind := 0, r := true, w := true, x := false, buf := buf, br := br }
        let s := s.ensureKey asid l
        match s.keyOf asid l with
        | none => put s 0x4007
        | some key =>
          let blob := padTo 128 (toBytes 2 buf ++ toBytes 2 dest ++ toBytes 4 0 ++ c.meas.take 8
            ++ (keyWrap (wrapKey c) (natBytes 64 key)).map (BitVec.ofNat 8))
          match s.opWrite t dst blob with
          | (_, .error e) => e.res fun c => put s c
          | (s, .ok _) => put s 0)
/-- KWRAP.take (R111). With every key slot taken it returns 0x4007; the spec names no status for that (assumption log 115). -/
def execKwrapTake (f : FmtL) (s : State) : Out :=
  .next (issueOps s rightsOwn f.guard fun p s t =>
    let asid := s.asidOf t.fg
    let put (s : State) (st slot : Nat) : Res := .ok (s.pendL t { fmtLPend f p 2 with val := some [BitVec.ofNat 32 st, BitVec.ofNat 32 slot] })
    if s.sideless t.fg then .trap 0x4001 s.noAddr
    else
      match s.opRead t p.iaddr (regL s t f.b.toNat 2) 128, s.ctx? asid with
      | (_, .error e), _ => e.res fun c => put s c s.anyWord
      | (s, .ok _), none => put s 0xB012 s.anyWord
      | (s, .ok b), some c =>
        match keyUnwrap (wrapKey c) ((slice b 16 72).map (·.toNat)) with
        | none => put s 0xB012 s.anyWord
        | some key =>
          if field b 2 2 ≠ asid || slice b 8 8 ≠ c.meas.take 8 then put s 0xB012 s.anyWord
          else
            match s.freeSlot with
            | none => put s 0x4007 s.anyWord
            | some k =>
              let slot : KeySlot := { num := k, key := bytesNat key, owner := asid, buf := some (field b 0 2) }
              put { s with mem := { s.mem with keySlots := s.mem.keySlots ++ [slot] } } 0 k)
/-- What an escrow blob carries: the context key, CTX_SAVESEQ, the ASID, and each slot with its number, the buffer it is bound to, if to
one, and its key (R111; its layout is assumption log 47). -/
structure Escrowed where
  key  : Nat
  seq  : Nat
  asid : Nat
  slots : List (Nat × Option Nat × Nat)
  deriving DecidableEq, Repr
def Escrowed.bytes (e : Escrowed) : List Byte :=
  toBytes 32 e.key ++ toBytes 8 e.seq ++ toBytes 2 e.asid ++ toBytes 2 e.slots.length
    ++ e.slots.flatMap fun x => toBytes 2 (x.1 + b2n x.2.1.isSome * 2 ^ 15) ++ toBytes 2 (x.2.1.getD 0) ++ toBytes 64 x.2.2
def Escrowed.of (b : List Byte) : Escrowed :=
  { key := field b 0 32, seq := field b 32 8, asid := field b 40 2
    slots := (List.range (Nat.min 4096 (field b 42 2))).map fun k =>
      let n := field b (44 + 68 * k) 2
      (n % 4096, if bit n 15 then some (field b (46 + 68 * k) 2) else none, field b (48 + 68 * k) 64) }
/-- What of a context its escrow carries. -/
def State.escrowed (s : State) (c : Ctx) : Escrowed :=
  { key := c.key, seq := c.saveSeq, asid := c.asid
    slots := (s.mem.keySlots.filter fun k => k.owner = c.asid && !k.dropped).map fun k => (k.num, k.buf, k.key) }
/-- A blob: the lengths of two capsules, 8 bytes each, and the capsules (assumption log 47). -/
def blobOf (a b : List Byte) : List Byte := toBytes 8 a.length ++ toBytes 8 b.length ++ a ++ b
/-- The length of a blob by its first 16 bytes. -/
def blobLen (h : List Byte) : Nat := 16 + Nat.min (field h 0 8) (2 ^ 24) + Nat.min (field h 8 8) (2 ^ 24)
/-- What this module can open of a blob: its first capsule (R111). -/
def blobOpen (b : List Byte) : Option Escrowed := (Config.decapsulate (slice b 16 (Nat.min (field b 0 8) (2 ^ 24)))).map Escrowed.of
/-- KWRAP.escrow (R111): the material under the destination's encapsulation key and under the owner's recovery key. The report of the
destination may answer any nonce (DESIGN CHOICE, assumption log 137). -/
def execKwrapEscrow (f : FmtL) (s : State) : Out :=
  .next (issueLong s f rightsOpr 2 fun p s t =>
    let asid := regL s t f.a.toNat 1
    let dst := regL s t f.c.toNat 2
    match s.ctx? asid with
    | none => (s, .ok [0xB011])
    | some c =>
      if c.state ≠ 2 then (s, .ok [0xB011])
      else
        match s.opRead t p.iaddr (regL s t f.b.toNat 2) 10240 with
        | (s, .error e) => (s, .error e)
        | (s, .ok rep) =>
          if field rep 8 2 ≠ 2 || !s.reportOk rep (slice rep 16 32) then (s, .ok [0xB014])
          else
            let m := (s.escrowed c).bytes
            let blob := blobOf (Config.encapsulate (slice rep 256 1184) s.fresh m) (Config.encapsulate c.recKey (s.fresh + 1) m)
            match s.opWrite t dst blob with
            | (s, .error e) => (s, .error e)
            | (s, .ok _) =>
              let e : Escrow := { dest := slice rep 1440 1952, hash := shakeB blob 48 }
              ({ s with fresh := s.fresh + 2 }.modCtx asid fun c => { c with state := 4, escrow := some e }, .ok [0, blob.length]))
/-- The 64 bytes that a receipt signs: source ASID, SAVESEQ at 8, the blob's hash at 16 (R111). -/
def receiptBody (asid seq : Nat) (hash : List Byte) : List Byte := padTo 64 (toBytes 8 asid ++ toBytes 8 seq ++ hash)
/-- The keys of a blob are installed in slots of a context: in new ones, or, on an import by the operator, under the numbers that the
buffer records name, where no slot has that number yet (R202). A key for which no slot is left is not installed (DESIGN CHOICE,
assumption log 133). -/
def State.installSlots (s : State) (asid : Nat) (l : List (Nat × Option Nat × Nat)) (renumber : Bool) : State :=
  let taken (e : Nat × Option Nat × Nat) : Bool := renumber || s.mem.keySlots.any fun y => y.num = e.1
  (l.filter (fun e => !taken e) ++ l.filter taken).foldl (fun (s : State) e =>
    match if renumber || s.mem.keySlots.any (fun y => y.num = e.1) then s.freeSlot else some e.1 with
    | none => s
    | some k =>
      let x : KeySlot := { num := k, key := e.2.2, owner := asid, buf := e.2.1 }
      { s with mem := { s.mem with keySlots := s.mem.keySlots ++ [x] } }) s
/-- The context that an import makes: sealed, with the carried key and SAVESEQ, RMAP_ACK the VERSION at its creation. The spec does
not say what its CTX_MEAS, its recovery key and its partition are: none and 0 here (R92, R111; assumption log 116). -/
def importedCtx (asid version : Nat) (e : Escrowed) : Ctx := { asid := asid, state := 2, saveSeq := e.seq, key := e.key, rmapAck := version }
/-- KWRAP.import, by the operator for a free ASID, or by an owner for its own context, whose A is ignored (R111; DESIGN CHOICE, assumption
log 137). -/
def execKwrapImport (f : FmtL) (s : State) : Out :=
  .next (issueOps s rightsAll f.guard fun p s t =>
    let own := s.asidOf t.fg
    let asid := regL s t f.a.toNat 1
    let src := regL s t f.b.toNat 2
    let dst := regL s t f.c.toNat 2
    let put (s : State) (st : Nat) : Res := .ok (s.pendL t { fmtLPend f p 2 with val := some [BitVec.ofNat 32 st, BitVec.ofNat 32 s.anyWord] })
    if s.sideless t.fg then .trap 0x4001 s.noAddr
    else if own = oprAsid && (1023 < asid || (s.ctx? asid).isSome) then put s 0xB011
    else
      match s.opRead t p.iaddr src 16 with
      | (_, .error e) => e.res fun c => put s c
      | (s, .ok h) =>
        match s.opRead t p.iaddr src (blobLen h) with
        | (_, .error e) => e.res fun c => put s c
        | (s, .ok blob) =>
          match blobOpen blob with
          | none => put s 0xB012
          | some e =>
            if own ≠ oprAsid then put (s.installSlots own e.slots true) 0
            else
              let body := receiptBody e.asid e.seq (shakeB blob 48)
              match s.opWrite t dst (body ++ padTo 3309 (Config.sign body)) with
              | (_, .error e) => e.res fun c => put s c
              | (s, .ok _) => put ({ s with ctxs := s.ctxs ++ [importedCtx asid s.map.version e] }.installSlots asid e.slots false) 0)
/-- KDROP (R112): a slot that the context holds, by a key or by a record that names it. -/
def execKdrop (f : FmtZ) (s : State) : Out :=
  .next (issueEach s rightsOwn f.guard fun _ s t =>
    let asid := s.asidOf t.fg
    let k := regL s t f.a.toNat 1
    let put (s : State) (st : Nat) : Res := .ok (s.modThread t.fg t.lane fun u => u.put f.d.toNat (word st))
    if s.sideless t.fg then .trap 0x4001 s.noAddr
    else if 4095 < k then put s 0x4007
    else
      let gone : KeySlot := { num := k, key := 0, owner := asid, dropped := true }
      match s.mem.keySlots.find? fun x => x.num = k with
      | some x =>
        if x.owner ≠ asid || x.dropped then put s 0x4007
        else put { s with mem := { s.mem with keySlots := s.mem.keySlots.map fun y => if y.num = k then { gone with buf := y.buf } else y } } 0
      | none =>
        if (List.range 65536).any fun b => let r := s.bufRec b; r.ok && r.owner = asid && r.key = k then
          put { s with mem := { s.mem with keySlots := s.mem.keySlots ++ [gone] } } 0
        else put s 0x4007)
/-- KDROP.erase (R112). The receipt must also be for this context's ASID and SAVESEQ, which R111 puts among its 64 bytes; R112 names
the identity and the blob's hash only (assumption log 117). -/
def execKdropErase (f : FmtZ) (s : State) : Out :=
  .next (issueOps s rightsOpr f.guard fun p s t =>
    let asid := f.imm.toNat
    let put (s : State) (st : Nat) : Res := .ok (s.modThread t.fg t.lane fun u => u.put f.d.toNat (word st))
    match s.ctx? asid with
    | none => put s 0xB011
    | some c =>
      match (if c.state = 4 then c.escrow else none) with
      | some e =>
        match s.opRead t p.iaddr (regL s t f.a.toNat 2) 3373 with
        | (_, .error e) => e.res fun c => put s c
        | (s, .ok r) =>
          if Config.verifies e.dest r && r.take 64 = receiptBody asid c.saveSeq e.hash then put (s.endContext asid 0 0) 0
          else put s 0xB014
      | none => put s 0xB011)

/-! ### Attestation (R113) -/

/-- Whose signature the module's certificate is: 1 for the buyer's added key, 0 for Jexxia (R113). -/
def State.certSigner (s : State) : Nat :=
  match s.health.buyerKey with
  | some k => b2n (Config.verifies k (padTo 1952 Config.identityKey ++ padTo 3309 Config.identityCert))
  | none => 0
/-- A report: type, ASID, nonce and measurement given. -/
def State.report (s : State) (kind asid : Nat) (nonce meas : List Byte) : List Byte :=
  let a := "KRNATTST".toList.map (fun c => BitVec.ofNat 8 c.toNat) ++ toBytes 2 kind ++ toBytes 2 asid ++ toBytes 4 0 ++ padTo 32 nonce
    ++ shakeB s.health.bankA 64 ++ toBytes 8 s.map.version ++ toBytes 2 (bits (s.map.entry 0) 80 16) ++ toBytes 6 0 ++ padTo 64 meas
  let b := padTo 256 a ++ (if kind = 2 then padTo 1184 Config.kemKey else List.replicate 1184 0) ++ padTo 1952 Config.identityKey
    ++ padTo 3309 Config.identityCert ++ toBytes 1 s.certSigner ++ toBytes 2 0
  padTo 10240 (b ++ padTo 3309 (Config.sign b))
def issueAttest (s : State) (f : FmtL) (r : Rights) (kind : Nat) : State :=
  issueLong s f r 1 fun p s t =>
    let asid := s.asidOf t.fg
    let dst := regL s t f.a.toNat 2
    let meas := ((s.ctx? asid).map (·.meas)).getD []
    match s.opRead t p.iaddr (regL s t f.b.toNat 2) 32 with
    | (s, .error e) => (s, .error e)
    | (s, .ok nonce) =>
      let rep := s.report kind (if kind = 1 then asid else 0xFFFF) nonce (if kind = 1 then meas else [])
      match s.opWrite t dst rep with
      | (s, .error e) => (s, .error e)
      | (s, .ok _) => (s, .ok [0])
def execAttestCtx (f : FmtL) (s : State) : Out := .next (issueAttest s f rightsOwn 1)
def execAttestModule (f : FmtL) (s : State) : Out := .next (issueAttest s f rightsOpr 2)

/-! ### SCRUB (R115; spec/08_memory.md R205) -/

/-- The leaf that a context's tables give an address, whatever its rights. -/
def State.leafAt (s : State) (t : Thread) (va : Nat) : State × Except Nat Leaf :=
  match s.window (s.asidOf t.fg = oprAsid) va with
  | .ok (va, none) => s.translate (s.coreOf t.fg) (s.asidOf t.fg) va
  | .ok (_, some _) => (s, .error 0x3003)
  | .error c => (s, .error c)
/-- Leaves of a run of 64 KiB pages. -/
def State.leavesOf (s : State) (t : Thread) : (n : Nat) → (va : Nat) → State × List (Nat × Except Nat Leaf)
  | 0, _ => (s, [])
  | n + 1, va =>
    let r := s.leafAt t va
    let q := r.1.leavesOf t n (va + 65536)
    (q.1, (va, r.2) :: q.2)
/-- SCRUB.virt: a page that is not mapped writable raises 0x3002, mapped or not (R115). -/
def execScrubVirt (f : FmtL) (s : State) : Out :=
  .next (issueLong s f rightsOwn 1 fun _ s t =>
    let a := regL s t f.a.toNat 2
    let n := regL s t f.b.toNat 1
    if n = 0 || 65536 < n || a % 65536 ≠ 0 then (s, .ok [1])
    else
      let r := s.leavesOf t n a
      let s := r.1
      let kindBad := r.2.any fun e => match e.2 with | .ok l => l.kind ≠ 0 | .error _ => false
      if kindBad then (s, .ok [1])
      else
        match r.2.findSome? fun e => match e.2 with
          | .error _ => some (0x3002, e.1)
          | .ok l => if l.w then none else some (0x3002, e.1) with
        | some e => (s, .error (.fault e.1 e.2))
        | none =>
          (r.2.foldl (fun (s : State) e =>
            match e.2 with
            | .ok l => s.setScrub ((l.addr + e.1 % 2 ^ 48 % 2 ^ l.lg) / 65536)
            | .error _ => s) s, .ok [0]))
def execScrubPhys (f : FmtL) (s : State) : Out :=
  .next (issueLong s f rightsOpr 1 fun _ s t =>
    let p := regL s t f.a.toNat 2
    let n := regL s t f.b.toNat 1
    if n = 0 || 65536 < n || 2 ^ 23 < p + n then (s, .ok [1])
    else
      let live := s.livePages 0xFFFFFFFF
      let ps := (List.range n).map (p + ·)
      if ps.any (inPages live) then (s, .ok [0x4007]) else (ps.foldl State.setScrub s, .ok [0]))

/-! ### Counters, monitors, events (R116, R118, R119) -/

def rightsAud : Rights := { opr := false, own := false, aud := true }
def execCntrd (f : FmtZ) (s : State) : Out :=
  .next (issueZ s f rightsAud fun s t =>
    let k := regL s t f.a.toNat 1 + f.imm.toNat
    if 63 < k then (s, .error 0x4004) else (s, .ok (natWords (s.ctl.cntVal.getD k 0) 2)))
/-- CNTCFG. The reserved bits of the pair set nothing and read as zero (R116; spec/00_scope.md R5). -/
def execCntcfg (f : FmtZ) (s : State) : Out :=
  .next (issueZ s f rightsAud fun s t =>
    let k := f.imm.toNat
    if 63 < k then (s, .error 0x4004)
    else
      let old := s.ctl.cntVal.getD k 0
      ({ s with ctl := { s.ctl with cntVal := s.ctl.cntVal.set k 0
                                    cntCfg := s.ctl.cntCfg.set k (BitVec.ofNat 64 (regL s t f.a.toNat 2) &&& 0x000003FFC000FFFF#64) } }, .ok (natWords old 2)))
/-- MONCFG. The reserved bits of the word set nothing and read as zero (R118; spec/00_scope.md R5). -/
def execMoncfg (f : FmtZ) (s : State) : Out :=
  .next (issueEach s rightsAud f.guard fun _ s t =>
    let k := f.imm.toNat
    if 255 < k then .trap 0x4004 s.noAddr
    else .ok { s with ctl := { s.ctl with mons := s.ctl.mons.set k { cfg := BitVec.ofNat 32 (regL s t f.a.toNat 1) &&& 0x8FFFFFC0#32 } } })
/-- Whether a monitor samples anything (R118). -/
def Mon.samples (m : Mon) : Bool := m.cfg.getLsbD 31 && 1 ≤ bits m.cfg.toNat 20 8 && bits m.cfg.toNat 20 8 ≤ 6
def Mon.item (m : Mon) (k : Nat) : Nat :=
  match k with | 0 => m.min | 1 => m.max | 2 => m.cnt | _ => m.bins.getD (k - 3) 0
/-- The bin of a sample (R118). -/
def Mon.bin (m : Mon) (v : Nat) : Nat := Nat.min 15 (Nat.log2 (Nat.max v 1) - bits m.cfg.toNat 6 6)
/-- A monitor takes a sample. -/
def Mon.take (m : Mon) (v : Nat) : Mon :=
  { m with min := Nat.min m.min v, max := Nat.max m.max v, cnt := m.cnt + 1, bins := m.bins.modify (m.bin v) (· + 1) }
/-- MONRD. A monitor that samples has taken, since it was last read, samples whose number and values the spec does not give: they
are free (assumption log 24). -/
def execMonrd (f : FmtZ) (s : State) : Out :=
  .next (issueZ s f rightsAud fun s t =>
    let k := regL s t f.a.toNat 1
    let item := f.imm.toNat
    if 255 < k || 18 < item then (s, .error 0x4004)
    else
      let m := s.ctl.mons.getD k {}
      let m := if m.samples then (Config.samples s.fresh).foldl (fun (m : Mon) v => m.take (v % 2 ^ 64)) m else m
      ({ s with fresh := s.fresh + 1, ctl := { s.ctl with mons := s.ctl.mons.set k m } }, .ok (natWords (m.item item) 2)))
def execEvpost (f : FmtZ) (s : State) : Out :=
  .next (issueEach s rightsAll f.guard fun _ s t =>
    let asid := s.asidOf t.fg
    if s.sideless t.fg then .trap 0x4001 s.noAddr
    else
      let opr := asid = oprAsid
      let v := if opr then s.vf? (64 * (dieOfCore (s.coreOf t.fg) / 2)) else s.vfFor asid
      let r := s.post v (eventRec (f.imm.toNat % 2 ^ 15) (if opr then 0xFFFF else asid) s.ctl.devTime (regL s t f.a.toNat 2) 0)
      .ok (r.1.modThread t.fg t.lane fun u => u.put f.d.toNat (word r.2)))

/-! ### The command windows (R87) -/

/-- A class sys instruction, by its meaning. Any other is outside what a window takes. -/
def sysExec (i : Instr) (s : State) : Option Out :=
  match i with
  | .trap f => some (execTrap f s)
  | .tret f => some (execTret f s)
  | .tretRec f => some (execTretRec f s)
  | .crd f => some (execCrd f s)
  | .cwr f => some (execCwr f s)
  | .mapack f => some (execMapack f s)
  | .maprd f => some (execMaprd f s)
  | .ctxsaveSeal f => some (execCtxsaveSeal f s)
  | .ctxsaveReset f => some (execCtxsaveReset f s)
  | .ctxloadImage f => some (execCtxloadImage f s)
  | .ctxloadNew f => some (execCtxloadNew f s)
  | .ctxloadResume f => some (execCtxloadResume f s)
  | .kwrapGive f => some (execKwrapGive f s)
  | .kwrapTake f => some (execKwrapTake f s)
  | .kwrapEscrow f => some (execKwrapEscrow f s)
  | .kwrapImport f => some (execKwrapImport f s)
  | .kdrop f => some (execKdrop f s)
  | .kdropErase f => some (execKdropErase f s)
  | .attestCtx f => some (execAttestCtx f s)
  | .attestModule f => some (execAttestModule f s)
  | .cntrd f => some (execCntrd f s)
  | .cntcfg f => some (execCntcfg f s)
  | .moncfg f => some (execMoncfg f s)
  | .monrd f => some (execMonrd f s)
  | .evpost f => some (execEvpost f s)
  | .yieldC f => some (execYield f s)
  | .scrubVirt f => some (execScrubVirt f s)
  | .scrubPhys f => some (execScrubPhys f s)
  | .rankmapGet f => some (execRankmapGet f s)
  | .rankmapSet f => some (execRankmapSet f s)
  | .planemapMap f => some (execPlanemapMap f s)
  | .planemapShare f => some (execPlanemapShare f s)
  | .planemapGet f => some (execPlanemapGet f s)
  | .planemapRetrain f => some (execPlanemapRetrain f s)
  | .paritycfgSet f => some (execParitycfgSet f s)
  | .paritycfgRebuild f => some (execParitycfgRebuild f s)
  | .paritycfgGet f => some (execParitycfgGet f s)
  | .nlaunch f => some (execNlaunch f s)
  | .nwait f => some (execNwait f s)
  | .nquery f => some (execNquery f s)
  | .placeRsv f => some (execPlaceRsv f s)
  | .placeFree f => some (execPlaceFree f s)
  | .placeClose f => some (execPlaceClose f s)
  | .placeOpen f => some (execPlaceOpen f s)
  | .preempt f => some (execPreempt f s)
  | .slicesetAssign f => some (execSlicesetAssign f s)
  | .slicesetTarget f => some (execSlicesetTarget f s)
  | .slicesetMove f => some (execSlicesetMove f s)
  | .slicesetPool f => some (execSlicesetPool f s)
  | _ => none
/-- The opcodes that the auditor's window takes: CRD, MAPRD, CNTRD, CNTCFG, MONCFG, MONRD (R87). -/
def auditorMay (op : Nat) : Bool := op = 0x03 || op = 0x06 || (0x0C ≤ op && op ≤ 0x0F)
/-- The registers that an operand of a window fills. -/
def srcN (r : Role) : Nat := match r with | .src n | .grp n => n | _ => 0
/-- The source fields of a window's instruction, each with the operand value it begins with: an operand of four registers takes two
of the 64-bit values (R87; assumption log 122). -/
def winSrcs (uses : List Use) : List (Use × Nat) :=
  ((uses.filter fun u => srcN u.role ≠ 0 && u.code < 240).foldl (fun (a : List (Use × Nat) × Nat) u =>
    (a.1 ++ [(u, a.2)], a.2 + (srcN u.role + 1) / 2)) ([], 0)).1
/-- Which window: 0 of L0, 1 of L1, 2 the auditor's. -/
def winCore (w : Nat) : Nat := if w = 1 then 258 else 256
def State.winThread (s : State) (w : Nat) : Option Thread :=
  s.threads.find? fun t => t.win && t.lane = w
def State.setCmdOut (s : State) (w st : Nat) (d : List Word) : State :=
  { s with links := { s.links with cmdOut := s.links.cmdOut.set w (st, d) } }
/-- A window's instruction that has ended returns its status and D, and its thread goes (R87). -/
def State.finishWindow (s : State) (w : Nat) : State :=
  match s.winThread w with
  | none => s
  | some t =>
    let busy := (s.paths.any fun p => p.fg = t.fg) || (t.winTrap.isNone && t.pend.any fun p => !p.arrived || s.atSea t.fg t.lane p.uid)
    if busy then s
    else
      let bad := match t.winTrap with
        | some c => some c
        | none => (t.pend.findSome? (·.err)).map (·.1)
      let d := match t.pend.findSome? (·.val) with
        | some v => v
        | none => t.words.map fun r => BitVec.ofNat 32 (regsNat t.v r.toNat 1)
      let s := match bad with
        | some c => s.setCmdOut w (0x10000 + c) [0, 0]
        | none => s.setCmdOut w 0 d
      let blk := s.blkId t.fg
      s.dropBlocks fun b => b.id = blk
/-- COMMAND_WINDOW_EXEC in the window of L`ev.a`, the auditor's when `ev.b` = 1: the two words are `ev.v`, the first in its
low half; `ev.data` holds up to three operand values, in the order of the fields A, B, C that name one, each as wide as its field
says. A window that has an instruction takes no other (R87); while the Novig recovery image runs none takes one (spec/20_health.md
R426; assumption log 131). -/
def execCommandWindowExec (s : State) : Out :=
  let w := if s.ev.b = 1 then 2 else s.ev.a % 2
  if (s.winThread w).isSome then .next (s.finishWindow w)
  else if s.health.novig then .next s
  else
    let w0 := BitVec.ofNat 32 s.ev.v.toNat
    let w1 := BitVec.ofNat 32 (s.ev.v.toNat / 2 ^ 32)
    let fail (c : Nat) : Out := .next (s.setCmdOut w (0x10000 + c) [0, 0])
    if w = 2 && !auditorMay (wordOp w0) then fail 0x4001
    else if !wordE w0 then fail (if allocated (wordOp w0) then 0x100A else 0x1001)
    else
      match checkInstrs 240 (opClass (wordOp w0)) 1 [w0, w1] 1 [0, 1, 2, 3, 4, 5, 6, 7], clauseInstr [0, w0, w1] 1 with
      | some c, _ => fail c.code
      | none, none => fail 0x1001
      | none, some (i, _) =>
        if opClass (wordOp w0) ≠ 7 then fail 0x4001
        else
          let uses := (shape i).uses
          let dst := (uses.find? fun u => match u.role with | .dst _ => true | _ => false)
          let dregs := match dst with | some u => (match u.role with | .dst n => dstRegs u.code n | _ => []) | none => []
          let v0 : List Word := List.replicate 240 0
          let v := (winSrcs uses).foldl (fun (v : List Word) x => putWords v x.1.code (natWords (field s.ev.data (8 * x.2) (4 * srcN x.1.role)) (srcN x.1.role))) v0
          let (bid, s) := s.newUid
          let (fid, s) := s.newUid
          let (pid, s) := s.newUid
          let hdr : Word := 0xA0027100#32
          let b : Block := { id := bid, node := 0, num := 0, clu := 0, core := winCore w, asid := if w = 2 then audAsid else oprAsid, regs := 240 }
          let g : FileGroup := { id := fid, blk := bid, num := 0, unit := 0, n := 128, nregs := 240, m := List.replicate 12 0 }
          -- the registers of D stand in the thread's clause words until the window reads them
          let t : Thread := { fg := fid, lane := w, pc := 0, v := v, win := true, status := .issuing }
          let p : Path := { id := pid, fg := fid, lanes := [w], pc := 0, words := [hdr, w0, w1], started := true }
          let s := { s with blocks := s.blocks ++ [b], fgs := s.fgs ++ [g], threads := s.threads ++ [t], paths := p :: s.paths }
          match sysExec i s with
          | some (.next s) =>
            .next ((s.modThread fid w fun t => { t with words := dregs.map (BitVec.ofNat 32) }).finishWindow w)
          | _ => .next s

end Sys2Proof.Machine
end

