-- ==== Sys2Proof/Machine/Issue.lean ====
section
/-! DEFINITION. The issue stage: paths and pools, the fetch of clauses, boundary events, commits, releases, and the
choice of what issues next (spec/03_encoding.md R58 to R63, R76 to R85; spec/06_control.md R140 to R147). -/
namespace Sys2Proof.Machine

/-! ### The pool and paths (R141, R142) -/

/-- What the threads of a path have in common: the pool address, the index to resume at, the instance. -/
structure PoolKey where
  pc   : DWord
  idx  : Nat
  inst : Option Nat
  deriving DecidableEq, Repr
def Thread.key (t : Thread) : PoolKey := { pc := t.pc, idx := t.idx, inst := t.inst }

/-- A thread of a stopping block that must still go on: in mid-clause, in an instance, or in the trap-critical region
(R61, R98, R146). -/
def Thread.mustRun (t : Thread) : Bool := t.idx ≠ 0 || t.inst.isSome || (t.trap.inH && t.trap.crit)
/-- A thread of the pool that may be taken into a path. -/
def State.fillable (s : State) (t : Thread) : Bool :=
  t.status = .pooled && !t.win && match s.blockOf t.fg with
    | some b => if t.stopDue then b.there && t.mustRun else b.place = .resident
    | none => false
def State.poolOf (s : State) (fg : Nat) : List Thread := (s.threadsOf fg).filter s.fillable

/-- The first of some keys by an order; `better a b` says that a goes before b. -/
def firstKey (better : PoolKey → PoolKey → Bool) : List PoolKey → Option PoolKey
  | [] => none
  | k :: ks => match firstKey better ks with | none => some k | some b => if better b k then some b else some k
/-- The pool address with the most threads, the lower address on a tie (R141 step 2). -/
def bestKey (ts : List Thread) : Option PoolKey :=
  let ks := ts.map Thread.key
  firstKey (fun a b => ks.count b < ks.count a || (ks.count a = ks.count b && a.pc.toNat < b.pc.toNat)) ks.eraseDups
/-- The pool address whose oldest thread has been pooled longest (R142). -/
def oldestKey (ts : List Thread) : Option (Nat × PoolKey) :=
  let old := ts.foldl (fun (m : Option Thread) t => match m with
    | none => some t
    | some u => if t.pooledAt < u.pooledAt then some t else some u) none
  old.map fun t => (t.fg, t.key)

/-- Physical lanes of a lane group that its paths occupy. -/
def State.lgUsed (s : State) (fg lg : Nat) : List Nat :=
  (s.paths.filter fun p => p.fg = fg && p.lg = lg).flatMap fun p => p.phys.map (·.2)
/-- The physical lanes of a SIMD unit: a failed lane's work goes to the spare, lane 32 (spec/01_machine.md R17, R23). -/
def State.unitLanes (s : State) (core unit : Nat) : List Nat :=
  let bad := if core < 256 then bits (s.map.unit (1 + core)).2 (6 * unit) 6 else 63
  (List.range 32).map fun k => if k = bad then 32 else k
/-- The first lane group of a file group with a free path and a free lane, with its free lanes (R141). Where every path of a lane group
waits at a cross-lane instruction for threads of its instance, the threads that it waits for still get a path (R146, R148; assumption
log 127). -/
def State.room (s : State) (g : FileGroup) : Option (Nat × List Nat) :=
  let lanes := s.unitLanes (s.coreOf g.id) g.unit
  (List.range (ceilDiv g.n 32)).findSome? fun lg =>
    let used := s.lgUsed g.id lg
    let free := lanes.filter fun k => !used.contains k
    let ps := s.paths.filter fun p => p.fg = g.id && p.lg = lg
    if (ps.length < 2 || ps.all (·.waiting)) && !free.isEmpty then some (lg, free) else none

/-- Takes the threads at a pool address into a path, in ascending virtual lane, as many as the free lanes hold
(R141 step 3). -/
def State.takePath (s : State) (g : FileGroup) (k : PoolKey) (lg : Nat) (free : List Nat) : State :=
  let pool := (s.poolOf g.id).filter fun t => t.key = k
  let lanes := (((List.range 128).filter fun l => pool.any fun t => t.lane = l)).take free.length
  let words := ((pool.find? fun t => some t.lane = lanes.head?).map (·.words)).getD []
  let (id, s) := s.newUid
  let p : Path :=
    { id := id, fg := g.id, lg := lg, lanes := lanes, pc := k.pc
      words := if k.idx ≠ 0 || k.inst.isSome then words else []
      idx := Nat.max 1 k.idx, inst := k.inst, started := k.idx ≠ 0, phys := lanes.zip free }
  { s with
    paths := p :: s.paths
    threads := s.threads.map fun (t : Thread) => if t.fg = g.id && lanes.contains t.lane then { t with status := .issuing } else t }

/-- The free paths of a file group are filled from its pool (R141). -/
def State.fillPaths (s : State) (fg : Nat) : (n : Nat) → State
  | 0 => s
  | n + 1 =>
    match s.fg? fg with
    | none => s
    | some g =>
      match s.room g, bestKey (s.poolOf fg) with
      | some (lg, free), some k => (s.takePath g k lg free).fillPaths fg n
      | _, _ => s
/-! ### Events at a clause boundary (R62, R98, R99, R102) -/

/-- A thread leaves the path that it is in. -/
def State.pullLane (s : State) (fg lane : Nat) : State :=
  { s with paths := (s.paths.map fun (p : Path) =>
      if p.fg = fg && p.lanes.contains lane then
        { p with lanes := p.lanes.filter (· ≠ lane), phys := p.phys.filter (fun e => e.1 ≠ lane) }
      else p).filter fun p => !p.lanes.isEmpty }
/-- A thread at a clause boundary: pooled, held, asleep or waiting, or in a path of whose clause no instruction has issued
(R61). A thread of an instance is past its boundary. -/
def State.atBoundary (s : State) (t : Thread) : Bool :=
  t.idx = 0 && !t.win && (match t.status with
    | .pooled => t.inst.isNone
    | .issuing => t.inst.isNone && s.paths.any fun p => p.fg = t.fg && p.lanes.contains t.lane && !p.started
    | .exited | .oprHeld _ => false
    | _ => true)
/-- A milestone is due for a thread: it is not in a handler or a re-run, and its running context has not discharged the
VERSION (R26, R99, R102). -/
def State.milestoneDue (s : State) (t : Thread) : Option Ctx :=
  if t.trap.inH then none
  else
    match s.blockOf t.fg with
    | some b => if b.run = 0 && t.trap.mileSeen < s.map.version then (s.ctx? b.asid).filter fun c => c.milePending && c.state = 1 else none
    | none => none
/-- A thread of a stopping block that has stopped: an error that its drain brings is taken first when its block resumes (R85). -/
def State.draining (s : State) (t : Thread) : Bool := !t.stopDue && match s.blockOf t.fg with | some b => b.place = .stopping | none => false
/-- Something falls due for a thread at its clause boundary: an error, pre-emption, the milestone, or the start of its grace period (R62). -/
def State.boundaryDue (s : State) (t : Thread) : Bool :=
  s.atBoundary t && ((s.blockOf t.fg).map Block.there).getD false && !s.draining t &&
    (!t.due.isEmpty || (if t.stopDue then !(t.trap.inH && t.trap.crit)
      else (s.milestoneDue t).any fun c => c.trapVec ≠ 0 || c.grace.isNone))
/-- The first event due for a thread at its clause boundary is taken: an error, pre-emption, the milestone trap (R62). -/
def State.boundaryEvent (s : State) (fg lane : Nat) : State :=
  match s.thread? fg lane with
  | none => s
  | some t =>
    if !s.atBoundary t || !(((s.blockOf fg).map Block.there).getD false) || s.draining t then s
    else
      match t.due with
      | d :: r =>
        let t := { t.atRest s.ticks with due := r }
        ((s.pullLane fg lane).setThread t).takeTrap t d.code d.addr d.iaddr false
      | [] =>
        if t.stopDue then
          if t.trap.inH && t.trap.crit then s
          else (s.pullLane fg lane).setThread { t.atRest s.ticks with stopDue := false }
        else
          match s.milestoneDue t with
          | none => s
          | some c =>
            -- the grace period starts at the first boundary that the milestone reaches; with TRAP_VEC = 0 the trap stays due
            let s := s.modCtx c.asid fun c => { c with grace := some (c.grace.getD (s.ctl.cycle + s.ctl.rmapGrace)) }
            if c.trapVec = 0 then s
            else
              let t := t.atRest s.ticks
              let t := { t with trap := { t.trap with mileSeen := s.map.version } }
              ((s.pullLane fg lane).setThread t).takeTrap t 0xB001 (BitVec.ofNat 64 s.map.version) s.noAddr false
/-- When VERSION has advanced past `old`, every thread that stands at its clause boundary takes the milestone trap at once:
one that sleeps, waits or is held as well (R26, R62, R102). -/
def State.milestones (s : State) (old : Nat) : State :=
  if s.map.version = old then s
  else s.threads.foldl (fun (s : State) t =>
    match s.thread? t.fg t.lane with
    | some u => if (s.milestoneDue u).isSome then s.boundaryEvent t.fg t.lane else s
    | none => s) s
/-- The age counter of a SIMD unit has reached 64 (R142). -/
def State.ageDue (s : State) (core unit : Nat) : Bool :=
  64 + ((s.fills.find? fun e => e.1 = core && e.2.1 = unit).map (·.2.2)).getD 0 ≤ s.ctl.cycle
/-- What falls due at the boundary before a clause is taken by the threads of a path that has issued none of it (R62). -/
def State.pathEvents (s : State) (p : Path) : State := if p.started then s else p.lanes.foldl (fun s l => s.boundaryEvent p.fg l) s
/-- The due events of the pooled threads of a file group are taken (R62). -/
def State.boundaryEvents (s : State) (fg : Nat) : State := (s.threadsOf fg).foldl (fun s t => s.boundaryEvent fg t.lane) s
/-- The next path of a SIMD unit is filled by age, once what falls due at its threads' boundaries is taken, and the counter restarts
(R62, R142). -/
def State.ageFill (s : State) (core unit : Nat) : State :=
  if !s.ageDue core unit then s
  else
    let mine (s : State) (g : FileGroup) : Bool := g.unit = unit && s.coreOf g.id = core
    let s := (s.fgs.filter (mine s)).foldl (fun (s : State) g => s.boundaryEvents g.id) s
    let gs := s.fgs.filter fun g => mine s g && (s.room g).isSome
    match oldestKey (gs.flatMap fun g => s.poolOf g.id) with
    | none => s
    | some (fg, k) =>
      match s.fg? fg with
      | none => s
      | some g =>
        match s.room g with
        | none => s
        | some (lg, free) =>
          let s := s.takePath g k lg free
          { s with fills := (s.fills.filter fun e => !(e.1 = core && e.2.1 = unit)) ++ [(core, unit, s.ctl.cycle)] }
/-- AGE_RULE_FILL in SIMD unit `ev.b` of core `ev.a` (R142). -/
def execAgeRuleFill (s : State) : Out := .next (s.ageFill s.ev.a s.ev.b)
/-- CLAUSE_BOUNDARY of file group `ev.a`: the due events of its threads are taken, and then its free paths are filled from
the pool (R62, R141). -/
def execClauseBoundary (s : State) : Out :=
  match s.fg? s.ev.a with
  | none => .next s
  | some g =>
    let core := s.coreOf g.id
    let s := s.boundaryEvents g.id
    .next ((s.ageFill core g.unit).fillPaths g.id (2 * ceilDiv g.n 32)).settleAll
/-- The end of a step: engines answer the requests of other dies that they have performed, and where the map has changed the threads at
a boundary take the milestone. -/
def State.stepEnd (s : State) (old : Nat) : State := s.answerCross.milestones old

/-! ### The fetch and checks of a clause (R76, R77, R146) -/

/-- Every thread of a path takes a fault at the boundary before its clause, and the path is gone. -/
def State.faultPath (s : State) (p : Path) (code : Nat) (addr iaddr : DWord) : State :=
  (p.lanes.foldl (fun (s : State) l =>
    match s.thread? p.fg l with
    | none => s
    | some t =>
      let t := { t with status := .pooled, pc := p.pc, idx := 0 }
      (s.setThread t).takeTrap t code addr iaddr false) s).dropPath p.id
/-- The code of a fetch for the code of a data access (R76). -/
def fetchCode (code : Nat) : Nat :=
  match code with | 0x3010 | 0x3011 => 0x3020 | 0x3002 => 0x3021 | 0x3001 | 0x3031 | 0x3030 => code | _ => 0x3022
/-- Why the bytes of a clause are not read: a fault, or lines of a peer that have not come. -/
inductive FetchStop where
  | fault (code addr : Nat)
  | stall (lines : List (Nat × Nat))
  deriving DecidableEq, Repr
/-- Reads bytes of a clause with execute right, as a load does: the bytes, or the code and the lowest byte that cannot be
fetched (R76). What lies at a peer is asked of it, like the bytes of a load (spec/08_memory.md R194; assumption log 97). -/
def State.fetchBytes (s : State) (p : Path) (n : Nat) : State × Except FetchStop (List Byte) :=
  let core := s.coreOf p.fg
  let asid := s.asidOf p.fg
  let bad (e : Nat × Nat) : Except FetchStop (List Byte) := .error (.fault (fetchCode e.1) e.2)
  match s.check core asid .ex p.pc.toNat n with
  | (s, .error e) => (s, bad e)
  | (s, .ok ps) =>
    match s.readPieces false core asid (ps.filter fun p => p.peer.isNone) with
    | (s, .done bs) =>
      let inbox := askedBytes p.asked p.pc
      let blk := s.blkId p.fg
      match s.lostAt core asid ps, askedBad p.asked p.pc, missing inbox ps with
      | some a, _, _ => (s, bad (0x8004, a))
      | none, some e, _ => (s, bad e)
      | none, none, [] => (s, .ok (gatherBytes inbox (s.divertOf blk) ps bs))
      | none, none, ls => (s, .error (.stall ls))
    | (s, .err c a) | (s, .hold c a) => (s, bad (c, a))
    | (s, _) => (s, bad (0x3022, p.pc.toNat))
/-- The header and the words that it announces (R58, R76). -/
def State.fetchClause (s : State) (p : Path) : State × Except FetchStop (List Word) :=
  match s.fetchBytes p 4 with
  | (s, .error e) => (s, .error e)
  | (s, .ok h) =>
    match s.fetchBytes p (4 + 4 * hWords ((bytesWords h).headD 0)) with
    | (s, .error e) => (s, .error e)
    | (s, .ok bs) => (s, .ok (bytesWords bs))
/-- CLAUSE_FETCH for path `ev.a`, once what falls due at the boundary before its clause is taken (R62). A rendezvous clause then holds the threads that are in no instance at its header (R146). -/
def execClauseFetch (s : State) : Out :=
  let s := match s.paths.find? fun p => p.id = s.ev.a with | some p => if p.words.isEmpty then s.pathEvents p else s | none => s
  match s.paths.find? fun p => p.id = s.ev.a with
  | none => .next s
  | some p =>
    if !p.words.isEmpty then .next s
    else
      match s.fetchClause p with
      | (s, .error (.fault c a)) => .next (s.faultPath p c (BitVec.ofNat 64 a) p.pc)
      | (s, .error (.stall ls)) =>
        let x := s.ask (s.asidOf p.fg) p.fg (p.lanes.headD 0) p.pc p.asked ls
        .next (x.1.setPath { p with asked := x.2 })
      | (s, .ok ws) =>
        match checkClause (((s.fg? p.fg).map (·.nregs)).getD 0) ws with
        | some c => .next (s.faultPath p c.code (p.pc + BitVec.ofNat 64 (4 * c.fword)) (p.pc + BitVec.ofNat 64 (4 * c.iword)))
        | none =>
          let rdv := !(clauseRdv ws).isEmpty
          let ready (t : Thread) : Thread :=
            { t with t := List.replicate 8 0, npc := p.pc + BitVec.ofNat 64 (4 * ws.length), after := .pooled, words := ws
                     status := if rdv then .heldRdv else t.status }
          let s := { s with threads := s.threads.map fun (t : Thread) => if t.fg = p.fg && p.lanes.contains t.lane then ready t else t }
          .next (if rdv then s.dropPath p.id else s.setPath { p with words := ws })

/-! ### Commits and error completions (R80, R81, R83, R84, R174) -/

/-- The first pending operation of a list that may end: one with a destination waits for every earlier one that has one,
and commits once its window is over (R83, R84). -/
def firstEnd (may : Pending → Bool) : List Pending → Option Pending
  | [] => none
  | p :: ps =>
    if may p then some p
    else if p.dst.isEmpty then firstEnd may ps
    else firstEnd (fun q => q.dst.isEmpty && may q) ps
/-- It has its result, and its window is over when it has a destination. -/
def Pending.commits (p : Pending) : Bool := p.err.isNone && p.val.isSome && (p.dst.isEmpty || p.left = 0)
/-- A pending operation leaves its thread, and its scoreboard falls (R80). -/
def Thread.complete (t : Thread) (p : Pending) : Thread :=
  { t with pend := t.pend.filter (fun q => q.uid ≠ p.uid), sb := t.sb.modify p.sb (· - 1) }
/-- What a commit does to its thread (R83, R174). -/
def Thread.commit (t : Thread) (p : Pending) : Thread :=
  let v := ((p.dst.zip (p.val.getD [])).foldl (fun (v : List Word) e => v.set e.1 e.2) t.v)
  Thread.raise { t.complete p with v := v } p.flags
/-- An operation that a pending instruction has still to perform is performed as far as its time has come; `k` names a part of an
access (R212). -/
def State.perform (s : State) (t : Thread) (p : Pending) (k : Nat) : State :=
  if p.held || s.todoWaits t p then s
  else
    match p.todo with
    | .tdef ea l => s.doTdef t p ea l
    | .tseal l => s.doTseal t p l
    | .launch ea => s.doLaunch t p ea
    | .regs w off n a => s.doRegs t p w off n a
    | _ => s.performTodo t p k
/-- After a thread's pending operations have changed: a command window's instruction may end, and stops may complete. -/
def State.afterPend (s : State) (t : Thread) : State := (if t.win then s.finishWindow t.lane else s).settleAll
/-- LONG_LATENCY_COMMIT in thread `ev.a`, `ev.b`: with `ev.c` = 0 the next result commits; otherwise the pending operation
of identity `ev.c` − 1 is performed, where it waits for its time: of an access left for later the part `ev.v` − 1 alone, or what is left
of it when `ev.v` = 0. -/
def execLongLatencyCommit (s : State) : Out :=
  match s.thread? s.ev.a s.ev.b with
  | none => .next s
  | some t =>
    if s.ev.c = 0 then
      match if t.win then none else firstEnd (fun p => p.commits && !s.atSea t.fg t.lane p.uid) (s.ending t) with
      | none => .next (s.afterPend t)
      | some p => .next ((s.setThread (t.commit p)).afterPend t)
    else
      match t.allPend.find? fun p => p.uid + 1 = s.ev.c with
      | none => .next s
      | some p => .next ((s.perform t p s.ev.v.toNat).afterPend t)
/-- ERROR_COMPLETION in thread `ev.a`, `ev.b`: an error takes its place in the commit order, nothing commits, and the fault
falls due (R81). -/
def execErrorCompletion (s : State) : Out :=
  match s.thread? s.ev.a s.ev.b with
  | none => .next s
  | some t =>
    if t.win then .next (s.finishWindow t.lane)
    else
      match (firstEnd (fun p => p.err.isSome && !s.atSea t.fg t.lane p.uid) (s.ending t)).bind fun p => p.err.map fun e => (p, e) with
      | none => .next s
      | some (p, e) =>
        .next ((s.setThread { t.complete p with due := t.due ++ [{ code := e.1, addr := e.2, iaddr := p.iaddr }] }).afterPend t)

/-! ### Releases (R145 to R147, R154, R155) -/

/-- The union of some masks of a file group. -/
def FileGroup.masks (g : FileGroup) (ks : List Nat) : Lanes := ks.foldl (fun a k => a ||| g.mask k) 0
/-- The living threads that a set of lanes names. -/
def State.named (s : State) (fg : Nat) (m : Lanes) : List Thread := (s.living fg).filter fun t => inMask m t.lane
/-- A thread goes back to the pool. -/
def Thread.pool (t : Thread) (now : Nat) : Thread := { t with status := .pooled, pooledAt := now }
def Thread.atRdv (t : Thread) (pc : DWord) : Bool := t.status = .heldRdv && t.pc = pc
def Thread.atJoin (t : Thread) (iaddr : DWord) (m : Nat) : Bool := t.status = .heldJoin iaddr m
/-- The rendezvous set of the threads held at a header (R146). -/
def State.rdvSet (s : State) (g : FileGroup) (pc : DWord) : Lanes :=
  match (s.threadsOf g.id).find? fun t => t.atRdv pc with
  | some t => g.masks (clauseRdv t.words)
  | none => 0
def State.rdvMet (s : State) (g : FileGroup) (pc : DWord) : Bool :=
  ((s.threadsOf g.id).any fun t => t.atRdv pc) && (s.named g.id (s.rdvSet g pc)).all fun t => t.atRdv pc
/-- JOIN: every living member of the mask is held at a JOIN with the same address (R155). -/
def State.joinMet (s : State) (g : FileGroup) (iaddr : DWord) (m : Nat) : Bool :=
  (s.named g.id (g.mask m)).all fun t => match t.status with | .heldJoin a _ => a = iaddr | _ => false
/-- WAITM: no other living thread has its bit set (R155). -/
def State.waitmMet (s : State) (g : FileGroup) (lane m : Nat) : Bool := (s.named g.id (g.mask m)).all fun t => t.lane = lane
/-- RENDEZVOUS_RELEASE of the clause at `ev.v` in file group `ev.a`: all that are held at its header leave as one instance. The hold
of a thread that has been stopped is kept until its block resumes (R145, R146). They stand at their clause boundary until then, and what
falls due there is taken first (R62; spec/16_program_preempt.md R365). -/
def execRendezvousRelease (s : State) : Out :=
  match s.fg? s.ev.a with
  | none => .next s
  | some g =>
    let s := s.boundaryEvents g.id
    let pc := s.ev.v
    if !s.rdvMet g pc || !(((s.block? g.blk).map fun (b : Block) => decide (b.place = Place.resident)).getD false) then .next s
    else
      let (id, s) := s.newUid
      let here := (s.threadsOf g.id).filter fun t => t.atRdv pc
      let i : Inst := { id := id, fg := g.id, pc := pc, lanes := here.map (·.lane), m := g.m, living := (s.living g.id).map (·.lane) }
      .next { s with
        insts := s.insts ++ [i]
        threads := s.threads.map fun (t : Thread) => if t.fg = g.id && t.atRdv pc then { t.pool s.ticks with inst := some id, idx := 0 } else t }
/-- JOIN_RELEASE of the JOIN at `ev.v` in file group `ev.a`: all that are held there are released together. -/
def execJoinRelease (s : State) : Out :=
  match s.fg? s.ev.a with
  | none => .next s
  | some g =>
    let go (t : Thread) : Bool := t.fg = g.id && match t.status with | .heldJoin a m => a = s.ev.v && s.joinMet g a m | _ => false
    .next { s with threads := s.threads.map fun (t : Thread) => if go t then t.pool s.ticks else t }
/-- WAITM_RELEASE of thread `ev.a`, `ev.b`. -/
def execWaitmRelease (s : State) : Out :=
  match s.fg? s.ev.a, s.thread? s.ev.a s.ev.b with
  | some g, some t =>
    match t.status with
    | .heldWaitm _ m => if s.waitmMet g t.lane m then .next (s.setThread (t.pool s.ticks)) else .next s
    | _ => .next s
  | _, _ => .next s
/-- SLEEP_EXPIRY of thread `ev.a`, `ev.b` (R154). -/
def execSleepExpiry (s : State) : Out :=
  match s.thread? s.ev.a s.ev.b with
  | none => .next s
  | some t =>
    match t.status with
    | .sleeping w => if w ≤ s.ctl.cycle then .next (s.setThread (t.pool s.ticks)) else .next s
    | _ => .next s

/-- Whether the condition of a thread's hold is met (R145). -/
def State.holdMet (s : State) (g : FileGroup) (t : Thread) : Bool :=
  match t.status with
  | .heldJoin a m => s.joinMet g a m
  | .heldWaitm _ m => s.waitmMet g t.lane m
  | .heldRdv => s.rdvMet g t.pc
  | _ => false
/-- A file group is deadlocked: every living thread is held outside a handler, and no hold's condition is met (R147). -/
def State.deadlocked (s : State) (g : FileGroup) : Bool :=
  let ts := s.living g.id
  !ts.isEmpty && ((s.block? g.blk).map fun (b : Block) => decide (b.place = Place.resident)).getD false &&
    ts.all fun t => t.status.isHold && !t.trap.inH && !s.holdMet g t
/-- FLT_IADDR and FLT_ADDR of 0x5001 (R147). -/
def Thread.deadAddr (t : Thread) : DWord × DWord :=
  match t.status with
  | .heldJoin a m => (a, BitVec.ofNat 64 (m + 16))
  | .heldWaitm a m => (a, BitVec.ofNat 64 (m + 32))
  | _ => (t.pc, BitVec.ofNat 64 (((clauseRdv t.words).min?).getD 0 + 48))
/-- SYNC_DEADLOCK in file group `ev.a`: each held thread takes 0x5001 (R147). -/
def execSyncDeadlock (s : State) : Out :=
  match s.fg? s.ev.a with
  | none => .next s
  | some g =>
    if !s.deadlocked g then .next s
    else .next ((s.living g.id).foldl (fun (s : State) u =>
      match s.thread? u.fg u.lane with
      | none => s
      | some t => s.takeTrap t 0x5001 t.deadAddr.2 t.deadAddr.1 false) s)

/-! ### Memory's own events (R197 to R200, R220) -/

/-- BANK_QUEUE_WRITE of block `ev.a`: the write queue of bank `ev.b` of its scratchpad writes its oldest entry (R220). -/
def execBankQueueWrite (s : State) : Out :=
  match s.block? s.ev.a with
  | none => .next s
  | some b => .next (s.setBlock (b.drainBank s.ev.b))
/-- CACHE_WRITE_BACK: the L1 of core `ev.b` (`ev.a` = 0) or slice `ev.b` evicts its line at `ev.v` of buffer `ev.c`, and
writes back only its dirty bytes (R197). -/
def execCacheWriteBack (s : State) : Out :=
  let me (x : Line) : Bool := x.unit = s.ev.b && x.pa = s.ev.v.toNat && x.leaf.buf = s.ev.c
  if s.ev.a = 0 then
    match s.mem.l1.find? me with
    | none => .next s
    | some x =>
      let s := s.wbL1Line x
      .next { s with mem := { s.mem with l1 := s.mem.l1.filter fun y => !y.is x.unit x.pa x.asid x.leaf.buf } }
  else
    match s.mem.slice.find? me with
    | none => .next s
    | some x =>
      if s.lineHeld x then .next s
      else
        let s := s.wbSliceLine x
        .next { s with mem := { s.mem with slice := s.mem.slice.filter fun y => !y.is x.unit x.pa x.asid x.leaf.buf } }
/-- TABLE_WALK for core `ev.a`, context `ev.b`, address `ev.v`: what a miss finds is cached (R196, R198 to R200). -/
def execTableWalk (s : State) : Out := .next (s.translate s.ev.a s.ev.b (s.ev.v.toNat % 2 ^ 48)).1

/-! ### What issues next (R61, R80 to R84, R146) -/

/-- Vector registers that an instruction reads or writes. -/
def vregsOf (i : Instr) : List Nat :=
  (shape i).uses.flatMap fun u =>
    if u.uni then [] else ((List.range u.role.regs.1).map fun k => u.code + k).filter (· < 240)
/-- A thread stalls at an instruction for a destination whose window is over and which has not committed (R83). -/
def Thread.hazard (t : Thread) (regs : List Nat) : Bool := t.pend.any fun p => p.left = 0 && p.dst.any regs.contains
/-- SB and the guard of a long-latency instruction at word `k` of a clause (R70, R80). -/
def longSb (ws : List Word) (k : Nat) : Nat := bits (ws.getD k 0).toNat 4 3
def longGuard (ws : List Word) (k : Nat) : Guard :=
  { gn := (ws.getD (k + 1) 0).extractLsb' 31 1, gp := (ws.getD (k + 1) 0).extractLsb' 28 3 }
/-- The wait set of a clause is clear in a thread (R80). -/
def Thread.waitClear (t : Thread) (h : Word) : Bool := (List.range 8).all fun i => !h.getLsbD i || t.sb.getD i 0 = 0
/-- A TRET whose thread would come back with more than 15 outstanding on a scoreboard: it stalls while its handler's own are (R80; log 7). -/
def Thread.tretFull (t : Thread) : Bool := t.trap.record.any fun r => (List.zipWith (· + ·) r.sb t.sb).any fun n => 15 < n
/-- A path can issue its next instruction: its wait set has been clear, and no thread stalls on a pending register or a full
scoreboard (R61, R80, R83). -/
def State.ready (s : State) (p : Path) : Bool :=
  let ts := p.lanes.filterMap fun l => s.thread? p.fg l
  (p.started || ts.all fun t => t.waitClear (p.words.headD 0)) &&
    match clauseInstr p.words p.idx with
    | none => true
    | some (i, k) =>
      ts.all fun t => !t.hazard (vregsOf i) &&
        !((shape i).long && (longGuard p.words k).on t && 15 ≤ t.sb.getD (longSb p.words k) 0) &&
        !(match i with | .tret f => f.guard.on t && t.tretFull | _ => false)
/-- An error that a thread takes before its next instruction issues; an arrival overflow waits for the boundary (R81, R263). -/
def Thread.dueNow (t : Thread) (started : Bool) : Option Due := t.due.find? fun d => !(started && d.code = 0x5005)
/-- The threads of a path that have errors due take them instead of issuing (R81). -/
def State.takeDue (s : State) (p : Path) (lanes : List Nat) : State :=
  lanes.foldl (fun (s : State) l =>
    match s.thread? p.fg l with
    | none => s
    | some t =>
      match t.dueNow p.started with
      | none => s
      | some d =>
        let t := { t with status := .pooled, pc := p.pc, idx := if p.started then p.idx else 0, due := t.due.erase d }
        ((s.pullLane p.fg l).setThread t).takeTrap t d.code d.addr d.iaddr p.started) s
/-- A path that waits for a thread of its instance which the operator holds joins that hold (R146). -/
def State.joinHold (s : State) (p : Path) : Option State :=
  if !p.waiting then none
  else
    match p.inst.bind s.inst? with
    | none => none
    | some i =>
      let here := (s.instPaths p).flatMap (·.lanes)
      (i.lanes.findSome? fun l =>
        if here.contains l then none
        else (s.thread? p.fg l).bind fun t => match t.status with | .oprHeld h => some h | _ => none).map fun h =>
        let join (t : Thread) : Thread := { t with pc := p.pc, idx := p.idx, words := p.words, inst := p.inst, status := .oprHeld h }
        let mine (t : Thread) : Bool := t.fg = p.fg && p.lanes.contains t.lane
        { s.dropPath p.id with
          threads := s.threads.map fun (t : Thread) => if mine t then join t else t
          opr := { s.opr with
            held := s.opr.held.map fun (e : Held) => if e.hold = h then { e with threads := e.threads ++ p.lanes.map fun l => (p.fg, l) } else e
            waiting := s.opr.waiting.map fun (r : OprRec) => if r.hold = h then { r with threads := r.threads + p.lanes.length } else r } }

/-- Whether two file groups share a SIMD unit. -/
def State.sameUnit (s : State) (a b : Nat) : Bool :=
  s.coreOf a = s.coreOf b && ((s.fg? a).map (·.unit)) = ((s.fg? b).map (·.unit))
/-- A path of a lane group that has given up its slot, while another lane group of its SIMD unit is ready (R63). -/
def State.mustYield (s : State) (p : Path) : Bool :=
  s.yields.contains (p.fg, p.lg) &&
    s.paths.any fun q => !(q.fg = p.fg && q.lg = p.lg) && s.sameUnit q.fg p.fg && !q.words.isEmpty && s.ready q
/-- A slot of the unit is used: what has been given up is given up no longer. -/
def State.issueSlot (s : State) (p : Path) : State := { s with yields := s.yields.filter fun y => !s.sameUnit y.1 p.fg }
/-- The paths with a chosen one at the head, the other of its lane group next: the last has waited longest (R142). -/
def State.toHead (s : State) (p : Path) : State :=
  let mate (q : Path) : Bool := q.fg = p.fg && q.lg = p.lg
  { s with paths := p :: ((s.paths.filter fun q => q.id ≠ p.id && mate q) ++ s.paths.filter fun q => q.id ≠ p.id && !mate q) }

/-- What comes of choosing a path. -/
inductive Pick where
  /-- Nothing issues; the state after what happened instead. -/
  | idle (s : State)
  /-- This instruction issues, by the head path of this state. -/
  | issue (i : Instr) (s : State)
  /-- The clause holds no instruction there. -/
  | corrupt
  deriving DecidableEq, Repr
/-- Path `k` is chosen: errors that are due are taken, and before the first instruction of a clause what else is due at its boundary
(R62, R81); a stall leaves everything as it is; or its next instruction issues. -/
def State.pick (s : State) (k : Nat) : Pick :=
  match s.paths.find? fun p => p.id = k with
  | none => .idle s
  | some p =>
    let s := s.toHead p
    let due := p.lanes.filter fun l => ((s.thread? p.fg l).bind fun t => t.dueNow p.started).isSome
    if !due.isEmpty then .idle (s.takeDue p due)
    else if !p.started && p.lanes.any fun l => (s.thread? p.fg l).any s.boundaryDue then .idle (s.pathEvents p)
    else
      match s.joinHold p with
      | some s => .idle s
      | none =>
        if p.words.isEmpty || !s.ready p || s.mustYield p then .idle s
        else
          match clauseInstr p.words p.idx with
          | some (i, _) => .issue i (s.issueSlot p)
          | none => .corrupt

/-! ### Two paths in one cycle (R123, R142, R156) -/

/-- The guard of the instruction at word `k` of a clause; one of a single word, and one of format I, has none (R64). -/
def instrGuard (ws : List Word) (k : Nat) (i : Instr) : Guard :=
  match i with
  | .movi _ => {}
  | _ => if wordE (ws.getD k 0) then longGuard ws k else {}
/-- The uniform registers that an instruction writes (R66, R122, R156). -/
def uniWrites (i : Instr) : List Nat :=
  (shape i).uses.flatMap fun u =>
    match u.role with
    | .udst n => (List.range n).map (u.code + ·)
    | .dst n | .both n => if u.uni then (List.range n).map (u.code + ·) else []
    | _ => []
/-- The mask that an instruction writes, and whether it writes all of it or its threads' bits (R155, R156, R159). -/
def maskWrites (i : Instr) : Option (Nat × Bool) :=
  match i with
  | .mask f => if f.fn.toNat = 7 then none else some (f.d.toNat, 2 ≤ f.fn.toNat)
  | .vote f => if f.fn.toNat = 3 then some (f.d.toNat, true) else none
  | .leave f => some (f.a.toNat, false)
  | _ => none
/-- The uniform and mask registers after two instructions of one cycle: `a` as the first left them, `b` as the second did in the lanes
`act`, which read them as they were before both; what the second wrote stands. MASK.all reads who was living then: `all` (R123, R156). -/
def FileGroup.merge (b a : FileGroup) (i : Instr) (act : List Nat) (all : Lanes) : FileGroup :=
  if act.isEmpty then { b with s := a.s, m := a.m }
  else
    let m := match maskWrites i with
      | some (k, whole) =>
        let on := if whole then ~~~(0 : Lanes) else lanesMask act
        let new := match i with | .mask f => if f.fn.toNat = 8 then all else b.mask k | _ => b.mask k
        a.m.set k ((a.mask k &&& ~~~on) ||| (new &&& on))
      | none => a.m
    { b with s := (uniWrites i).foldl (fun l k => l.set k (b.s.getD k 0)) a.s, m := m }
/-- The lanes in which the second instruction of a cycle, of path `q`, has taken effect: those that executed and did not trap; of a
cross-lane instruction that its instance issued now, those of all its paths (R146, R159). -/
def wentOn (before after : State) (q : Path) (g : Guard) : List Nat :=
  let held := after.paths.any fun r => r.waiting && q.inst.isSome && r.inst = q.inst && r.idx = q.idx
  let lanes := q.lanes ++ (before.paths.filter fun r => r.waiting && q.inst.isSome && r.inst = q.inst && r.idx = q.idx).flatMap (·.lanes)
  if held then []
  else lanes.filter fun l => match before.thread? q.fg l, after.thread? q.fg l with
    | some t, some u => g.on t && (!u.trap.inH || t.trap.inH) && (match u.status with | .oprHeld _ => false | _ => true)
    | _, _ => false
/-- The file group's uniform and mask registers as another state has them. -/
def State.withRegs (s : State) (fg : Nat) (from_ : State) : State :=
  match s.fg? fg, from_.fg? fg with
  | some g, some h => s.setFg { g with s := h.s, m := h.m }
  | _, _ => s

end Sys2Proof.Machine
end

