-- ==== Sys2Proof/Machine/Dispatch.lean ====
section
/-! DEFINITION. What each row of the opcode table does: one arm per constructor of Instr. An instruction is issued by
the head path of the state; an event reads what it is about in the state's `ev`. -/
namespace Sys2Proof.Machine

def exec (i : Instr) (s : State) : Host.Outcome State Fault Refusal :=
  match i with
  | .trap f => Sys2Proof.Machine.execTrap f s
  | .tret f => Sys2Proof.Machine.execTret f s
  | .tretRec f => Sys2Proof.Machine.execTretRec f s
  | .crd f => Sys2Proof.Machine.execCrd f s
  | .cwr f => Sys2Proof.Machine.execCwr f s
  | .mapack f => Sys2Proof.Machine.execMapack f s
  | .maprd f => Sys2Proof.Machine.execMaprd f s
  | .ctxsaveSeal f => Sys2Proof.Machine.execCtxsaveSeal f s
  | .ctxsaveReset f => Sys2Proof.Machine.execCtxsaveReset f s
  | .ctxloadImage f => Sys2Proof.Machine.execCtxloadImage f s
  | .ctxloadNew f => Sys2Proof.Machine.execCtxloadNew f s
  | .ctxloadResume f => Sys2Proof.Machine.execCtxloadResume f s
  | .kwrapGive f => Sys2Proof.Machine.execKwrapGive f s
  | .kwrapTake f => Sys2Proof.Machine.execKwrapTake f s
  | .kwrapEscrow f => Sys2Proof.Machine.execKwrapEscrow f s
  | .kwrapImport f => Sys2Proof.Machine.execKwrapImport f s
  | .kdrop f => Sys2Proof.Machine.execKdrop f s
  | .kdropErase f => Sys2Proof.Machine.execKdropErase f s
  | .attestCtx f => Sys2Proof.Machine.execAttestCtx f s
  | .attestModule f => Sys2Proof.Machine.execAttestModule f s
  | .cntrd f => Sys2Proof.Machine.execCntrd f s
  | .cntcfg f => Sys2Proof.Machine.execCntcfg f s
  | .moncfg f => Sys2Proof.Machine.execMoncfg f s
  | .monrd f => Sys2Proof.Machine.execMonrd f s
  | .evpost f => Sys2Proof.Machine.execEvpost f s
  | .yieldC f => Sys2Proof.Machine.execYield f s
  | .scrubVirt f => Sys2Proof.Machine.execScrubVirt f s
  | .scrubPhys f => Sys2Proof.Machine.execScrubPhys f s
  | .rankmapGet f => Sys2Proof.Machine.execRankmapGet f s
  | .rankmapSet f => Sys2Proof.Machine.execRankmapSet f s
  | .planemapMap f => Sys2Proof.Machine.execPlanemapMap f s
  | .planemapShare f => Sys2Proof.Machine.execPlanemapShare f s
  | .planemapGet f => Sys2Proof.Machine.execPlanemapGet f s
  | .planemapRetrain f => Sys2Proof.Machine.execPlanemapRetrain f s
  | .paritycfgSet f => Sys2Proof.Machine.execParitycfgSet f s
  | .paritycfgRebuild f => Sys2Proof.Machine.execParitycfgRebuild f s
  | .paritycfgGet f => Sys2Proof.Machine.execParitycfgGet f s
  | .nlaunch f => Sys2Proof.Machine.execNlaunch f s
  | .nwait f => Sys2Proof.Machine.execNwait f s
  | .nquery f => Sys2Proof.Machine.execNquery f s
  | .placeRsv f => Sys2Proof.Machine.execPlaceRsv f s
  | .placeFree f => Sys2Proof.Machine.execPlaceFree f s
  | .placeClose f => Sys2Proof.Machine.execPlaceClose f s
  | .placeOpen f => Sys2Proof.Machine.execPlaceOpen f s
  | .preempt f => Sys2Proof.Machine.execPreempt f s
  | .slicesetAssign f => Sys2Proof.Machine.execSlicesetAssign f s
  | .slicesetTarget f => Sys2Proof.Machine.execSlicesetTarget f s
  | .slicesetMove f => Sys2Proof.Machine.execSlicesetMove f s
  | .slicesetPool f => Sys2Proof.Machine.execSlicesetPool f s
  | .addS f => Sys2Proof.Machine.execAddS f s
  | .add f => Sys2Proof.Machine.execAdd f s
  | .addc f => Sys2Proof.Machine.execAddc f s
  | .subS f => Sys2Proof.Machine.execSubS f s
  | .sub f => Sys2Proof.Machine.execSub f s
  | .subb f => Sys2Proof.Machine.execSubb f s
  | .sadd f => Sys2Proof.Machine.execSadd f s
  | .ssub f => Sys2Proof.Machine.execSsub f s
  | .mulS f => Sys2Proof.Machine.execMulS f s
  | .mul f => Sys2Proof.Machine.execMul f s
  | .mulh f => Sys2Proof.Machine.execMulh f s
  | .mad f => Sys2Proof.Machine.execMad f s
  | .div f => Sys2Proof.Machine.execDiv f s
  | .rem f => Sys2Proof.Machine.execRem f s
  | .dot4 f => Sys2Proof.Machine.execDot4 f s
  | .minS f => Sys2Proof.Machine.execMinS f s
  | .min f => Sys2Proof.Machine.execMin f s
  | .maxS f => Sys2Proof.Machine.execMaxS f s
  | .max f => Sys2Proof.Machine.execMax f s
  | .abs f => Sys2Proof.Machine.execAbs f s
  | .neg f => Sys2Proof.Machine.execNeg f s
  | .andS f => Sys2Proof.Machine.execAndS f s
  | .and f => Sys2Proof.Machine.execAnd f s
  | .orS f => Sys2Proof.Machine.execOrS f s
  | .or f => Sys2Proof.Machine.execOr f s
  | .xorS f => Sys2Proof.Machine.execXorS f s
  | .xor f => Sys2Proof.Machine.execXor f s
  | .andnS f => Sys2Proof.Machine.execAndnS f s
  | .andn f => Sys2Proof.Machine.execAndn f s
  | .not f => Sys2Proof.Machine.execNot f s
  | .shlS f => Sys2Proof.Machine.execShlS f s
  | .shl f => Sys2Proof.Machine.execShl f s
  | .shrS f => Sys2Proof.Machine.execShrS f s
  | .shr f => Sys2Proof.Machine.execShr f s
  | .sarS f => Sys2Proof.Machine.execSarS f s
  | .sar f => Sys2Proof.Machine.execSar f s
  | .rolS f => Sys2Proof.Machine.execRolS f s
  | .rol f => Sys2Proof.Machine.execRol f s
  | .bfx f => Sys2Proof.Machine.execBfx f s
  | .bfi f => Sys2Proof.Machine.execBfi f s
  | .popc f => Sys2Proof.Machine.execPopc f s
  | .clz f => Sys2Proof.Machine.execClz f s
  | .ctz f => Sys2Proof.Machine.execCtz f s
  | .brev f => Sys2Proof.Machine.execBrev f s
  | .prmt f => Sys2Proof.Machine.execPrmt f s
  | .sel f => Sys2Proof.Machine.execSel f s
  | .setp f => Sys2Proof.Machine.execSetp f s
  | .pand f => Sys2Proof.Machine.execPand f s
  | .por f => Sys2Proof.Machine.execPor f s
  | .pxor f => Sys2Proof.Machine.execPxor f s
  | .pnot f => Sys2Proof.Machine.execPnot f s
  | .movS f => Sys2Proof.Machine.execMovS f s
  | .mov f => Sys2Proof.Machine.execMov f s
  | .movi f => Sys2Proof.Machine.execMovi f s
  | .lea f => Sys2Proof.Machine.execLea f s
  | .cvti f => Sys2Proof.Machine.execCvti f s
  | .braShort f => Sys2Proof.Machine.execBraShort f s
  | .bra f => Sys2Proof.Machine.execBra f s
  | .brc f => Sys2Proof.Machine.execBrc f s
  | .brx f => Sys2Proof.Machine.execBrx f s
  | .callShort f => Sys2Proof.Machine.execCallShort f s
  | .call f => Sys2Proof.Machine.execCall f s
  | .retShort f => Sys2Proof.Machine.execRetShort f s
  | .ret f => Sys2Proof.Machine.execRet f s
  | .exitShort f => Sys2Proof.Machine.execExitShort f s
  | .exit f => Sys2Proof.Machine.execExit f s
  | .nopShort f => Sys2Proof.Machine.execNopShort f s
  | .nop f => Sys2Proof.Machine.execNop f s
  | .join f => Sys2Proof.Machine.execJoin f s
  | .leave f => Sys2Proof.Machine.execLeave f s
  | .waitm f => Sys2Proof.Machine.execWaitm f s
  | .mask f => Sys2Proof.Machine.execMask f s
  | .elect f => Sys2Proof.Machine.execElect f s
  | .vote f => Sys2Proof.Machine.execVote f s
  | .shfl f => Sys2Proof.Machine.execShfl f s
  | .scan f => Sys2Proof.Machine.execScan f s
  | .lred f => Sys2Proof.Machine.execLred f s
  | .matchL f => Sys2Proof.Machine.execMatch f s
  | .sleep f => Sys2Proof.Machine.execSleep f s
  | .fadd f => Sys2Proof.Machine.execFadd f s
  | .fsub f => Sys2Proof.Machine.execFsub f s
  | .fmul f => Sys2Proof.Machine.execFmul f s
  | .ffma f => Sys2Proof.Machine.execFfma f s
  | .fmin f => Sys2Proof.Machine.execFmin f s
  | .fmax f => Sys2Proof.Machine.execFmax f s
  | .fcmp f => Sys2Proof.Machine.execFcmp f s
  | .fclass f => Sys2Proof.Machine.execFclass f s
  | .fcvt f => Sys2Proof.Machine.execFcvt f s
  | .frnd f => Sys2Proof.Machine.execFrnd f s
  | .fscl f => Sys2Proof.Machine.execFscl f s
  | .frcp f => Sys2Proof.Machine.execFrcp f s
  | .frsq f => Sys2Proof.Machine.execFrsq f s
  | .fsqrt f => Sys2Proof.Machine.execFsqrt f s
  | .fex2 f => Sys2Proof.Machine.execFex2 f s
  | .flg2 f => Sys2Proof.Machine.execFlg2 f s
  | .fsin f => Sys2Proof.Machine.execFsin f s
  | .fcos f => Sys2Proof.Machine.execFcos f s
  | .ftanh f => Sys2Proof.Machine.execFtanh f s
  | .fsigm f => Sys2Proof.Machine.execFsigm f s
  | .flagrd f => Sys2Proof.Machine.execFlagrd f s
  | .flagclr f => Sys2Proof.Machine.execFlagclr f s
  | .hadd2 f => Sys2Proof.Machine.execHadd2 f s
  | .hmul2 f => Sys2Proof.Machine.execHmul2 f s
  | .hfma2 f => Sys2Proof.Machine.execHfma2 f s
  | .pack8 f => Sys2Proof.Machine.execPack8 f s
  | .unpack8 f => Sys2Proof.Machine.execUnpack8 f s
  | .ld f => Sys2Proof.Machine.execLd f s
  | .st f => Sys2Proof.Machine.execSt f s
  | .lds f => Sys2Proof.Machine.execLds f s
  | .sts f => Sys2Proof.Machine.execSts f s
  | .prf f => Sys2Proof.Machine.execPrf f s
  | .mprobe f => Sys2Proof.Machine.execMprobe f s
  | .dirtysw f => Sys2Proof.Machine.execDirtysw f s
  | .fence f => Sys2Proof.Machine.execFence f s
  | .acq f => Sys2Proof.Machine.execAcq f s
  | .rel f => Sys2Proof.Machine.execRel f s
  | .bind f => Sys2Proof.Machine.execBind f s
  | .unbind f => Sys2Proof.Machine.execUnbind f s
  | .atom f => Sys2Proof.Machine.execAtom f s
  | .atomSp f => Sys2Proof.Machine.execAtomSp f s
  | .red f => Sys2Proof.Machine.execRed f s
  | .redSp f => Sys2Proof.Machine.execRedSp f s
  | .take f => Sys2Proof.Machine.execTake f s
  | .tknew f => Sys2Proof.Machine.execTknew f s
  | .tksave f => Sys2Proof.Machine.execTksave f s
  | .tkload f => Sys2Proof.Machine.execTkload f s
  | .tkdrainClose f => Sys2Proof.Machine.execTkdrainClose f s
  | .tkdrainOpen f => Sys2Proof.Machine.execTkdrainOpen f s
  | .tkdrainFree f => Sys2Proof.Machine.execTkdrainFree f s
  | .barinit f => Sys2Proof.Machine.execBarinit f s
  | .arrive f => Sys2Proof.Machine.execArrive f s
  | .arriveClu f => Sys2Proof.Machine.execArriveClu f s
  | .arriveDom f => Sys2Proof.Machine.execArriveDom f s
  | .expect f => Sys2Proof.Machine.execExpect f s
  | .barwait f => Sys2Proof.Machine.execBarwait f s
  | .bartest f => Sys2Proof.Machine.execBartest f s
  | .cpb f => Sys2Proof.Machine.execCpb f s
  | .cpt f => Sys2Proof.Machine.execCpt f s
  | .cpl f => Sys2Proof.Machine.execCpl f s
  | .cpa f => Sys2Proof.Machine.execCpa f s
  | .cpcan f => Sys2Proof.Machine.execCpcan f s
  | .tdef f => Sys2Proof.Machine.execTdef f s
  | .tseal f => Sys2Proof.Machine.execTseal f s
  | .tdrop f => Sys2Proof.Machine.execTdrop f s
  | .tquery f => Sys2Proof.Machine.execTquery f s
  | .gang f => Sys2Proof.Machine.execGang f s
  | .oclaim f => Sys2Proof.Machine.execOclaim f s
  | .orel f => Sys2Proof.Machine.execOrel f s
  | .mma f => Sys2Proof.Machine.execMma f s
  | .mmag f => Sys2Proof.Machine.execMmag f s
  | .mmas f => Sys2Proof.Machine.execMmas f s
  | .accz f => Sys2Proof.Machine.execAccz f s
  | .moduleReset => Sys2Proof.Machine.execModuleReset s
  | .novigImageUpdate => Sys2Proof.Machine.execNovigImageUpdate s
  | .novigQuarantineClear => Sys2Proof.Machine.execNovigQuarantineClear s
  | .buyerKeyAdd => Sys2Proof.Machine.execBuyerKeyAdd s
  | .gracePeriodExpiry => Sys2Proof.Machine.execGracePeriodExpiry s
  | .clauseFetch => Sys2Proof.Machine.execClauseFetch s
  | .clauseBoundary => Sys2Proof.Machine.execClauseBoundary s
  | .ageRuleFill => Sys2Proof.Machine.execAgeRuleFill s
  | .opfRecordWrite => Sys2Proof.Machine.execOpfRecordWrite s
  | .longLatencyCommit => Sys2Proof.Machine.execLongLatencyCommit s
  | .errorCompletion => Sys2Proof.Machine.execErrorCompletion s
  | .syncDeadlock => Sys2Proof.Machine.execSyncDeadlock s
  | .rendezvousRelease => Sys2Proof.Machine.execRendezvousRelease s
  | .joinRelease => Sys2Proof.Machine.execJoinRelease s
  | .waitmRelease => Sys2Proof.Machine.execWaitmRelease s
  | .sleepExpiry => Sys2Proof.Machine.execSleepExpiry s
  | .nwaitWake => Sys2Proof.Machine.execNwaitWake s
  | .bankQueueWrite => Sys2Proof.Machine.execBankQueueWrite s
  | .cacheWriteBack => Sys2Proof.Machine.execCacheWriteBack s
  | .tableWalk => Sys2Proof.Machine.execTableWalk s
  | .atomicRequestServe => Sys2Proof.Machine.execAtomicRequestServe s
  | .ticketTokenExit => Sys2Proof.Machine.execTicketTokenExit s
  | .barrierArrivalCount => Sys2Proof.Machine.execBarrierArrivalCount s
  | .remoteArrival => Sys2Proof.Machine.execRemoteArrival s
  | .copyJobStart => Sys2Proof.Machine.execCopyJobStart s
  | .copyChunk => Sys2Proof.Machine.execCopyChunk s
  | .copyWindowDeadlock => Sys2Proof.Machine.execCopyWindowDeadlock s
  | .claimGrant => Sys2Proof.Machine.execClaimGrant s
  | .latchCommandAccept => Sys2Proof.Machine.execLatchCommandAccept s
  | .matrixCommandStart => Sys2Proof.Machine.execMatrixCommandStart s
  | .groupKStep => Sys2Proof.Machine.execGroupKStep s
  | .sramUncorrectable => Sys2Proof.Machine.execSramUncorrectable s
  | .stackUncorrectable => Sys2Proof.Machine.execStackUncorrectable s
  | .patrolScrub => Sys2Proof.Machine.execPatrolScrub s
  | .laneFailure => Sys2Proof.Machine.execLaneFailure s
  | .sliceErrorRateFail => Sys2Proof.Machine.execSliceErrorRateFail s
  | .stackLost => Sys2Proof.Machine.execStackLost s
  | .coreSelftestFail => Sys2Proof.Machine.execCoreSelftestFail s
  | .pcieLinkChange => Sys2Proof.Machine.execPcieLinkChange s
  | .suspicionHalving => Sys2Proof.Machine.execSuspicionHalving s
  | .controlCoreRestart => Sys2Proof.Machine.execControlCoreRestart s
  | .contextEndDone => Sys2Proof.Machine.execContextEndDone s
  | .commandWindowExec => Sys2Proof.Machine.execCommandWindowExec s
  | .qtailWrite => Sys2Proof.Machine.execQtailWrite s
  | .qctlWrite => Sys2Proof.Machine.execQctlWrite s
  | .packetTake => Sys2Proof.Machine.execPacketTake s
  | .dispatchPass => Sys2Proof.Machine.execDispatchPass s
  | .regionReserve => Sys2Proof.Machine.execRegionReserve s
  | .serviceWindow => Sys2Proof.Machine.execServiceWindow s
  | .nodeCompletion => Sys2Proof.Machine.execNodeCompletion s
  | .evqRead => Sys2Proof.Machine.execEvqRead s
  | .evSetWrite => Sys2Proof.Machine.execEvSetWrite s
  | .evClrWrite => Sys2Proof.Machine.execEvClrWrite s
  | .rerunEnd => Sys2Proof.Machine.execRerunEnd s
  | .registerWrite => Sys2Proof.Machine.execRegisterWrite s
  | .ucieFlitReceive => Sys2Proof.Machine.execUcieFlitReceive s
  | .ucieLaneEvent => Sys2Proof.Machine.execUcieLaneEvent s
  | .transactionReceive => Sys2Proof.Machine.execTransactionReceive s
  | .guestusFlitReceive => Sys2Proof.Machine.execGuestusFlitReceive s
  | .fabricPortDown => Sys2Proof.Machine.execFabricPortDown s
  | .rankLoss => Sys2Proof.Machine.execRankLoss s
  | .tagWindowClose => Sys2Proof.Machine.execTagWindowClose s
  | .tagVerify => Sys2Proof.Machine.execTagVerify s
  | .tagTimeout => Sys2Proof.Machine.execTagTimeout s
  | .parityRebuild => Sys2Proof.Machine.execParityRebuild s
  | .hostAtomicCompletion => Sys2Proof.Machine.execHostAtomicCompletion s
  | .pxRespWrite => Sys2Proof.Machine.execPxRespWrite s
  | .proxyTimeout => Sys2Proof.Machine.execProxyTimeout s
  | .atsInvalidation => Sys2Proof.Machine.execAtsInvalidation s
  | .atsAbortTimeout => Sys2Proof.Machine.execAtsAbortTimeout s
  | .hostDmaWrite => Sys2Proof.Machine.execHostDmaWrite s
  | .vfTableWrite => Sys2Proof.Machine.execVfTableWrite s
  | .functionLevelReset => Sys2Proof.Machine.execFunctionLevelReset s
  | .eventRecordDelivery => Sys2Proof.Machine.execEventRecordDelivery s
  | .tdiStateChange => Sys2Proof.Machine.execTdiStateChange s
  | .hostAtomicopToBar => Sys2Proof.Machine.execHostAtomicopToBar s

end Sys2Proof.Machine
end

