-- ==== Sys2Proof/Machine/Schedule.lean ====
section
/-! DEFINITION. Who acts next, and the passing of time. One machine performs one step of one agent at a time; the list
`agenda` says in plain data which comes next, and every order of steps that the spec allows is some agenda. With an empty
agenda the module works by itself, in the order given here (assumption log 2). -/
namespace Sys2Proof.Machine

/-- Time passes: a free amount of each clock (assumption log 1). A halving of the suspicion scores falls due with each 2^32 cycles
(spec/20_health.md R415). -/
def State.tick (s : State) : State :=
  let now := s.ctl.devTime + Config.elapsedNs s.ticks
  let cyc := s.ctl.cycle + Config.elapsedCycles s.ticks
  let s := s.endCycle (cyc ≠ s.ctl.cycle)
  { s with
    ticks := s.ticks + 1
    ctl := { s.ctl with devTime := now, cycle := cyc }
    health := { s.health with halfDue := s.health.halfDue ++ List.replicate (cyc / 2 ^ 32 - s.ctl.cycle / 2 ^ 32) now } }

/-- What a pending operation of a thread lets happen. -/
def Thread.pendActs (t : Thread) (p : Pending) : List Act :=
  let lane : EvArg := { a := t.fg, b := t.lane }
  if p.todo ≠ .none && p.todo ≠ .wait && !p.held then [.ev .longLatencyCommit { lane with c := p.uid + 1 }]
  else if p.err.isSome then [.ev .errorCompletion lane]
  else if p.val.isSome then [.ev .longLatencyCommit lane] else []
/-- What the holds and sleeps of a thread let happen. -/
def Thread.holdActs (t : Thread) : List Act :=
  let lane : EvArg := { a := t.fg, b := t.lane }
  match t.status with
  | .heldJoin a _ => [.ev .joinRelease { a := t.fg, v := a }, .ev .syncDeadlock { a := t.fg }]
  | .heldWaitm _ _ => [.ev .waitmRelease lane, .ev .syncDeadlock { a := t.fg }]
  | .heldRdv => [.ev .rendezvousRelease { a := t.fg, v := t.pc }, .ev .syncDeadlock { a := t.fg }]
  | .sleeping _ => [.ev .sleepExpiry lane]
  | .nwait _ _ _ => [.ev .nwaitWake lane]
  | _ => []
/-- What the threads and the issue stage may do next. -/
def State.threadWork (s : State) : List Act := List.flatten [
  (s.paths.filter fun p => p.words.isEmpty).map fun p => Act.ev .clauseFetch { a := p.id },
  s.fgs.map fun g => Act.ev .clauseBoundary { a := g.id },
  s.threads.flatMap fun t => List.append (t.allPend.flatMap t.pendActs) t.holdActs]
/-- What the synchronisation engines may do next. -/
def State.syncWork (s : State) : List Act := List.flatten [
  s.sync.reqs.map fun r => Act.ev .atomicRequestServe { a := r.id },
  s.sync.nets.zipIdx.flatMap fun e => e.1.tokens.map fun k => Act.ev .ticketTokenExit { a := e.2, b := k.id },
  s.sync.arrivals.map fun a => Act.ev .barrierArrivalCount { a := a.seq },
  s.sync.remote.zipIdx.map fun e => Act.ev .remoteArrival { a := e.2 }]
/-- What the banks and the engines of a block's core may do next. -/
def State.blockWork (s : State) (b : Block) : List Act := List.flatten [
  ((b.bankQ.map BankStore.bank).eraseDups).map fun k => Act.ev .bankQueueWrite { a := b.id, b := k },
  if s.eng.jobs.any fun j => j.blk = b.id then [.ev .copyJobStart { a := b.core }, .ev .copyChunk { a := b.core }] else [],
  if s.eng.stalls.any fun c => c.core = b.core then [.ev .copyWindowDeadlock { a := b.core }] else [],
  if s.eng.claims.any fun c => c.core = b.core then [.ev .claimGrant { a := b.core }] else [],
  if s.eng.cmds.any fun c => c.blk = b.id then
    [.ev .latchCommandAccept { a := b.core }, .ev .matrixCommandStart { a := b.core }, .ev .groupKStep { a := b.core }] else []]
/-- What the scheduler and the authorities may do next. -/
def State.schedWork (s : State) : List Act := List.flatten [
  (s.sched.queues.filter fun q => q.en && q.head ≠ q.tail).map fun q => Act.ev .packetTake { a := q.num },
  ((s.sched.pool.map (·.part)).eraseDups).flatMap fun p => [Act.ev .dispatchPass { a := p }, Act.ev .regionReserve { a := p }],
  s.sched.pool.flatMap fun n => List.append (if n.state = 4 then [Act.ev .nodeCompletion { a := n.id }] else [])
    ((n.clusters.filter fun c => c.stage = 1 || c.stage = 2).map fun c => Act.ev .rerunEnd { a := n.id, b := c.num }),
  s.sched.rejects.map fun x => Act.ev .nodeCompletion { a := x.id },
  (s.ctxs.filter fun c => c.state = 5).map fun c => Act.ev .contextEndDone { a := c.asid },
  (s.ctxs.filter fun c => c.grace.isSome).map fun c => Act.ev .gracePeriodExpiry { a := c.asid },
  ((s.opr.waiting.map (·.die)).eraseDups).map fun d => Act.ev .opfRecordWrite { a := d }]
/-- What the links and the host side may do next. -/
def State.linkWork (s : State) : List Act := List.flatten [
  ((List.range 64).filter fun k => (s.nextFlit k).isSome).map fun k => Act.ev .ucieFlitReceive { a := k, c := 3 },
  s.links.txWins.map fun w => Act.ev .tagWindowClose { a := w.dst, b := w.plane, c := w.cls },
  s.links.rxWins.flatMap fun w => [Act.ev .tagVerify { a := w.id }, Act.ev .tagTimeout { a := w.id }],
  ((s.links.evWait.map (·.1)).eraseDups).map fun v => Act.ev .eventRecordDelivery { a := v },
  (s.links.hostAtoms.filter fun h => h.st = 2).map fun h => Act.ev .proxyTimeout { a := h.id },
  s.links.ats.map fun a => Act.ev .atsAbortTimeout { a := a.id }]
/-- What may happen next inside the module, beside the issue of paths. -/
def State.work (s : State) : List Act := List.flatten [
  s.threadWork, s.syncWork, (s.blocks.filter fun b => b.place ≠ .stopped && b.place ≠ .sealed).flatMap s.blockWork, s.schedWork, s.linkWork,
  [.ev .suspicionHalving {}, .ev .serviceWindow {}]]

/-- A path whose next instruction is ready. -/
def State.canIssue (s : State) (p : Path) : Bool := !p.words.isEmpty && s.ready p
/-- With an empty agenda a lane group and the other work take turns. The lane group that has waited longest issues, an instruction of
each of its paths that is ready; where both are, the lower clause address goes first, so that the higher writes last (R123, R142). -/
def State.next? (s : State) : Option Act :=
  let w := s.work
  match (s.paths.filter s.canIssue).getLast?, s.ticks % 2 with
  | some p, 0 =>
    match s.paths.find? fun q => q.id ≠ p.id && q.fg = p.fg && q.lg = p.lg && s.canIssue q with
    | some q => some (if p.pc.toNat ≤ q.pc.toNat then .pair p.id q.id else .pair q.id p.id)
    | none => some (.issue p.id)
  | some _, _ => w[s.ticks / 2 % w.length]?
  | none, _ => w[s.ticks % w.length]?

/-! ### A program from outside (assumption log 3) -/

/-- The header of a clause of one instruction of `n` words (spec/03_encoding.md R58). -/
def placedHeader (op n : Nat) : Word :=
  BitVec.ofNat 32 (0xA * 2 ^ 28 + n * 2 ^ 16 + opClass op % 8 * 2 ^ 12 + 1 * 2 ^ 8)
/-- A state in which the next step issues the one instruction of a clause at 0x600000: an operator thread of the control
core of C0, with every register 0, stands at it, and the clause lies in device memory and has been fetched. -/
def State.placeClause (s : State) (ws : List Word) : State :=
  let pc : DWord := 0x600000
  let n := match ws with | w :: _ => if wordE w then 2 else 1 | [] => 1
  let ws := placedHeader (wordOp (ws.headD 0)) n :: ws.take n
  let id := s.uid
  let b : Block := { id := id, node := 0, num := 0, clu := 0, core := 256, asid := oprAsid, regs := 240 }
  let g : FileGroup := { id := id, blk := id, num := 0, unit := 0, n := 1, nregs := 240, m := List.replicate 12 0 }
  let t : Thread :=
    { fg := id, lane := 0, pc := pc, npc := pc + BitVec.ofNat 64 (4 * ws.length), v := List.replicate 240 0, words := ws, status := .issuing }
  let p : Path := { id := id, fg := id, lanes := [0], pc := pc, words := ws, started := true, phys := [(0, 0)] }
  { s.poke 0x600000 (ws.flatMap fun w => toBytes 4 w.toNat) with
    blocks := s.blocks ++ [b], fgs := s.fgs ++ [g], threads := s.threads ++ [t], paths := s.paths ++ [p]
    uid := s.uid + 1, agenda := .issue id :: s.agenda }

end Sys2Proof.Machine
end

