-- ==== Sys2Proof/WellFormed.lean ====
section
/-! DEFINITION. Well-formed instructions: those whose own fields pass the checks of spec/03_encoding.md R66, R69
and R77 in a kernel of 240 vector registers, alone in their clause. -/
namespace Sys2Proof

/-- An event of the table: it has no encoding. -/
def Instr.isEvent (i : Instr) : Bool := (encode i).isEmpty

/-- A well-formed instruction. An event is never one. -/
def Instr.wf (i : Instr) : Bool := !i.isEvent && (Machine.staticCheck i).isNone

end Sys2Proof
end

