-- ==== Sys2Proof/Machine/Step.lean ====
section
/-! DEFINITION. One step of the module: time passes, and one agent acts. -/
namespace Sys2Proof.Machine

/-- A load or a store issues with its accesses left for later, each to be performed in its own time; any other instruction issues as
it is (spec/09_ordering.md R221, R237). -/
def State.execLater (s : State) (i : Instr) : Host.Outcome State Fault Refusal :=
  match i with
  | .ld f => .next (issueLd f s State.postpone)
  | .st f => .next (issueSt f s State.postpone)
  | _ => exec i s
/-- After the first instruction of a cycle has left `a`, path `l` of the same lane group issues too, if it still stands where it stood: it
reads the uniform and mask registers as `s` had them (spec/05_integer.md R123, spec/06_control.md R142, R156). -/
def State.second (a s : State) (l : Nat) : Host.Outcome State Fault Refusal :=
  match a.paths.find? fun q => q.id = l with
  | none => .next a
  | some q =>
    -- the first may have issued a cross-lane instruction for this path too
    if (s.paths.find? fun r => r.id = l).any fun r => r.idx ≠ q.idx then .next a
    else
      match (a.withRegs q.fg s).pick l with
      | .issue j b =>
        let k := ((clauseInstr q.words q.idx).map (·.2)).getD 0
        match exec j b with
        | .next c =>
          match c.fg? q.fg, a.fg? q.fg with
          | some g, some h =>
            .next (c.setFg (g.merge h j (wentOn b c q (instrGuard q.words k j)) (lanesMask ((s.living q.fg).map (·.lane)))))
          | _, _ => .next c
        | o => o
      | .idle b => .next (b.withRegs q.fg a)
      | .corrupt => .fault .corruptClause
/-- Two paths that may issue in one cycle: of one lane group; the lower clause address first, so that the higher writes last
(spec/06_control.md R142, R156). -/
def State.pairOf (s : State) (k l : Nat) : Option (Nat × Nat) :=
  match s.paths.find? fun p => p.id = k, s.paths.find? fun q => q.id = l with
  | some p, some q =>
    if p.fg = q.fg && p.lg = q.lg && p.id ≠ q.id then some (if p.pc.toNat ≤ q.pc.toNat then (k, l) else (l, k)) else none
  | _, _ => none
/-- An act is performed: an event of the table, or the next instruction of a path. The agenda names no instruction other
than through the path that holds it. -/
def State.act (s : State) (a : Act) : Host.Outcome State Fault Refusal :=
  match a with
  | .ev i arg => if i.isEvent then exec i { s with ev := arg } else .next s
  | .issue k =>
    match s.pick k with
    | .idle s => .next s
    | .issue i s => exec i s
    | .corrupt => .fault .corruptClause
  | .defer k =>
    match s.pick k with
    | .idle s => .next s
    | .issue i s => s.execLater i
    | .corrupt => .fault .corruptClause
  | .pair k l =>
    let e := (s.pairOf k l).getD (k, k)
    match s.pick e.1 with
    | .idle s => .next s
    | .issue i s =>
      match exec i s with
      | .next a => if e.2 = e.1 then .next a else a.second s e.2
      | o => o
    | .corrupt => .fault .corruptClause

/-- The first act of the agenda, or with an empty agenda what the module does next by itself. -/
def State.go (s : State) : Host.Outcome State Fault Refusal :=
  match s.agenda with
  | a :: r => { s with agenda := r }.act a
  | [] =>
    match s.next? with
    | some a => s.act a
    | none => .next s
/-- One step: time passes, one agent acts, and what follows from it at once is done. -/
def step (s : State) : Host.Outcome State Fault Refusal :=
  match s.tick.go with
  | .next t => .next (t.stepEnd s.map.version)
  | o => o

/-- The state with the instruction whose bits are `w` standing where the next step issues it: as the one instruction of a
clause of an operator thread (spec/03_encoding.md R57, R58; assumption log 3). -/
def State.withFetchWord (s : State) (nbits w : Nat) : State :=
  s.placeClause (wordsOfBytes (tableBytes nbits (w % 2 ^ nbits)))

end Sys2Proof.Machine
end

