-- ==== Sys2Proof/Safety.lean ====
section
/-! DEFINITION. What a safe run is, and the words claims are stated in: what an instruction's passing leaves of a thread
and of the rest of the state, and when a path issues. -/
namespace Sys2Proof.Safety
open Machine

/-- A step that answers a next state. -/
def safeStep (s : State) : Prop := ∃ t, step s = .next t
/-- `n` steps that each answer a next state. -/
def safeRun : Nat → State → Prop
  | 0, _ => True
  | n + 1, s => ∃ t, step s = .next t ∧ safeRun n t

end Sys2Proof.Safety
namespace Sys2Proof.Machine

/-- All of a thread but where it stands and what the passing of an instruction moves on: its status and address, the words
of its clause, what has come of its operands in memory, the windows of its pending operations, and COUNT and CRIT of TRAP_STATE. -/
def Thread.core (t : Thread) : Thread :=
  { t with
    status := .pooled, pc := 0, idx := 0, npc := 0, after := .pooled, words := [], inst := none, pooledAt := 0, hIssue := false
    opIn := [], pend := t.pend.map fun p => { p with left := 0 }
    trap := { t.trap with count := 0, crit := false } }
/-- All of a thread but what the passing of one instruction of its clause moves on. -/
def Thread.mid (t : Thread) : Thread :=
  { t with
    pc := 0, idx := 0, hIssue := false, pend := t.pend.map fun p => { p with left := 0 }
    trap := { t.trap with count := 0 } }
/-- All of the state but threads, paths, clause instances, the issue slots given up, the values of the event counters, and the model's
own identities. -/
def State.rest (s : State) : State :=
  { s with threads := [], paths := [], insts := [], yields := [], uid := 0, ctl := { s.ctl with cntVal := [] } }

/-- Nothing waits for the thread at the end of its clause: no TRAP and no TRET of the clause. -/
def Thread.quiet (t : Thread) : Prop := t.trapDue = none ∧ t.ret = none
/-- Path `p` is the one that issues, in a context that may execute what the row of rights allows. -/
structure Issues (s : State) (p : Path) (r : Rights) : Prop where
  head   : s.paths.head? = some p
  once   : p.lanes.Nodup
  rights : r.ok (authOf (s.asidOf p.fg)) = true
  quiet  : ∀ l ∈ p.lanes, ∀ t, s.thread? p.fg l = some t → t.quiet

/-- The threads of a path whose guard is true, in lane order. -/
def State.active (s : State) (p : Path) (g : Guard) : List Thread :=
  (p.lanes.filterMap fun l => s.thread? p.fg l).filter fun t => g.on t
/-- The instruction makes of each thread of its path what `R` says, and every other thread stays as it is. -/
def Threads (s s' : State) (p : Path) (R : Thread → Thread → Prop) : Prop :=
  (∀ fg l, (fg ≠ p.fg ∨ l ∉ p.lanes) → s'.thread? fg l = s.thread? fg l) ∧
  ∀ l ∈ p.lanes, ∀ t, s.thread? p.fg l = some t → ∃ t', s'.thread? p.fg l = some t' ∧ R t t'
/-- Where the guard is true the thread becomes `h t`, elsewhere it keeps all (R68, R124). -/
def turns (g : Guard) (h : Thread → Thread) (t t' : Thread) : Prop := t'.core = (if g.on t then h t else t).core
/-- The thread keeps all. -/
def keeps (t t' : Thread) : Prop := t'.core = t.core
/-- Where the guard is true the thread has one more pending operation, with an identity of its own (R80). -/
def pends (g : Guard) (op : Thread → Pending) (t t' : Thread) : Prop :=
  if g.on t then ∃ u, t'.core = (t.pendAdd { op t with uid := u }).core else t'.core = t.core

/-- What the end of a clause makes of a thread: it stands at the header of its next clause, in the state that its last
instruction left for it (R61, R151). -/
def Ended (t t' : Thread) : Prop :=
  t'.core = t.core ∧ t'.pc = t.npc ∧ t'.idx = 0 ∧ t'.status = t.after ∧ t'.words = [] ∧ t'.inst = none
/-- The path stands at the last instruction of its clause. -/
def Path.last (p : Path) : Prop := hCount (p.words.headD 0) ≤ p.idx
/-- The instruction completes: the rest of the state becomes that of `x`, and the threads become what `R` says. -/
def Runs (i : Instr) (s : State) (p : Path) (x : State) (R : Thread → Thread → Prop) : Prop :=
  ∃ s', exec i s = .next s' ∧ s'.rest = x.rest ∧ Threads s s' p R
/-- As the last instruction of its clause it completes, makes of each thread whose guard is true `h t`, and ends the clause. -/
def Ends (i : Instr) (s : State) (p : Path) (g : Guard) (h : Thread → Thread) : Prop :=
  p.last → Runs i s p s fun t t' => ∃ t1, t1.mid = (if g.on t then h t else t).mid ∧ Ended t1 t'

/-- It writes words from register D on: in each thread whose guard is true, or with U = 2 in the uniform registers, from the
operands as the first thread of the path reads them (R122). -/
def Writes (i : Instr) (f : FmtA) (ws : State → Thread → List Word) : Prop :=
  ∀ s p, Issues s p rightsAll →
    if f.u = 2#2 then
      ∀ t, (s.active p {}).head? = some t → Runs i s p (s.setFg ((s.fgOf t).put f.d.toNat (ws s t))) keeps
    else Runs i s p s (turns f.guard fun t => t.put f.d.toNat (ws s t))

/-- A thread as an instruction finds it: at the address of its path, with the instruction counted. -/
def moved (p : Path) (t : Thread) : Thread := ({ t with pc := p.pc, idx := p.idx } : Thread).passed
/-- The state in which the effect of an instruction begins in thread `t`. -/
def State.begun (s : State) (p : Path) (t : Thread) : State := s.setThread (moved p t)
/-- The path that issues has one thread, `t`, and its guard is true. -/
structure Alone (s : State) (p : Path) (r : Rights) (g : Guard) (t : Thread) : Prop where
  issues : Issues s p r
  lanes  : p.lanes = [t.lane]
  found  : s.thread? p.fg t.lane = some t
  on     : g.on t = true
/-- The instruction completes in that thread, with the effect `x`: it is counted as retired, and the path goes on. -/
def Done (i : Instr) (s : State) (p : Path) (t : Thread) (x : State) : Prop :=
  exec i s = .next ((x.retire p.fg t.trap.inH).advance p [t.lane])
/-- The same of an instruction that its path executes once (R122, R156). -/
def DoneOnce (i : Instr) (s : State) (p : Path) (t : Thread) (h : State → State) : Prop :=
  exec i s = .next ((h ((s.begun p t).retire p.fg t.trap.inH)).advance p [t.lane])
/-- The instruction traps at issue in that thread, with nothing of its effect (R68, R97). -/
def Traps (i : Instr) (s : State) (p : Path) (t : Thread) (code : Nat) (addr : DWord) : Prop :=
  exec i s = .next ((s.takeTrap { t with pc := p.pc, idx := p.idx } code addr p.iaddr true).advance p [])

/-- A result written at once into the thread's registers from D on. -/
def wrote (x : State) (t : Thread) (d : BitVec 8) (ws : List Word) : State := x.modThread t.fg t.lane fun u => u.put d.toNat ws
/-- A result of a long-latency instruction that has arrived: it is pending on the scoreboard and commits after its window. -/
def arrives (x : State) (p : Path) (t : Thread) (f : FmtL) (n : Nat) (ws : List Nat) : State :=
  match x.thread? t.fg t.lane with
  | some u => x.pendL u { fmtLPend f p n with val := some (ws.map (BitVec.ofNat 32)) }
  | none => x
/-- The same of a thread that the instruction's effect leaves as it found it. -/
def ends (x : State) (p : Path) (t : Thread) (f : FmtL) (n : Nat) (ws : List Nat) : State :=
  x.pendL (moved p t) { fmtLPend f p n with val := some (ws.map (BitVec.ofNat 32)) }
/-- A status, with the second word of its pair free (assumption log 5). -/
def status2 (x : State) (p : Path) (t : Thread) (f : FmtL) (st : Nat) : State := ends x p t f 2 [st, x.anyWord]

end Sys2Proof.Machine
end

