-- ==== Sys2Proof/Certificates/Slice0/Obligations.lean ====
section
/-! DEFINITION. What is claimed of the model, from the numbered rules of the spec. -/
namespace Sys2Proof.Claim
open Machine

/-! ### Integer instructions (spec/05_integer.md) -/

/-- The two-source operations of R128. -/
inductive Two where
  | add | sub | sadd | ssub | mul | mulh | min | max | and | or | xor | andn | shl | shr | sar | rol
  deriving DecidableEq, Repr
/-- r of R128, from the patterns of A and B and the count of a shift. -/
def Two.r (k : Two) (ty px py n : Nat) : Int :=
  let w := tyWidth ty
  let x := valOf px ty
  let y := valOf py ty
  match k with
  | .add => x + y
  | .sub => x - y
  | .sadd => clampTo (x + y) ty
  | .ssub => clampTo (x - y) ty
  | .mul => x * y
  | .mulh => x * y / 2 ^ w
  | .min => if x ≤ y then x else y
  | .max => if x ≤ y then y else x
  | .and => (px &&& py : Nat)
  | .or => (px ||| py : Nat)
  | .xor => (px ^^^ py : Nat)
  | .andn => (px &&& (2 ^ w - 1 - py) : Nat)
  | .shl => if w ≤ n then 0 else x * 2 ^ n
  | .shr => if w ≤ n then 0 else (px / 2 ^ n : Nat)
  | .sar => sext w px / 2 ^ Nat.min n (w - 1)
  | .rol => ((px * 2 ^ (n % w)) % 2 ^ w + px / 2 ^ (w - n % w) : Nat)
/-- The two-source instructions of format A and of format S. -/
def twoA : Instr → Option (Two × FmtA)
  | .add f => some (.add, f) | .sub f => some (.sub, f) | .sadd f => some (.sadd, f) | .ssub f => some (.ssub, f)
  | .mul f => some (.mul, f) | .mulh f => some (.mulh, f) | .min f => some (.min, f) | .max f => some (.max, f)
  | .and f => some (.and, f) | .or f => some (.or, f) | .xor f => some (.xor, f) | .andn f => some (.andn, f)
  | .shl f => some (.shl, f) | .shr f => some (.shr, f) | .sar f => some (.sar, f) | .rol f => some (.rol, f)
  | _ => none
def twoS : Instr → Option (Two × FmtS)
  | .addS f => some (.add, f) | .subS f => some (.sub, f) | .mulS f => some (.mul, f) | .minS f => some (.min, f)
  | .maxS f => some (.max, f) | .andS f => some (.and, f) | .orS f => some (.or, f) | .xorS f => some (.xor, f)
  | .andnS f => some (.andn, f) | .shlS f => some (.shl, f) | .shrS f => some (.shr, f) | .sarS f => some (.sar, f)
  | .rolS f => some (.rol, f)
  | _ => none
/-- The immediate of format S, extended as R71 says, as a pattern of 32 bits. -/
def immS (f : FmtS) : Nat := if f.z = 1#1 then f.i.toNat else wrap 32 f.i.toInt
/-- The integer type of format S (R71). -/
def tyS (f : FmtS) : Nat := if f.z = 1#1 then 6 else 2

/-- A number from its bits, bit 0 first. -/
def ofBits (n : Nat) (b : Nat → Bool) : Nat := ((List.range n).map fun i => if b i then 2 ^ i else 0).sum
/-- The one-source operations of R129 that write a pattern, and those that count. -/
def one : Instr → Option ((ty x : Nat) → Int) × Option FmtA
  | .abs f => (some fun ty x => (valOf x ty).natAbs, some f)
  | .neg f => (some fun ty x => -(valOf x ty), some f)
  | .not f => (some fun ty x => ofBits (tyWidth ty) fun i => !x.testBit i, some f)
  | .brev f => (some fun ty x => ofBits (tyWidth ty) fun i => x.testBit (tyWidth ty - 1 - i), some f)
  | _ => (none, none)
def counts : Instr → Option (((w x : Nat) → Nat) × FmtA)
  | .popc f => some (fun w x => ((List.range w).filter x.testBit).length, f)
  | .clz f => some (fun w x => if x = 0 then w else w - 1 - Nat.log2 x, f)
  | .ctz f => some (fun w x => ((List.range w).find? x.testBit).getD w, f)
  | _ => none
/-- The comparisons of SETP (R134). -/
def cmpInt (c : Nat) (a b : Int) : Prop :=
  match c with | 0 => a = b | 1 => a ≠ b | 2 => a < b | 3 => a ≤ b | 4 => b < a | _ => b ≤ a
/-- The combine of SETP and FCMP: none, .and, .or (R134, R181). -/
def combined (k : Nat) (r q : Bool) : Bool := if k = 1 then r && q else if k = 2 then r || q else r
def predOp : Instr → Option ((Bool → Bool → Bool) × FmtA)
  | .pand f => some (fun a b => a && b, f)
  | .por f => some (fun a b => a || b, f)
  | .pxor f => some (fun a b => xor a b, f)
  | .pnot f => some (fun a _ => !a, f)
  | _ => none
/-- The field that BFX extracts (R136). -/
def bfx (ty x pos len : Nat) : Int :=
  let w := tyWidth ty
  let L := Nat.min len w
  let f := ofBits L fun i => if pos + i < w then x.testBit (pos + i) else tySigned ty && x.testBit (w - 1)
  if L = 0 then 0 else if tySigned ty then sext L f else f
/-- What BFI makes of its base (R136). -/
def bfi (ty base x pos len : Nat) : Nat :=
  let w := tyWidth ty
  ofBits w fun j => if pos ≤ j ∧ j < pos + Nat.min len w then x.testBit (j - pos) else base.testBit j
/-- Bit `k` of byte `i` that PRMT chooses among the eight bytes of a and b (R137). -/
def prmt (a b c : Nat) : Nat :=
  ofBits 32 fun j =>
    let n := c / 2 ^ (4 * (j / 8)) % 16
    let e := (a + 2 ^ 32 * b) / 2 ^ (8 * (n % 8)) % 256
    e.testBit (if 8 ≤ n then 7 else j % 8)

/-! ### Floating-point instructions (spec/07_float.md) -/

/-- Code and flags of the instructions that the shadow unit checks (R175, R179, R189). -/
def floatOp : Instr → Option (FmtA × (State → Thread → Nat × Nat))
  | .fadd f => some (f, fun s t => rFadd (fmtOf f.ty.toNat) f.rm.toNat f.st.toNat (fopA s t f) (fopB s t f))
  | .fsub f => some (f, fun s t => rFsub (fmtOf f.ty.toNat) f.rm.toNat f.st.toNat (fopA s t f) (fopB s t f))
  | .fmul f => some (f, fun s t => rFmul (fmtOf f.ty.toNat) f.rm.toNat f.st.toNat (fopA s t f) (fopB s t f))
  | .ffma f => some (f, fun s t => rFfma (fmtOf f.ty.toNat) f.rm.toNat f.st.toNat (fopA s t f) (fopB s t f) (fopC s t f))
  | .hadd2 f => some (f, fun s t => rHalves (fmtOf f.ty.toNat) (fun x y _ => rFadd (fmtOf f.ty.toNat) f.rm.toNat f.st.toNat x y)
      (fcodeA s t f 32) (fcodeB s t f 32) 0)
  | .hmul2 f => some (f, fun s t => rHalves (fmtOf f.ty.toNat) (fun x y _ => rFmul (fmtOf f.ty.toNat) f.rm.toNat f.st.toNat x y)
      (fcodeA s t f 32) (fcodeB s t f 32) 0)
  | .hfma2 f => some (f, fun s t => rHalves (fmtOf f.ty.toNat) (rFfma (fmtOf f.ty.toNat) f.rm.toNat f.st.toNat)
      (fcodeA s t f 32) (fcodeB s t f 32) (fcodeC s t f 32))
  | _ => none
/-- Words and flags of the other per-thread instructions that write registers (R180, R182 to R185, R188, R190, R191). -/
def floatOther : Instr → Option (FmtA × (State → Thread → List Word × Nat))
  | .fmin f => some (f, fun s t => word (rFminmax (fmtOf f.ty.toNat) false (fcodeA s t f (fmtOf f.ty.toNat).size) (fcodeBI s t f)))
  | .fmax f => some (f, fun s t => word (rFminmax (fmtOf f.ty.toNat) true (fcodeA s t f (fmtOf f.ty.toNat).size) (fcodeBI s t f)))
  | .fclass f => some (f, fun s t => word (rFclass (fmtOf f.ty.toNat) (fcodeA s t f (fmtOf f.ty.toNat).size), 0))
  | .frnd f => some (f, fun s t => word (rFrnd (fmtOf f.ty.toNat) f.rm.toNat (fcodeA s t f (fmtOf f.ty.toNat).size)))
  | .fcvt f => some (f, fun s t =>
      let raw := regL s t f.a.toNat (tyRegs f.c.toNat) % 2 ^ tyWidth f.c.toNat
      let x : FOp := if f.c.toNat < 8 then (FV.ofDyadic (valOf raw f.c.toNat) 0, false) else (fmtOf f.c.toNat).value raw
      if f.ty.toNat < 8 then (writeD (rFcvtInt f.ty.toNat f.rm.toNat x).1 f.ty.toNat, (rFcvtInt f.ty.toNat f.rm.toNat x).2)
      else word (deliver (fmtOf f.ty.toNat) f.rm.toNat f.st.toNat [x] (x.1, 0)))
  | .fscl f => some (f, fun s t => word (rFscl (fmtOf f.ty.toNat) f.rm.toNat f.st.toNat (fopA s t f)
      (if f.ib = 1#1 then (f.b.toNat : Int) else sext 32 (fcodeB s t f 32))))
  | .flagrd f => some (f, fun _ t => ([BitVec.ofNat 32 (t.fl.toNat % 32)], 0))
  | .pack8 f => some (f, fun s t => word (rPack8 (fmtOf f.ty.toNat) f.rm.toNat f.st.toNat
      ((List.range 4).map fun i => bits (regL s t f.a.toNat 4) (32 * i) 32) (sclOf s t f)))
  | .unpack8 f => some (f, fun s t =>
      let r := (List.range 4).map fun i => rUnpack8 (fmtOf f.ty.toNat) f.rm.toNat f.st.toNat (bits (fcodeA s t f 32) (8 * i) 8) (sclOf s t f)
      (r.map fun x => BitVec.ofNat 32 x.1, r.foldl (fun a x => a ||| x.2) 0))
  | _ => none
where
  word (r : Nat × Nat) : List Word × Nat := ([BitVec.ofNat 32 r.1], r.2)
/-- The special functions of R186: a code and the flags, of an operand's code. -/
def floatSpecial : Instr → Option (FmtL × (Nat → Nat × Nat))
  | .frcp f => some (f, frcp (FmtL.rm f))
  | .fsqrt f => some (f, fsqrt (FmtL.rm f))
  | .frsq f => some (f, specialFn 0)
  | .fex2 f => some (f, specialFn 1)
  | .flg2 f => some (f, specialFn 2)
  | .fsin f => some (f, specialFn 3)
  | .fcos f => some (f, specialFn 4)
  | .ftanh f => some (f, specialFn 5)
  | .fsigm f => some (f, specialFn 6)
  | _ => none
/-- FP32 codes that stand for values in the table of R187. -/
def f32 (c : Nat) : FV := ((fmtOf 8).value c).1

/-! ### Control flow (spec/06_control.md) -/

/-- The branches: guard, register pair that takes the link, and target (R72, R151). -/
def branch : Instr → Option (Guard × Option Nat × (Path → State → Thread → DWord))
  | .braShort f => some ({}, none, fun p _ _ => p.pc + BitVec.ofInt 64 (4 * f.off.toInt))
  | .bra f => some (f.guard, none, fun p _ _ => p.pc + BitVec.ofInt 64 (4 * f.off.toInt))
  | .callShort f => some ({}, some 0, fun p _ _ => p.pc + BitVec.ofInt 64 (4 * f.off.toInt))
  | .call f => some (f.guard, some f.x.toNat, fun p _ _ => p.pc + BitVec.ofInt 64 (4 * f.off.toInt))
  | .brx f => some (f.guard, if f.fn = 1#8 then some (f.x.toNat + 2) else none, fun _ s t => BitVec.ofNat 64 (regL s t f.x.toNat 2))
  | .retShort _ => some ({}, none, fun _ s t => BitVec.ofNat 64 (regL s t 0 2))
  | .ret f => some (f.guard, none, fun _ s t => BitVec.ofNat 64 (regL s t f.x.toNat 2))
  | _ => none
/-- The instructions that hold their thread at the boundary, with the state they leave it in (R145, R154, R155). -/
def holds : Instr → Option (FmtA × (Path → State → Thread → Status))
  | .join f => some (f, fun p _ _ => .heldJoin p.iaddr f.a.toNat)
  | .waitm f => some (f, fun p _ _ => .heldWaitm p.iaddr f.a.toNat)
  | .sleep f => some (f, fun _ s t => .sleeping (s.ctl.cycle + Nat.min (Nat.max (srcB s t f 6) 1) (2 ^ 24)))
  | _ => none
/-- The path holds the whole of its rendezvous instance `i` (R146). -/
structure Whole (s : State) (p : Path) (i : Inst) : Prop where
  inst   : p.inst = some i.id
  found  : s.inst? i.id = some i
  fg     : i.fg = p.fg
  lanes  : i.lanes = p.lanes
  bound  : ∀ l ∈ p.lanes, l < 128
  others : ∀ q ∈ s.paths.tail, q.inst ≠ some i.id ∧ q.id ≠ p.id
/-- The threads that execute a cross-lane instruction, in lane order, and those among them that mask `k` names (R158). -/
def executing (s : State) (p : Path) (g : Guard) : List Thread :=
  (((List.range 128).filter fun l => p.lanes.contains l).filterMap fun l => s.thread? p.fg l).filter fun t => g.on t
def activeIn (s : State) (p : Path) (g : Guard) (i : Inst) (k : Nat) : List Thread :=
  (executing s p g).filter fun t => (i.m.getD k 0).getLsbD t.lane
/-- Whether thread `l` is active and its source is true: c(l) of R152 and R159. -/
def votes (act : List Thread) (src : Thread → Bool) (l : Nat) : Bool := act.any fun t => t.lane = l && src t
/-- The lanes that mask `k` named at the release. -/
def named (i : Inst) (k : Nat) : List Nat := (List.range 128).filter fun l => (i.m.getD k 0).getLsbD l
/-- The combination of some sources in order, with the flags of its steps; the identity for none (R161). -/
def combineAll (op ty : Nat) : List Nat → Nat × Nat
  | [] => (scanIdent op ty, 0)
  | x :: xs => xs.foldl (fun a y => ((scanOp op ty a.1 y).1, a.2 ||| (scanOp op ty a.1 y).2)) (x, 0)
/-- The position of a lane among the active threads. -/
def rankIn (act : List Thread) (l : Nat) : Nat := (act.filter fun u => u.lane < l).length

/-! ### Memory, ordering and synchronisation (spec/08_memory.md, spec/09_ordering.md, spec/10_sync.md) -/

/-- The thread's pending operation `u` has ended with a value, or with an error (R80, R81). -/
def valued (s : State) (t : Thread) (u : Nat) (ws : List Word) : State :=
  s.modPend t.fg t.lane u fun q => { q with val := some ws }
def failed (s : State) (t : Thread) (u code addr : Nat) : State :=
  s.modPend t.fg t.lane u fun q => { q with err := some (code, BitVec.ofNat 64 addr) }
/-- One access of the thread, of a block: as the instruction hands it to the memory system. -/
def blkOf (s : State) (t : Thread) : Nat := ((s.fg? t.fg).map (·.blk)).getD 0
/-- The ordering and ticket instructions that only make an operation pending, and what they leave to be performed. -/
def awaits : Instr → Option (FmtL × Nat × (State → Thread → Todo × List Binding))
  | .fence f => some (f, 0, fun _ _ => (.fence (FmtL.op f = 1) (FmtL.ord f = 0 || FmtL.ord f = 2) (FmtL.ord f = 0 || FmtL.ord f = 1)
      (FmtL.sc f), []))
  | .acq f => some (f, 2, fun s t => (.acq (s.objOf (regL s t f.a.toNat 2)) (FmtL.sc f), toObj s t f))
  | .rel f => some (f, 2, fun s t => (.rel (s.objOf (regL s t f.a.toNat 2)) (FmtL.sc f), toObj s t f))
  | .take f => some (f, 2, fun s t => (.take (regL s t f.a.toNat 2) (FmtL.ord f) (FmtL.sc f), toObj s t f))
  | .tknew f => some (f, 1, fun s t => (.tk (if FmtL.fn f = 6 then 1 else 0) (regL s t f.a.toNat 2) (regL s t f.b.toNat 2), []))
  | .tksave f => some (f, 1, fun s t => (.tk 2 (regL s t f.a.toNat 2) (regL s t f.b.toNat 2), []))
  | .tkload f => some (f, 1, fun s t => (.tk 3 (regL s t f.a.toNat 2) (regL s t f.b.toNat 2), []))
  | .tkdrainClose f => some (f, 1, fun s t => (.tk 4 (regL s t f.a.toNat 2) 0, []))
  | .tkdrainOpen f => some (f, 1, fun s t => (.tk 5 (regL s t f.a.toNat 2) 0, []))
  | .tkdrainFree f => some (f, 1, fun s t => (.tk 6 (regL s t f.a.toNat 2) 0, []))
  | _ => none
where
  toObj (s : State) (t : Thread) (f : FmtL) : List Binding := s.boundTo (s.asidOf t.fg) (s.objOf (regL s t f.a.toNat 2))
/-- The atomics: format, .sp, RED. -/
def atomic : Instr → Option (FmtL × Bool × Bool)
  | .atom f => some (f, false, false) | .atomSp f => some (f, true, false)
  | .red f => some (f, false, true) | .redSp f => some (f, true, true)
  | _ => none

/-! ### System instructions (spec/04_system.md) -/

/-- Rights of R89 for the auditor's window too. -/
def rightsEvery : Rights := { opr := true, own := true, aud := true }
/-- The instructions that only one authority may issue (R89, R105 to R120; spec/15_launch.md R357 to R362; spec/17_links.md R397 to R399). -/
def ownersOnly : Instr → Bool
  | .tret _ | .mapack _ | .kwrapGive _ | .kwrapTake _ | .kdrop _ | .attestCtx _ | .scrubVirt _ | .nlaunch _ | .nwait _ | .bind _ | .unbind _
  | .cpb _ | .cpt _ | .cpl _ | .cpa _ | .cpcan _ | .tdef _ | .tseal _ | .tdrop _ | .tquery _ | .gang _ | .oclaim _ | .orel _
  | .mma _ | .mmag _ | .mmas _ | .accz _ => true
  | _ => false
def operatorsOnly : Instr → Bool
  | .tretRec _ | .ctxsaveSeal _ | .ctxsaveReset _ | .ctxloadImage _ | .ctxloadNew _ | .ctxloadResume _ | .kwrapEscrow _ | .kdropErase _
  | .attestModule _ | .scrubPhys _ | .rankmapSet _ | .planemapMap _ | .planemapShare _ | .planemapRetrain _ | .paritycfgSet _
  | .paritycfgRebuild _ | .paritycfgGet _ | .placeRsv _ | .placeFree _ | .placeClose _ | .placeOpen _ | .preempt _ | .slicesetAssign _
  | .slicesetTarget _ | .slicesetMove _ | .slicesetPool _ | .dirtysw _ => true
  | _ => false
def auditorsOnly : Instr → Bool
  | .cntrd _ | .cntcfg _ | .moncfg _ | .monrd _ => true
  | _ => false
/-- The rights row of an instruction (R89). -/
def rowOf (i : Instr) : Rights :=
  if ownersOnly i then rightsOwn else if operatorsOnly i then rightsOpr else if auditorsOnly i then { opr := false, own := false, aud := true }
  else match i with | .crd _ | .maprd _ => rightsEvery | _ => rightsAll
/-- The matrix instructions, with the code of their command; and EXIT. -/
def matrix : Instr → Option (Nat × FmtL)
  | .mma f => some (0, f) | .mmag f => some (1, f) | .mmas f => some (2, f) | .accz f => some (3, f)
  | _ => none
def exit? : Instr → Option Guard
  | .exitShort _ => some {} | .exit f => some f.guard
  | _ => none

/-! ### Events -/

/-- The event `i` of the table, about what `s.ev` says, makes `t` of the state `s`. -/
def Happens (i : Instr) (s t : State) : Prop := exec i s = .next t
/-- The entry of a thread at its clause header once its clause is fetched: temporaries 0, and where it goes next (R34, R61, R151). -/
def entered (ws : List Word) (pc : DWord) (st : Status) (t : Thread) : Thread :=
  { t with t := List.replicate 8 0, npc := pc + BitVec.ofNat 64 (4 * ws.length), after := .pooled, words := ws, status := st }
/-- The threads of a path, changed. -/
def onPath (x : State) (p : Path) (f : Thread → Thread) : List Thread :=
  x.threads.map fun t => if t.fg = p.fg ∧ t.lane ∈ p.lanes then f t else t
/-- The operation `q` is the next of a thread's that may end as `may` says: the first such, with no earlier one that has a
destination before it if it has one itself (R83, R84). -/
def NextEnd (l : List Pending) (may : Pending → Bool) (q : Pending) : Prop :=
  ∃ a b, l = a ++ q :: b ∧ may q = true ∧ ∀ x ∈ a, may x = false ∧ (q.dst = [] ∨ x.dst = [])
/-- The thread without that operation, its scoreboard one less (R80). -/
def without (t : Thread) (q : Pending) : Thread :=
  { t with pend := t.pend.filter fun x => x.uid ≠ q.uid, sb := t.sb.modify q.sb fun n => n - 1 }

end Sys2Proof.Claim
open Sys2Proof Sys2Proof.Machine Sys2Proof.Claim

/-- R128: the two-source instructions, in every form, write r mod 2^w by WriteD and change nothing else. -/
def Obligations.TwoSourceResults : Prop :=
  (∀ i k f, twoA i = some (k, f) → (f.ty.toNat < 8) →
    Writes i f fun s t => writeD (wrap (tyWidth f.ty.toNat)
      (k.r f.ty.toNat (srcA s t f f.ty.toNat) (srcB s t f f.ty.toNat) (srcB s t f 6))) f.ty.toNat) ∧
  (∀ i k f, twoS i = some (k, f) → ∀ s p, Issues s p rightsAll →
    Runs i s p s (turns {} fun t => t.put f.d.toNat
      (writeD (wrap 32 (k.r (tyS f) (regL s t f.a.toNat 1) (immS f) (immS f))) (tyS f))))

/-- R129: the one-source instructions. -/
def Sys2Proof.Claim.oneSourceResults : Prop :=
  (∀ i r f, one i = (some r, some f) → f.ty.toNat < 8 →
    Writes i f fun s t => writeD (wrap (tyWidth f.ty.toNat) (r f.ty.toNat (srcA s t f f.ty.toNat))) f.ty.toNat) ∧
  (∀ i c f, counts i = some (c, f) → f.ty.toNat < 8 →
    Writes i f fun s t => [BitVec.ofNat 32 (c (tyWidth f.ty.toNat) (srcA s t f f.ty.toNat))])
/-- R130: MOV copies B, and MOVI places its immediate, sign-extended for .s64 and zero-extended for .z64. -/
def Sys2Proof.Claim.moveResults : Prop :=
  (∀ f : FmtA, Writes (.mov f) f fun s t => writeD (srcB s t f f.ty.toNat) f.ty.toNat) ∧
  (∀ (f : FmtS) s p, Issues s p rightsAll → Runs (.movS f) s p s (turns {} fun t => t.put f.d.toNat (writeD (immS f) (tyS f)))) ∧
  (∀ (f : FmtI) s p, Issues s p rightsAll →
    let ws := if f.ty.toNat = 3 then natWords (wrap 64 f.imm.toInt) 2 else writeD f.imm.toNat f.ty.toNat
    if f.u = 1#1 then ∀ t, (s.active p {}).head? = some t → Runs (.movi f) s p (s.setFg ((s.fgOf t).put f.d.toNat ws)) keeps
    else Runs (.movi f) s p s (turns {} fun t => t.put f.d.toNat ws))
/-- R131: MAD is an exact product and sum with one wrap; DOT4 adds four byte products to c. -/
def Sys2Proof.Claim.madAndDot4 : Prop :=
  (∀ f : FmtA, Writes (.mad f) f fun s t =>
    let v := fun x => valOf x f.ty.toNat
    writeD (wrap (tyWidth f.ty.toNat)
      (v (srcA s t f f.ty.toNat) * v (srcB s t f f.ty.toNat) + v (srcC s t f f.ty.toNat))) f.ty.toNat) ∧
  (∀ f : FmtA, Writes (.dot4 f) f fun s t =>
    let byte := fun x i => valOf (x / 2 ^ (8 * i) % 256) f.ty.toNat
    let prods := (List.range 4).map fun i => byte (srcA s t f 6) i * byte (srcB s t f 6) i
    [BitVec.ofInt 32 (prods.foldl (· + ·) (valOf (srcC s t f 6) 2))])
/-- R129 to R131: the one-source instructions, the moves, MAD and DOT4. -/
def Obligations.OneSourceMoveMad : Prop := oneSourceResults ∧ moveResults ∧ madAndDot4

/-- R132: ADDC and SUBB write the sum and the carry or borrow; .cz and .bz take no carry in. -/
def Sys2Proof.Claim.carryChains : Prop :=
  ∀ (f : FmtA) s p, f.ty.toNat < 8 → Issues s p rightsAll →
    let w := tyWidth f.ty.toNat
    let cin := fun t : Thread => if f.fn = 1#5 then 0 else if t.pred f.c.toNat then 1 else 0
    let u := fun t => srcA s t f f.ty.toNat
    let v := fun t => srcB s t f f.ty.toNat
    Runs (.addc f) s p s (turns f.guard fun t =>
      (t.put f.d.toNat (writeD ((u t + v t + cin t) % 2 ^ w) f.ty.toNat)).setPred f.c.toNat (2 ^ w ≤ u t + v t + cin t)) ∧
    Runs (.subb f) s p s (turns f.guard fun t =>
      (t.put f.d.toNat (writeD (wrap w ((u t : Int) - v t - cin t)) f.ty.toNat)).setPred f.c.toNat ((u t : Int) - v t - cin t < 0))
/-- R133: DIV rounds toward zero, REM takes the dividend's sign; a zero divisor completes with 0x2001 in its own thread. The
result is pending on the scoreboard (R80). -/
def Sys2Proof.Claim.divideResults : Prop :=
  ∀ (f : FmtL) s p, FmtL.ty f < 8 → Issues s p rightsAll →
    let ty := FmtL.ty f
    let x := fun t => valOf (regL s t f.a.toNat (tyRegs ty) % 2 ^ tyWidth ty) ty
    let y := fun t => valOf (regU s t (FmtL.u f = 1) f.b.toNat (tyRegs ty) % 2 ^ tyWidth ty) ty
    let op := fun (r : Int → Int → Int) t =>
      let o : Pending := { uid := 0, sb := f.sb.toNat, left := f.la.toNat, iaddr := p.iaddr, dst := dstRegs f.d.toNat (tyRegs ty) }
      if y t = 0 then { o with err := some (0x2001, 0) }
      else { o with val := some (writeD (wrap (tyWidth ty) (r (x t) (y t))) ty) }
    Runs (.div f) s p s (pends f.guard (op Int.tdiv)) ∧ Runs (.rem f) s p s (pends f.guard (op Int.tmod))
/-- R132, R133: ADDC and SUBB, DIV and REM. -/
def Obligations.CarriesAndDivision : Prop := carryChains ∧ divideResults

/-- R134, R135: SETP, SEL and the predicate instructions; a write of p7 is discarded (R124). -/
def Obligations.ComparesAndPredicates : Prop :=
  (∀ (f : FmtA) s p, Issues s p rightsAll →
    ∀ r : Thread → Bool, (∀ t, r t = true ↔
      cmpInt (f.fn.toNat % 8) (valOf (srcA s t f f.ty.toNat) f.ty.toNat) (valOf (srcB s t f f.ty.toNat) f.ty.toNat)) →
    Runs (.setp f) s p s (turns f.guard fun t => t.setPred f.d.toNat (combined (f.fn.toNat / 8) (r t) (t.pred f.c.toNat)))) ∧
  (∀ f : FmtA, Writes (.sel f) f fun s t =>
    writeD (if t.pred f.c.toNat then srcA s t f f.ty.toNat else srcB s t f f.ty.toNat) f.ty.toNat) ∧
  (∀ i o f s p, predOp i = some (o, f) → Issues s p rightsAll →
    Runs i s p s (turns f.guard fun t => t.setPred f.d.toNat (o (t.pred f.a.toNat) (t.pred f.b.toNat))))

/-- R136, R137: BFX, BFI and PRMT, bit by bit. -/
def Sys2Proof.Claim.fieldsAndBytes : Prop :=
  (∀ f : FmtA, f.ty.toNat < 8 → Writes (.bfx f) f fun s t =>
    writeD (wrap (tyWidth f.ty.toNat) (bfx f.ty.toNat (srcA s t f f.ty.toNat) (srcB s t f 6) (srcC s t f 6))) f.ty.toNat) ∧
  (∀ f : FmtA, f.ty.toNat < 8 → Writes (.bfi f) f fun s t =>
    writeD (bfi f.ty.toNat (srcD s t f f.ty.toNat) (srcA s t f f.ty.toNat) (srcB s t f 6) (srcC s t f 6)) f.ty.toNat) ∧
  (∀ f : FmtA, Writes (.prmt f) f fun s t => [BitVec.ofNat 32 (prmt (srcA s t f 6) (srcB s t f 6) (srcC s t f 6))])
/-- R138, R139: LEA sums addresses modulo 2^64; CVTI converts, clamped with .sat (ST = 1). -/
def Sys2Proof.Claim.addressesAndConversions : Prop :=
  (∀ f : FmtA, (f.ty.toNat = 2 ∨ f.ty.toNat = 6) → Writes (.lea f) f fun s t =>
    natWords (wrap 64 ((srcA s t f 7 : Int) + valOf (srcB s t f 6) f.ty.toNat * 2 ^ (f.fn.toNat % 8)
      + valOf (srcC s t f 6) f.ty.toNat)) 2) ∧
  (∀ f : FmtA, f.ty.toNat < 8 → Writes (.cvti f) f fun s t =>
    let n := valOf (srcA s t f (f.fn.toNat % 8)) (f.fn.toNat % 8)
    writeD (wrap (tyWidth f.ty.toNat) (if f.st = 1#2 then clampTo n f.ty.toNat else n)) f.ty.toNat)
/-- R136 to R139: BFX, BFI, PRMT, LEA and CVTI. -/
def Obligations.FieldsAndAddresses : Prop := fieldsAndBytes ∧ addressesAndConversions

/-- R170: Round. The result k × 2^u has the exponent the rule gives, and k is the exact quotient where there is one; else under
.rn the nearest, at a tie the even one, under .rz truncated, under .rp the least above, under .rm the greatest below. -/
def Obligations.RoundByRule : Prop :=
  ∀ (F : Fmt) (rm : Nat) (m e : Int), m ≠ 0 →
    let E : Int := (Nat.log2 m.natAbs : Int) + e
    let u : Int := max E F.emin - F.p + 1
    let r := roundTo F rm m e
    r.2.1 = u ∧
    (u ≤ e → r.1 = m * 2 ^ (e - u).toNat ∧ r.2.2 = false) ∧
    (e < u →
      let q : Int := 2 ^ (u - e).toNat
      (r.2.2 = true ↔ r.1 * q ≠ m) ∧
      (rm = 0 → 2 * (m - r.1 * q).natAbs ≤ q.toNat ∧ (2 * (m - r.1 * q).natAbs = q.toNat → r.1 % 2 = 0)) ∧
      (rm = 1 → r.1 = m.tdiv q) ∧
      (rm = 2 → r.1 * q ≥ m ∧ (r.1 - 1) * q < m) ∧
      (rm = 3 → r.1 * q ≤ m ∧ (r.1 + 1) * q > m))

/-- R172: an exact zero sum is +0, but −0 under .rm; zeros of one sign keep it; ∞ − ∞ and 0 × ∞ are NaN with NV, and so is FFMA
of 0 × ∞ + c; a sum and a product of finite values are exact. -/
def Obligations.SpecialValueArithmetic : Prop :=
  (∀ rm a, fvAdd rm (.zero a) (.zero a) = (.zero a, 0)) ∧
  (∀ rm a, fvAdd rm (.zero a) (.zero (!a)) = (.zero (rm = 3), 0)) ∧
  (∀ rm m e, m ≠ 0 → fvAdd rm (.fin m e) (.fin (-m) e) = (.zero (rm = 3), 0)) ∧
  (∀ rm a, fvAdd rm (.inf a) (.inf (!a)) = (.nan, 16)) ∧
  (∀ a b, fvMul (.zero a) (.inf b) = (.nan, 16) ∧ fvMul (.inf a) (.zero b) = (.nan, 16)) ∧
  (∀ rm a b z, fvFma rm (.zero a) (.inf b) z = (.nan, 16) ∧ fvFma rm (.inf a) (.zero b) z = (.nan, 16)) ∧
  (∀ rm m n e f, e ≤ f → m + n * 2 ^ (f - e).toNat ≠ 0 → fvAdd rm (.fin m e) (.fin n f) = (.fin (m + n * 2 ^ (f - e).toNat) e, 0)) ∧
  (∀ m n e f, fvMul (.fin m e) (.fin n f) = (.fin (m * n) (e + f), 0))

/-- R179, R189: the checked instructions, on a part without faults (R175), write Fit of the exact result and raise its flags. -/
def Obligations.FloatArithmetic : Prop :=
  ∀ i f r, floatOp i = some (f, r) → ∀ s p, Issues s p rightsAll → s.health.vecFaults = [] →
    Runs i s p s (turns f.guard fun t => (t.put f.d.toNat [BitVec.ofNat 32 (r s t).1]).raise (r s t).2)

/-- R180 to R185, R188, R190, R191: the other instructions of format A of the family. -/
def Sys2Proof.Claim.floatConversions : Prop :=
  (∀ i f r, floatOther i = some (f, r) → ∀ s p, Issues s p rightsAll →
    Runs i s p s (turns f.guard fun t => (t.put f.d.toNat (r s t).1).raise (r s t).2)) ∧
  (∀ (f : FmtA) s p, Issues s p rightsAll →
    let r := fun t => rFcmp (f.fn.toNat % 8) (fopA s t f) (fopB s t f)
    Runs (.fcmp f) s p s (turns f.guard fun t =>
      (t.setPred f.d.toNat (combined (f.fn.toNat / 8) (r t).1 (t.pred f.c.toNat))).raise (r t).2)) ∧
  (∀ (f : FmtA) s p, Issues s p rightsAll →
    Runs (.flagclr f) s p s (turns f.guard fun t => { t with fl := t.fl &&& ~~~(BitVec.ofNat 32 (srcB s t f 6 % 32)) }))
/-- R181: FCMP's table. An unordered pair satisfies .ne and .un alone, NV is raised for a quiet NaN by .lt, .le, .gt and .ge
alone, and by a signalling NaN always; −0 equals +0. -/
def Sys2Proof.Claim.floatCompareTable : Prop :=
  (∀ c x y, c < 8 → x.1.isNan || y.1.isNan →
    (rFcmp c x y).1 = (c == 1 || c == 6) ∧
    (rFcmp c x y).2 = if x.2 || y.2 || (2 ≤ c && c ≤ 5) then 16 else 0) ∧
  (∀ c m n e, c < 8 →
    (rFcmp c (.fin m e, false) (.fin n e, false)).2 = 0 ∧
    ((rFcmp c (.fin m e, false) (.fin n e, false)).1 = true ↔
      (c = 0 ∧ m = n) ∨ (c = 1 ∧ m ≠ n) ∨ (c = 2 ∧ m < n) ∨ (c = 3 ∧ m ≤ n) ∨ (c = 4 ∧ m > n) ∨ (c = 5 ∧ m ≥ n) ∨ c = 7)) ∧
  (∀ a b, (rFcmp 0 (.zero a, false) (.zero b, false)).1 = true)
/-- R180 to R185, R188, R190, R191: the other instructions of format A of the family, and the table of FCMP. -/
def Obligations.FloatConversionsAndCompares : Prop := floatConversions ∧ floatCompareTable

/-- R186: each special function completes in every form, and leaves its result pending with its flags. -/
def Sys2Proof.Claim.specialResults : Prop :=
  ∀ i f r, floatSpecial i = some (f, r) → ∀ s p, Issues s p rightsAll →
    Runs i s p s (pends f.guard fun t =>
      { uid := 0, sb := f.sb.toNat, left := f.la.toNat, iaddr := p.iaddr, dst := [f.d.toNat]
        val := some [BitVec.ofNat 32 (r (regL s t f.a.toNat 1)).1], flags := (r (regL s t f.a.toNat 1)).2 })
/-- R187: what the special functions make of a NaN, of the infinities and of the zeros: the rows of the table. -/
def Sys2Proof.Claim.specialTable : Prop :=
  let minf := 0xFF800000
  let pinf := 0x7F800000
  let nan := 0x7FC00000
  let mz := 0x80000000
  (∀ a b, (fmtOf 8).value a = (.nan, b) → ∀ rm op, frcp rm a = (nan, if b then 16 else 0) ∧ fsqrt rm a = (nan, if b then 16 else 0) ∧
    specialFn op a = (nan, if b then 16 else 0)) ∧
  (∀ rm, frcp rm minf = (mz, 0) ∧ frcp rm mz = (minf, 8) ∧ frcp rm 0 = (pinf, 8) ∧ frcp rm pinf = (0, 0) ∧
    fsqrt rm minf = (nan, 16) ∧ fsqrt rm mz = (mz, 0) ∧ fsqrt rm 0 = (0, 0) ∧ fsqrt rm pinf = (pinf, 0)) ∧
  (specialFn 0 minf = (nan, 16) ∧ specialFn 0 mz = (minf, 8) ∧ specialFn 0 0 = (pinf, 8) ∧ specialFn 0 pinf = (0, 0)) ∧
  (specialFn 1 minf = (0, 0) ∧ specialFn 1 mz = (0x3F800000, 0) ∧ specialFn 1 0 = (0x3F800000, 0) ∧ specialFn 1 pinf = (pinf, 0)) ∧
  (specialFn 2 minf = (nan, 16) ∧ specialFn 2 mz = (minf, 8) ∧ specialFn 2 0 = (minf, 8) ∧ specialFn 2 pinf = (pinf, 0)) ∧
  (specialFn 3 minf = (nan, 16) ∧ specialFn 3 mz = (mz, 0) ∧ specialFn 3 0 = (0, 0) ∧ specialFn 3 pinf = (nan, 16)) ∧
  (specialFn 4 minf = (nan, 16) ∧ specialFn 4 mz = (0x3F800000, 0) ∧ specialFn 4 0 = (0x3F800000, 0) ∧ specialFn 4 pinf = (nan, 16)) ∧
  (specialFn 5 minf = (0xBF800000, 0) ∧ specialFn 5 mz = (mz, 0) ∧ specialFn 5 0 = (0, 0) ∧ specialFn 5 pinf = (0x3F800000, 0)) ∧
  (specialFn 6 minf = (0, 0) ∧ specialFn 6 mz = (0x3F000000, 0) ∧ specialFn 6 0 = (0x3F000000, 0) ∧ specialFn 6 pinf = (0x3F800000, 0))
/-- R186, R187: what they make of a finite operand m × 2^e that is not zero. FRCP and FSQRT are Fit of the quotient and the root;
a root or logarithm of a negative is NaN with NV; FEX2 is exact, overflows or underflows as the table says; FLG2 of a power of
two is its exponent; and every other result has NX, with UF where it is subnormal or zero, and a code that is the reference
value's by Fit, or any within the bound of R186 of it (assumption log 40). -/
def Sys2Proof.Claim.specialFinites : Prop :=
  ∀ a m e b, (fmtOf 8).value a = (.fin m e, b) →
    let nan := 0x7FC00000
    let other := fun op => specialFn op a = (specialFinite op a m e, 1 + if bits (specialFinite op a m e) 23 8 = 0 then 2 else 0)
    -- a is the integer n
    let int := fun n : Int => if e < 0 then m = n * 2 ^ (-e).toNat else n = m * 2 ^ e.toNat
    (∀ rm, frcp rm a = fit (fmtOf 8) rm 0 (fvRecip m e)) ∧
    (∀ rm, fsqrt rm a = if m < 0 then (nan, 16) else fit (fmtOf 8) rm 0 (fvSqrt m.natAbs e)) ∧
    (m < 0 → specialFn 0 a = (nan, 16) ∧ specialFn 2 a = (nan, 16)) ∧ (0 < m → other 0) ∧
    (∀ n, int n →
      (128 ≤ n → specialFn 1 a = (0x7F800000, 5)) ∧ (n ≤ -150 → specialFn 1 a = (0, 3)) ∧
      (-126 ≤ n → n ≤ 127 → specialFn 1 a = ((n + 127).toNat * 2 ^ 23, 0)) ∧ (-149 ≤ n → n < -126 → specialFn 1 a = (2 ^ (n + 149).toNat, 0))) ∧
    (0 < m → 7 ≤ (Nat.log2 m.natAbs : Int) + e → specialFn 1 a = (0x7F800000, 5)) ∧
    ((∀ n, ¬int n) → 0 < m → (Nat.log2 m.natAbs : Int) + e < 7 → other 1) ∧
    ((∀ n, ¬int n) → m < 0 → if 150 * 2 ^ (-e).toNat < -m then specialFn 1 a = (0, 3) else other 1) ∧
    (∀ k : Nat, m = 2 ^ k → specialFn 2 a = ((fit (fmtOf 8) 0 0 (FV.ofDyadic (k + e) 0)).1, 0)) ∧
    (0 < m → (∀ k : Nat, m ≠ 2 ^ k) → other 2) ∧ other 3 ∧ other 4 ∧ other 5 ∧ other 6
/-- R186, R187: the special functions: every form completes with its result pending, and the results are those of the table. The
values that the table does not call exact are within the bound of R186 of a reference of the model's own (assumption log 40). -/
def Obligations.SpecialFunctions : Prop := specialResults ∧ specialTable ∧ specialFinites

/-- R72, R151: a branch sends its thread to header + 4 × OFF or to the address in its register pair; CALL, and BRX.call after
its target is read, write the address of the next clause to the link pair. -/
def Sys2Proof.Claim.branchTargets : Prop :=
  ∀ i g link tgt s p, branch i = some (g, link, tgt) → Issues s p rightsAll →
    (∀ t ∈ s.active p g, (tgt p s t).toNat % 4 = 0) →
    Ends i s p g fun t =>
      let t1 := match link with | some x => t.put x (natWords t.npc.toNat 2) | none => t
      { t1 with npc := tgt p s t }
/-- R151: a branch to an address that is no multiple of 4 traps with 0x100B in its thread, which keeps its registers. Stated of
a path of one thread. -/
def Sys2Proof.Claim.branchTrap : Prop :=
  ∀ i g link tgt s p t, branch i = some (g, link, tgt) → Alone s p rightsAll g t → (tgt p s t).toNat % 4 ≠ 0 →
    Traps i s p t 0x100B s.noAddr
/-- R72, R151: the branches. FLT_ADDR is a free value where the rule states none (assumption log 43). -/
def Obligations.Branches : Prop := branchTargets ∧ branchTrap

/-- R145, R154, R155: JOIN, WAITM and SLEEP hold their thread at the clause boundary; a sleep lasts n cycles, at least one and at
most 2^24. NOP does nothing, whatever its guard. -/
def Obligations.HoldsAndSleeps : Prop :=
  (∀ i f st s p, holds i = some (f, st) → Issues s p rightsAll → Ends i s p f.guard fun t => { t with after := st p s t }) ∧
  (∀ f s p, Issues s p rightsAll → Runs (.nopShort f) s p s keeps) ∧
  (∀ f s p, Issues s p rightsAll → Runs (.nop f) s p s keeps)

/-- R155, R156: LEAVE clears the bit of each executing thread in its mask, and MASK.set and MASK.pred write it; the other forms
of MASK act once, on a whole mask or on four uniform registers. Nothing else changes. -/
def Sys2Proof.Claim.maskOperations : Prop :=
  (∀ (f : FmtA) s p g, Issues s p rightsAll → s.fg? p.fg = some g → (∀ h ∈ s.fgs, h.id = g.id → h = g) →
    let write := fun (b : Thread → Bool) (m : Lanes) =>
      (s.active p f.guard).foldl (fun m t => if b t then m ||| (1#128 <<< t.lane) else m &&& ~~~(1#128 <<< t.lane)) m
    let bitsOf := fun (k : Nat) (b : Thread → Bool) => { g with m := g.m.modify k (write b) }
    Runs (.leave f) s p (s.setFg (bitsOf f.a.toNat fun _ => false)) keeps ∧
    (f.fn = 0#5 → Runs (.mask f) s p (s.setFg (bitsOf f.d.toNat fun _ => true)) keeps) ∧
    (f.fn = 1#5 → Runs (.mask f) s p (s.setFg (bitsOf f.d.toNat fun t => t.pred f.a.toNat)) keeps)) ∧
  (∀ (f : FmtA) s p g, Issues s p rightsAll → s.fg? p.fg = some g → s.active p f.guard ≠ [] →
    let m := fun k : BitVec 8 => g.m.getD k.toNat 0
    let whole := fun v => Runs (.mask f) s p (s.setFg { g with m := g.m.set f.d.toNat v }) keeps
    (f.fn = 2#5 → whole (m f.a)) ∧ (f.fn = 3#5 → whole (m f.a &&& m f.b)) ∧ (f.fn = 4#5 → whole (m f.a ||| m f.b)) ∧
    (f.fn = 5#5 → whole (m f.a &&& ~~~(m f.b))) ∧
    (f.fn = 6#5 → whole (BitVec.ofNat 128 (regsNat g.s f.a.toNat 4))) ∧
    (f.fn = 7#5 → Runs (.mask f) s p (s.setFg (g.put f.d.toNat (natWords (m f.a).toNat 4))) keeps) ∧
    (f.fn = 8#5 → whole (lanesMask ((s.living g.id).map (·.lane)))))
/-- R157: ELECT finds the lowest living thread that a mask names. -/
def Sys2Proof.Claim.electLowest : Prop :=
  ∀ (f : FmtA) s p, Issues s p rightsAll →
    let cand := fun t : Thread => ((s.living t.fg).map (·.lane)).filter fun i => ((s.fgOf t).mask f.a.toNat).getLsbD i
    Runs (.elect f) s p s (turns f.guard fun t =>
      let me := (cand t).min? = some t.lane
      if f.fn = 1#5 then (t.put f.d.toNat [BitVec.ofNat 32 ((cand t).min?.getD 0xFFFFFFFF)]).setPred f.c.toNat me
      else t.setPred f.d.toNat me)
/-- R155 to R157: the masks and ELECT. -/
def Obligations.MasksAndElection : Prop := maskOperations ∧ electLowest

/-- R146, R158 to R162: the cross-lane instructions, where the path holds the whole of its instance. -/
def Obligations.CrossLaneResults : Prop :=
  ∀ (f : FmtA) s p i, Issues s p rightsAll → Whole s p i →
    let on := executing s p f.guard
    let act := activeIn s p f.guard i f.c.toNat
    let vote := votes act fun t => if f.a.toNat = 8 then t.flags ≠ 0 else t.pred f.a.toNat
    let src := fun t : Thread => srcA s t f f.ty.toNat
    (f.fn = 0#5 → Runs (.vote f) s p s (turns f.guard fun t => t.setPred f.d.toNat ((named i f.c.toNat).any vote))) ∧
    (f.fn = 1#5 → Runs (.vote f) s p s (turns f.guard fun t => t.setPred f.d.toNat ((named i f.c.toNat).all vote))) ∧
    (f.fn = 2#5 → Runs (.vote f) s p s (turns f.guard fun t =>
      t.setPred f.d.toNat ((named i f.c.toNat).all vote || !(named i f.c.toNat).any vote))) ∧
    (∀ g, f.fn = 3#5 → s.fg? p.fg = some g → on ≠ [] →
      Runs (.vote f) s p (s.setFg { g with m := g.m.set f.d.toNat (lanesMask ((named i f.c.toNat).filter vote)) }) keeps) ∧
    (f.fn = 4#5 → Runs (.vote f) s p s (turns f.guard fun t => t.raise (act.foldl (fun a u => a ||| u.flags) 0))) ∧
    Runs (.shfl f) s p s (turns f.guard fun t =>
      let n : Nat := srcB s t f 6
      let j : Int := if f.fn = 0#5 then n else if f.fn = 1#5 then t.lane - n else if f.fn = 2#5 then t.lane + n
        else (t.lane ^^^ (n % 128) : Nat)
      if j < 0 ∨ 127 < j then t.put f.d.toNat (writeD (src t) f.ty.toNat)
      else match act.find? fun u => (u.lane : Int) = j with
        | some u => t.put f.d.toNat (writeD (src u) f.ty.toNat)
        | none => (t.put f.d.toNat (writeD 0 f.ty.toNat)).raise 16) ∧
    Runs (.scan f) s p s (turns f.guard fun t =>
      if act.any fun u => u.lane = t.lane then
        let before := (act.map src).take (rankIn act t.lane + if f.fn.toNat / 8 % 2 = 1 then 0 else 1)
        let v := combineAll (f.fn.toNat % 8) f.ty.toNat before
        (t.put f.d.toNat (writeX v.1 f.ty.toNat)).raise v.2
      else t) ∧
    Runs (.lred f) s p s (turns f.guard fun t =>
      let v := combineAll (f.fn.toNat % 8) f.ty.toNat (act.map src)
      (t.put f.d.toNat (writeX v.1 f.ty.toNat)).raise v.2) ∧
    Runs (.matchL f) s p s (turns f.guard fun t =>
      let g := t.lane :: (act.filter fun u => u.lane ≠ t.lane ∧ src u = src t).map (·.lane)
      t.put f.d.toNat [BitVec.ofNat 32 (if f.fn = 0#5 then g.min?.getD 0 else g.length)])

/-- R152: BRC takes its branch in every thread of the instance, or in none: .any where some active thread's condition is true,
.all where that of every named thread is. -/
def Sys2Proof.Claim.branchConsensus : Prop :=
  ∀ (f : FmtB2) s p i, Issues s p rightsAll → Whole s p i →
    let vote := votes (activeIn s p {} i f.x.toNat) f.guard.on
    let taken := if f.fn = 1#8 then (named i f.x.toNat).all vote else (named i f.x.toNat).any vote
    Ends (.brc f) s p {} fun t => if taken then { t with npc := i.pc + BitVec.ofInt 64 (4 * f.off.toInt) } else t
/-- R146: until every thread of its instance stands at a cross-lane instruction, its path waits, with another of its lane group that waits
there as one path, and nothing else happens (assumption log 127). -/
def Sys2Proof.Claim.crossLaneWaits : Prop :=
  ∀ i s p (inst : Inst), (match i with | .vote _ | .shfl _ | .scan _ | .lred _ | .matchL _ | .brc _ => True | _ => False) →
    s.paths.head? = some p → p.inst = some inst.id → s.inst? inst.id = some inst →
    (∃ l ∈ inst.lanes, ∀ q ∈ s.paths, (q.id = p.id ∨ q.waiting) → q.inst = some inst.id → l ∉ q.lanes) →
    exec i s = .next ((s.setPath { p with waiting := true }).joinWaiting p)
/-- R146, R152: BRC, and how a cross-lane instruction waits for its instance. -/
def Obligations.BranchConsensusAndWaits : Prop := branchConsensus ∧ crossLaneWaits

/-- R210, R213 to R215: LD and ST form the address with a wrap at 2^64, and hand one access to the memory system; a load that
is done leaves its registers' words pending, an access that fails leaves its code and the lowest byte that fails. An access that an
earlier one of its thread must go before, or that lies in sync space of another die, is left to be performed later. -/
def Sys2Proof.Claim.loadsAndStores : Prop :=
  ∀ (f : FmtM) s p t, Alone s p rightsAll f.guard t →
    let a := s.begun p t
    let ea := wrap 64 ((regU s t (f.u = 1#1) f.a.toNat 2 : Int) + f.off.toInt)
    let ld := a.pendU (moved p t) (fmtMPend f p (mRegs f.vn.toNat f.ty.toNat))
    let st := a.pendU (moved p t) (fmtMPend f p 0)
    let bytes := toBytes (mSize f) (regL s t f.d.toNat (mRegs f.vn.toNat f.ty.toNat))
    let acc : HeldAcc := { fg := t.fg, lane := t.lane, uid := st.1, write := true, ea := ea, size := mSize f, data := bytes }
    let get : HeldAcc := { fg := t.fg, lane := t.lane, uid := ld.1, write := false, ea := ea, size := mSize f, ty := f.ty.toNat, vn := f.vn.toNat }
    let later := fun (x : State) (a : HeldAcc) (w : Want) => x.accWaits (moved p t) a.uid a.touch || (x.farHome t.fg w a.ea a.size).isSome
    let side := s.sideStore t ea (mSize f)
    (later ld.2 get .rd = true → Done (.ld f) s p t (ld.2.postpone (moved p t) get)) ∧
    (∀ c bs, later ld.2 get .rd = false → ld.2.load false (s.coreOf p.fg) (s.asidOf p.fg) (blkOf s t) ea (mSize f) = (c, .done bs) →
      Done (.ld f) s p t (valued c t ld.1 (if f.vn = 0#2 then writeD (ofBytes bs) f.ty.toNat else bytesWords bs))) ∧
    (∀ c code addr, later ld.2 get .rd = false → ld.2.load false (s.coreOf p.fg) (s.asidOf p.fg) (blkOf s t) ea (mSize f) = (c, .err code addr) →
      Done (.ld f) s p t (failed c t ld.1 code addr)) ∧
    (∀ c bs, side = false → later st.2 acc .wr = false →
      st.2.store false (s.coreOf p.fg) (s.asidOf p.fg) (blkOf s t) ea bytes = (c, .done bs) →
      Done (.st f) s p t (valued c t st.1 [])) ∧
    (∀ c code addr, side = false → later st.2 acc .wr = false →
      st.2.store false (s.coreOf p.fg) (s.asidOf p.fg) (blkOf s t) ea bytes = (c, .err code addr) →
      Done (.st f) s p t (failed c t st.1 code addr)) ∧
    (side = false → later st.2 acc .wr = true → Done (.st f) s p t (st.2.postpone (moved p t) acc)) ∧
    (side = true → Traps (.st f) s p t 0x4001 s.noAddr)
/-- R210: an address from 2^57 on fails with 0x3003 before anything is translated, and nothing changes. -/
def Sys2Proof.Claim.addressRange : Prop :=
  ∀ (s : State) core asid w ea n, 2 ^ 57 ≤ ea → ea < 2 ^ 64 → 0 < n → s.check core asid w ea n = (s, .error (0x3003, ea))
/-- R210, R213 to R215: the generic loads and stores, and the range of an address. FLT_ADDR is a free value where the rule states
none (assumption log 43). That an access which is not left for later acts in its step is assumption log 4, and which one
travels to another die assumption log 138. -/
def Obligations.LoadsAndStores : Prop := loadsAndStores ∧ addressRange

/-- R197, R207, R210: a store to cached device memory from a core, within one 16-byte part whose L1 has room for its line, writes
that line of the L1 and a bit of the dirty bitmap, and no other byte of memory or of a cache; its own core then reads the
bytes back. Only pages of the bitmap that await scrubbing are swept beside it. That a store acts in one step is assumption
log 4. -/
def Obligations.StoreFrame : Prop :=
  ∀ (s : State) core asid (l : Leaf) va pa (bs : List Byte), core < 256 → pa % 16 + bs.length ≤ 16 → Memory.wf s.mem.phys = true →
    let mine := fun y : Line => y.is core (pa - pa % 128) asid l.buf
    (s.mem.l1.filter fun y => !mine y && y.unit = core).length < 1024 →
    let s' := s.cacheWrite false core asid l va pa bs
    let base := dirtyBase s.mem.dirtyActive
    let at_ := base + pa / 65536 / 8
    let still := s.scrubPending base = false ∧ s.scrubPending at_ = false
    (still → (∀ a, a ≠ at_ → cellGet s'.mem.phys a = cellGet s.mem.phys a) ∧
      { s'.mem with phys := [], l1 := [] } = { s.mem with phys := [], l1 := [] }) ∧
    (∀ a, a / 65536 ≠ base / 65536 → a / 65536 ≠ at_ / 65536 → cellGet s'.mem.phys a = cellGet s.mem.phys a) ∧
    { s'.mem with phys := [], l1 := [], scrub := [], poison := [] } = { s.mem with phys := [], l1 := [], scrub := [], poison := [] } ∧
    (∀ y, y ∈ s.mem.l1 → mine y = false → y ∈ s'.mem.l1) ∧
    (∃ x ∈ s'.mem.l1, mine x = true ∧ slice x.data (pa % 128) bs.length = bs ∧
      ∀ y, s.mem.l1.find? mine = some y → ∀ i, (i < pa % 128 ∨ pa % 128 + bs.length ≤ i) →
        x.data.getD i 0 = y.data.getD i 0 ∧ x.valid.getLsbD i = y.valid.getLsbD i ∧ x.dirty.getLsbD i = y.dirty.getLsbD i) ∧
    (s'.cacheRead false core asid l va pa bs.length).2 = some bs

/-- R210, R213, R214, R220: STS queues its bytes at their banks, LDS sees the queues, whichever bank writes first; an access past
the scratchpad fails with 0x3004. No byte outside the stored ones changes. That an access acts in one step is assumption log
4. -/
def Obligations.ScratchpadAccess : Prop :=
  (∀ (f : FmtM) s p t b, Alone s p rightsAll f.guard t → s.blockOf p.fg = some b →
    let ea := wrap 32 ((regU s t (f.u = 1#1) f.a.toNat 1 : Int) + f.off.toInt)
    let bytes := toBytes (mSize f) (regL s t f.d.toNat (mRegs f.vn.toNat f.ty.toNat))
    let ld := fmtMPend f p (mRegs f.vn.toNat f.ty.toNat)
    let st := fmtMPend f p 0
    let a := s.begun p t
    (ea + mSize f ≤ b.scratch.length →
      Done (.lds f) s p t (a.pendL (moved p t) { ld with val := some (loadWords f.ty.toNat f.vn.toNat (b.scratchGen ea (mSize f))) }) ∧
      Done (.sts f) s p t ((a.setBlock { b with bankQ := b.bankQ ++ bankParts ea bytes }).pendL (moved p t) { st with val := some [] })) ∧
    (b.scratch.length < ea + mSize f →
      let bad := BitVec.ofNat 64 (Nat.max ea b.scratch.length)
      Done (.lds f) s p t (a.pendL (moved p t) { ld with err := some (0x3004, bad) }) ∧
      Done (.sts f) s p t (a.pendL (moved p t) { st with err := some (0x3004, bad) }))) ∧
  (∀ (b : Block) off (bs : List Byte), off + bs.length ≤ b.scratch.length → off + bs.length ≤ 2 ^ 32 →
    let b' : Block := { b with bankQ := b.bankQ ++ bankParts off bs }
    b'.scratchGen off bs.length = bs ∧
    (∀ a n, (a + n ≤ off ∨ off + bs.length ≤ a) → b'.scratchGen a n = b.scratchGen a n) ∧
    (∀ q ∈ bankParts off bs, q.off % 16 + q.bytes.length ≤ 16 ∧ off ≤ q.off ∧ q.off + q.bytes.length ≤ off + bs.length)) ∧
  (∀ (b : Block) k a n, (∀ q ∈ b.bankQ, q.off % 16 + q.bytes.length ≤ 16 ∧ q.off + q.bytes.length ≤ b.scratch.length) →
    (b.drainBank k).scratchGen a n = b.scratchGen a n ∧ b.drainBanks.scratchGen a n = b.scratchGen a n)

/-- R216, R217, R218: PRF fetches 1, 2 or 4 lines and commits nothing; MPROBE commits the leaf and the code a load would raise;
DIRTYSW makes a zeroed bitmap the active one. -/
def Obligations.ProbesAndBitmap : Prop :=
  (∀ (f : FmtM) s p t, Alone s p rightsAll f.guard t →
    let ea := wrap 64 ((regU s t (f.u = 1#1) f.a.toNat 2 : Int) + f.off.toInt) / 128 * 128
    let x := (List.range (2 ^ f.vn.toNat)).foldl
      (fun s k => s.prefetch (s.coreOf t.fg) (s.asidOf t.fg) ((ea + 128 * k) % 2 ^ 64)) (s.begun p t)
    Done (.prf f) s p t (x.pendL (moved p t) { fmtMPend f p 0 with val := some [] })) ∧
  (∀ (f : FmtM) s p t, Alone s p rightsAll f.guard t →
    let r := (s.begun p t).probe (s.coreOf p.fg) (s.asidOf p.fg) (wrap 64 ((regU s t (f.u = 1#1) f.a.toNat 2 : Int) + f.off.toInt))
    Done (.mprobe f) s p t (r.1.pendL (moved p t) { fmtMPend f p 2 with val := some [BitVec.ofNat 32 r.2.1, BitVec.ofNat 32 r.2.2] })) ∧
  (∀ (f : FmtL) s p t, Alone s p rightsOpr f.guard t →
    Done (.dirtysw f) s p t ((s.begun p t).swapDirty.pendL (moved p t)
      { fmtLPend f p 1 with val := some [BitVec.ofNat 32 (1 - s.mem.dirtyActive)] })) ∧
  (∀ s : State, Memory.wf s.mem.phys = true →
    s.swapDirty.mem.dirtyActive = 1 - s.mem.dirtyActive ∧
    ∀ a, cellGet s.swapDirty.mem.phys a =
      if dirtyBase (1 - s.mem.dirtyActive) ≤ a ∧ a < dirtyBase (1 - s.mem.dirtyActive) + 0x100000 then 0 else cellGet s.mem.phys a)

/-- R225, R226, R240, R241, R258, R261: the fences, ACQ, REL, TAKE and the ticket instructions leave an operation pending that is
performed once what it waits for is over; of these SIDE = 0 forbids all but the fences and ACQ: they trap with 0x4001
(spec/15_launch.md R337). FLT_ADDR is a free value where the rule states none (assumption log 43). -/
def Obligations.OrderingIssue : Prop :=
  (∀ i f n w s p, awaits i = some (f, n, w) → Issues s p rightsAll → (s.sideless p.fg = false ∨ i = .fence f ∨ i = .acq f) →
    Runs i s p s (pends f.guard fun t => { fmtLPend f p n with todo := (w s t).1, bound := (w s t).2 })) ∧
  (∀ i f n w s p t, awaits i = some (f, n, w) → Alone s p rightsAll f.guard t → s.sideless p.fg = true → i ≠ .fence f → i ≠ .acq f →
    Traps i s p t 0x4001 s.noAddr)

/-- R225, R226, R228, R234, R240, R241: what is performed then. A fence completes with its write-backs and discards made; ACQ
commits its word, and REL the word it has incremented, of an object in this module. What a parity group holds back is
awaited; a release at .dom or .sys after a lost store of its thread ends with 0x8004, once its object has passed its check. -/
def Obligations.OrderingEffects : Prop :=
  ∀ (s : State) (t : Thread) (q : Pending), q.held = false → s.mayPerform t = true → s.todoWaits t q = false →
    s.crossOf t.fg t.lane q.uid = none → s.farAsk t q = none →
    let core := s.coreOf t.fg
    let asid := s.asidOf t.fg
    let ends := fun (x : State) ws => x.modPend t.fg t.lane q.uid fun r => { r with val := some ws, todo := .none }
    (∀ eng rel acq sc, q.todo = .fence eng rel acq sc →
      let may := s.releaseReady t q.uid (if rel then sc else 0) = true ∨ (eng = false ∧ rel = false)
      let d := s.doFence t eng rel acq sc
      let waits := d.relWaits (d.coreOf t.fg) (d.asidOf t.fg) sc fun _ => sc
      (¬may → s.performTodo t q = s) ∧
      (may → s.dropWaits t q.uid sc = true → s.performTodo t q = s) ∧
      (may → s.dropWaits t q.uid sc = false → rel = true → t.relLost sc = true → s.performTodo t q = s.failLost t q.uid) ∧
      (may → s.dropWaits t q.uid sc = false → (rel = false ∨ t.relLost sc = false) →
        ((rel = false ∨ waits = false) → s.performTodo t q = ends d []) ∧ (rel = true → waits = true → s.performTodo t q = d))) ∧
    (∀ obj sc c p, q.todo = .rel obj sc → s.releaseReady t q.uid sc = true →
      s.findObj core asid .rw obj = (c, .ok p) →
      (t.relLost sc = true → s.performTodo t q = c.failLost t q.uid) ∧
      (∀ d bs, t.relLost sc = false → c.readPiece false core asid p = (d, .ok bs) →
        let v := toBytes 8 ((ofBytes bs + 1) % 2 ^ 64)
        let e := d.writeBack core asid (s.boundScope asid sc q.bound)
        (e.relWaits core asid sc (s.boundScope asid sc q.bound) = true → s.performTodo t q = e) ∧
        (e.relWaits core asid sc (s.boundScope asid sc q.bound) = false →
          s.performTodo t q = ends (e.writePiece false core asid p v) (bytesWords v)))) ∧
    (∀ obj sc c code a, q.todo = .rel obj sc →
      s.findObj core asid .rw obj = (c, .error (.err code a)) →
      s.performTodo t q = c.modPend t.fg t.lane q.uid fun r => { r with err := some (code, BitVec.ofNat 64 a), todo := .none }) ∧
    (∀ obj sc c p d bs, q.todo = .acq obj sc → s.findObj core asid .rd obj = (c, .ok p) →
      c.readPiece false core asid p = (d, .ok bs) →
      s.performTodo t q = ends (d.discardClean core asid (d.boundScope asid sc q.bound)) (bytesWords bs))

/-- R242, R243: BIND gives the lowest free number of 4,096 to whole lines of a region and its object; UNBIND frees a number, and
gives 0xFFFF_FFFF for one that is not in use. With SIDE = 0 both trap with 0x4001 (spec/15_launch.md R337). FLT_ADDR is a
free value where the rule states none (assumption log 43). -/
def Obligations.Bindings : Prop :=
  (∀ (f : FmtL) s p t c, Alone s p rightsOwn f.guard t → s.sideless p.fg = false → s.ctx? (s.asidOf p.fg) = some c →
    let base := s.norm (regL s t f.a.toNat 2)
    let len := regL s t f.b.toNat 2
    let obj := s.objOf (regL s t f.c.toNat 2)
    0 < len → base + len ≤ 2 ^ 47 → obj < 2 ^ 57 → bits obj 48 9 ≤ 0x180 → spaceOf (obj % 2 ^ 48) = 2 →
    ∀ n, n < 4096 → (∀ b ∈ c.bindings, b.num ≠ n) → (∀ k < n, ∃ b ∈ c.bindings, b.num = k) →
    let lo := base / 128 * 128
    let b : Binding := { num := n, base := lo, len := (base + len + 127) / 128 * 128 - lo, obj := obj, sc := FmtL.fn f % 8 }
    Done (.bind f) s p t (((s.begun p t).modCtx (s.asidOf p.fg) fun c => { c with bindings := c.bindings ++ [b] }).pendL (moved p t)
      { fmtLPend f p 1 with val := some [BitVec.ofNat 32 n] })) ∧
  (∀ (f : FmtL) s p t c, Alone s p rightsOwn f.guard t → s.sideless p.fg = false → s.ctx? (s.asidOf p.fg) = some c →
    let n := regL s t f.a.toNat 1
    Done (.unbind f) s p t (((s.begun p t).modCtx (s.asidOf p.fg) fun c => { c with bindings := c.bindings.filter fun b => b.num ≠ n }).pendL
      (moved p t) { fmtLPend f p 1 with val := some [if c.bindings.any fun b => b.num = n then 0 else 0xFFFFFFFF] })) ∧
  (∀ (f : FmtL) s p t, Alone s p rightsOwn f.guard t → s.sideless p.fg = true →
    Traps (.bind f) s p t 0x4001 s.noAddr ∧ Traps (.unbind f) s p t 0x4001 s.noAddr)

/-- R247, R250, R251: an atomic or reduction of a thread becomes one request with its element's address, aligned, and its
operands; an ATOM has its registers pending. With SIDE = 0 one of device memory traps with 0x4001 and leaves no request
(spec/15_launch.md R337). FLT_ADDR is a free value where the rule states none (assumption log 43). -/
def Obligations.AtomicIssue : Prop :=
  (∀ i f sp red s p t, atomic i = some (f, sp, red) → Alone s p rightsAll f.guard t → (sp = true ∨ s.sideless p.fg = false) →
    (∀ q ∈ s.sync.reqs, q.id ≠ s.uid) →
    let w := atWidth (FmtL.at_ f)
    let ea := regL s t f.a.toNat (if sp then 1 else 2) / (w / 8) * (w / 8)
    ∃ s' u, exec i s = .next s' ∧
      s'.rest = ({ s with sync := { s.sync with reqs := s.sync.reqs ++
        [{ id := s.uid, fg := p.fg, op := FmtL.op f, at_ := FmtL.at_ f, sp := sp, red := red, ord := FmtL.ord f, sc := FmtL.sc f
           lanes := [{ lane := t.lane, uid := u, ea := ea, x := regL s t f.b.toNat (atRegs (FmtL.at_ f)) % 2 ^ w
                       y := regL s t f.c.toNat (atRegs (FmtL.at_ f)) % 2 ^ w }] }] } } : State).rest ∧
      Threads s s' p fun t t' => t'.core = (t.pendAdd { fmtLPend f p (if red then 0 else atRegs (FmtL.at_ f)) with
        uid := u, bound := if sp then [] else s.boundTo (s.asidOf p.fg) (s.objOf ea) }).core) ∧
  (∀ i f red s p t, atomic i = some (f, false, red) → Alone s p rightsAll f.guard t → s.sideless p.fg = true →
    let none_ : AtomReq := { id := s.uid, fg := p.fg, op := FmtL.op f, at_ := FmtL.at_ f, sp := false, red := red, ord := FmtL.ord f, sc := FmtL.sc f }
    let x : State := { s with uid := s.uid + 1, sync := { s.sync with reqs := s.sync.reqs ++ [none_] } }
    let y := (x.takeTrap { t with pc := p.pc, idx := p.idx } 0x4001 x.noAddr p.iaddr true).advance p []
    exec i s = .next { y with sync := { y.sync with reqs := y.sync.reqs.filter fun q => !(q.id = s.uid && q.lanes.isEmpty) } })

/-- R249: the new value of an element, on patterns of the element's width. -/
def Obligations.AtomicValues : Prop :=
  ∀ at_ old x y, at_ ≤ 6 → old < 2 ^ atWidth at_ → x < 2 ^ atWidth at_ →
    let v := fun n => valOf n (atTy at_)
    (at_ < 4 → atomNew 0 at_ old x y = (old + x) % 2 ^ atWidth at_) ∧
    (4 ≤ at_ → atomNew 0 at_ old x y =
      (fit (fmtOf (atTy at_)) 0 0 (fvAdd 0 ((fmtOf (atTy at_)).value old).1 ((fmtOf (atTy at_)).value x).1).1).1) ∧
    (at_ < 4 → v (atomNew 1 at_ old x y) = min (v old) (v x) ∧ v (atomNew 2 at_ old x y) = max (v old) (v x)) ∧
    atomNew 3 at_ old x y = old &&& x ∧ atomNew 4 at_ old x y = old ||| x ∧ atomNew 5 at_ old x y = old ^^^ x ∧
    atomNew 6 at_ old x y = x ∧ (atomNew 7 at_ old x y = if old = x then y else old) ∧
    (atomNew 8 at_ old x y = if old ≥ x then 0 else old + 1) ∧ (atomNew 9 at_ old x y = if old = 0 ∨ old > x then x else old - 1)

/-- R263: a change to a barrier. The phase completes when CURRENT = EXPECTED and PENDING = 0: CURRENT becomes 0, PHASE flips, and
EXPECTED and ERROR are kept; otherwise the phase stays. -/
def Obligations.BarrierChange : Prop :=
  ∀ (s : State) blk n sc (f : Bar → Bar) b, s.block? blk = some b → n < b.bars.length →
    let r := f (b.bar n)
    let after := ((s.changeBar blk n sc f).block? blk).map fun b => b.bar n
    (r.current = r.expected → r.pending % 2 ^ 64 = 0 →
      after = some { r with current := 0, phase := 1 - r.phase, pending := 0 }) ∧
    (¬(r.current = r.expected ∧ r.pending % 2 ^ 64 = 0) → after = some { r with pending := r.pending % 2 ^ 64 } ∧
      (s.changeBar blk n sc f).threads = s.threads)

/-- R262, R264, R266 to R269: the barrier instructions of a path of one thread. -/
def Obligations.BarrierInstructions : Prop :=
  ∀ (f : FmtA) s p t b, Alone s p rightsAll f.guard t → s.blockOf p.fg = some b →
    let n := f.a.toNat
    let a := s.begun p t
    let blk := s.blkId p.fg
    let own : Arrival := { seq := 0, blk := blk, bar := n, kind := 0, from_ := [(t.fg, t.lane, t.waits)], iaddr := p.iaddr }
    (srcB s t f 6 ≤ 4095 → DoneOnce (.barinit f) s p t fun x => x.changeBar blk n 0 fun r =>
      { r with expected := srcB s t f 6, current := 0, pending := 0, error := 0 }) ∧
    Done (.expect f) s p t (a.changeBar blk n 0 fun r => { r with pending := (r.pending + srcB s t f 6) % 2 ^ 64 }) ∧
    (f.fn = 0#5 → Done (.arrive f) s p t (a.arrive own)) ∧
    (f.fn = 1#5 → Done (.arrive f) s p t ((a.gatherFg t n p.iaddr false).closeGather t.fg)) ∧
    (f.fn = 0#5 → Done (.barwait f) s p t ((a.setThread { moved p t with after := .barrier n 0 }).arrive { own with hold := true })) ∧
    (f.fn = 1#5 → Done (.barwait f) s p t
      (((a.setThread { moved p t with after := .barrier n 0 }).gatherFg t n p.iaddr true).closeGather t.fg)) ∧
    (f.fn = 2#5 → (b.bar n).phase ≠ regL s t f.b.toNat 1 % 2 →
      let jobs := (s.links.out.filter fun q => q.kind = 1 && q.bar = some (blk, n)).map (·.id)
      Done (.barwait f) s p t (a.setThread { moved p t with jobOut := (t.jobOut ++ jobs).eraseDups })) ∧
    (f.fn = 2#5 → (b.bar n).phase = regL s t f.b.toNat 1 % 2 →
      Done (.barwait f) s p t (a.setThread { moved p t with after := .barrier n (2 + regL s t f.b.toNat 1 % 2) })) ∧
    (f.fn = 0#5 → Done (.bartest f) s p t (a.setThread ((moved p t).put f.d.toNat (natWords (b.bar n).bits 4)))) ∧
    (f.fn = 1#5 → Done (.bartest f) s p t ((a.setThread ((moved p t).put f.d.toNat (natWords (b.bar n).bits 4))).setBlock
      { b with bars := b.bars.modify n fun r => { r with error := 0 } }))

/-- R267, R272: an arrival for another block of the cluster, or of another module, joins those that wait for their release; one
for a block of the cluster that has ended is discarded, and without a target it traps; with SIDE = 0 ARRIVE.dom traps with
0x4001 (spec/15_launch.md R337). FLT_ADDR is a free value where the rule states none (assumption log 43). -/
def Obligations.RemoteArrivals : Prop :=
  ∀ (f : FmtA) s p t b, Alone s p rightsAll f.guard t → s.blockOf p.fg = some b →
    let a := s.begun p t
    let want := b.core / 4 * 4 + srcB s t f 6 % 4
    let mine := fun c : Block => c.node = b.node && c.clu = b.clu && c.run = b.run && c.core = want
    let x := regL s t f.b.toNat 2
    (∀ c, s.blocks.find? mine = some c →
      Done (.arriveClu f) s p t { a with sync := { a.sync with remote := a.sync.remote ++
        [{ fg := t.fg, lane := t.lane, waits := t.waits, uid := s.uid, bar := f.a.toNat, dom := false, blk := c.id, asid := b.asid
           tag := b.tag, node := b.node }] } }) ∧
    (s.blocks.find? mine = none →
      let was := ∃ n, s.sched.pool.find? (fun n => n.id = b.node) = some n ∧ ∃ k ∈ n.clusters, k.num = b.clu ∧ ∃ e ∈ k.cores,
        e.1 = b.run ∧ e.2 % 4 = want % 4
      (was → Done (.arriveClu f) s p t a) ∧ (¬was → Traps (.arriveClu f) s p t 0x4004 s.noAddr)) ∧
    (s.sideless p.fg = false → b.tag ≠ 0 → s.rankValid (bits x 32 9) = true →
      Done (.arriveDom f) s p t { a with sync := { a.sync with remote := a.sync.remote ++
        [{ fg := t.fg, lane := t.lane, waits := t.waits, uid := s.uid, jobs := t.jobOut, bar := f.a.toNat, dom := true, blk := x % 2 ^ 32, rank := bits x 32 9
           asid := b.asid, tag := b.tag, node := b.node }] } }) ∧
    (s.sideless p.fg = false → b.tag ≠ 0 → s.rankValid (bits x 32 9) = false → Traps (.arriveDom f) s p t 0x8001 s.noAddr) ∧
    (s.sideless p.fg = false → b.tag = 0 → Traps (.arriveDom f) s p t 0x4004 s.noAddr) ∧
    (s.sideless p.fg = true → Traps (.arriveDom f) s p t 0x4001 s.noAddr)

/-- R89: an instruction outside its row traps with 0x4001 and changes nothing else. Stated of a path of one thread. FLT_ADDR is a
free value where the rule states none (assumption log 43). -/
def Obligations.RightsRows : Prop :=
  ∀ i s p t, i.isEvent = false → s.paths.head? = some p → p.lanes = [t.lane] → s.thread? p.fg t.lane = some t →
    authOf (s.asidOf p.fg) ≠ .auditor → (rowOf i).ok (authOf (s.asidOf p.fg)) = false → Traps i s p t 0x4001 s.noAddr

/-- R96, R97: an owner trap saves the code, the addresses, the resume point and what R85 saves, and sends its thread to TRAP_VEC
with IN 1, CRIT 1, COUNT 0 and fresh temporaries; registers, predicates and flags stay, and so do memory and every other
thread. In a handler it ends the context with 0xB020, and with TRAP_VEC = 0 with 0xB021. -/
def Obligations.OwnerTrapEntry : Prop :=
  ∀ (s : State) t code addr iaddr mid t0 c b, t.win = false → code ≠ 0xA001 → oprCode code = false →
    s.thread? t.fg t.lane = some t0 → s.asidOf t.fg ≠ oprAsid → s.ctx? (s.asidOf t.fg) = some c → s.blockOf t.fg = some b → b.run = 0 →
    let s' := s.takeTrap t code addr iaddr mid
    (t.trap.inH = false → c.trapVec ≠ 0 →
      (∃ u, s'.thread? t.fg t.lane = some u ∧ u.pc = c.trapVec ∧ u.idx = 0 ∧ u.status = .pooled ∧ u.t = List.replicate 8 0 ∧ u.pend = [] ∧
        u.trap = { t.trap with
          code := BitVec.ofNat 16 code, addr := addr, iaddr := iaddr, resume := resumeWord t.pc (if mid then t.idx else 0)
          inH := true, crit := true, count := 0, record := some (t.saveRecord mid)
          entryResume := resumeWord t.pc (if mid then t.idx else 0) } ∧
        u.v = t.v ∧ u.p = t.p ∧ u.fl = t.fl) ∧
      (∀ fg l, (fg ≠ t.fg ∨ l ≠ t.lane) → s'.thread? fg l = s.thread? fg l) ∧
      s'.mem = s.mem ∧ s'.fgs = s.fgs ∧ s'.blocks = s.blocks ∧ s'.ctxs = s.ctxs ∧ s'.sync = s.sync ∧ s'.eng = s.eng ∧ s'.links = s.links) ∧
    (t.trap.inH = true → s' = s.endContext (s.asidOf t.fg) 0xB020 code) ∧
    (t.trap.inH = false → c.trapVec = 0 → s' = if code = 0xB001 then s else s.endContext (s.asidOf t.fg) 0xB021 0)

/-- R96, R100: an operator trap holds its thread, in a record of its own when no hold of the same code, context, clause and step
exists; the thread's registers and memory stay. In an operator thread a trap enters OPR_VEC, and a double fault restarts the
core, as a trap with OPR_VEC equal to 0 does (assumption log 9). -/
def Obligations.OperatorTraps : Prop :=
  (∀ (s : State) t code addr iaddr mid t0, t.win = false → code ≠ 0xA001 → oprCode code = true → s.thread? t.fg t.lane = some t0 →
    (∀ h ∈ s.opr.held, h.tick ≠ s.ticks) →
    let s' := s.takeTrap t code addr iaddr mid
    let n := s.opr.pickHold
    let asid := s.asidOf t.fg
    s'.thread? t.fg t.lane = some { t with status := .oprHeld n } ∧
    (∀ fg l, (fg ≠ t.fg ∨ l ≠ t.lane) → s'.thread? fg l = s.thread? fg l) ∧
    s'.opr.held = s.opr.held ++ [{ hold := n, code := code, asid := asid, tick := s.ticks, pc := t.pc, threads := [(t.fg, t.lane)] }] ∧
    s'.opr.waiting = s.opr.waiting ++ [{ die := if recCore (s.coreOf t.fg) = 0xFFFF then 0 else dieOfCore (s.coreOf t.fg), code := code, asid := if asid < 1024 then asid else 0xFFFF
                                         core := recCore (s.coreOf t.fg), hold := n, time := s.ctl.devTime, threads := 1
                                         page := if code = 0x3010 || code = 0x3020 then addr.toNat / 65536 * 65536 else 0 }] ∧
    s'.mem = s.mem ∧ s'.ctxs = s.ctxs ∧ s'.fgs = s.fgs) ∧
  (∀ (s : State) t code addr iaddr mid, t.win = false → code ≠ 0xA001 → oprCode code = false → s.asidOf t.fg = oprAsid →
    let die := dieOfCore (s.coreOf t.fg)
    let vec := s.ctl.oprVec.getD die 0
    s.takeTrap t code addr iaddr mid =
      if t.trap.inH || vec = 0 then s.restartCore die
      else s.setThread (t.enter vec code addr iaddr (resumeWord t.pc (if mid then t.idx else 0)) mid))

/-- R98, R99, R105, R106, R120: TRAP is taken at its boundary; TRET restores what entry saved, or goes to a moved FLT_RESUME, and
traps with 0x4005 outside a handler and with 0x4008 for an index; TRET.rec releases a hold; YIELD ends the region. That TRET
adds the saved scoreboards to what is left is assumption log 7, and that saved errors fall due again assumption log 93.
FLT_ADDR is a free value where the rule states none (assumption log 43). -/
def Obligations.TrapInstructions : Prop :=
  (∀ (f : FmtZ) s p t, Alone s p rightsAll f.guard t →
    let a := s.begun p t
    let u := moved p t
    let due : Due := { code := f.imm.toNat % 4096, addr := BitVec.ofNat 64 (regL s t f.a.toNat 1), iaddr := p.iaddr }
    Done (.trap f) s p t (a.setThread { u with trapDue := some due }) ∧
    Done (.yieldC f) s p t (a.setThread { u with trap := { u.trap with crit := false } })) ∧
  (∀ (f : FmtZ) s p t, Alone s p rightsOwn f.guard t →
    let a := s.begun p t
    let u := moved p t
    let out := { u.trap with inH := false, crit := false, count := 0, record := none }
    let drop := fun (l : List Pending) => l.map fun q => { q with left := 0 }
    (t.trap.inH = false ∨ t.trap.record = none → Traps (.tret f) s p t 0x4005 s.noAddr) ∧
    (∀ r, t.trap.inH = true → t.trap.record = some r →
      (t.trap.resume = t.trap.entryResume → Done (.tret f) s p t (a.setThread { u with
        trap := out, ret := some r, pend := r.pend ++ drop u.pend, sb := List.zipWith (· + ·) r.sb t.sb, due := r.due ++ t.due })) ∧
      (t.trap.resume ≠ t.trap.entryResume → t.trap.resume.toNat / 2 ^ 60 ≠ 0 → Traps (.tret f) s p t 0x4008 s.noAddr) ∧
      (t.trap.resume ≠ t.trap.entryResume → t.trap.resume.toNat / 2 ^ 60 = 0 → t.ret = none →
        Done (.tret f) s p t ((a.setThread { u with
          trap := out, npc := BitVec.ofNat 64 (t.trap.resume.toNat % 2 ^ 57 / 4 * 4), after := .pooled
          pend := drop r.pend ++ drop u.pend, sb := List.zipWith (· + ·) r.sb t.sb, due := r.due ++ t.due }).leaveInst r.inst [t.lane])))) ∧
  (∀ (s : State) fg l t r, s.thread? fg l = some t → t.ret = some r → t.trapDue = none → ∃ u, (s.endThread fg l).thread? fg l = some u ∧
    u.pc = r.pc ∧ u.idx = r.idx ∧ u.t = r.t ∧ u.status = r.status ∧ u.inst = r.inst ∧ u.words = r.words ∧ u.pend = t.pend ∧ u.v = t.v) ∧
  (∀ (f : FmtZ) s p t, Alone s p rightsOpr f.guard t →
    let a := s.begun p t
    (∀ h, s.opr.held.find? (fun h => h.hold = regL s t f.a.toNat 1 % 65536) = some h →
      Done (.tretRec f) s p t (wrote (a.releaseHold h) t f.d [0])) ∧
    ((∀ h ∈ s.opr.held, h.hold ≠ regL s t f.a.toNat 1 % 65536) → Done (.tretRec f) s p t (wrote a t f.d [0x4005])))

/-- R92, R107, R108: CRD and CWR read and write a control register that the thread's authority may access, CWR by the write rules
of R92; an access outside the row traps with 0x4002, and one to no register with 0x4004. MAPRD reads an entry of the map, and
MAPACK of the current version discharges the milestone. FLT_ADDR is a free value where the rule states none (assumption log
43). That an index out of range is answered before the rights row is assumption log 135. -/
def Obligations.ControlRegisters : Prop :=
  (∀ (f : FmtZ) s p t row, Alone s p rightsAll f.guard t → crRow f.cr.toNat = some row → f.imm.toNat < row.n →
    let a := s.begun p t
    let asid := s.asidOf p.fg
    let die := dieOfCore (s.coreOf p.fg)
    let cr := f.cr.toNat
    (∀ c, authOf asid = .owner → s.ctx? asid = some c → 1 ≤ row.own → f.a.toNat = 248 →
      Done (.crd f) s p t (wrote a t f.d (natWords (a.crRead (moved p t) c die cr f.imm.toNat) (crRegs cr)))) ∧
    (authOf asid = .operator → 1 ≤ row.opr → row.scope ≠ .c → f.a.toNat = 248 →
      Done (.crd f) s p t (wrote a t f.d (natWords (a.crRead (moved p t) { asid := 0 } die cr f.imm.toNat) (crRegs cr)))) ∧
    (∀ c, authOf asid = .operator → 1 ≤ row.opr → row.scope = .c → f.a.toNat ≠ 248 → s.ctx? (regL s t f.a.toNat 1) = some c →
      Done (.crd f) s p t (wrote a t f.d (natWords (a.crRead (moved p t) c die cr f.imm.toNat) (crRegs cr)))) ∧
    (row.may (authOf asid) = 0 → Traps (.crd f) s p t 0x4002 s.noAddr) ∧
    (row.may (authOf asid) < 2 → Traps (.cwr f) s p t 0x4002 s.noAddr) ∧
    (row.may (authOf asid) = 2 → (authOf asid = .owner ∨ row.scope ≠ .c) →
      let b := a.crWrite (moved p t) asid die cr (regL s t f.a.toNat (crRegs cr))
      let u := (b.thread? p.fg t.lane).getD (moved p t)
      Done (.cwr f) s p t (wrote b t f.d (natWords (b.crRead u ((b.ctx? asid).getD { asid := 0 }) die cr f.imm.toNat) (crRegs cr))))) ∧
  (∀ (f : FmtZ) s p t, Alone s p rightsAll f.guard t → (∀ row, crRow f.cr.toNat = some row → row.n ≤ f.imm.toNat) →
    Traps (.crd f) s p t 0x4004 s.noAddr ∧ Traps (.cwr f) s p t 0x4004 s.noAddr) ∧
  (∀ (f : FmtZ) s p t, Alone s p rightsAll f.guard t →
    let k := regL s t f.a.toNat 1 + f.imm.toNat
    (k < 1024 → Done (.maprd f) s p t (wrote (s.begun p t) t f.d (natWords (s.map.entry k) 4))) ∧
    (1024 ≤ k → Traps (.maprd f) s p t 0x4004 s.noAddr)) ∧
  (∀ (f : FmtZ) s p t, Alone s p rightsOwn f.guard t →
    (regL s t f.a.toNat 2 = s.map.version → Done (.mapack f) s p t (wrote ((s.begun p t).modCtx (s.asidOf p.fg) fun c =>
      { c with rmapAck := s.map.version, milePending := false, grace := none }) t f.d [1])) ∧
    (regL s t f.a.toNat 2 ≠ s.map.version → Done (.mapack f) s p t (wrote (s.begun p t) t f.d [0])))

/-- R91, R109, R110: CTXSAVE.seal stops its context and completes when it has stopped; CTXSAVE.reset ends it and completes when
the ending is over; CTXLOAD.image takes an image that AES-256-GCM opens under the context's key (0xB012 else) and that is its
last (0xB013 else), and one that this module sealed puts the sealed blocks back, stopped; CTXLOAD.new creates a context with
its measurement and a fresh key, CTXLOAD.resume lets a paused one run; each but .new needs reserved cluster slots to run. A
context in another state answers 0xB011. Second words of answers are free values where the rule gives none, and so is a fresh
key (assumption log 5). What the module keeps with an image is assumption log 6, the order of the answers assumption log 83,
and the check of the image's address at issue assumption log 86. The length of a sealed image is assumption log 136. -/
def Obligations.ContextImages : Prop :=
  ∀ (f : FmtL) s p t, Alone s p rightsOpr f.guard t →
    let a := s.begun p t
    let core := s.coreOf p.fg
    let mine := s.asidOf p.fg
    let asid := regL s t f.a.toNat 1
    let ea := regL s t f.b.toNat 2
    (∀ c x ps, s.ctx? asid = some c → (c.state = 1 ∨ c.state = 3) → a.check core mine .wr ea (a.sealLen asid) = (x, .ok ps) →
      let q := (x.stopBlocks fun b => b.asid = asid).pendU (moved p t) { fmtLPend f p 2 with todo := .wait }
      let cmd : SealCmd := { fg := p.fg, lane := t.lane, uid := q.1, asid := asid, addr := ea }
      Done (.ctxsaveSeal f) s p t (State.settleAll { q.2 with sched := { q.2.sched with seals := q.2.sched.seals ++ [cmd] } })) ∧
    ((∀ c, s.ctx? asid = some c → c.state ≠ 1 ∧ c.state ≠ 3) → Done (.ctxsaveSeal f) s p t (status2 a p t f 0xB011)) ∧
    (∀ c, s.ctx? asid = some c → c.state ≠ 0 → c.state ≠ 5 →
      let q := (a.endContext asid 0xB022 0).pendU (moved p t) { fmtLPend f p 2 with todo := .wait }
      Done (.ctxsaveReset f) s p t (q.2.modCtx asid fun c => { c with endWait := c.endWait ++ [q.1] })) ∧
    (∀ c x h y img, s.ctx? asid = some c → (c.state = 2 ∨ c.state = 4) → s.hasSlots asid = true →
      a.opRead (moved p t) p.iaddr ea 64 = (x, .ok h) → x.opRead (moved p t) p.iaddr ea (Nat.min (field h 32 8) (2 ^ 39)) = (y, .ok img) →
      let no := fun st => Done (.ctxloadImage f) s p t (arrives y p t f 1 [st])
      (openImage c.key img = none → no 0xB012) ∧
      (∀ text, openImage c.key img = some text →
        (field h 8 2 ≠ asid → no 0xB012) ∧ (field h 8 2 = asid → field h 16 8 ≠ c.saveSeq → no 0xB013) ∧
        (field h 8 2 = asid → field h 16 8 = c.saveSeq → Done (.ctxloadImage f) s p t (arrives (y.restore c text) p t f 1 [0])))) ∧
    (∀ c text i d, a.images.find? (fun i => i.asid = c.asid && i.seq = c.saveSeq && i.text = text) = some i → a.ctx? c.asid = some d →
      let stopped := fun b : Block => if b.asid = c.asid ∧ b.place = Place.sealed then { b with place := .stopped, stopSeq := a.sched.stopSeq } else b
      (a.restore c text).blocks = a.blocks.map stopped ∧ (a.restore c text).ctx? c.asid =
        some { d with state := 1, escrow := none, grace := none, milePending := c.rmapAck ≠ a.map.version }) ∧
    (∀ x r, asid ≤ 1023 → s.ctx? asid = none → a.opRead (moved p t) p.iaddr ea 1280 = (x, .ok r) →
      Done (.ctxloadNew f) s p t (arrives { x with fresh := x.fresh + 1, ctxs := x.ctxs ++
        [{ asid := asid, state := 1, meas := shakeB r 64, rmapAck := x.map.version, recKey := r.take 1184
           key := Config.freshKey x.fresh % 2 ^ 256, part := field r 1184 2 }] } p t f 1 [0])) ∧
    ((∃ c, s.ctx? asid = some c) → Done (.ctxloadNew f) s p t (arrives a p t f 1 [0xB011])) ∧
    (∀ c, s.ctx? asid = some c → c.state = 3 → s.hasSlots asid = true →
      Done (.ctxloadResume f) s p t (arrives ((a.unseen asid true).modCtx asid fun c =>
        { c with state := 1, milePending := true, grace := none }) p t f 1 [0])) ∧
    (∀ c, s.ctx? asid = some c → c.state = 3 → s.hasSlots asid = false → Done (.ctxloadResume f) s p t (arrives a p t f 1 [0xB010]))

/-- R111, R112: KWRAP hands a buffer's key to another context wrapped under that context's key, and takes one into a free slot;
KWRAP.escrow leaves the context in state 4 with a blob for a verified module, and KWRAP.import installs the blob's keys;
KDROP drops a slot that the context holds, and KDROP.erase ends an escrowed context whose receipt verifies. Each stores
nothing but its blob or receipt. A blob holds what is escrowed twice, sealed to the new module and to the recovery key.
Second words of answers are free values where the rule gives none, signatures and capsules are opaque, and what a blob holds
beside the rule is the model's (assumption log 5, 45, 47, 116, 117), as are the layout of the blob of KWRAP and the slot
taken (assumption log 12) and the answer 0x4007 where no slot is free (assumption log 115). That no nonce is compared beside
the report's own is assumption log 137, which keys an import installs assumption log 133, and that a store to a peer is
posted assumption log 126. -/
def Obligations.KeyInstructions : Prop :=
  (∀ (f : FmtL) s p t, Alone s p rightsOwn f.guard t → s.sideless p.fg = false →
    let a := s.begun p t
    let u := moved p t
    let asid := s.asidOf p.fg
    (∀ c key x,
      let buf := regL s t f.a.toNat 1
      let dest := regL s t f.c.toNat 1
      let leaf : Leaf := { lg := 16, addr := 0, kind := 0, r := true, w := true, x := false, buf := buf, br := s.bufRec buf }
      let b := a.ensureKey asid leaf
      buf ≤ 65535 → (s.bufRec buf).ok = true → (s.bufRec buf).owner = asid → s.ctx? dest = some c → b.keyOf asid leaf = some key →
      b.opWrite u (regL s t f.b.toNat 2) (padTo 128 (toBytes 2 buf ++ toBytes 2 dest ++ toBytes 4 0 ++ c.meas.take 8
        ++ (keyWrap (wrapKey c) (natBytes 64 key)).map (BitVec.ofNat 8))) = (x, .ok ()) →
      Done (.kwrapGive f) s p t (status2 x p t f 0)) ∧
    (∀ c blob x, a.opRead u p.iaddr (regL s t f.b.toNat 2) 128 = (x, .ok blob) → s.ctx? asid = some c →
      let no := fun st => status2 x p t f st
      Done (.kwrapTake f) s p t (match keyUnwrap (wrapKey c) ((slice blob 16 72).map (·.toNat)) with
        | some key => if field blob 2 2 = asid ∧ slice blob 8 8 = c.meas.take 8 then
            match x.freeSlot with
            | some k => ends { x with mem := { x.mem with keySlots := x.mem.keySlots ++
                [{ num := k, key := bytesNat key, owner := asid, buf := some (field blob 0 2) }] } } p t f 2 [0, k]
            | none => no 0x4007
          else no 0xB012
        | none => no 0xB012)) ∧
    (∀ h x blob y, a.opRead u p.iaddr (regL s t f.b.toNat 2) 16 = (x, .ok h) → x.opRead u p.iaddr (regL s t f.b.toNat 2) (blobLen h) = (y, .ok blob) →
      asid ≠ oprAsid → Done (.kwrapImport f) s p t (match blobOpen blob with
        | some e => status2 (y.installSlots asid e.slots true) p t f 0
        | none => status2 y p t f 0xB012))) ∧
  (∀ (f : FmtL) s p t, Alone s p rightsOpr f.guard t →
    let a := s.begun p t
    let u := moved p t
    let asid := regL s t f.a.toNat 1
    (∀ c rep x, s.ctx? asid = some c → c.state = 2 → a.opRead u p.iaddr (regL s t f.b.toNat 2) 10240 = (x, .ok rep) →
      let no := Done (.kwrapEscrow f) s p t (arrives x p t f 2 [0xB014, x.anyWord])
      let m := (x.escrowed c).bytes
      let blob := blobOf (Config.encapsulate (slice rep 256 1184) x.fresh m) (Config.encapsulate c.recKey (x.fresh + 1) m)
      (field rep 8 2 ≠ 2 → no) ∧
      (field rep 8 2 = 2 → if x.reportOk rep (slice rep 16 32) then
          ∀ y, x.opWrite u (regL s t f.c.toNat 2) blob = (y, .ok ()) →
            Done (.kwrapEscrow f) s p t (arrives ({ y with fresh := y.fresh + 2 }.modCtx asid fun c =>
              { c with state := 4, escrow := some { dest := slice rep 1440 1952, hash := shakeB blob 48 } }) p t f 2 [0, blob.length])
        else no)) ∧
    (s.sideless p.fg = false → (1023 < asid ∨ ∃ c, s.ctx? asid = some c) → Done (.kwrapImport f) s p t (status2 a p t f 0xB011)) ∧
    (∀ h x blob y, s.sideless p.fg = false → asid ≤ 1023 → s.ctx? asid = none →
      a.opRead u p.iaddr (regL s t f.b.toNat 2) 16 = (x, .ok h) → x.opRead u p.iaddr (regL s t f.b.toNat 2) (blobLen h) = (y, .ok blob) →
      match blobOpen blob with
      | none => Done (.kwrapImport f) s p t (status2 y p t f 0xB012)
      | some e =>
        let body := receiptBody e.asid e.seq (shakeB blob 48)
        ∀ z, y.opWrite u (regL s t f.c.toNat 2) (body ++ padTo 3309 (Config.sign body)) = (z, .ok ()) →
          Done (.kwrapImport f) s p t (status2 (State.installSlots { z with ctxs := z.ctxs ++ [importedCtx asid z.map.version e] }
            asid e.slots false) p t f 0))) ∧
  (∀ (f : FmtZ) s p t x, Alone s p rightsOwn f.guard t → s.sideless p.fg = false → regL s t f.a.toNat 1 ≤ 4095 →
    s.mem.keySlots.find? (fun y => y.num = regL s t f.a.toNat 1) = some x →
    let k := regL s t f.a.toNat 1
    let asid := s.asidOf p.fg
    let a := s.begun p t
    (x.owner = asid → x.dropped = false → Done (.kdrop f) s p t (wrote { a with mem := { a.mem with keySlots := a.mem.keySlots.map fun y =>
      if y.num = k then { num := k, key := 0, owner := asid, dropped := true, buf := y.buf } else y } } t f.d [0])) ∧
    (x.owner ≠ asid ∨ x.dropped = true → Done (.kdrop f) s p t (wrote a t f.d [0x4007]))) ∧
  (∀ (f : FmtZ) s p t c e x r, Alone s p rightsOpr f.guard t → s.ctx? f.imm.toNat = some c → c.state = 4 → c.escrow = some e →
    (s.begun p t).opRead (moved p t) p.iaddr (regL s t f.a.toNat 2) 3373 = (x, .ok r) →
    let good := Config.verifies e.dest r && r.take 64 = receiptBody f.imm.toNat c.saveSeq e.hash
    Done (.kdropErase f) s p t (if good then wrote (x.endContext f.imm.toNat 0 0) t f.d [0] else wrote x t f.d [0xB014])) ∧
  (∀ s p t, s.sideless p.fg = true → ∀ (f : FmtL) (g : FmtZ),
    (Alone s p rightsOwn f.guard t → Traps (.kwrapGive f) s p t 0x4001 s.noAddr ∧ Traps (.kwrapTake f) s p t 0x4001 s.noAddr) ∧
    (Alone s p rightsAll f.guard t → Traps (.kwrapImport f) s p t 0x4001 s.noAddr) ∧
    (Alone s p rightsOwn g.guard t → Traps (.kdrop g) s p t 0x4001 s.noAddr))

/-- R104, R113: ATTEST.ctx and .module complete with a report over the nonce that they read, stored at their address; where the nonce
cannot be read they trap with a class 0x3 code, and return any other as their status. -/
def Sys2Proof.Claim.attestResults : Prop :=
  ∀ (f : FmtL) s p t,
    let a := s.begun p t
    let r := a.opRead (moved p t) p.iaddr (regL s t f.b.toNat 2) 32
    (∀ nonce x, r = (x, .ok nonce) →
      (∀ c y, Alone s p rightsOwn f.guard t → s.ctx? (s.asidOf p.fg) = some c →
        x.opWrite (moved p t) (regL s t f.a.toNat 2) (x.report 1 (s.asidOf p.fg) nonce c.meas) = (y, .ok ()) →
        Done (.attestCtx f) s p t (arrives y p t f 1 [0])) ∧
      (∀ y, Alone s p rightsOpr f.guard t →
        x.opWrite (moved p t) (regL s t f.a.toNat 2) (x.report 2 0xFFFF nonce []) = (y, .ok ()) →
        Done (.attestModule f) s p t (arrives y p t f 1 [0]))) ∧
    (∀ x c e, r = (x, .error (.fault c e)) →
      (Alone s p rightsOwn f.guard t → Traps (.attestCtx f) s p t c (BitVec.ofNat 64 e)) ∧
      (Alone s p rightsOpr f.guard t → Traps (.attestModule f) s p t c (BitVec.ofNat 64 e))) ∧
    (∀ x c, r = (x, .error (.status c)) →
      (Alone s p rightsOwn f.guard t → Done (.attestCtx f) s p t (arrives a p t f 1 [c])) ∧
      (Alone s p rightsOpr f.guard t → Done (.attestModule f) s p t (arrives a p t f 1 [c])))
/-- R115: SCRUB.virt and .phys complete: with 1 for a malformed range, and nothing set; .phys with 0x4007 where a live context maps
a page; else with 0 once every page is scrub-pending. A .virt page that is not mapped writable traps with 0x3002. -/
def Sys2Proof.Claim.scrubResults : Prop :=
  (∀ (f : FmtL) s p t, Alone s p rightsOwn f.guard t →
    let a := s.begun p t
    let ea := regL s t f.a.toNat 2
    let n := regL s t f.b.toNat 1
    let r := a.leavesOf (moved p t) n ea
    let good := 0 < n ∧ n ≤ 65536 ∧ ea % 65536 = 0
    let other := ∃ e ∈ r.2, ∃ l : Leaf, e.2 = .ok l ∧ l.kind ≠ 0
    let bad := fun e : Nat × Except Nat Leaf => match e.2 with | .ok l => !l.w | .error _ => true
    (¬good → Done (.scrubVirt f) s p t (arrives a p t f 1 [1])) ∧
    (good → other → Done (.scrubVirt f) s p t (arrives r.1 p t f 1 [1])) ∧
    (∀ e, good → ¬other → r.2.find? bad = some e → Traps (.scrubVirt f) s p t 0x3002 (BitVec.ofNat 64 e.1)) ∧
    (∀ ls : List (Nat × Leaf), good → ¬other → r.2 = ls.map (fun e : Nat × Leaf => (e.1, Except.ok e.2)) → (∀ e ∈ ls, e.2.w = true) →
      Done (.scrubVirt f) s p t (arrives (ls.foldl (fun s e => s.setScrub ((e.2.addr + e.1 % 2 ^ 48 % 2 ^ e.2.lg) / 65536)) r.1) p t f 1 [0]))) ∧
  (∀ (f : FmtL) s p t, Alone s p rightsOpr f.guard t →
    let a := s.begun p t
    let q := regL s t f.a.toNat 2
    let n := regL s t f.b.toNat 1
    let ps := (List.range n).map (q + ·)
    let good := 0 < n ∧ n ≤ 65536 ∧ q + n ≤ 2 ^ 23
    (¬good → Done (.scrubPhys f) s p t (arrives a p t f 1 [1])) ∧
    (good → (∃ k ∈ ps, inPages (s.livePages 0xFFFFFFFF) k = true) → Done (.scrubPhys f) s p t (arrives a p t f 1 [0x4007])) ∧
    (good → (∀ k ∈ ps, inPages (s.livePages 0xFFFFFFFF) k = false) →
      Done (.scrubPhys f) s p t (arrives (ps.foldl State.setScrub a) p t f 1 [0])))
/-- R115, R205: a page made scrub-pending reads as zeros at its controller, whoever reads it, and no cache holds a line of it. -/
def Sys2Proof.Claim.scrubbedReads : Prop :=
  ∀ (s : State) pa, s.poisoned pa = false →
    let x := s.setScrub (pa / 65536)
    (∀ asid l va, x.ctlRead asid l va pa = some (List.replicate 16 0)) ∧ ∀ y ∈ x.mem.l1 ++ x.mem.slice, y.pa / 65536 ≠ pa / 65536
/-- R113, R115, R205: ATTEST and SCRUB, and what a page reads as once it is scrub-pending. That a store to a peer is posted is
assumption log 126. -/
def Obligations.ReportsAndScrubs : Prop := attestResults ∧ scrubResults ∧ scrubbedReads

/-- R5, R116: CNTRD reads a counter; CNTCFG configures one, its reserved bits zero, clears it and returns what it held; an index above
63 traps. An event adds to the counters that are configured for it, up to 2^64 - 1. -/
def Sys2Proof.Claim.counterResults : Prop :=
  (∀ (f : FmtZ) s p t, Alone s p { opr := false, own := false, aud := true } f.guard t →
    let a := s.begun p t
    let n := regL s t f.a.toNat 1
    let k := f.imm.toNat
    (n + k ≤ 63 → Done (.cntrd f) s p t (wrote a t f.d (natWords (s.ctl.cntVal.getD (n + k) 0) 2))) ∧
    (63 < n + k → Traps (.cntrd f) s p t 0x4004 s.noAddr) ∧
    (k ≤ 63 → Done (.cntcfg f) s p t (wrote { a with ctl := { a.ctl with
      cntVal := a.ctl.cntVal.set k 0
      cntCfg := a.ctl.cntCfg.set k (BitVec.ofNat 64 (regL s t f.a.toNat 2) &&& 0x000003FFC000FFFF#64) } } t f.d
      (natWords (s.ctl.cntVal.getD k 0) 2))) ∧
    (63 < k → Traps (.cntcfg f) s p t 0x4004 s.noAddr)) ∧
  (∀ (s : State) asid ev n k, k < s.ctl.cntCfg.length → k < s.ctl.cntVal.length →
    let c := (s.ctl.cntCfg.getD k 0).toNat
    let counts := bit c 31 = true ∧ bits c 0 16 = ev ∧ (bit c 30 = true ∨ bits c 32 10 = asid)
    let v := s.ctl.cntVal.getD k 0
    (counts → (s.countEv asid ev n).ctl.cntVal.getD k 0 = Nat.min (2 ^ 64 - 1) (v + n)) ∧
    (¬counts → (s.countEv asid ev n).ctl.cntVal.getD k 0 = v))
/-- R5, R118: MONCFG configures a monitor, its reserved bits zero, and clears it; MONRD gives it the samples taken since it was
last read, free values (assumption log 24), and reads an item; a number or item that does not exist traps. A sample moves the
minimum, the maximum, the count and its bin. -/
def Sys2Proof.Claim.monitorResults : Prop :=
  (∀ (f : FmtZ) s p t, Alone s p { opr := false, own := false, aud := true } f.guard t →
    let a := s.begun p t
    let n := regL s t f.a.toNat 1
    let k := f.imm.toNat
    let m := s.ctl.mons.getD n {}
    let now := if m.samples then (Config.samples s.fresh).foldl (fun (m : Mon) v => m.take (v % 2 ^ 64)) m else m
    (k ≤ 255 → Done (.moncfg f) s p t { a with ctl := { a.ctl with
      mons := a.ctl.mons.set k { cfg := BitVec.ofNat 32 n &&& 0x8FFFFFC0#32, min := 2 ^ 64 - 1, max := 0, cnt := 0, bins := List.replicate 16 0 } } }) ∧
    (255 < k → Traps (.moncfg f) s p t 0x4004 s.noAddr) ∧
    (n ≤ 255 → k ≤ 18 → Done (.monrd f) s p t (wrote { a with fresh := a.fresh + 1, ctl := { a.ctl with mons := a.ctl.mons.set n now } } t f.d
      (natWords (now.item k) 2))) ∧
    (255 < n ∨ 18 < k → Traps (.monrd f) s p t 0x4004 s.noAddr)) ∧
  (∀ (m : Mon) v, m.bins.length = 16 →
    let x := m.take v
    let bin := Nat.min 15 (Nat.log2 (Nat.max v 1) - bits m.cfg.toNat 6 6)
    x.item 0 = Nat.min (m.item 0) v ∧ x.item 1 = Nat.max (m.item 1) v ∧ x.item 2 = m.item 2 + 1 ∧
    ∀ k, k < 16 → x.item (3 + k) = m.item (3 + k) + if k = bin then 1 else 0)
/-- R119, R393: EVPOST posts a record of the executing authority's: 0 where the ring has room, 1 where it is full, 2 where it is
disabled; at a function under reset it is discarded. -/
def Sys2Proof.Claim.postResults : Prop :=
  (∀ (f : FmtZ) s p t, Alone s p rightsAll f.guard t →
    let asid := s.asidOf p.fg
    let opr := asid = oprAsid
    let posted := toBytes 2 (f.imm.toNat % 2 ^ 15) ++ toBytes 2 (if opr then 0xFFFF else asid) ++ toBytes 4 0 ++ toBytes 8 s.ctl.devTime
      ++ toBytes 8 (regL s t f.a.toNat 2) ++ toBytes 8 0
    let r := (s.begun p t).post (if opr then s.vf? (64 * (dieOfCore (s.coreOf p.fg) / 2)) else s.vfFor asid) posted
    (s.sideless p.fg = false → Done (.evpost f) s p t (wrote r.1 t f.d [BitVec.ofNat 32 r.2])) ∧
    (s.sideless p.fg = true → Traps (.evpost f) s p t 0x4001 s.noAddr)) ∧
  (∀ (s : State) bs, s.post none bs = (s, 2)) ∧
  (∀ (s : State) (v : Vf) bs,
    (v.evrEn = false → s.post (some v) bs = (s, 2)) ∧
    (v.evrEn = true → v.num % 64 ≠ 0 → v.state = 3 → s.post (some v) bs = (s.setVf (v.discard 1), 0)) ∧
    (v.evrEn = true → (v.num % 64 = 0 ∨ v.state ≠ 3) → s.post (some v) bs = if v.evrRoom then (s.writeEvent v bs, 0) else (s, 1)))
/-- R5, R116, R118, R119, R393: the counters, the monitors and EVPOST. FLT_ADDR is a free value where the rule states none
(assumption log 43). -/
def Obligations.CountersAndEvents : Prop := counterResults ∧ monitorResults ∧ postResults

/-- R395 to R399: RANKMAP, PLANEMAP and PARITYCFG read and change the fabric's tables; a form that its rule does not allow
answers 1 and changes nothing. FLT_ADDR is a free value where the rule states none (assumption log 43). What PLANEMAP.retrain
reports is a free value (assumption log 33). -/
def Obligations.FabricManagement : Prop :=
  (∀ (f : FmtZ) s p t, Alone s p rightsAll f.guard t →
    let a := s.begun p t
    let k := regL s t f.a.toNat 1 + f.imm.toNat
    let n := f.imm.toNat % 16
    (k ≤ 383 → Done (.rankmapGet f) s p t (wrote a t f.d [s.links.ranks.getD k 0])) ∧
    (383 < k → Traps (.rankmapGet f) s p t 0x4004 s.noAddr) ∧
    Done (.planemapGet f) s p t (wrote a t f.d [BitVec.ofNat 32 (s.links.prt.getD n 0 + 16 * b2n (s.links.lost.getD n false))])) ∧
  (∀ (f : FmtZ) s p t, Alone s p rightsOpr f.guard t →
    let a := s.begun p t
    let n := f.imm.toNat % 16
    let x := regL s t f.a.toNat 1
    let st := (s.map.unit (363 + n)).1
    let r := a.rankSet f.imm.toNat x
    Done (.rankmapSet f) s p t (wrote r.1 t f.d [BitVec.ofNat 32 r.2]) ∧
    (s.onPlane n = false → s.mapOk n (x % 16) = true → Done (.planemapMap f) s p t (wrote (a.planeMap n (x % 16)) t f.d [0])) ∧
    (s.mapOk n (x % 16) = false → Done (.planemapMap f) s p t (wrote a t f.d [1])) ∧
    (s.onPlane n = true → s.mapOk n (x % 16) = true → exec (.planemapMap f) s = .next s) ∧
    (let c := f.imm.toNat / 64 % 4
     let mins := putAssoc s.links.mins (64 * c + f.imm.toNat % 64) (x % 2 ^ 13)
     (c ≠ 3 → x % 2 ^ 13 ≤ 4096 → (mins.map (·.2)).sum ≤ 4096 →
       Done (.planemapShare f) s p t (wrote { a with links := { a.links with mins := mins } }.pump t f.d [0])) ∧
     (c = 3 ∨ 4096 < x % 2 ^ 13 ∨ 4096 < (mins.map (·.2)).sum → Done (.planemapShare f) s p t (wrote a t f.d [1]))) ∧
    (st ≠ 3 → st ≠ 4 → Done (.planemapRetrain f) s p t (wrote a t f.d [1])) ∧
    (st = 3 ∨ st = 4 → Done (.planemapRetrain f) s p t (if Config.freeValue s.ticks % 2 = 1 then wrote a t f.d [2]
      else wrote ((a.setPort n {}).publish (a.map.units.set (362 + n) (0, 0))).pump t f.d [0])) ∧
    (let d := regL s t f.a.toNat 4
     (s.parityBad d = true → Done (.paritycfgSet f) s p t (wrote a t f.d [1])) ∧
     (s.parityBad d = false → Done (.paritycfgSet f) s p t (wrote { a with links := { a.links with
        parity := if parN d = 0 then 0 else d, parPhase := 0, parBlocks := 0 } }.releasePar t f.d [0]))) ∧
    Done (.paritycfgRebuild f) s p t (if s.rankState s.rank = 2 ∧ (parMembers s.links.parity).contains s.rank = true
      then wrote { a with links := { a.links with parPhase := 3, parBlocks := 0 } } t f.d [0] else wrote a t f.d [1]) ∧
    Done (.paritycfgGet f) s p t (wrote a t f.d
      (natWords (setBits (setBits s.links.parity 88 32 (s.links.parBlocks / 4096)) 120 8 s.parRole) 4)))

/-- R232, R357, R358, R359: NLAUNCH leaves an operation pending that accepts its node when it is performed, after those of the
lower lanes of its path, with the lines of its footprints written back and no more held; NWAIT on an identifier that is not
in the pool writes 0 at once, and else sleeps from the boundary on; NQUERY answers state and counts of a node of its own
context, to the operator of any, and zeros for another. FLT_ADDR is a free value where the rule states none (assumption log
43). -/
def Obligations.NodeInstructions : Prop :=
  (∀ (f : FmtL) s p, Issues s p rightsOwn → s.sideless p.fg = false →
    Runs (.nlaunch f) s p s (pends f.guard fun t => { fmtLPend f p 1 with todo := .launch (regL s t f.a.toNat 2) })) ∧
  (∀ (f : FmtL) s p t, Alone s p rightsOwn f.guard t → s.sideless p.fg = true → Traps (.nlaunch f) s p t 0x4001 s.noAddr) ∧
  (∀ (s : State) (t : Thread) (q : Pending) ea, (s.lowerFirst t q = true ∨ s.mayPerform t = false) → s.doLaunch t q ea = s) ∧
  (∀ (s : State) (t : Thread) (q : Pending) ea pk x y res, s.lowerFirst t q = false → s.mayPerform t = true →
    s.todoRead t q ea 256 [] = (x, some pk) → x.readPacket (s.asidOf t.fg) pk = (y, res) →
    let asid := s.asidOf t.fg
    let keep := fun z : State => z.modPend t.fg t.lane q.uid fun q => { q with got := some pk }
    (res = .error none → s.doLaunch t q ea = keep y) ∧
    (∀ st, res = .error (some st) → s.doLaunch t q ea = y.endShared t q.uid [] fun q => { q with val := some [BitVec.ofNat 32 st] }) ∧
    (∀ k, res = .ok k →
      let may := y.poolRoom (((y.ctx? asid).map (·.part)).getD 0) = true ∧ y.releaseReady t q.uid 5 = true
      let own := fun l => y.inFeet asid k readMode l
      let by_ := fun l => if own l then 5 else 0
      let z := y.writeBack (y.coreOf t.fg) asid by_
      (¬may → s.doLaunch t q ea = keep y) ∧
      (∀ n, may → (y.blockOf t.fg).bind (fun b => y.node? b.node) = some n →
        (z.heldBack (y.coreOf t.fg) asid by_ = true → s.doLaunch t q ea = keep z) ∧
        (z.heldBack (y.coreOf t.fg) asid by_ = false →
          let r := (z.discardAll asid own).acceptNode asid n.queue (n.id :: n.launchers) k
          s.doLaunch t q ea = r.1.endShared t q.uid [] fun q => { q with val := some [BitVec.ofNat 32 r.2] })))) ∧
  (∀ (f : FmtA) s p, Issues s p rightsOwn →
    let id := fun t => srcA s t f 6
    let n := fun t => Nat.min (srcB s t f 6) (2 ^ 24)
    p.last → Runs (.nwait f) s p s fun t t' => ∃ t1, Ended t1 t' ∧ t1.mid = (if f.guard.on t then
      if (s.nodeOf (s.asidOf t.fg) (id t)).isNone then t.put f.d.toNat [0]
      else { t with after := .nwait (id t) (if n t = 0 then 0 else s.ctl.cycle + n t) f.d.toNat } else t).mid) ∧
  (∀ (f : FmtL) s p t, Alone s p rightsAll f.guard t →
    let id := regL s t f.a.toNat 1
    let a := s.begun p t
    (∀ n, s.node? id = some n → (s.asidOf p.fg = oprAsid ∨ n.asid = s.asidOf p.fg) →
      let age := match (s.part n.part).blocked with
        | some b => if b.1 = n.id then (s.ctl.devTime - b.2.1) / 1000 % 2 ^ 24 else 0
        | none => 0
      Done (.nquery f) s p t (ends a p t f 4 [n.state, n.next, n.ended, n.part % 64 + age * 256])) ∧
    ((∀ n, s.node? id = some n → s.asidOf p.fg ≠ oprAsid ∧ n.asid ≠ s.asidOf p.fg) → Done (.nquery f) s p t (ends a p t f 4 [0, 0, 0, 0])))

/-- R90, R354, R360, R361, R362: PLACE reserves, frees, closes and opens cluster slots, SLICESET assigns a slot, sets a target
and the save pool, and PREEMPT and SLICESET.move stop blocks and complete when they have stopped. What a rule does not allow
answers 0xB010 and changes nothing; that SLICESET.move answers so where the save pool has no room is assumption log 67. -/
def Obligations.Placement : Prop :=
  ∀ (f : FmtL) s p t, Alone s p rightsOpr f.guard t →
    let a := s.begun p t
    let x := regL s t f.a.toNat 1
    let v := regL s t f.b.toNat 1
    let m := regL s t f.b.toNat 2
    let no := arrives a p t f 1 [0xB010]
    let shut := fun b => arrives ((slotsIn m).foldl (fun s k => s.setSlotE k { s.slotE k with closed := b }) a) p t f 1 [0]
    (let may := ∃ c, s.ctx? x = some c ∧ c.state ≠ 0 ∧ c.state ≠ 5 ∧
       ∀ k ∈ slotsIn m, (s.slotE k).assigned = true ∧ (s.slotE k).part = c.part ∧ ((s.slotE k).rsv = none ∨ (s.slotE k).rsv = some x)
     (may → Done (.placeRsv f) s p t (arrives ((slotsIn m).foldl (fun s k => s.setSlotE k { s.slotE k with rsv := some x }) a) p t f 1 [0])) ∧
     (¬may → Done (.placeRsv f) s p t no)) ∧
    (x ≤ 1023 → Done (.placeFree f) s p t (arrives { a with sched := { a.sched with
      slots := a.sched.slots.map fun e => if e.rsv = some x then { e with rsv := none } else e } } p t f 1 [0])) ∧
    (1023 < x → Done (.placeFree f) s p t no) ∧
    Done (.placeClose f) s p t (shut true) ∧ Done (.placeOpen f) s p t (shut false) ∧
    (let r := a.stopSaved (a.blocks.filter fun b => b.place = .resident && b.core < 256 && (slotsIn m).contains (b.core / 4))
     let q := r.1.pendU (moved p t) { fmtLPend f p 1 with todo := .wait }
     let cmd : StopCmd := { fg := p.fg, lane := t.lane, uid := q.1, blks := r.2 }
     Done (.preempt f) s p t (State.settle { q.2 with sched := { q.2.sched with stops := q.2.sched.stops ++ [cmd] } })) ∧
    (x ≤ 63 → s.slotUsed x = false → (s.slotE x).rsv = none →
      (v.testBit 6 = false → Done (.slicesetAssign f) s p t (arrives (a.setSlotE x { a.slotE x with assigned := false, moving := none }) p t f 1 [0])) ∧
      (v.testBit 6 = true →
        let b := a.setSlotE x { a.slotE x with assigned := false }
        Done (.slicesetAssign f) s p t (arrives (b.setSlotE x { b.slotE x with
          assigned := true, part := v % 64, lslice := b.freeLslice (v % 64), moving := none }) p t f 1 [0]))) ∧
    (63 < x ∨ s.slotUsed x = true ∨ (s.slotE x).rsv ≠ none → Done (.slicesetAssign f) s p t no) ∧
    (x ≤ 63 → Done (.slicesetTarget f) s p t (arrives (a.setPart x { a.part x with target := Nat.min 64 (v % 128), auto := v.testBit 8 }) p t f 1 [0])) ∧
    (63 < x → Done (.slicesetTarget f) s p t no) ∧
    (let bs := a.blocks.filter fun b => b.place = .resident && b.core < 256 && b.core / 4 = x
     let may := x ≤ 63 ∧ v ≤ 63 ∧ (s.slotE x).assigned = true ∧ (s.slotE v).assigned = false ∧ s.slotUsed v = false ∧
       (∀ i, i < 4 → s.map.coreLive (4 * v + i) = true) ∧
       ∃ y, bs.foldl (fun (acc : Option State) b => acc.bind fun s => s.saveImage b) (some a) = some y
     (may →
      let r := (a.setSlotE x { a.slotE x with closed := true }).stopSaved bs
      let q := r.1.pendU (moved p t) { fmtLPend f p 1 with todo := .wait }
      let cmd : StopCmd := { fg := p.fg, lane := t.lane, uid := q.1, blks := r.2, move := some (x, v) }
      Done (.slicesetMove f) s p t (State.settle { q.2 with sched := { q.2.sched with stops := q.2.sched.stops ++ [cmd] } })) ∧
     (¬may → Done (.slicesetMove f) s p t (ends a p t f 1 [0xB010]))) ∧
    (let len := regL s t f.c.toNat 2
     (m % 65536 = 0 → len % 65536 = 0 → 0 < len → 2 ^ 26 ≤ m →
       Done (.slicesetPool f) s p t (arrives { a with sched := { a.sched with poolBase := m, poolLen := len } } p t f 1 [0])) ∧
     (m % 65536 ≠ 0 ∨ len % 65536 ≠ 0 ∨ len = 0 ∨ m < 2 ^ 26 → Done (.slicesetPool f) s p t no))

/-- R278, R281, R282, R290 to R294: a copy instruction of the producer creates its jobs, with the footprints that its form gives,
while the window has an entry for each, and a CPB of no bytes ends at once where it waits for no job before it; CPCAN ends
the block's jobs that count on its barrier and returns their number when they have ended, a job that is performing a chunk
after that chunk. FLT_ADDR is a free value where the rule states none (assumption log 43); a CPA into the accumulators counts
the bytes it writes there (assumption log 64). FLT_ADDR is a free value where the rule states none (assumption log 43). -/
def Obligations.CopyInstructions : Prop :=
  (∀ (f : FmtL) s p t, Alone s p rightsOwn f.guard t → s.notProducer p.fg = false → (s.window_ (s.coreOf p.fg)).length ≤ 63 →
    s.sideless p.fg = false →
    let r := fun (k : BitVec 8) n => regL s t k.toNat n
    let free := { s with eng := { s.eng with stalls := s.eng.stalls.filter fun x => x.path ≠ p.id } }
    -- the job is accepted, and then the thread goes on: what a job of no bytes ends at once leaves this thread as it is
    let issues := fun (i : Instr) kind rd wr n =>
      let x := free.addJob (s.blkId p.fg) (FmtL.br f) kind rd wr n
      (n = 0 → Alone x p rightsOwn f.guard t) → Done i s p t (ends (x.begun p t) p t f 0 [])
    let dstS := (FmtL.fn f).testBit 0
    let srcS := (FmtL.fn f).testBit 1
    let a := r f.a (if dstS then 1 else 2)
    let b := r f.b (if srcS then 1 else 2)
    let n := r f.c 1
    issues (.cpb f) (.cpb dstS srcS a b n) (if srcS then footScratch b n else footGlobal b n) (if dstS then footScratch a n else footGlobal a n) n ∧
    (let o := fun k => regL s t f.b.toNat 4 / 2 ^ (32 * k) % 2 ^ 32
     let h := r f.a 1
     let at_ := r f.c 1
     let buf := match s.tensorOf (s.asidOf p.fg) h with
       | some x => (tileSegs x.1 x.2 (o 0) (o 1) (o 2) (o 3)).flatMap fun y => footGlobal y.1 y.2
       | none => []
     let place := if FmtL.fn f = 0 then [footSlot at_] else footScratch at_ 16384
     issues (.cpt f) (.cpt (FmtL.fn f) h (o 0) (o 1) (o 2) (o 3) at_)
       (if FmtL.fn f = 2 then place else buf) (if FmtL.fn f = 2 then buf else place) 16384) ∧
    (let st := FmtL.fn f = 1
     let sc := footScratch (r f.a 1) 16
     let gl := footGlobal (r f.b 2) 16
     issues (.cpl f) (.cpl st [(t.lane, r f.a 1, r f.b 2)]) (if st then sc else gl) (if st then gl else sc) 16) ∧
    (let sel := r f.b 1
     let sc := footScratch (r f.a 1) (128 * selCount sel * cpaBytes (FmtL.fn f))
     let rows := footRows (selBank sel) (selRow sel) (selCount sel)
     let into := (FmtL.fn f).testBit 7
     issues (.cpa f) (.cpa (FmtL.fn f) (r f.a 1) sel) (if into then sc else rows) (if into then rows else sc)
       (128 * selCount sel * (if into then 4 else cpaBytes (FmtL.fn f))))) ∧
  (∀ i f s p t, (i = .cpb f ∨ i = .cpt f ∨ i = .cpl f ∨ i = .cpa f ∨ i = .cpcan f) → Alone s p rightsOwn f.guard t → s.notProducer p.fg = true →
    Traps i s p t 0x4006 s.noAddr) ∧
  (∀ (f : FmtL) s p t, Alone s p rightsOwn f.guard t → s.notProducer p.fg = false →
    let js := s.eng.jobs.filter fun j => j.blk = s.blkId p.fg && j.bar = FmtL.br f && j.state ≠ .counted
    let on := (js.filter Job.performing).map (·.id)
    let x := s.cancelJobs js
    Alone x p rightsOwn f.guard t →
      (on = [] → Done (.cpcan f) s p t (ends (x.begun p t) p t f 1 [js.length])) ∧
      (on ≠ [] → Done (.cpcan f) s p t ((x.begun p t).pendL (moved p t) { fmtLPend f p 1 with todo := .cancel on js.length }))) ∧
  (∀ s : State, s.cancelJobs [] = s) ∧
  (∀ (s : State) (j : Job) js, s.eng.jobs.find? (fun k => k.id = j.id) = some j →
    (j.performing = false → s.cancelJobs (j :: js) = (s.endJob j 0x6002).cancelJobs js) ∧
    (j.performing = true → s.cancelJobs (j :: js) = (s.setJob { j with cancel := true }).cancelJobs js)) ∧
  (∀ (s : State) t (q : Pending) js n, q.todo = .cancel js n → q.held = false → s.mayPerform t = true → s.todoWaits t q = false →
    s.crossOf t.fg t.lane q.uid = none →
    ((∀ j ∈ s.eng.jobs, j.id ∈ js → j.state = .counted) →
      s.performTodo t q = s.modPend t.fg t.lane q.uid fun r => { r with val := some [BitVec.ofNat 32 n], todo := .none }) ∧
    ((∃ j ∈ s.eng.jobs, j.id ∈ js ∧ j.state ≠ .counted) → s.performTodo t q = s)) ∧
  (∀ (s : State) blk bar kind rd wr n, s.eng.jobs = [] → s.eng.cmds = [] →
    let j : Job := { id := s.uid, blk := blk, bar := bar, kind := kind, rd := rd, wr := wr, left := n, state := .ready }
    let x := { s with uid := s.uid + 1, eng := { s.eng with jobs := [j] } }
    s.addJob blk bar kind rd wr n = if n = 0 then x.endJob j 0 else x.touch)

/-- R302, R304, R306, R320 to R324: TDEF and TSEAL leave an operation for the path pending, and what it does when it is
performed; TDROP and TQUERY act on a record; GANG, OCLAIM and OREL on what the block holds. That a handle counts the seals is
the model's (assumption log 62). -/
def Obligations.TensorInstructions : Prop :=
  (∀ (f : FmtL) s p t, Alone s p rightsOwn f.guard t →
    let a := s.begun p t
    let asid := s.asidOf p.fg
    let h := regL s t f.a.toNat 1
    let waits := fun i todo => exec i s = .next ((((a.pendL (moved p t) (fmtLPend f p 1)).retire p.fg t.trap.inH).advance p [t.lane]).modPend
      p.fg t.lane s.uid fun q => { q with todo := todo })
    ((∀ q ∈ t.allPend, q.uid ≠ s.uid) → waits (.tdef f) (.tdef (regL s t f.a.toNat 2) []) ∧ waits (.tseal f) (.tseal [])) ∧
    Done (.tdrop f) s p t (ends (a.modCtx asid fun c => { c with records := c.records.filter fun r => r.handle.toNat ≠ h }) p t f 1
      [if (s.sealedRec asid h).isSome then 0 else 0xFFFFFFFF]) ∧
    (∀ r, s.sealedRec asid h = some r → Done (.tquery f) s p t (a.pendL (moved p t) { fmtLPend f p 4 with
      val := some (bytesWords (slice r.bytes (16 * FmtL.fn f) 16)) })) ∧
    (s.sealedRec asid h = none → Done (.tquery f) s p t (ends a p t f 4 (List.replicate 4 0xFFFFFFFF))) ∧
    (let slots := regL s t f.a.toNat 1
     let banks := regL s t f.b.toNat 1 % 16
     let core := s.coreOf p.fg
     let blk := s.blkId p.fg
     (s.grantable core blk p.id slots banks = true → Done (.oclaim f) s p t
       (ends ((({ s with eng := { s.eng with claims := s.eng.claims.filter fun c => c.path ≠ p.id } }.grant blk slots banks)).begun p t) p t f 1 [0])) ∧
     (s.grantable core blk p.id slots banks = false → (∀ c ∈ s.eng.claims, c.path ≠ p.id) → exec (.oclaim f) s = .next { s with eng :=
       { s.eng with claims := s.eng.claims ++ [{ core := core, blk := blk, path := p.id, slots := slots, banks := banks }] } }))) ∧
  (∀ (f : FmtA) s p t b, Alone s p rightsOwn f.guard t → s.blockOf p.fg = some b →
    let m := srcA s t f 6 % 256
    let groups := (s.fgs.filter fun g => g.blk = b.id).map (·.num)
    let may := (popc8 m = 0 ∨ (2 ≤ popc8 m ∧ popc8 m ≤ 6)) ∧ (∀ i, i < 8 → m.testBit i = true → i ∈ groups) ∧ b.latch.open_ = false ∧
      ∀ c ∈ s.eng.cmds, c.blk ≠ b.id
    let put := fun (x : State) n => x.modThread p.fg t.lane fun u => u.put f.d.toNat [BitVec.ofNat 32 n]
    (may → DoneOnce (.gang f) s p t fun x => put (x.setBlock { b with gang := BitVec.ofNat 8 m }) b.gang.toNat) ∧
    (¬may → DoneOnce (.gang f) s p t fun x => put x (b.gang.toNat + 2 ^ 31)) ∧
    (let slots := srcA s t f 6
     let banks := srcB s t f 6 % 16
     DoneOnce (.orel f) s p t fun x => { x with eng := { x.eng with
       slots := x.eng.slots.map fun (y : Slot) => if y.blk = b.id && slots.testBit y.num then { y with going := true } else y
       banks := x.eng.banks.map fun (y : Bank) => if y.blk = b.id && banks.testBit y.num then { y with going := true } else y } }.releaseUnits)) ∧
  (∀ (s : State) t q ea x b g, s.todoRead t q ea 128 [] = (x, some b) → x.fg? t.fg = some g →
    s.doTdef t q ea [] = (x.setFg { g with defRec := b }).endShared t q.uid [] fun q => { q with val := some [0] }) ∧
  (∀ (s x : State) t q codes c,
    let img := (s.fgOf t).defRec
    let r := TRec.of img
    let asid := s.asidOf t.fg
    (if r.coded then s.todoRead t q r.codes 256 [] else (s, some [])) = (x, some codes) → x.ctx? asid = some c →
    let br := x.bufRec r.buf
    let held := x.mem.keySlots.any fun k => k.owner = asid && k.buf = some r.buf
    let slot := if br.owner = asid then x.mem.keySlots.find? fun k => k.num = br.key
      else x.mem.keySlots.find? fun k => k.owner = asid && k.buf = some r.buf
    let codesOk := !r.coded || (codes.all (fun l => l.toNat ≤ 15) && kraft codes = 2 ^ 15)
    let reason := sealCheck asid br held ((slot.map (·.dropped)).getD false) x.health.decodeEn r codesOk (1024 ≤ c.records.length)
    let answer := fun (y : State) n => y.endShared t q.uid [] fun q => { q with val := some [BitVec.ofNat 32 n] }
    (reason ≠ 0 → s.doTseal t q [] = answer x reason) ∧
    (reason = 0 → ∀ own, (own = match x.blockOf t.fg with | some b => if b.run = 0 then none else some (b.node, b.clu) | none => none) →
      let h := 2 ^ 31 + c.seals % 2 ^ 31
      s.doTseal t q [] = answer (x.modCtx asid fun c => { c with
        records := c.records ++ [{ handle := BitVec.ofNat 64 h, bytes := img, codes := codes, key := br.key, owner := own }]
        seals := c.seals + 1 }) h))

/-- R306, R307, R308, R325: MMA, MMAG, MMAS and ACCZ form a command at once outside a gang; in a gang the latch opens at the
first group, and the command is formed when every listed group is there. A group that is not listed, or that brings another
instruction, from another address or with other operands, traps with 0x6005 (for the address assumption log 108). A full
queue stalls, and so does a group that is there already. FLT_ADDR is a free value where the rule states none (assumption log
43). -/
def Obligations.MatrixInstructions : Prop :=
  ∀ i op f s p t b g, matrix i = some (op, f) → Alone s p rightsOwn f.guard t → s.blockOf p.fg = some b → s.fg? p.fg = some g →
    let a := regL s t f.a.toNat 1
    let tab := if op = 1 then regL s t f.b.toNat 4 else 0
    let room := (s.queue_ (s.coreOf p.fg)).length
    let goes := fun (x : State) => Done i s p t (ends (x.begun p t) p t f 0 [])
    let stalls := exec i s = .next (s.setPath { p with waiting := true })
    (b.gang = 0 → (room < 16 → goes (s.addCmd b.id (FmtL.br f) op a tab (FmtL.fn f))) ∧ (16 ≤ room → stalls)) ∧
    (b.gang ≠ 0 →
      (b.gang.getLsbD g.num = false → Traps i s p t 0x6005 s.noAddr) ∧
      (b.gang.getLsbD g.num = true →
        let me : Latch := { open_ := true, op := op, iaddr := p.iaddr, fn := FmtL.fn f, br := FmtL.br f, a := a, b := tab
                            present := b.latch.present }
        let same := b.latch = me
        let present := b.latch.present ++ [g.num]
        ((b.latch.open_ = false ∨ (g.num ∉ b.latch.present ∧ same)) →
          (s.latchFull b present = false → goes (s.setBlock { b with latch := { me with present := present } })) ∧
          (s.latchFull b present = true →
            (room < 16 → goes ((s.setBlock { b with latch := {} }).addCmd b.id (FmtL.br f) op a tab (FmtL.fn f))) ∧ (16 ≤ room → stalls))) ∧
        (b.latch.open_ = true → g.num ∈ b.latch.present → stalls) ∧
        (b.latch.open_ = true → g.num ∉ b.latch.present → ¬same → Traps i s p t 0x6005 s.noAddr)))

/-- R153: EXIT stalls while a scoreboard of its thread counts; then the thread has exited, and what waits for its file group's
living threads, or for its block's, is looked at. -/
def Obligations.Exits : Prop :=
  ∀ i g s p t, exit? i = some g → Alone s p rightsAll g t →
    ((∃ k ∈ t.sb, k ≠ 0) → exec i s = .next s) ∧
    ((∀ k ∈ t.sb, k = 0) → exec i s = .next
      (((((s.begun p t).setThread { moved p t with status := .exited, after := .exited }).retire p.fg t.trap.inH).advance p [t.lane]).exited p.fg))

/-- R61, R62, R76, R77, R146: CLAUSE_FETCH lets the threads of its path take what is due for them first, and reads the header and the words
it announces, what lies at a peer when it has come. Its threads then stand at the clause, or
where it names rendezvous masks are held at its header; a fetch or a check that fails is a fault in each thread at the boundary. -/
def Sys2Proof.Claim.clauseFetchEvent : Prop :=
  ∀ s p0 e p x, s.paths.find? (fun q => q.id = s.ev.a) = some p0 → p0.words = [] → s.pathEvents p0 = e →
    (e.paths.find? (fun q => q.id = e.ev.a) = none → Happens .clauseFetch s e) ∧
    (e.paths.find? (fun q => q.id = e.ev.a) = some p → p.words = [] →
    (∀ ws, e.fetchClause p = (x, .ok ws) → (∃ g, e.fg? p.fg = some g ∧ checkClause g.nregs ws = none) →
      e.fgs = x.fgs →
      (clauseRdv ws = [] → ∃ t, Happens .clauseFetch s t ∧ t.paths = x.paths.map (fun q => if q.id = p.id then { p with words := ws } else q) ∧
        t.threads = x.threads.map (fun u => if u.fg = p.fg ∧ u.lane ∈ p.lanes then entered ws p.pc u.status u else u)) ∧
      (clauseRdv ws ≠ [] → ∃ t, Happens .clauseFetch s t ∧ t.paths = x.paths.filter (fun q => q.id ≠ p.id) ∧
        t.threads = onPath x p (entered ws p.pc .heldRdv))) ∧
    (∀ ws g c, e.fetchClause p = (x, .ok ws) → x.fg? p.fg = some g → checkClause g.nregs ws = some c →
      Happens .clauseFetch s (x.faultPath p c.code (p.pc + BitVec.ofNat 64 (4 * c.fword)) (p.pc + BitVec.ofNat 64 (4 * c.iword)))) ∧
    (∀ code at_, e.fetchClause p = (x, .error (.fault code at_)) →
      Happens .clauseFetch s (x.faultPath p code (BitVec.ofNat 64 at_) p.pc)) ∧
    (∀ ls, e.fetchClause p = (x, .error (.stall ls)) →
      let a := x.ask (x.asidOf p.fg) p.fg (p.lanes.headD 0) p.pc p.asked ls
      Happens .clauseFetch s (a.1.setPath { p with asked := a.2 })))
/-- R62, R99, R102, R141, R142: at CLAUSE_BOUNDARY each thread of the group takes the first event due for it, an error completion
before pre-emption before the milestone trap, and nothing while its stopping block drains; then free paths are filled from the
pool. AGE_RULE_FILL takes the pool address whose thread has waited longest, once 64 cycles have passed since the last and the
threads of the unit at a boundary have taken what is due for them. -/
def Sys2Proof.Claim.boundaryEvents : Prop :=
  (∀ s g, s.fg? s.ev.a = some g →
    let x := (s.threadsOf g.id).foldl (fun s t => s.boundaryEvent g.id t.lane) s
    Happens .clauseBoundary s ((x.ageFill (s.coreOf g.id) g.unit).fillPaths g.id (2 * ceilDiv g.n 32)).settleAll) ∧
  (∀ (s : State) fg l t b, s.thread? fg l = some t → s.blockOf fg = some b →
    (s.atBoundary t = false ∨ b.there = false ∨ (b.place = .stopping ∧ t.stopDue = false)) → s.boundaryEvent fg l = s) ∧
  (∀ (s : State) fg l t b, s.thread? fg l = some t → s.atBoundary t = true → s.blockOf fg = some b → b.there = true →
    (b.place = .stopping → t.stopDue = true) →
    let rest := t.atRest s.ticks
    let out := s.pullLane fg l
    (∀ d r, t.due = d :: r →
      s.boundaryEvent fg l = (out.setThread { rest with due := r }).takeTrap { rest with due := r } d.code d.addr d.iaddr false) ∧
    (t.due = [] → t.stopDue = true → (t.trap.inH = false ∨ t.trap.crit = false) →
      s.boundaryEvent fg l = out.setThread { rest with stopDue := false }) ∧
    (t.due = [] → t.stopDue = true → t.trap.inH = true → t.trap.crit = true → s.boundaryEvent fg l = s) ∧
    (∀ c, t.due = [] → t.stopDue = false → t.trap.inH = false → b.run = 0 → t.trap.mileSeen < s.map.version → s.ctx? b.asid = some c →
      c.milePending = true → c.state = 1 → c.asid = b.asid → s.blockOf t.fg = some b →
      let x := s.modCtx c.asid fun c => { c with grace := some (c.grace.getD (s.ctl.cycle + s.ctl.rmapGrace)) }
      let u := { rest with trap := { rest.trap with mileSeen := s.map.version } }
      (c.trapVec = 0 → s.boundaryEvent fg l = x) ∧
      (c.trapVec ≠ 0 → s.boundaryEvent fg l =
        ((x.pullLane fg l).setThread u).takeTrap u 0xB001 (BitVec.ofNat 64 s.map.version) x.noAddr false))) ∧
  (∀ s : State, s.ageDue s.ev.a s.ev.b = true →
    let mine := fun (x : State) (g : FileGroup) => g.unit = s.ev.b && x.coreOf g.id = s.ev.a
    let z := (s.fgs.filter (mine s)).foldl (fun x g => (x.threadsOf g.id).foldl (fun x t => x.boundaryEvent g.id t.lane) x) s
    let oldest := oldestKey ((z.fgs.filter fun g => mine z g && (z.room g).isSome).flatMap fun g => z.poolOf g.id)
    (oldest = none → Happens .ageRuleFill s z) ∧
    (∀ g fg k lg free, oldest = some (fg, k) → z.fg? fg = some g → z.room g = some (lg, free) →
      let x := z.takePath g k lg free
      Happens .ageRuleFill s { x with fills := (x.fills.filter fun e => !(e.1 = s.ev.a && e.2.1 = s.ev.b)) ++ [(s.ev.a, s.ev.b, x.ctl.cycle)] })) ∧
  (∀ s, s.ageDue s.ev.a s.ev.b = false → Happens .ageRuleFill s s)
/-- R61, R62, R76, R77, R141, R142, R146: what happens at the header of a clause and at its boundary. FLT_ADDR is a free value
where the rule states none (assumption log 43). -/
def Obligations.ClauseEvents : Prop := clauseFetchEvent ∧ boundaryEvents

/-- R80, R81, R83, R84, R174: LONG_LATENCY_COMMIT writes the next result of a thread into its registers and joins its flags;
ERROR_COMPLETION writes nothing, and its fault falls due with the instruction's own address; both take the operation from its scoreboard.
An answer that is still to come from another die holds its operation back, and a TAKE that a stopping block leaves behind holds up none.
An operation that waits for its time is performed, of an access the part that the event names (R212, R221, R226). Such parts are assumption log 4. -/
def Sys2Proof.Claim.commitEvents : Prop :=
  (∀ s t q, s.thread? s.ev.a s.ev.b = some t → t.win = false → s.ev.c = 0 →
    NextEnd (s.ending t) (fun p => p.err.isNone && p.val.isSome && (p.dst.isEmpty || p.left = 0) && !s.atSea t.fg t.lane p.uid) q →
    Happens .longLatencyCommit s (s.setThread { without t q with
      v := (q.dst.zip (q.val.getD [])).foldl (fun v e => v.set e.1 e.2) t.v
      fl := t.fl ||| BitVec.ofNat 32 (q.flags % 32) }).settleAll) ∧
  (∀ s t q e, s.thread? s.ev.a s.ev.b = some t → t.win = false → q.err = some e →
    NextEnd (s.ending t) (fun p => p.err.isSome && !s.atSea t.fg t.lane p.uid) q →
    Happens .errorCompletion s (s.setThread { without t q with
      due := t.due ++ [{ code := e.1, addr := e.2, iaddr := q.iaddr }] }).settleAll) ∧
  (∀ s t q, s.thread? s.ev.a s.ev.b = some t → t.win = false → s.ev.c = q.uid + 1 → q ∈ t.allPend →
    (∀ x ∈ t.allPend, x.uid = q.uid → x = q) → Happens .longLatencyCommit s (s.perform t q s.ev.v.toNat).settleAll)
/-- R196 to R200, R220: BANK_QUEUE_WRITE writes the oldest store queued at one bank of a scratchpad; CACHE_WRITE_BACK writes the dirty
bytes of a line and drops it, unless its parity group holds it; TABLE_WALK caches what it finds and changes no more than the TLBs. -/
def Sys2Proof.Claim.memoryEvents : Prop :=
  (∀ s b q, s.block? s.ev.a = some b → b.bankQ.find? (fun q => q.bank = s.ev.b) = some q →
    Happens .bankQueueWrite s (s.setBlock { b with scratch := patch b.scratch q.off q.bytes, bankQ := b.bankQ.erase q })) ∧
  (∀ s x, let me := fun y : Line => y.unit = s.ev.b && y.pa = s.ev.v.toNat && y.leaf.buf = s.ev.c
    (s.ev.a = 0 → s.mem.l1.find? me = some x →
      let z := s.wbL1Line x
      Happens .cacheWriteBack s { z with mem := { z.mem with l1 := z.mem.l1.filter fun y => !y.is x.unit x.pa x.asid x.leaf.buf } }) ∧
    (s.ev.a ≠ 0 → s.mem.slice.find? me = some x →
      let z := s.wbSliceLine x
      (s.lineHeld x = false → Happens .cacheWriteBack s
        { z with mem := { z.mem with slice := z.mem.slice.filter fun y => !y.is x.unit x.pa x.asid x.leaf.buf } }) ∧
      (s.lineHeld x = true → Happens .cacheWriteBack s s))) ∧
  (∀ s : State, ∃ x, (s.translate s.ev.a s.ev.b (s.ev.v.toNat % 2 ^ 48)).1 = { s with mem := { s.mem with tlb := x } } ∧
    Happens .tableWalk s { s with mem := { s.mem with tlb := x } } ∧
    (∀ l, (s.translate s.ev.a s.ev.b (s.ev.v.toNat % 2 ^ 48)).2 = .ok l → l.raw = false →
      ∃ e ∈ x, e.unit = s.ev.a ∧ e.asid = s.ev.b ∧ e.leaf = l))
/-- R80 to R84, R174, R196 to R200, R220: commits and error completions, and what memory does by itself. -/
def Obligations.CommitAndMemoryEvents : Prop := commitEvents ∧ memoryEvents

/-- R145 to R147, R154, R155, R358: the releases put their threads back into the pool when their conditions are met; held threads
that no release can reach take 0x5001 together. -/
def Obligations.ReleaseEvents : Prop :=
  let back := fun (s : State) (t : Thread) => { t with status := .pooled, pooledAt := s.ticks }
  (∀ s g, s.fg? s.ev.a = some g →
    (s.rdvMet g s.ev.v = true → (∃ b, s.block? g.blk = some b ∧ b.place = .resident) →
      let held := fun t : Thread => t.fg = g.id ∧ t.status = .heldRdv ∧ t.pc = s.ev.v
      ∃ i : Inst, i.fg = g.id ∧ i.pc = s.ev.v ∧ i.m = g.m ∧ i.living = (s.living g.id).map (·.lane) ∧
        (∀ l, l ∈ i.lanes ↔ ∃ t ∈ s.threads, held t ∧ t.lane = l) ∧
        Happens .rendezvousRelease s { s with uid := s.uid + 1, insts := s.insts ++ [i]
                                              threads := s.threads.map fun t => if held t then { back s t with inst := some i.id, idx := 0 } else t }) ∧
    ((s.rdvMet g s.ev.v = false ∨ ∀ b, s.block? g.blk = some b → b.place ≠ .resident) → Happens .rendezvousRelease s s) ∧
    (∃ t, Happens .joinRelease s t ∧ t.threads = s.threads.map fun u =>
      match u.status with
      | .heldJoin a m => if u.fg = g.id ∧ a = s.ev.v ∧ ((s.named g.id (g.mask m)).all fun w => match w.status with | .heldJoin b _ => b = a | _ => false) = true then back s u else u
      | _ => u) ∧
    (s.deadlocked g = true → Happens .syncDeadlock s ((s.living g.id).foldl (fun (s : State) u =>
      match s.thread? u.fg u.lane with
      | none => s
      | some t => s.takeTrap t 0x5001 t.deadAddr.2 t.deadAddr.1 false) s)) ∧
    (s.deadlocked g = false → Happens .syncDeadlock s s) ∧
    (∀ t a m, s.thread? s.ev.a s.ev.b = some t → t.status = .heldWaitm a m →
      ((∀ u ∈ s.named g.id (g.mask m), u.lane = t.lane) → Happens .waitmRelease s (s.setThread (back s t))) ∧
      ((∃ u ∈ s.named g.id (g.mask m), u.lane ≠ t.lane) → Happens .waitmRelease s s))) ∧
  (∀ s t, s.thread? s.ev.a s.ev.b = some t →
    (∀ w, t.status = .sleeping w →
      (w ≤ s.ctl.cycle → Happens .sleepExpiry s (s.setThread (back s t))) ∧ (s.ctl.cycle < w → Happens .sleepExpiry s s)) ∧
    (∀ id wake d, t.status = .nwait id wake d →
      let gone := (s.nodeOf (s.asidOf t.fg) id).isNone
      let late := decide (wake ≠ 0 ∧ wake ≤ s.ctl.cycle)
      let wakes := fun r : Nat => s.setThread (back s (t.put d [BitVec.ofNat 32 r]))
      Happens .nwaitWake s (if gone then wakes 0 else if late then wakes 1 else if s.eventDue t then wakes 3 else s)))

/-- R247, R248, R250, R254, R263, R267: ATOMIC_REQUEST_SERVE serves for every element the lowest lane that is left;
TICKET_TOKEN_EXIT moves a token through balancers, and where it leaves it takes its ticket; BARRIER_ARRIVAL_COUNT and
REMOTE_ARRIVAL apply an arrival when what it waits for is complete, and not before. -/
def Obligations.SyncEvents : Prop :=
  (∀ s r, s.sync.reqs.find? (fun q => q.id = s.ev.a) = some r →
    let sails := fun (x : State) (q : AtomReq) => q.lanes.any fun l => (x.crossOf q.fg l.lane l.uid).any fun e => e.st = 0
    let serve := fun (x : State) (q : AtomReq) =>
      let win := (q.lanes.filter fun l => q.lanes.all fun k => k.ea ≠ l.ea || l.lane ≤ k.lane).filter fun l => !x.laneHeld q l
      (win.foldl (fun x l => (x.performAtom q l).1.atomDone q l (x.performAtom q l).2) x).setReq
        { q with lanes := q.lanes.filter fun l => !win.contains l }
    (s.reqReady r = false → Happens .atomicRequestServe s s) ∧
    (r.sent = true → Happens .atomicRequestServe s (if sails s r then s.setReq r else serve s r)) ∧
    (∀ x q, r.sent = false → s.reqReady r = true → s.sendReq r = (x, q) →
      Happens .atomicRequestServe s (if q.sent && !sails x q then serve x q else x.setReq q))) ∧
  (∀ (s : State) (r : AtomReq) (l : AtomLane) b, r.sp = true → s.blockOf r.fg = some b → b.bankQ = [] →
    let n := atBytes r.at_
    let old := field b.scratch l.ea n
    s.performAtom r l = (s.setBlock { b with scratch := patch b.scratch l.ea (toBytes n (atomNew r.op r.at_ old l.x l.y)) }, .ok old)) ∧
  (∀ (s : State) (n : Net) (k : Token), s.sync.nets[s.ev.a]? = some n → n.tokens.find? (fun y => y.id = s.ev.b) = some k → k.layer < 10 →
    (k.layer = 0 → (n.tokens.find? fun y => y.layer = 0) = some k) →
    let key : NetKey := { dom := n.dom, home := n.home, word := n.word }
    let out := passLayers (10 - k.layer) n.bits k.layer k.wire
    let ctr := n.ctrs.getD out.2 0
    (s.ev.c = 0 → k.ord ≠ 1 → Happens .ticketTokenExit s
      ((s.netEnd k.fg k.lane k.uid (natWords ((n.base + out.2 + 16 * ctr) % 2 ^ 64) 2)).netQuiet key
        { n with bits := out.1, ctrs := n.ctrs.set out.2 ((ctr + 1) % 2 ^ 48), tokens := n.tokens.filter fun y => y.id ≠ k.id })) ∧
    (0 < s.ev.c → s.ev.c < 10 - k.layer →
      let mid := passLayers s.ev.c n.bits k.layer k.wire
      Happens .ticketTokenExit s (s.setNet key { n with
        bits := mid.1
        tokens := n.tokens.map fun y => if y.id = k.id then { k with layer := k.layer + s.ev.c, wire := mid.2 } else y }))) ∧
  (∀ s a, s.sync.arrivals.find? (fun a => a.seq = s.ev.a) = some a →
    let rest := { s with sync := { s.sync with arrivals := s.sync.arrivals.filter fun x => x.seq ≠ a.seq } }
    (s.arrivalReady a = true → Happens .barrierArrivalCount s (rest.applyArrival a)) ∧
    (s.arrivalReady a = false → Happens .barrierArrivalCount s s)) ∧
  (∀ (s : State) (a : Arrival) b, s.block? a.blk = some b → a.count = true → a.hold = false → (b.bar a.bar).current < (b.bar a.bar).expected → a.err = 0 →
    a.bytes = 0 → s.applyArrival a = s.changeBar a.blk a.bar a.sc fun r => { r with current := r.current + 1 }) ∧
  (∀ (s : State) (a : Arrival), a.err = 0 → a.bytes ≠ 0 →
    let less := s.changeBar a.blk a.bar (if a.count then 0 else a.sc) fun r => { r with pending := (r.pending + 2 ^ 64 - a.bytes % 2 ^ 64) % 2 ^ 64 }
    (a.count = true → s.applyArrival a = less.applyArrival { a with bytes := 0 }) ∧ (a.count = false → s.applyArrival a = less)) ∧
  (∀ s r t, s.ev.c ≠ 1 → s.sync.remote[s.ev.a]? = some r → s.thread? r.fg r.lane = some t →
    let ready := (∀ p ∈ t.allPend, p.arrived = true ∨ p.uid ∉ r.waits) ∧ s.storesDone r.fg r.lane r.uid (if r.dom then 6 else 3) r.jobs = true
    (ready → Happens .remoteArrival s (s.sendArrival r)) ∧ (¬ready → Happens .remoteArrival s s)) ∧
  (∀ s, s.ev.c = 1 → Happens .remoteArrival s (s.arriveAt s.ev.b (bits s.ev.v.toNat 32 32) s.ev.a (bits s.ev.v.toNat 0 4) 6))

/-- R281, R282, R286, R294, R304, R307, R312 to R315, R325: the engines of a core. The lowest ready job of a block that is
placed, or whose threads have all exited (assumption log 54), starts where fewer than 8 run, and the lowest ready command
where none runs; a running job does its next chunk, and one that CPCAN has cancelled ends after it with 0x6002; a claim is
granted, and a waiting command accepted, when there is room; a group K-step goes on to the next, or asks a peer for the lines
it lacks, and the last ends its command. A copy within the scratchpad of up to 4096 bytes is one chunk, and an integer chunk
adds the exact sum of its products modulo 2^32 (R311). -/
def Obligations.EngineEvents : Prop :=
  (∀ (s : State) id, let js := s.window_ s.ev.a
    let can := fun j : Job => j.state = .ready && match s.block? j.blk with | some b => b.place = .resident || b.place = .ended | none => false
    ((js.filter can).map (·.id)).min? = some id →
    ((js.filter fun j => j.state = .running).length < 8 → Happens .copyJobStart s (State.touch { s with eng := { s.eng with
      jobs := s.eng.jobs.map fun j => if j.id = id then { j with state := .running } else j } })) ∧
    (8 ≤ (js.filter fun j => j.state = .running).length → Happens .copyJobStart s s)) ∧
  (∀ (s : State) j, let late := fun j : Job => j.prov.isEmpty && !j.heldWr.isEmpty
    let can := fun j : Job => (j.state = .running || late j) && !j.hold && j.reads.isEmpty && match s.block? j.blk with
      | some b => b.place = .resident || b.place = .ended || (b.place = .stopping && j.performing) | none => false
    (s.window_ s.ev.a).find? can = some j → Happens .copyChunk s (if late j then s.settleJob j.id else s.runChunk s.ev.a j)) ∧
  (∀ (s : State) core (j : Job) (b : Block) a c n, s.eng.jobs.find? (fun k => k.id = j.id) = some j → s.block? j.blk = some b →
    j.kind = .cpb true true a c n → j.prov = [] → b.bankQ = [] → b.asid < 1024 → j.chunk = 0 → 0 < n → n ≤ 4096 →
    a + n ≤ b.scratch.length → c + n ≤ b.scratch.length →
    let x := s.setBlock { b with scratch := patch b.scratch a (slice b.scratch c n) }
    s.runChunk core j = (((x.countEv b.asid 5 n).countOn j.blk j.bar n 0 false).endJob
      { j with chunk := 1, inbox := [], failed := [], left := j.left - n } (if j.cancel then 0x6002 else 0))) ∧
  (∀ (s : State) core asid (j : Job) (b : Block) a c n, b.bankQ = [] → j.chunk = 0 → 0 < n → n ≤ 4096 → a + n ≤ b.scratch.length → c + n ≤ b.scratch.length →
    s.chunkCpb core asid j b true true a c n = (s.setBlock { b with scratch := patch b.scratch a (slice b.scratch c n) }, .done n true)) ∧
  (∀ s : State, (∀ x ∈ s.touch.eng.stalls, x.core = s.ev.a → ∀ c, x.since = some c → s.ctl.cycle < c + 1024) →
    Happens .copyWindowDeadlock s s.touch) ∧
  (∀ (s : State) x c p l t f k, s.touch.eng.stalls = [x] → x.core = s.ev.a → x.since = some c → c + 1024 ≤ s.ctl.cycle →
    s.paths.find? (fun p => p.id = x.path) = some p → p.lanes = [l] → s.thread? p.fg l = some t → t.lane = l → l < 128 →
    clauseInstr p.words p.idx = some (.cpb f, k) → f.guard.on t = true →
    let y := (s.touch.takeTrap { t with pc := p.pc, idx := p.idx } 0x6001 0 p.iaddr true).dropPath p.id
    Happens .copyWindowDeadlock s { y with eng := { y.eng with stalls := y.eng.stalls.filter fun z => z.path ≠ x.path } }) ∧
  (∀ s c p f k, s.eng.claims.find? (fun c => c.core = s.ev.a && s.grantable c.core c.blk c.path c.slots c.banks) = some c →
    s.paths.find? (fun p => p.id = c.path) = some p → clauseInstr p.words p.idx = some (.oclaim f, k) →
    ∃ t, exec (.oclaim f) { s with paths := p :: s.paths.filter fun q => q.id ≠ p.id } = .next t ∧ Happens .claimGrant s t) ∧
  (∀ s c, s.eng.cmds.find? (fun c => c.waiting && s.onCore c.blk s.ev.a) = some c →
    ((s.queue_ s.ev.a).length < 16 → Happens .latchCommandAccept s
      (State.acceptCmd { s with uid := s.uid + 1, eng := { s.eng with cmds := s.eng.cmds.filter fun d => d.id ≠ c.id } } { c with id := s.uid })) ∧
    (16 ≤ (s.queue_ s.ev.a).length → Happens .latchCommandAccept s s)) ∧
  (∀ s id, let q := s.queue_ s.ev.a
    let live := fun c : Cmd => match s.block? c.blk with | some b => decide (b.place ≠ .stopping) | none => false
    ((q.filter fun c => c.state = .ready && live c).map (·.id)).min? = some id →
    ((∀ c ∈ q, c.state ≠ .running) → Happens .matrixCommandStart s (State.touch { s with eng := { s.eng with
      cmds := s.eng.cmds.map fun c => if c.id = id then { c with state := .running } else c } })) ∧
    ((∃ c ∈ q, c.state = .running) → Happens .matrixCommandStart s s)) ∧
  (∀ (s : State) c (b : Block), let goes := fun c : Cmd => match s.block? c.blk with | some b => decide (b.place ≠ .stopping) || !c.inbox.isEmpty | none => false
    (s.queue_ s.ev.a).find? (fun c => c.state = .running && !c.hold && c.reads.isEmpty && goes c) = some c → s.block? c.blk = some b → c.prov = [] → b.asid < 1024 →
    let k := cmdK c.a
    let rows := ((c.groups[c.step / k]?).map (·.1)).getD 0
    let next := { c with step := c.step + 1, inbox := [] }
    (c.op ≠ 3 → c.step < c.groups.length * k → 0 < rows → match s.kStep s.ev.a b.asid c (c.step / k) (c.step % k) with
      | (x, .ok) =>
        let y := x.countEv b.asid 4 1
        let z := y.countOn c.blk c.bar (512 * rows) 0 false
        let less := { next with left := c.left - 512 * rows }
        (c.step % k ≠ k - 1 → Happens .groupKStep s (y.setCmd next)) ∧
        (c.step % k = k - 1 → c.step + 1 < c.groups.length * k → Happens .groupKStep s (z.setCmd less)) ∧
        (c.step % k = k - 1 → c.step + 1 = c.groups.length * k → Happens .groupKStep s (z.endCmd less 0))
      | (x, .fail code) => Happens .groupKStep s (x.endCmd c code)
      | (x, .wait) => Happens .groupKStep s x
      | (x, .ask ls) => Happens .groupKStep s ((x.askLines b.asid c.id ls).1.setCmd { c with reads := (x.askLines b.asid c.id ls).2 })
      | (x, .hold code at_) => Happens .groupKStep s ((x.setCmd { c with hold := true }).holdWork s.ev.a b.asid code at_ 1 c.id)) ∧
    (∀ bank, c.op = 3 → c.step = 0 → s.bank? c.blk (selBank c.a) = some bank →
      let n := selCount c.a
      let zero := fun (ws : List Word) i => putWords ws (128 * ((selRow c.a + i) % 128)) (List.replicate 128 0)
      let y := (s.setBank { bank with words := (List.range n).foldl zero bank.words, s32 := c.s32 }).countOn c.blk c.bar (512 * n) 0 false
      Happens .groupKStep s (y.endCmd { next with left := c.left - 512 * n } 0))) ∧
  (∀ (a b : List Int) w, a.length = b.length → a.length ≤ 32 →
    accWord true 1 (a.map fun n => FV.ofDyadic n 0) (b.map fun n => FV.ofDyadic n 0) w
      = w + BitVec.ofInt 32 ((List.zipWith (· * ·) a b).foldl (· + ·) 0))

/-- R22, R24 to R26, R102, R353, R416: a change of the map's units advances VERSION by one, keeps it, makes the milestone pending
in every resident context with a record to the operator, starts a running grace period anew (assumption log 105) and that of
a context without a block (assumption log 72), and stops the blocks of the cores it takes away. A further change at the same
DEV_TIME belongs to the same VERSION. -/
def Obligations.MapChanges : Prop :=
  ∀ (s : State) us,
    let new := closeUnits s.map.units us
    let t := s.publish us
    (new = s.map.units → t = s) ∧
    (new ≠ s.map.units → t.map.units = new ∧
      (∀ b ∈ t.blocks, ∀ b0 ∈ s.blocks, b0.id = b.id → (∀ x ∈ s.blocks, x.id = b.id → x = b0) → b0.place = .resident →
        b0.core < 256 → s.map.coreLive b0.core = true → 2 ≤ (new.getD b0.core (0, 0)).1 → b.place = .stopping)) ∧
    (new ≠ s.map.units → s.ctl.pubTime ≠ some s.ctl.devTime →
      t.map = { s.map with units := new, version := s.map.version + 1 } ∧ t.health.storedVersion = s.map.version + 1 ∧
      (∀ c ∈ s.ctxs, c.state = 1 → ∃ d ∈ t.ctxs, d.asid = c.asid ∧ d.milePending = true ∧ d.state = 1 ∧
        d.grace = if c.grace.isSome ∨ ∀ b ∈ s.blocks, b.asid = c.asid → b.run ≠ 0 then some (s.ctl.cycle + s.ctl.rmapGrace) else none) ∧
      t.opr.waiting = s.opr.waiting ++ (s.ctxs.filter fun c => c.state = 1).map (fun c =>
        { die := 0, code := 0xB001, asid := c.asid, time := s.ctl.devTime : OprRec })) ∧
    (new ≠ s.map.units → s.ctl.pubTime = some s.ctl.devTime → t.map = { s.map with units := new } ∧ t.ctxs = s.ctxs ∧ t.opr = s.opr)

/-- R17, R23, R100, R206, R207, R415 to R417, R420 to R426, R428: reset and what service mode may do; the failures of units; the
halving of the suspicion scores; a control core that restarts, its firmware checked again. Signatures and the header of an
image are opaque (assumption log 45); what an event brings from outside is its operand (assumption log 25, 48). That the
other bytes of device memory stay across a reset is assumption log 46, and the HOLD of a record of 0xA003 assumption log 70.
Signatures are opaque (assumption log 45); what an event brings from outside is its operand (assumption log 25, 48). -/
def Obligations.HealthEvents : Prop :=
  (∀ s : State, ∃ t, Happens .moduleReset s t ∧ t.threads = [] ∧ t.fgs = [] ∧ t.blocks = [] ∧ t.paths = [] ∧ t.ctxs = [] ∧
    t.ctl = State.reset.ctl ∧ t.links = State.reset.links ∧ t.sched = State.reset.sched ∧ t.sync = State.reset.sync ∧ t.eng = State.reset.eng ∧
    t.mem.keySlots = [] ∧ t.mem.l1 = [] ∧ t.mem.slice = [] ∧ t.mem.tlb = [] ∧ t.mem.sram = [] ∧
    t.map.version = s.health.storedVersion + 1 ∧ t.health.storedVersion = s.health.storedVersion + 1 ∧
    t.health.quarantine = s.health.quarantine ∧ (∀ c ∈ s.health.quarantine, c < 256 → (t.map.unit (1 + c)).1 = 2) ∧
    t.health.strap = decide (s.ev.a = 1) ∧ t.health.novig = (s.ev.a = 1 || !s.accepts s.health.bankA) ∧
    (s.ev.a ≠ 1 → s.accepts s.health.bankA = true →
      t.map.fwLine = Config.fwLine s.health.bankA % 256 ∧ t.health.secCounter = Config.fwSec s.health.bankA) ∧
    t.health.restarts = 0 ∧ t.health.shadowLog = [] ∧
    (∀ a, 0x4000 ≤ a → a < 0x4010 → cellGet t.mem.phys a = 0) ∧ (∀ a, 0x400000 ≤ a → a < 0x600000 → cellGet t.mem.phys a = 0) ∧
    (Memory.wf s.mem.phys = true → ∀ a, (a < 0x4000 ∨ 0x4010 ≤ a) → (a < 0x400000 ∨ 0x600000 ≤ a) → cellGet t.mem.phys a = cellGet s.mem.phys a)) ∧
  (∀ s : State, s.health.novig = true →
    let img := s.ev.data
    let test := Config.selfTest s.fresh
    s.accepts img = ((Config.verifies Config.jexxiaKey img || (s.health.buyerKey.any fun k => Config.verifies k img)) &&
      s.health.secCounter ≤ Config.fwSec img) ∧
    (s.writeBank img).health.bankA = img ∧
    Happens .novigImageUpdate s (if s.accepts img then (s.writeBank img).moduleReset (recs16 test.length test) s.health.strap else s) ∧
    Happens .novigQuarantineClear s { s with health := { s.health with quarantine := [], secCounter := s.health.secCounter + 1 } } ∧
    (s.health.buyerKey = none → Happens .buyerKeyAdd s (if Config.verifies Config.jexxiaKey s.ev.data || Config.verifies Config.firmwareKey s.ev.data
      then { s with health := { s.health with buyerKey := some (s.ev.data.take 1952), secCounter := s.health.secCounter + 1 } } else s)) ∧
    (s.health.buyerKey ≠ none → Happens .buyerKeyAdd s s)) ∧
  (∀ s : State, s.health.novig = false →
    Happens .novigImageUpdate s s ∧ Happens .novigQuarantineClear s s ∧ Happens .buyerKeyAdd s s) ∧
  (∀ s : State, s.ev.a = 0 → s.ev.b < 256 →
    let x := s.record { die := dieOfCore s.ev.b, code := 0xA003, core := s.ev.b }
    let h := x.halve
    let susp := h.ctl.susp.modify s.ev.b fun v => Nat.min (v + 2048) 65535
    let y := { h with ctl := { h.ctl with susp := susp } }
    (susp.getD s.ev.b 0 < s.ctl.chkQthr → s.health.quarantine.Nodup → Happens .sramUncorrectable s y) ∧
    (s.ctl.chkQthr ≤ susp.getD s.ev.b 0 → s.map.coreLive s.ev.b = true → Happens .sramUncorrectable s
      (State.publish { y with health := { y.health with quarantine := (y.health.quarantine ++ [s.ev.b]).eraseDups } }
        (s.map.units.modify s.ev.b fun u => (2, u.2))))) ∧
  (∀ s : State, let x := s.record { die := 0, code := 0xA003 }
    (s.ev.a = 1 → (s.ev.c = 0 ∨ 64 < s.ev.c) → Happens .sramUncorrectable s x) ∧
    (s.ev.a = 1 → 0 < s.ev.c → s.ev.c ≤ 64 → Happens .sramUncorrectable s { x with health := { x.health with
      sliceErrs := (s.health.sliceErrs.filter fun e => s.ctl.devTime < e.2 + 3600000000000) ++ [(s.ev.c - 1, s.ctl.devTime)] } }) ∧
    (s.ev.a = 3 → Happens .sramUncorrectable s (x.restartCore (s.ev.b % 4)))) ∧
  (∀ s n, s.ev.a = 2 → (s.sync.nets.filter fun n => !n.dom && n.home = s.ev.b)[s.ev.c]? = some n → Happens .sramUncorrectable s
    ((s.record { die := 0, code := 0xA003 }).loseNet n 0x5002)) ∧
  (∀ s : State, ∃ t, Happens .stackUncorrectable s t ∧ t.mem.phys = s.mem.phys ∧ s.ev.a % 2 ^ 39 / 16 ∈ t.mem.poison ∧
    (∀ b, b ≠ s.ev.a % 2 ^ 39 / 16 → (b ∈ t.mem.poison ↔ b ∈ s.mem.poison)) ∧
    t.opr.waiting = s.opr.waiting ++ [{ die := 0, code := 0xA004, time := s.ctl.devTime }]) ∧
  (∀ s : State, ∃ t, Happens .patrolScrub s t ∧ t.mem.phys = s.mem.phys ∧
    ∀ b, b ∈ t.mem.poison ↔ b ∈ s.mem.poison ∨ ∃ k, k < 8 ∧ s.ev.b.testBit k = true ∧ b = (s.ev.a / 128 * 128 + 16 * k) % 2 ^ 39 / 16) ∧
  (∀ s : State, s.ev.a < 256 → s.ev.b < 4 → s.ev.c < 33 → (s.map.units.getD s.ev.a (3, 0)).1 < 2 →
    let u := s.map.units.getD s.ev.a (3, 0)
    let bad := bits u.2 (6 * s.ev.b) 6
    (bad = 63 → Happens .laneFailure s (s.publish (s.map.units.set s.ev.a (1, setBits u.2 (6 * s.ev.b) 6 s.ev.c)))) ∧
    (bad ≠ 63 → bad ≠ s.ev.c → Happens .laneFailure s (s.publish (s.map.units.set s.ev.a (3, u.2))))) ∧
  (∀ s : State, let lost := fun k => s.publish (s.map.units.modify k fun u => (3, u.2))
    (s.ev.a < 64 → 16 < s.sliceErrors s.ev.a → Happens .sliceErrorRateFail s (lost (256 + s.ev.a))) ∧
    (s.sliceErrors s.ev.a ≤ 16 → Happens .sliceErrorRateFail s s) ∧
    (s.ev.a < 8 → Happens .stackLost s (lost (320 + s.ev.a))) ∧
    (s.ev.a < 256 → Happens .coreSelftestFail s (lost s.ev.a)) ∧
    -- a change of the width, and one of the rate alone, which no field of the map shows
    (s.ev.a < 2 → s.ev.b < 32 →
      let us := s.map.units.set (360 + s.ev.a) (if s.ev.b = 0 then (3, 0) else (0, s.ev.b))
      (s.ev.c ≠ 1 → Happens .pcieLinkChange s (s.publish us)) ∧ (s.ev.c = 1 → Happens .pcieLinkChange s (s.newMap us)))) ∧
  (∀ s : State, let due := s.health.halfDue.filter fun d => d < s.ctl.devTime
    Happens .suspicionHalving s s.halve ∧ (due = [] → s.halve = s) ∧
    (due ≠ [] → s.halve = { s with
      ctl := { s.ctl with susp := s.ctl.susp.map fun v => v / 2 ^ due.length }
      health := { s.health with halfDue := s.health.halfDue.filter fun d => s.ctl.devTime ≤ d } })) ∧
  (∀ s : State, ∃ t, Happens .controlCoreRestart s t ∧ t.health.restarts = Nat.min 255 (s.health.restarts + 1) ∧
    (∀ b ∈ t.blocks, b.core ≠ 256 + s.ev.a % 4) ∧ t.health.novig = (s.health.novig || !s.accepts s.health.bankA) ∧
    (t.health.novig = false → t.map.fwLine = Config.fwLine s.health.bankA % 256 ∧ t.health.secCounter = Config.fwSec s.health.bankA))

/-- R411 to R416: the end of a re-run. Two digests that agree give verdict 2; a mismatch sends an arbiter, which outvotes a core
and raises its score by 1024, or with no agreement raises each by 512; with no two alike, or where the first run is outvoted,
a record names a core. A run is over when none of its blocks is left, and its record and its check buffer go with it. -/
def Obligations.RerunVerdicts : Prop :=
  ∀ (o : State) n c, let s := o.sweepEnded
    s.node? o.ev.a = some n → n.clusters.find? (fun c => c.num = o.ev.b) = some c →
    let isOver := c.placed = true ∧ c.ended = n.pkt.cshape ∧ ∀ b ∈ s.blocks, b.node = n.id → b.clu ≠ c.num
    let d := c.digestOf
    let x := (if n.asid < 1024 then s.countEv n.asid 9 1 else s).endRun n.id c.num
    let next := fun (y : Cluster) v => x.setNode { n with
      verdict := Nat.max n.verdict v, clusters := n.clusters.map fun z => if z.num = c.num then y else z }
    (isOver → c.stage = 1 → agree (d 0) (d 1) = false →
      let y := next { c with stage := 2, placed := false, ended := 0, divert := [], buf := [], seq := x.sched.stopSeq } 0
      Happens .rerunEnd o { y with sched := { y.sched with stopSeq := x.sched.stopSeq + 1 } }) ∧
    (isOver → c.stage = 1 → agree (d 0) (d 1) = true → ∃ t, Happens .rerunEnd o t ∧ t.ctl.susp = s.halve.ctl.susp ∧
      ∃ m, t.node? n.id = some m ∧ m.verdict = Nat.max n.verdict 2) ∧
    (isOver → c.stage = 2 → ∃ t, Happens .rerunEnd o t ∧
      let cores := fun k => (c.been.filter fun z => z.1 = k).map (·.2)
      let raise := fun incs : List (Nat × Nat) => incs.foldl (fun l i => l.modify i.1 fun v => Nat.min (v + i.2) 65535) s.halve.ctl.susp
      if agree (d 0) (d 2) then t.ctl.susp = raise ((cores 1).map fun k => (k, 1024))
      else if agree (d 1) (d 2) then t.ctl.susp = raise ((cores 0).map fun k => (k, 1024)) ∧ ∃ r ∈ t.opr.waiting, r.code = 0xA005
      else t.ctl.susp = raise (((cores 0 ++ cores 1 ++ cores 2).eraseDups).map fun k => (k, 512)) ∧ ∃ r ∈ t.opr.waiting, r.code = 0xA005) ∧
    (¬isOver ∨ (c.stage ≠ 1 ∧ c.stage ≠ 2) → Happens .rerunEnd o s)

/-- R26, R87, R91, R100, R102, R118: the end of a grace period suspends its context; CONTEXT_END_DONE frees one; a record goes to
its ring; and a command window executes one instruction and answers with its result. That no line of an ended context stays
in a cache is assumption log 85. -/
def Obligations.ContextEvents : Prop :=
  (∀ s c e, s.ctx? s.ev.a = some c → c.state = 1 → c.milePending = true → c.grace = some e →
    (e ≤ s.ctl.cycle → Happens .gracePeriodExpiry s (((s.modCtx c.asid fun c => { c with state := 3, grace := none }).record
      { die := 0, code := 0xB003, asid := c.asid }).stopBlocks fun b => b.asid = c.asid)) ∧
    (s.ctl.cycle < e → Happens .gracePeriodExpiry s s)) ∧
  (∀ s c, s.ctx? s.ev.a = some c →
    (c.state ≠ 5 → Happens .contextEndDone s s) ∧
    (c.state = 5 → ∃ t, Happens .contextEndDone s t ∧ t.ctx? c.asid = none ∧
      (∀ k ∈ t.mem.keySlots, k.owner ≠ c.asid) ∧ (∀ x ∈ t.mem.l1 ++ t.mem.slice, x.asid ≠ c.asid) ∧
      (∀ e ∈ s.ctxPages c.asid, ∀ q, e.1 ≤ q → q < e.1 + e.2 → 2 ^ 10 ≤ q → q < 2 ^ 23 → inPages (s.livePages c.asid) q = false → c.endCode = 0 →
        q ∈ t.mem.scrub) ∧
      (c.endCode ≠ 0 → s.vfFor c.asid = none → ∃ r ∈ t.opr.waiting, r.code = c.endCode ∧ r.asid = c.asid ∧ r.core = 0xFFFF ∧ r.hold = 0xFFFF))) ∧
  (∀ s r, s.opr.waiting.find? (fun r => r.die = s.ev.a) = some r →
    let base := s.ctl.opfBase.getD s.ev.a 0
    let tail := s.ctl.opfTail.getD s.ev.a 0
    (base ≠ 0 → (tail + 1) % 256 ≠ s.ctl.opfHead.getD s.ev.a 0 → 
      let z := s.hwWrite 3 (base + 32 * tail) r.bytes
      Happens .opfRecordWrite s { z with opr := { z.opr with waiting := z.opr.waiting.erase r }
                                         ctl := { z.ctl with opfTail := z.ctl.opfTail.set s.ev.a ((tail + 1) % 256) } }) ∧
    ((base = 0 ∨ (tail + 1) % 256 = s.ctl.opfHead.getD s.ev.a 0) → Happens .opfRecordWrite s s)) ∧
  (∀ (s : State) f k, let w := if s.ev.b = 1 then 2 else s.ev.a % 2
    let w0 := BitVec.ofNat 32 s.ev.v.toNat
    let w1 := BitVec.ofNat 32 (s.ev.v.toNat / 2 ^ 32)
    s.winThread w = none → wordE w0 = true → opClass (wordOp w0) = 7 →
    checkInstrs 240 7 1 [w0, w1] 1 [0, 1, 2, 3, 4, 5, 6, 7] = none → clauseInstr [0, w0, w1] 1 = some (.maprd f, k) →
    f.guard = {} → f.a = 248#8 → f.imm.toNat < 1024 → f.d.toNat ≤ 236 → s.links.cmdOut.length = 3 →
    (∀ b ∈ s.blocks, b.id < s.uid) → (∀ g ∈ s.fgs, g.id < s.uid) → (∀ t ∈ s.threads, t.fg < s.uid) → (∀ p ∈ s.paths, p.fg < s.uid) →
    ∃ t, Happens .commandWindowExec s t ∧ t.links.cmdOut.getD w (0, []) = (0, natWords (s.map.entry f.imm.toNat) 4)) ∧
  (∀ s : State, let w := if s.ev.b = 1 then 2 else s.ev.a % 2
    let op := wordOp (BitVec.ofNat 32 s.ev.v.toNat)
    s.winThread w = none →
    (s.ev.b = 1 → auditorMay op = false → Happens .commandWindowExec s (s.setCmdOut w 0x14001 [0, 0])) ∧
    ((s.ev.b = 1 → auditorMay op = true) → wordE (BitVec.ofNat 32 s.ev.v.toNat) = false →
      Happens .commandWindowExec s (s.setCmdOut w (if allocated op then 0x1100A else 0x11001) [0, 0])))

/-- R338 to R342, R344, R345: the queues. A doorbell rings the k-th queue bound to its function, and QTAIL is taken when the packets
between it and QHEAD fit the queue; QCTL changes only EN and ERR while EN = 1; a taken packet becomes a node, a rejected one
sets its SIGNAL tag, after its pennant where it has one, and an unreadable one stops its queue with its code. A read of the
event queue's lower half pops it, and C0's firmware then sets the entry's tag and frees its node; EV_SET and EV_CLR set and clear one
tag. That this is one step with the read is assumption log 55, and what a rejected packet leaves assumption log 56. -/
def Sys2Proof.Claim.queueEvents : Prop :=
  (∀ s : State, let bound := s.sched.queues.filter fun q => 1 ≤ q.vf && q.vf ≤ 62 && 64 * q.ld + q.vf = s.ev.a
    (∀ q, s.ev.b % 16 = 8 → bound[s.ev.b / 16]? = some q →
      let tail := s.ev.v.toNat % 2 ^ 32
      let room := (tail + 2 ^ 32 - q.head) % 2 ^ 32
      (room ≤ 2 ^ q.logn → Happens .qtailWrite s (s.setQueue { q with tail := tail })) ∧ (2 ^ q.logn < room → Happens .qtailWrite s s)) ∧
    ((s.ev.b % 16 ≠ 8 ∨ bound[s.ev.b / 16]? = none) → Happens .qtailWrite s s)) ∧
  (∀ s q, s.queue? s.ev.a = some q →
    let v := s.ev.v.toNat
    let kept := { q with err := bits v 16 16, en := bit v 0 }
    let logn := if 4 ≤ bits v 8 4 ∧ bits v 8 4 ≤ 12 then bits v 8 4 else q.logn
    (s.health.novig = true → Happens .qctlWrite s s) ∧
    (s.health.novig = false → q.en = true → Happens .qctlWrite s (s.setQueue kept)) ∧
    (s.health.novig = false → q.en = false → Happens .qctlWrite s (s.setQueue { kept with
      asid := bits v 48 10, ld := bits v 40 1, vf := bits v 32 8, prio := bits v 1 2, logn := logn }))) ∧
  (∀ s q, s.queue? s.ev.a = some q →
    let part := ((s.ctx? q.asid).map (·.part)).getD 0
    let read := s.schedRead q.asid (q.base + 256 * (q.head % 2 ^ q.logn)) 256
    let popped := { q with head := (q.head + 1) % 2 ^ 32 }
    ((q.en = false ∨ q.err ≠ 0 ∨ q.head = q.tail ∨ s.poolRoom part = false) → Happens .packetTake s s) ∧
    (q.en = true → q.err = 0 → q.head ≠ q.tail → s.poolRoom part = true →
      (∀ x, read = (x, .error none) → Happens .packetTake s x) ∧
      (∀ x code, read = (x, .error (some code)) → Happens .packetTake s (x.setQueue { q with err := code })) ∧
      (∀ x y pk, read = (x, .ok pk) → x.readPacket q.asid pk = (y, .error none) → Happens .packetTake s y) ∧
      (∀ x y pk p, read = (x, .ok pk) → x.readPacket q.asid pk = (y, .ok p) →
        Happens .packetTake s ((y.setQueue popped).acceptNode q.asid q.num [] p).1) ∧
      (∀ x y pk st, read = (x, .ok pk) → x.readPacket q.asid pk = (y, .error (some st)) →
        let z := y.setQueue popped
        let pen := field pk 24 8
        let sig := field pk 32 2
        let data := pennantBytes 0 st 0 0 0 y.ctl.devTime y.ctl.devTime (field pk 40 4) sig
        let rej : Machine.Reject := { id := z.uid, asid := q.asid, part := part, addr := pen, signal := sig, data := data }
        (pen = 0 → Happens .packetTake s (z.setTag part sig)) ∧
        (pen ≠ 0 → Happens .packetTake s (State.finishReject
          { z with uid := z.uid + 1, sched := { z.sched with rejects := z.sched.rejects ++ [rej] } } rej))))) ∧
  (∀ (s : State) asid addr n, n ≤ 2 ^ 48 - addr % 2 ^ 48 → s.peerRead? asid addr n 0 = none →
    (∀ x d, s.load false 256 asid 0 addr n = (x, .done d) → s.schedRead asid addr n = (x, .ok d)) ∧
    (∀ x code a, s.load false 256 asid 0 addr n = (x, .err code a) → s.schedRead asid addr n = (x, .error (some code)))) ∧
  (∀ (s : State) asid queue ls (p : Packet), let part := ((s.ctx? asid).map (·.part)).getD 0
    s.sched.pool = [] → s.ctx? asid ≠ none → (p.wait = 0 ∨ p.wait ∈ (s.part part).tags) →
    ∃ n, (s.acceptNode asid queue ls p).1.sched.pool = [n] ∧ n.pkt = p ∧ n.asid = asid ∧ n.part = part ∧ n.queue = queue ∧ n.state = 2 ∧
      n.id = 2 ^ 31 + s.sched.accepted % 2 ^ 31) ∧
  (∀ s : State, let v := match s.sched.evq with | e :: _ => e.bytes | [] => List.replicate 16 0
    ∃ t, Happens .evqRead s t ∧ t.ev.data = v ∧ t.sched.evq = (if s.ev.a = 0 then s.sched.evq.drop 1 else s.sched.evq) ∧
      ∀ e r n, s.ev.a = 0 → s.sched.evq = e :: r → s.node? e.node = some n → n.posted = true →
        (1 ≤ e.signal → e.signal ≤ 4095 → e.part < s.sched.parts.length → e.signal ∈ (t.part e.part).tags) ∧
        t.node? e.node = none ∧ ∀ m ∈ t.sched.pool, ∀ x ∈ m.edges, x.1 ≠ e.node) ∧
  (∀ s : State, let p := bits s.ev.v.toNat 16 6
    let tag := bits s.ev.v.toNat 0 12
    (tag ≠ 0 → p < s.sched.parts.length → ∃ t, Happens .evSetWrite s t ∧ tag ∈ (t.part p).tags) ∧
    Happens .evClrWrite s (s.setPart p { s.part p with tags := (s.part p).tags.filter fun x => x ≠ tag }))
/-- R343, R344, R346 to R349, R352: a dispatch pass places early work and then the heads of the queues; the ageing rule keeps the emptiest
region, of those that are open, in reserve for a head that has waited; a service window starts anew each 10 ms; the end of a
node, whose footprint lines are written back once nothing of it is under way. -/
def Sys2Proof.Claim.dispatchEvents : Prop :=
  (∀ s : State, s.ev.a < 64 →
    let e := s.part s.ev.a
    let gone := ∃ b, e.blocked = some b ∧ ∀ n, s.node? b.1 = some n → n.waits = false
    let pass := fun x : State =>
      let y := x.moveSlots.sched.pool.foldl State.readyNode x.moveSlots
      placeHeads 2100 ((y.early s.ev.a).foldl (fun x w => x.placeEarly s.ev.a w) y) s.ev.a [] false
    (gone → Happens .dispatchPass s (pass (s.setPart s.ev.a { e with blocked := none, reserve := none }))) ∧
    (¬gone → Happens .dispatchPass s (pass s))) ∧
  (∀ k (s : State) part stuck past n rest, s.heads part stuck = n :: rest →
    let e := s.part part
    (∀ cs, e.blocked = none → s.findPlace n (s.slotsOf part) e.reserve [] n.pkt.cshape [] = some cs →
      ∃ x, placeHeads (k + 1) s part stuck past = placeHeads k x part stuck past ∧ x.blocks = (s.placeCluster n n.next 0 cs).blocks ∧
        x.threads = (s.placeCluster n n.next 0 cs).threads ∧ x.sched.pool = (s.placeCluster n n.next 0 cs).sched.pool) ∧
    (e.blocked = none → s.findPlace n (s.slotsOf part) e.reserve [] n.pkt.cshape [] = none →
      placeHeads (k + 1) s part stuck past =
        placeHeads k (s.setPart part { e with blocked := some (n.id, s.ctl.devTime, 0) }) part (stuck ++ [n.queue]) true)) ∧
  (∀ s b, (s.part s.ev.a).blocked = some b → (s.part s.ev.a).reserve = none →
    let slots := s.slotsOf s.ev.a
    let free := fun r : Nat => ((slots.filter fun x => x.1 / 2 = r).flatMap fun x => (List.range 4).filter fun i =>
      (s.blocksAt (4 * x.2 + i)).isEmpty).length
    let regions := (slots.map fun x => x.1 / 2).filter fun r => slots.any fun x => x.1 / 2 = r && !(s.slotE x.2).closed
    (regions = [] → Happens .regionReserve s s) ∧
    ((32 ≤ b.2.2 ∨ b.2.1 + 500000 ≤ s.ctl.devTime) → regions ≠ [] →
      ∃ r ∈ regions, (∀ q ∈ regions, free q ≤ free r ∧ (free q = free r → r ≤ q)) ∧
        Happens .regionReserve s (s.setPart s.ev.a { s.part s.ev.a with reserve := some r })) ∧
    (b.2.2 < 32 → s.ctl.devTime < b.2.1 + 500000 → Happens .regionReserve s s)) ∧
  (∀ s : State, (s.ctl.devTime < s.sched.winStart + 10000000 → Happens .serviceWindow s s) ∧
    (s.sched.winStart + 10000000 ≤ s.ctl.devTime → ∃ t, Happens .serviceWindow s t ∧ t.sched.winStart = s.ctl.devTime ∧
      t.sched.parts = (s.sched.parts.map fun p => { p with deliv := p.acc / 1000 % 2 ^ 32, acc := 0 }) ∧
      ((∀ p ∈ s.sched.parts, p.auto = false) → t.sched.slots = s.sched.slots) ∧ t.sched.pool = s.sched.pool)) ∧
  (∀ (s : State) n id, s.node? id = some n → n.state = 4 → n.flushed = false →
    let mine := s.inFeet n.asid n.pkt writeMode
    (s.nodeBusy id = true → s.flushNode id = s) ∧
    (s.nodeBusy id = false → (s.writeBackAll n.asid mine).keptBack n.asid mine = true → s.flushNode id = s.writeBackAll n.asid mine) ∧
    (s.nodeBusy id = false → (s.writeBackAll n.asid mine).keptBack n.asid mine = false → n.unsettled = false →
      s.flushNode id = ((s.writeBackAll n.asid mine).setNode { n with flushed := true }).dischargeNode id true)) ∧
  (∀ (s : State) n, let z := s.sweepEnded.flushNode s.ev.a
    z.node? s.ev.a = some n →
    (n.flushed = false → Happens .nodeCompletion s z) ∧
    (n.posted = true → Happens .nodeCompletion s z) ∧
    (n.flushed = true → n.posted = false → n.unsettled = false → n.hold = false → z.sched.evq.length < 1024 → (∀ b ∈ z.blocks, b.node ≠ n.id) →
      (z.writeBackAll n.asid fun _ => true).parBusy n.asid = false → n.pkt.pennant = 0 →
      ∃ t, Happens .nodeCompletion s t ∧ t.sched.evq = z.sched.evq ++
          [{ node := n.id, part := n.part, status := 0, signal := n.pkt.signal, pennant := 0
             notify := n.pkt.notify, ntype := n.pkt.ntype, asid := n.asid, payload := 0 }] ∧
        t.node? n.id = some { n with posted := true }))
/-- R338 to R349, R352: the queues, the dispatch pass and the end of nodes (assumption log 55, 56). -/
def Obligations.SchedulerEvents : Prop := queueEvents ∧ dispatchEvents

/-- R371, R373 to R376, R379 to R381, R385, R400: the links. A request of a thread to another die leaves as one transaction of a
flit of up to 15 slots, and is performed once it has come in. A flit is taken in order, once, and its transactions performed
or sent on; a bad one is answered with a NAK. A module has eight lanes repaired, goes back to 32 lanes at the next fault and
fails at the one after (assumption log 73), and another carries its flits on, or what was not taken finds another way. A dead
port fails what it carried with 0x8004; windows close, and the oldest of a stream verifies or fails by its GMAC under the
stream's key; a parity rebuild writes the exclusive or of the other members, and sends no delta for it. What an event brings
from outside is its operand (assumption log 48), and how a transaction names its die assumption log 32. What travels as a
transaction, and which two do not travel together, is assumption log 138. -/
def Obligations.FabricEvents : Prop :=
  (∀ (s : State) t (q : Pending) a d off x, q.held = false → s.mayPerform t = true → s.todoWaits t q = false → s.leftBehind t q = false →
    s.crossOf t.fg t.lane q.uid = none → q.todo.ask = some a → a.rel = none → s.farHome t.fg a.w a.ea a.n = some (d, off) →
    s.mates t q = [(t, q)] → s.crossFor t.fg t.lane q.uid q.req q.iaddr false a.ea (d, off) a.tx = x →
    (∀ e ∈ s.links.cross, e.clash x.1 = false) → s.performTodo t q = s.sendCross x) ∧
  (∀ (s : State) t (q : Pending) e, s.crossOf t.fg t.lane q.uid = some e → e.st ≠ 1 → s.performTodo t q = s) ∧
  (∀ (s y : State) (x : Cross × List Byte), s.sendDie x.1.src x.1.dst x.2 = some y →
    s.sendCross x = { y with links := { y.links with cross := s.links.cross ++ [x.1] } }) ∧
  (∀ (p : LinkPort) now dst tx,
    (240 < p.filled + tx.length → p.fill ≠ [] → p.pack now dst tx = (p.close now).pack now dst tx) ∧
    (p.filled + tx.length < 240 → p.pack now dst tx = { p with fill := p.fill ++ [(dst, tx)] }) ∧
    (p.filled + tx.length = 240 → p.pack now dst tx = { p with fill := p.fill ++ [(dst, tx)] }.close now)) ∧
  (∀ (s : State) k dst tx, txBad tx = false →
    (dst ≠ farDie k → ∀ y, s.sendDie (farDie k) dst tx = some y → s.dieTx k dst tx = y) ∧
    (dst = farDie k → s.crossBy dst (TxHdr.of tx) = none → s.dieTx k dst tx = s.performTx (.die k) tx) ∧
    (∀ e, dst = farDie k → s.crossBy dst (TxHdr.of tx) = some e →
      ((TxHdr.of tx).kind < 0x10 → s.dieTx k dst tx = s.modCross e fun c => { c with st := 1 }) ∧
      (0x10 ≤ (TxHdr.of tx).kind → s.dieTx k dst tx = s.dropCross e))) ∧
  (∀ s : State, let k := s.ev.a % 64
    let p := s.ucie k
    let ack := fun x : State => if s.ev.c.testBit 1 then x.ackDie k else x
    ((s.map.unit (329 + k / 2)).1 = 3 → Happens .ucieFlitReceive s s) ∧
    ((s.map.unit (329 + k / 2)).1 ≠ 3 →
      (s.nextFlit k = none → Happens .ucieFlitReceive s (ack s)) ∧
      (∀ f, s.nextFlit k = some f →
        (s.ev.c % 2 = 0 → Happens .ucieFlitReceive s (s.setUcie k { p with nakDue := true })) ∧
        (s.ev.c % 2 = 1 →
          let x := s.setUcie k { p with nakDue := false }
          let j := if f.from_ = 0 then k else f.from_ - 1
          Happens .ucieFlitReceive s (f.txs.foldl (fun x e => x.dieTx k e.1 e.2)
            (ack (x.setUcie j { x.ucie j with rxNext := (f.seq + 1) % 4096 }))))))) ∧
  (∀ (s : State) k f, s.nextFlit k = some f → f ∈ (s.ucie k).unacked ∧ s.accepted k f = false) ∧
  (∀ (s : State) k, k < s.links.ucie.length → let rest := (s.ucie k).unacked.filter fun f => !s.accepted k f
    ((s.ackDie k).ucie k).unacked = rest ++ (s.ucie k).queue.take (2048 - rest.length)) ∧
  (∀ s : State, s.ev.a < 32 → let m := s.ev.a
    let u := s.map.unit (329 + m)
    (u.1 = 3 → Happens .ucieLaneEvent s s) ∧
    (u.1 = 0 → s.ev.b = 0 → u.2 % 16 < 8 → Happens .ucieLaneEvent s (s.publish (s.map.units.modify (328 + m) fun u => (u.1, u.2 % 16 + 1)))) ∧
    (u.1 = 0 → s.ev.b = 0 → 8 ≤ u.2 % 16 → Happens .ucieLaneEvent s (s.publish (s.map.units.modify (328 + m) fun u => (1, u.2)))) ∧
    (u.1 = 0 → s.ev.b = 1 → Happens .ucieLaneEvent s (s.publish (s.map.units.modify (328 + m) fun u => (1, u.2)))) ∧
    (u.1 = 1 → s.ev.b = 0 → Happens .ucieLaneEvent s (s.loseModule m)) ∧ (u.1 ≠ 3 → s.ev.b = 2 → Happens .ucieLaneEvent s (s.loseModule m))) ∧
  (∀ (s : State) k, let p := (s.ucie k).close s.ctl.devTime
    let x := s.setUcie k { p with unacked := [], queue := [] }
    let all := p.unacked ++ p.queue
    (∀ j, nextModule s.map.units (k / 2) = some j → let dest := 2 * j + k % 2
      s.moveFlits k = x.setUcie dest { x.ucie dest with
        unacked := (all.map fun f => { f with from_ := if f.from_ = 0 then 1 + k else f.from_ }) ++ (x.ucie dest).unacked }) ∧
    (nextModule s.map.units (k / 2) = none → (∀ f ∈ all, x.accepted k f = true) → s.moveFlits k = x)) ∧
  (∀ s : State, (s.ev.b = 0 → s.ev.a < 64 → let h := TxHdr.of s.ev.data
      let dst := if 0x10 ≤ h.kind || txBad s.ev.data then farDie s.ev.a else h.die
      Happens .transactionReceive s (if dst = farDie s.ev.a then s.performTx (.die s.ev.a) s.ev.data else s.dieTx s.ev.a dst s.ev.data)) ∧
    (s.ev.b ≠ 0 → s.ev.a < 16 → Happens .transactionReceive s (s.fabricTx s.ev.a s.ev.data))) ∧
  (∀ s : State, s.ev.a < 16 → let n := s.ev.a
    let b := s.ev.data
    let good := b.length = 256 ∧ field b 248 8 = (crc64 (b.take 248)).toNat ∧ bits (field b 0 2) 12 4 ≤ 2
    let seq := bits (field b 0 2) 0 12
    let x := s.ackPort n (bits (field b 2 2) 0 12) (bit (field b 2 2) 12)
    let p := x.port n
    let next := { p with rxNext := (seq + 1) % 4096, nakDue := false, poolFull := bit (field b 4 4) 0 }
    (s.portUp n = false → Happens .guestusFlitReceive s s) ∧
    (s.portUp n = true → ¬good → Happens .guestusFlitReceive s (s.sendNak n)) ∧
    (s.portUp n = true → good → seq = p.rxNext →
      (bits (field b 0 2) 12 4 = 0 → Happens .guestusFlitReceive s (x.setPort n next).pump) ∧
      (bits (field b 0 2) 12 4 = 1 →
        Happens .guestusFlitReceive s (State.pump ((flitTxs 15 (slice b 8 240)).foldl (fun x t => x.fabricTx n t) (x.setPort n next)))) ∧
      (bits (field b 0 2) 12 4 = 2 →
        Happens .guestusFlitReceive s (x.setPort n { next with used := slotReturns p.used (slice b 8 240) }).pump)) ∧
    (s.portUp n = true → good → seq ≠ p.rxNext →
      ((seq + 4096 - p.rxNext) % 4096 < 2048 → Happens .guestusFlitReceive s (x.sendNak n).pump) ∧
      (2048 ≤ (seq + 4096 - p.rxNext) % 4096 → Happens .guestusFlitReceive s x.pump))) ∧
  (∀ s : State, s.ev.a < 16 → let n := s.ev.a
    let p := s.port n
    let due := 8 ≤ p.naks ∨ (p.unacked ≠ [] ∧ p.lastAck + 1000000 ≤ s.ctl.devTime)
    ((s.portUp n = false ∨ ¬due) → Happens .fabricPortDown s s) ∧
    (s.portUp n = true → due → s.ev.b = 0 →
      let o := ((s.publish (s.map.units.set (362 + n) (3, 0))).record { die := 0, code := 0x8005 }).setPort n {}
      let x := { o with links := { o.links with late := o.links.late.filter fun e => e.1 ≠ n } }
      Happens .fabricPortDown s (((x.links.out.filter fun q => q.sent = some n).foldl (fun x q => x.complete q (.error (0x8004, 0))) x).dropTakes n))) ∧
  (∀ s : State, let r := s.ev.a
    ((s.rankValid r = false ∨ s.rankState r = 1) → Happens .rankLoss s s) ∧
    (s.rankValid r = true → s.rankState r ≠ 1 →
      let x := s.setRank r (BitVec.ofNat 32 (setBits (s.links.ranks.getD r 0).toNat 28 3 1))
      Happens .rankLoss s ((x.links.out.filter fun q => q.rank = r).foldl (fun x q => x.complete q (.error (0x8004, 0))) x))) ∧
  (∀ s : State, let w := s.txWin s.ev.a s.ev.b s.ev.c
    ((3840 ≤ w.slots.length ∨ w.start + 512 ≤ s.ctl.cycle) → Happens .tagWindowClose s (s.closeWin w)) ∧
    (w.slots.length < 3840 → s.ctl.cycle < w.start + 512 → Happens .tagWindowClose s s)) ∧
  (∀ s w, s.links.rxWins.find? (fun w => w.id = s.ev.a) = some w →
    let tag := s.tagOf w.src w.src s.rank w.plane w.cls w.num w.slots
    let oldest := ∃ v, s.links.rxWins.find? (fun v => v.is w.src w.plane w.cls) = some v ∧ v.id = w.id
    (oldest → w.tag = some (w.num, tag) → Happens .tagVerify s (s.passWin w)) ∧
    (∀ n x, oldest → w.tag = some (n, x) → (n, x) ≠ (w.num, tag) → Happens .tagVerify s (s.failWin w)) ∧
    ((w.tag = none ∨ ¬oldest) → Happens .tagVerify s s) ∧
    (w.tag = none → w.startNs + 1000000 ≤ s.ctl.devTime → Happens .tagTimeout s ((s.bumpNum w.src w.plane w.cls).failWin w)) ∧
    (s.ctl.devTime < w.startNs + 1000000 → Happens .tagTimeout s s)) ∧
  (∀ (s x : State) p, let br := s.bufRec s.ev.a
    let n := (parMembers s.links.parity).length - 1
    s.links.parPhase = 3 → s.ev.data.length = 16 * n → s.rankState s.rank = 2 →
    s.check 256 br.owner .wr (br.base + 16 * s.ev.b) 16 = (x, .ok [p]) →
    let bytes := (List.range n).foldl (fun l k => List.zipWith (· ^^^ ·) l (slice s.ev.data (16 * k) 16)) (List.replicate 16 0)
    let y := (x.ctlWrite br.owner p.leaf p.va p.pa (bytes.map some) false).1
    Happens .parityRebuild s { y with links := { y.links with parBlocks := y.links.parBlocks + 1, parPhase := if s.ev.c = 1 then 4 else 3 } })

/-- R386 to R394, R426: the host's side. Registers of the device and of a virtual function; atomics that the host answers,
proxies or lets time out; translations withdrawn; its writes; the states of a virtual function; event records on their way. A
host atomic to a register changes nothing, and while the Novig recovery image runs no virtual function comes up (assumption
log 131). What the host sends is the operand of an event (assumption log 34, 48); that the low bits of QBASE, PX_BASE and
EVR_BASE are cleared is assumption log 79, and when the 10 ms of a proxied atomic start assumption log 82. What the host
sends is the operand of an event (assumption log 34, 48). -/
def Obligations.HostEvents : Prop :=
  (∀ s : State,
    (s.ev.a = 0 → s.ev.b = 0x60008 → Happens .registerWrite s { s with health := { s.health with decodeEn := s.ev.v.getLsbD 0 } }) ∧
    (∀ q, s.ev.a = 0 → s.ev.b < 0x18000 → 0x10000 ≤ s.ev.b → s.ev.b % 32 = 8 → s.queue? ((s.ev.b - 0x10000) / 32) = some q →
      Happens .registerWrite s (s.setQueue { q with base := s.ev.v.toNat / 256 * 256 })) ∧
    (s.ev.a = 0 → s.ev.b = 0x10 → Happens .registerWrite s (s.setTag (bits s.ev.v.toNat 16 6) (bits s.ev.v.toNat 0 12))) ∧
    (s.ev.a = 0 → s.ev.b = 0x18 → Happens .registerWrite s (s.clearTag (bits s.ev.v.toNat 16 6) (bits s.ev.v.toNat 0 12))) ∧
    (∀ v, (s.ev.a = 0 ∨ s.ev.a = 1) → s.ev.b = 0x62000 → s.vf? (64 * s.ev.a) = some v →
      Happens .registerWrite s (s.setVf { v with evrBase := s.ev.v.toNat / 4096 * 4096 })) ∧
    (∀ v, s.ev.a = 2 → s.vf? s.ev.c = some v → v.tenant = true → s.vfOff v = true → Happens .registerWrite s s) ∧
    (∀ v, s.ev.a = 2 → s.vf? s.ev.c = some v → v.tenant = true → s.vfOff v = false →
      (s.ev.b = 0x400 → Happens .registerWrite s ((s.setVf { v with pxBase := s.ev.v.toNat / 4096 * 4096 }).pumpPx v.num)) ∧
      (s.ev.b = 0x480 → Happens .registerWrite s ((s.setVf { v with evrBase := s.ev.v.toNat / 4096 * 4096 }).pumpPx v.num)) ∧
      (s.ev.b = 0x498 → Happens .registerWrite s ((s.setVf { v with evrHead := s.ev.v.toNat % 2 ^ 32 }).pumpPx v.num)))) ∧
  (∀ s h, s.links.hostAtoms.find? (fun h => h.id = s.ev.a && h.st = 0) = some h →
    let x := s.dropAtom h.id
    let n := atBytes h.at_
    let old := ofBytes (cellsGet s.mem.host h.bus n)
    (s.ev.b = 0 → Happens .hostAtomicCompletion s
      ((x.hostWrite h.bus (toBytes n (atomNew h.op h.at_ old h.x h.y))).atomDone h.req h.lane_ (.ok old))) ∧
    (s.ev.b = 1 → Happens .hostAtomicCompletion s (State.atomDone
      { x with links := { x.links with hostWin := putAssoc x.links.hostWin h.buf (setBits (s.hostWinOf h.buf) 0 1 1) } } h.req h.lane_ (.error 0x9001))) ∧
    (s.ev.b = 2 → Happens .hostAtomicCompletion s (x.atomDone h.req h.lane_ (.error 0x9004))) ∧
    (s.ev.b = 3 → Happens .hostAtomicCompletion s (x.atomDone h.req h.lane_ (.error 0x9005)))) ∧
  (∀ s h, s.links.hostAtoms.find? (fun h => h.vf = s.ev.a && (h.st = 2 || h.st = 3) && h.seq = field s.ev.data 0 4) = some h →
    let x := s.pxAccept h.id h.vf
    (h.st = 3 → Happens .pxRespWrite s x) ∧
    (h.st = 2 → field s.ev.data 4 4 = 0 →
      Happens .pxRespWrite s (x.atomDone h.req h.lane_ (.ok (field s.ev.data 8 (atBytes h.at_))))) ∧
    (h.st = 2 → field s.ev.data 4 4 ≠ 0 → Happens .pxRespWrite s (x.atomDone h.req h.lane_ (.error 0x9004)))) ∧
  (∀ s h, s.links.hostAtoms.find? (fun h => h.id = s.ev.a && h.st = 2) = some h →
    (s.ctl.devTime < h.startNs + 10000000 → Happens .proxyTimeout s s) ∧
    (h.startNs + 10000000 ≤ s.ctl.devTime → Happens .proxyTimeout s (State.atomDone { s with links := { s.links with
      hostAtoms := s.links.hostAtoms.map fun g => if g.id = h.id then { g with st := 3 } else g } } h.req h.lane_ (.error 0x9005)))) ∧
  (∀ s : State, let a : Ats := { id := s.uid, bus := s.ev.a, size := s.ev.b, priv := bit (s.hostWinOf s.ev.c) 2, startNs := s.ctl.devTime
                                 chunks := s.atsChunks s.ev.a s.ev.b
                                 atoms := (s.links.hostAtoms.filter fun h => h.st = 0 && s.ev.a ≤ h.bus && h.bus < s.ev.a + s.ev.b).map (·.id) }
    Happens .atsInvalidation s (State.atsSweep { s with uid := s.uid + 1, links := { s.links with
      ats := s.links.ats ++ [a], atc := s.links.atc.filter fun e => e.2 * 4096 + 4096 ≤ s.ev.a || s.ev.a + s.ev.b ≤ e.2 * 4096 } })) ∧
  (∀ s a, let x := s.atsSweep
    x.links.ats.find? (fun a => a.id = s.ev.a) = some a →
    ((a.priv = false ∨ s.ctl.devTime < a.startNs + 100000) → Happens .atsAbortTimeout s x) ∧
    (∀ c j, a.priv = true → a.startNs + 100000 ≤ s.ctl.devTime → x.atsLeft a = [c] → x.eng.jobs.find? (fun j => j.id = c.1) = some j →
      Happens .atsAbortTimeout s (x.endJob j 0x9003).atsSweep)) ∧
  (∀ s : State, (s.ev.b = 1 → ∃ t, Happens .hostDmaWrite s t ∧ t.mem.phys = s.mem.phys ∧ t.mem.host = cellsPut s.mem.host s.ev.a s.ev.data) ∧
    (∀ x ps, s.ev.b ≠ 1 → s.check 256 s.ev.c .wr (s.ev.a % 2 ^ 48) s.ev.data.length = (x, .ok ps) → (∀ p ∈ ps, p.leaf.kind ≠ 1) →
      (∀ p ∈ ps, x.pieceHeld p = false) → Happens .hostDmaWrite s (x.writePieces false 256 s.ev.c ps s.ev.data).1)) ∧
  (∀ s v, s.vf? s.ev.a = some v → let w := { v with entry := s.ev.v &&& 0x000003FF00000003#64 }
    (s.health.novig = true → Happens .vfTableWrite s s) ∧
    (s.health.novig = false → w.state = 3 → v.state ≠ 3 → Happens .vfTableWrite s (s.resetVf w)) ∧
    (s.health.novig = false → (w.state ≠ 3 ∨ v.state = 3) →
      ∃ t, Happens .vfTableWrite s t ∧ ∀ u ∈ t.links.vfs, u.num = v.num → u.entry = w.entry) ∧
    Happens .functionLevelReset s (if s.vfOff v then s else s.resetVf v) ∧
    (v.tenant = true → s.ev.b < 4 → Happens .tdiStateChange s (if s.vfOff v then s else s.setVf { v with tdi := s.ev.b }))) ∧
  (∀ s w v, s.links.evWait.find? (fun w => w.1 = s.ev.a) = some w → s.vf? s.ev.a = some v →
    let out := { s with links := { s.links with evWait := s.links.evWait.erase w } }
    ((v.evrEn = false ∨ v.state = 3) → Happens .eventRecordDelivery s (out.setVf (v.discard 1))) ∧
    (v.evrEn = true → v.state ≠ 3 → v.evrRoom = true → Happens .eventRecordDelivery s (out.writeEvent v w.2)) ∧
    (v.evrEn = true → v.state ≠ 3 → v.evrRoom = false → Happens .eventRecordDelivery s s)) ∧
  (∀ s : State, Happens .hostAtomicopToBar s s)

/-- R22, R92, R339, R345, R351, R381, R383: what reset leaves where the spec gives a reset value; and memory then lists nothing
and has its canonical form. That nothing is resident is assumption log 3. -/
def Obligations.ResetState : Prop :=
  let s := State.reset
  s.ctl.rmapGrace = 0x100000 ∧ s.ctl.chkFrac = 0 ∧ s.ctl.chkQthr = 4096 ∧ s.ctl.susp = List.replicate 256 0 ∧ s.ctl.pwrMode = 0 ∧
  s.ctl.cntCfg = List.replicate 64 0 ∧ s.ctl.cntVal = List.replicate 64 0 ∧ s.ctl.devTime = 0 ∧ s.ctl.oprVec = List.replicate 4 0 ∧
  s.ctl.opfBase = List.replicate 4 0 ∧ s.ctl.opfHead = List.replicate 4 0 ∧ s.ctl.opfTail = List.replicate 4 0 ∧
  bits (s.map.entry 0) 96 16 = 380 ∧ bits (s.map.entry 0) 88 8 = 3 ∧ bits (s.map.entry 0) 80 8 = 0xB1 ∧
  (∀ k, 380 ≤ k → s.map.entry k = 0) ∧
  s.threads = [] ∧ s.fgs = [] ∧ s.blocks = [] ∧ s.ctxs = [] ∧ s.sched.pool = [] ∧ s.sched.evq = [] ∧
  (∀ q ∈ s.sched.queues, q.en = false) ∧ (∀ e ∈ s.sched.slots, e.assigned = false ∧ e.closed = false ∧ e.moving = none ∧ e.rsv = none) ∧
  (∀ e ∈ s.sched.parts, e.tags = [] ∧ e.auto = false ∧ e.target = 0 ∧ e.deliv = 0) ∧ (∀ w ∈ s.links.ranks, w = 0) ∧ s.mem.keySlots = [] ∧
  (∀ v ∈ s.links.vfs, v.pxEn = false ∧ v.evrEn = false) ∧ s.mem.phys = [] ∧ s.mem.host = [] ∧ Memory.wf s.mem.phys = true ∧
  Memory.wf s.mem.host = true

/-- Every step keeps the canonical form of device memory and of host memory: equal contents are equal data (assumption log 10). -/
def Obligations.MemoryInvariant : Prop :=
  ∀ s t : State, Memory.wf s.mem.phys = true → Memory.wf s.mem.host = true → step s = .next t →
    Memory.wf t.mem.phys = true ∧ Memory.wf t.mem.host = true

/-- R56, R64, R69, R71 to R75: the words of a well-formed instruction decode to it, whatever follows them, with every operand as
it was; and what a decoder reads encodes to the same words, so that no bit is dropped. -/
def Obligations.EncodeDecode : Prop :=
  (∀ (i : Instr) r, i.wf = true → decode (encode i ++ r) = .ok (i, r)) ∧
  (∀ w r (i : Instr) r', decode (w :: r) = .ok (i, r') → encode i ++ r' = w :: r)

/-- The agenda's first act chooses path `p`, whose threads have no trap due, nor at their clause boundary anything else, and whose next
instruction is ready. -/
def Sys2Proof.Claim.Chosen (s : State) (a : Act) (r : List Act) (p : Path) : Prop :=
  s.agenda = a :: r ∧ p.words ≠ [] ∧ p.waiting = false ∧ (∀ l ∈ p.lanes, ∀ t, s.thread? p.fg l = some t → t.due = []) ∧
  (p.started = true ∨ ∀ l ∈ p.lanes, ∀ t, s.thread? p.fg l = some t → (State.toHead { s.tick with agenda := r } p).boundaryDue t = false) ∧
  s.ready p = true
/-- The state in which the chosen path issues: time has passed, the act is off the agenda, and the path heads the list. -/
def Sys2Proof.Claim.chosenAt (s : State) (r : List Act) (p : Path) : State := (State.toHead { s.tick with agenda := r } p).issueSlot p
/-- What the step adds to an act: the requests of other dies that have been performed are answered, and where the map has changed the
threads at a boundary take the milestone (assumption log 99). -/
def Sys2Proof.Claim.stepEnd (s : State) (o : Host.Outcome State Fault Refusal) : Host.Outcome State Fault Refusal :=
  match o with
  | .next t => .next (t.answerCross.milestones s.map.version)
  | .fault f => .fault f
  | .refused f => .refused f

/-- R61 to R63, R76, R80 to R83, R123, R142, R146, R237: a step on the agenda's path runs the instruction that the words of its
clause hold at its index, with the step's own additions: time passes, and the threads at a boundary take the milestone where
the map has changed. A lane group that gave up its slot lets a ready one issue. Of two paths of a lane group in one cycle the
one of the lower clause address is the first; the second reads the uniform and mask registers as they stood before the first,
and writes over it. A load or a store may be left to be performed later. The first word of a well-formed instruction that
stands after a header is that instruction. How time passes, what the agenda is, where withFetchWord places a word, that an
access may be left for later and that two paths issue in one step are the model's (assumption log 1, 2, 3, 4, 21, 99, 138). -/
def Obligations.StepRuns : Prop :=
  (∀ (s : State) k r p i n, Chosen s (.issue k) r p → s.paths.find? (fun p => p.id = k) = some p →
    clauseInstr p.words p.idx = some (i, n) →
    (s.mustYield p = false → step s = stepEnd s (exec i (chosenAt s r p))) ∧
    (s.mustYield p = true → step s = stepEnd s (.next (State.toHead { s.tick with agenda := r } p)))) ∧
  (∀ (s : State) k r p i n, Chosen s (.defer k) r p → s.paths.find? (fun p => p.id = k) = some p →
    clauseInstr p.words p.idx = some (i, n) → s.mustYield p = false →
    let x := chosenAt s r p
    (∀ f, i = .ld f → step s = stepEnd s (.next (issueLd f x State.postpone))) ∧
    (∀ f, i = .st f → step s = stepEnd s (.next (issueSt f x State.postpone))) ∧
    ((∀ f, i ≠ .ld f ∧ i ≠ .st f) → step s = stepEnd s (exec i x))) ∧
  (∀ (s : State) k l r p q0 i n a, Chosen s (.pair k l) r p → s.paths.find? (fun p => p.id = k) = some p →
    s.paths.find? (fun q => q.id = l) = some q0 → p.fg = q0.fg → p.lg = q0.lg → p.id ≠ q0.id → p.pc.toNat ≤ q0.pc.toNat →
    clauseInstr p.words p.idx = some (i, n) → s.mustYield p = false →
    let x := chosenAt s r p
    exec i x = .next a →
    (a.paths.find? (fun q => q.id = l) = none → step s = stepEnd s (.next a)) ∧
    (∀ q, a.paths.find? (fun q => q.id = l) = some q → q.idx ≠ q0.idx → step s = stepEnd s (.next a)) ∧
    (∀ q j m b c g h, a.paths.find? (fun q => q.id = l) = some q → q.idx = q0.idx → (a.withRegs q.fg x).pick l = .issue j b →
      clauseInstr q.words q.idx = some (j, m) → exec j b = .next c → c.fg? q.fg = some g → a.fg? q.fg = some h →
      let all := lanesMask ((x.living q.fg).map (·.lane))
      step s = stepEnd s (.next (c.setFg (g.merge h j (wentOn b c q (instrGuard q.words m j)) all))))) ∧
  (∀ (s : State) k l r p q, s.paths.find? (fun p => p.id = k) = some p → s.paths.find? (fun q => q.id = l) = some q → p.id ≠ q.id →
    let same := p.fg = q.fg ∧ p.lg = q.lg
    (same → q.pc.toNat < p.pc.toNat → step { s with agenda := .pair k l :: r } = step { s with agenda := .pair l k :: r }) ∧
    (¬same → step { s with agenda := .pair k l :: r } = step { s with agenda := .issue k :: r })) ∧
  (∀ h (i : Instr) r, i.wf = true → clauseInstr (h :: encode i ++ r) 1 = some (i, 1)) ∧
  (∀ (s : State) nbits w i, decodeTableWord nbits w = some i → (∀ p ∈ s.paths, p.id ≠ s.uid) → (∀ t ∈ s.threads, t.fg ≠ s.uid) →
    (∀ y ∈ s.yields, y.1 ≠ s.uid) →
    ∃ x : State, ∃ p, x.paths.head? = some p ∧ p.pc = 0x600000#64 ∧ p.idx = 1 ∧ p.lanes = [0] ∧
      step (s.withFetchWord nbits w) = stepEnd s (exec i x)) ∧
  (∀ (s : State) i a r, s.agenda = .ev i a :: r → i.isEvent = true →
    step s = stepEnd s (exec i { s.tick with agenda := r, ev := a }))

/-- R64 to R75: words that the spec writes out, bit by bit, stand for the instructions it names: one or more of each family. -/
def Obligations.DecodedWords : Prop :=
  decode [0x94787D02, 0x780F9080] = .ok (.mad { d := 240, a := 250, fn := 0, ib := 1, ic := 0, gn := 0, gp := 7, b := 128, c := 249, ty := 2,
                                                rm := 0, st := 0, u := 0 }, []) ∧
  decode [0x1A817842] = .ok (.shlS { d := 2, a := 240, z := 1, i := 2 }, []) ∧
  decode [0x90840004, 0x70400180] = .ok (.addc { d := 8, a := 0, fn := 1, ib := 0, ic := 0, gn := 0, gp := 7, b := 4, c := 0, ty := 6,
                                                 rm := 0, st := 0, u := 0 }, []) ∧
  decode [0x287FFFF7] = .ok (.braShort { off := -9 }, []) ∧
  decode [0xA800000A, 0] = .ok (.bra { off := 10, gn := 0, gp := 0, x := 0, fn := 0, low := 0 }, []) ∧
  decode [0xAE818100, 0x80000180] = .ok (.scan { d := 3, a := 2, fn := 0, ib := 0, ic := 0, gn := 1, gp := 0, b := 0, c := 0, ty := 6,
                                                 rm := 0, st := 0, u := 0 }, []) ∧
  decode [0xC4840200, 0x70000C04] = .ok (.pack8 { d := 8, a := 4, fn := 0, ib := 0, ic := 0, gn := 0, gp := 7, b := 0, c := 0, ty := 0x30,
                                                  rm := 0, st := 1, u := 0 }, []) ∧
  decode [0xC9840080, 0x71900010] = .ok (.sts { d := 8, a := 1, sb := 0, la := 0, gn := 0, gp := 7, ty := 6, u := 0, vn := 2, off := 16 }, []) ∧
  decode [0xD0820190, 0x70601711] = .ok (.atomSp { d := 4, a := 3, sb := 1, la := 0, gn := 0, gp := 7, b := 6, c := 1, tail := 0x711 }, []) ∧
  decode [0xD87C0400, 0x00209101] = .ok (.cpb { d := 248, a := 8, sb := 0, la := 0, gn := 0, gp := 0, b := 2, c := 9, tail := 0x101 }, []) ∧
  decode [0x81810380, 0x70300000] = .ok (.crd { d := 2, a := 7, fn := 0, gn := 0, gp := 7, cr := 0x030, imm := 0 }, []) ∧
  decode [0xCC000059, 0xBF8F8098] = .ok (.fence { d := 0, a := 0, sb := 5, la := 9, gn := 1, gp := 3, b := 248, c := 248, tail := 0x98 }, []) ∧
  decode [0xE3FC04D9, 0xBF8F8F00] = .ok (.mma { d := 248, a := 9, sb := 5, la := 9, gn := 1, gp := 3, b := 248, c := 248, tail := 0xF00 }, []) ∧
  decode [0xE8028459, 0xBF8F8000] = .ok (.nlaunch { d := 5, a := 8, sb := 5, la := 9, gn := 1, gp := 3, b := 248, c := 248, tail := 0x0 }, []) ∧
  decode [0x8C020100, 0x70000000] = .ok (.rankmapGet { d := 4, a := 2, fn := 0, gn := 0, gp := 7, cr := 0, imm := 0 }, [])
end

