-- ==== Sys2Proof/Laws/State.lean ====
section
/-! SUPPORT. One lemma per field per update of the state, so that no proof unfolds a record update. -/
namespace Sys2Proof.Machine

@[simp] theorem State.setThread_fgs (s : State) (t : Thread) : (s.setThread t).fgs = s.fgs := rfl
@[simp] theorem State.setThread_blocks (s : State) (t : Thread) : (s.setThread t).blocks = s.blocks := rfl
@[simp] theorem State.setThread_paths (s : State) (t : Thread) : (s.setThread t).paths = s.paths := rfl
@[simp] theorem State.setThread_insts (s : State) (t : Thread) : (s.setThread t).insts = s.insts := rfl
@[simp] theorem State.setThread_ctxs (s : State) (t : Thread) : (s.setThread t).ctxs = s.ctxs := rfl
@[simp] theorem State.setThread_ctl (s : State) (t : Thread) : (s.setThread t).ctl = s.ctl := rfl
@[simp] theorem State.setThread_map (s : State) (t : Thread) : (s.setThread t).map = s.map := rfl
@[simp] theorem State.setThread_opr (s : State) (t : Thread) : (s.setThread t).opr = s.opr := rfl
@[simp] theorem State.setThread_mem (s : State) (t : Thread) : (s.setThread t).mem = s.mem := rfl
@[simp] theorem State.setThread_sync (s : State) (t : Thread) : (s.setThread t).sync = s.sync := rfl
@[simp] theorem State.setThread_links (s : State) (t : Thread) : (s.setThread t).links = s.links := rfl
@[simp] theorem State.setThread_health (s : State) (t : Thread) : (s.setThread t).health = s.health := rfl
@[simp] theorem State.setThread_eng (s : State) (t : Thread) : (s.setThread t).eng = s.eng := rfl
@[simp] theorem State.setThread_sched (s : State) (t : Thread) : (s.setThread t).sched = s.sched := rfl
@[simp] theorem State.setThread_images (s : State) (t : Thread) : (s.setThread t).images = s.images := rfl
@[simp] theorem State.setThread_fills (s : State) (t : Thread) : (s.setThread t).fills = s.fills := rfl
@[simp] theorem State.setThread_yields (s : State) (t : Thread) : (s.setThread t).yields = s.yields := rfl
@[simp] theorem State.setThread_ev (s : State) (t : Thread) : (s.setThread t).ev = s.ev := rfl
@[simp] theorem State.setThread_agenda (s : State) (t : Thread) : (s.setThread t).agenda = s.agenda := rfl
@[simp] theorem State.setThread_ticks (s : State) (t : Thread) : (s.setThread t).ticks = s.ticks := rfl
@[simp] theorem State.setThread_fresh (s : State) (t : Thread) : (s.setThread t).fresh = s.fresh := rfl
@[simp] theorem State.setThread_uid (s : State) (t : Thread) : (s.setThread t).uid = s.uid := rfl

@[simp] theorem State.modThread_fgs (s : State) (fg lane : Nat) (f : Thread → Thread) : (s.modThread fg lane f).fgs = s.fgs := rfl
@[simp] theorem State.modThread_blocks (s : State) (fg lane : Nat) (f : Thread → Thread) : (s.modThread fg lane f).blocks = s.blocks := rfl
@[simp] theorem State.modThread_paths (s : State) (fg lane : Nat) (f : Thread → Thread) : (s.modThread fg lane f).paths = s.paths := rfl
@[simp] theorem State.modThread_insts (s : State) (fg lane : Nat) (f : Thread → Thread) : (s.modThread fg lane f).insts = s.insts := rfl
@[simp] theorem State.modThread_ctxs (s : State) (fg lane : Nat) (f : Thread → Thread) : (s.modThread fg lane f).ctxs = s.ctxs := rfl
@[simp] theorem State.modThread_ctl (s : State) (fg lane : Nat) (f : Thread → Thread) : (s.modThread fg lane f).ctl = s.ctl := rfl
@[simp] theorem State.modThread_map (s : State) (fg lane : Nat) (f : Thread → Thread) : (s.modThread fg lane f).map = s.map := rfl
@[simp] theorem State.modThread_opr (s : State) (fg lane : Nat) (f : Thread → Thread) : (s.modThread fg lane f).opr = s.opr := rfl
@[simp] theorem State.modThread_mem (s : State) (fg lane : Nat) (f : Thread → Thread) : (s.modThread fg lane f).mem = s.mem := rfl
@[simp] theorem State.modThread_sync (s : State) (fg lane : Nat) (f : Thread → Thread) : (s.modThread fg lane f).sync = s.sync := rfl
@[simp] theorem State.modThread_links (s : State) (fg lane : Nat) (f : Thread → Thread) : (s.modThread fg lane f).links = s.links := rfl
@[simp] theorem State.modThread_health (s : State) (fg lane : Nat) (f : Thread → Thread) : (s.modThread fg lane f).health = s.health := rfl
@[simp] theorem State.modThread_eng (s : State) (fg lane : Nat) (f : Thread → Thread) : (s.modThread fg lane f).eng = s.eng := rfl
@[simp] theorem State.modThread_sched (s : State) (fg lane : Nat) (f : Thread → Thread) : (s.modThread fg lane f).sched = s.sched := rfl
@[simp] theorem State.modThread_images (s : State) (fg lane : Nat) (f : Thread → Thread) : (s.modThread fg lane f).images = s.images := rfl
@[simp] theorem State.modThread_fills (s : State) (fg lane : Nat) (f : Thread → Thread) : (s.modThread fg lane f).fills = s.fills := rfl
@[simp] theorem State.modThread_yields (s : State) (fg lane : Nat) (f : Thread → Thread) : (s.modThread fg lane f).yields = s.yields := rfl
@[simp] theorem State.modThread_ev (s : State) (fg lane : Nat) (f : Thread → Thread) : (s.modThread fg lane f).ev = s.ev := rfl
@[simp] theorem State.modThread_agenda (s : State) (fg lane : Nat) (f : Thread → Thread) : (s.modThread fg lane f).agenda = s.agenda := rfl
@[simp] theorem State.modThread_ticks (s : State) (fg lane : Nat) (f : Thread → Thread) : (s.modThread fg lane f).ticks = s.ticks := rfl
@[simp] theorem State.modThread_fresh (s : State) (fg lane : Nat) (f : Thread → Thread) : (s.modThread fg lane f).fresh = s.fresh := rfl
@[simp] theorem State.modThread_uid (s : State) (fg lane : Nat) (f : Thread → Thread) : (s.modThread fg lane f).uid = s.uid := rfl

@[simp] theorem State.setFg_threads (s : State) (g : FileGroup) : (s.setFg g).threads = s.threads := rfl
@[simp] theorem State.setFg_blocks (s : State) (g : FileGroup) : (s.setFg g).blocks = s.blocks := rfl
@[simp] theorem State.setFg_paths (s : State) (g : FileGroup) : (s.setFg g).paths = s.paths := rfl
@[simp] theorem State.setFg_insts (s : State) (g : FileGroup) : (s.setFg g).insts = s.insts := rfl
@[simp] theorem State.setFg_ctxs (s : State) (g : FileGroup) : (s.setFg g).ctxs = s.ctxs := rfl
@[simp] theorem State.setFg_ctl (s : State) (g : FileGroup) : (s.setFg g).ctl = s.ctl := rfl
@[simp] theorem State.setFg_map (s : State) (g : FileGroup) : (s.setFg g).map = s.map := rfl
@[simp] theorem State.setFg_opr (s : State) (g : FileGroup) : (s.setFg g).opr = s.opr := rfl
@[simp] theorem State.setFg_mem (s : State) (g : FileGroup) : (s.setFg g).mem = s.mem := rfl
@[simp] theorem State.setFg_sync (s : State) (g : FileGroup) : (s.setFg g).sync = s.sync := rfl
@[simp] theorem State.setFg_links (s : State) (g : FileGroup) : (s.setFg g).links = s.links := rfl
@[simp] theorem State.setFg_health (s : State) (g : FileGroup) : (s.setFg g).health = s.health := rfl
@[simp] theorem State.setFg_eng (s : State) (g : FileGroup) : (s.setFg g).eng = s.eng := rfl
@[simp] theorem State.setFg_sched (s : State) (g : FileGroup) : (s.setFg g).sched = s.sched := rfl
@[simp] theorem State.setFg_images (s : State) (g : FileGroup) : (s.setFg g).images = s.images := rfl
@[simp] theorem State.setFg_fills (s : State) (g : FileGroup) : (s.setFg g).fills = s.fills := rfl
@[simp] theorem State.setFg_yields (s : State) (g : FileGroup) : (s.setFg g).yields = s.yields := rfl
@[simp] theorem State.setFg_ev (s : State) (g : FileGroup) : (s.setFg g).ev = s.ev := rfl
@[simp] theorem State.setFg_agenda (s : State) (g : FileGroup) : (s.setFg g).agenda = s.agenda := rfl
@[simp] theorem State.setFg_ticks (s : State) (g : FileGroup) : (s.setFg g).ticks = s.ticks := rfl
@[simp] theorem State.setFg_fresh (s : State) (g : FileGroup) : (s.setFg g).fresh = s.fresh := rfl
@[simp] theorem State.setFg_uid (s : State) (g : FileGroup) : (s.setFg g).uid = s.uid := rfl

@[simp] theorem State.setBlock_threads (s : State) (b : Block) : (s.setBlock b).threads = s.threads := rfl
@[simp] theorem State.setBlock_fgs (s : State) (b : Block) : (s.setBlock b).fgs = s.fgs := rfl
@[simp] theorem State.setBlock_paths (s : State) (b : Block) : (s.setBlock b).paths = s.paths := rfl
@[simp] theorem State.setBlock_insts (s : State) (b : Block) : (s.setBlock b).insts = s.insts := rfl
@[simp] theorem State.setBlock_ctxs (s : State) (b : Block) : (s.setBlock b).ctxs = s.ctxs := rfl
@[simp] theorem State.setBlock_ctl (s : State) (b : Block) : (s.setBlock b).ctl = s.ctl := rfl
@[simp] theorem State.setBlock_map (s : State) (b : Block) : (s.setBlock b).map = s.map := rfl
@[simp] theorem State.setBlock_opr (s : State) (b : Block) : (s.setBlock b).opr = s.opr := rfl
@[simp] theorem State.setBlock_mem (s : State) (b : Block) : (s.setBlock b).mem = s.mem := rfl
@[simp] theorem State.setBlock_sync (s : State) (b : Block) : (s.setBlock b).sync = s.sync := rfl
@[simp] theorem State.setBlock_links (s : State) (b : Block) : (s.setBlock b).links = s.links := rfl
@[simp] theorem State.setBlock_health (s : State) (b : Block) : (s.setBlock b).health = s.health := rfl
@[simp] theorem State.setBlock_eng (s : State) (b : Block) : (s.setBlock b).eng = s.eng := rfl
@[simp] theorem State.setBlock_sched (s : State) (b : Block) : (s.setBlock b).sched = s.sched := rfl
@[simp] theorem State.setBlock_images (s : State) (b : Block) : (s.setBlock b).images = s.images := rfl
@[simp] theorem State.setBlock_fills (s : State) (b : Block) : (s.setBlock b).fills = s.fills := rfl
@[simp] theorem State.setBlock_yields (s : State) (b : Block) : (s.setBlock b).yields = s.yields := rfl
@[simp] theorem State.setBlock_ev (s : State) (b : Block) : (s.setBlock b).ev = s.ev := rfl
@[simp] theorem State.setBlock_agenda (s : State) (b : Block) : (s.setBlock b).agenda = s.agenda := rfl
@[simp] theorem State.setBlock_ticks (s : State) (b : Block) : (s.setBlock b).ticks = s.ticks := rfl
@[simp] theorem State.setBlock_fresh (s : State) (b : Block) : (s.setBlock b).fresh = s.fresh := rfl
@[simp] theorem State.setBlock_uid (s : State) (b : Block) : (s.setBlock b).uid = s.uid := rfl

@[simp] theorem State.modCtx_threads (s : State) (asid : Nat) (f : Ctx → Ctx) : (s.modCtx asid f).threads = s.threads := rfl
@[simp] theorem State.modCtx_fgs (s : State) (asid : Nat) (f : Ctx → Ctx) : (s.modCtx asid f).fgs = s.fgs := rfl
@[simp] theorem State.modCtx_blocks (s : State) (asid : Nat) (f : Ctx → Ctx) : (s.modCtx asid f).blocks = s.blocks := rfl
@[simp] theorem State.modCtx_paths (s : State) (asid : Nat) (f : Ctx → Ctx) : (s.modCtx asid f).paths = s.paths := rfl
@[simp] theorem State.modCtx_insts (s : State) (asid : Nat) (f : Ctx → Ctx) : (s.modCtx asid f).insts = s.insts := rfl
@[simp] theorem State.modCtx_ctl (s : State) (asid : Nat) (f : Ctx → Ctx) : (s.modCtx asid f).ctl = s.ctl := rfl
@[simp] theorem State.modCtx_map (s : State) (asid : Nat) (f : Ctx → Ctx) : (s.modCtx asid f).map = s.map := rfl
@[simp] theorem State.modCtx_opr (s : State) (asid : Nat) (f : Ctx → Ctx) : (s.modCtx asid f).opr = s.opr := rfl
@[simp] theorem State.modCtx_mem (s : State) (asid : Nat) (f : Ctx → Ctx) : (s.modCtx asid f).mem = s.mem := rfl
@[simp] theorem State.modCtx_sync (s : State) (asid : Nat) (f : Ctx → Ctx) : (s.modCtx asid f).sync = s.sync := rfl
@[simp] theorem State.modCtx_links (s : State) (asid : Nat) (f : Ctx → Ctx) : (s.modCtx asid f).links = s.links := rfl
@[simp] theorem State.modCtx_health (s : State) (asid : Nat) (f : Ctx → Ctx) : (s.modCtx asid f).health = s.health := rfl
@[simp] theorem State.modCtx_eng (s : State) (asid : Nat) (f : Ctx → Ctx) : (s.modCtx asid f).eng = s.eng := rfl
@[simp] theorem State.modCtx_sched (s : State) (asid : Nat) (f : Ctx → Ctx) : (s.modCtx asid f).sched = s.sched := rfl
@[simp] theorem State.modCtx_images (s : State) (asid : Nat) (f : Ctx → Ctx) : (s.modCtx asid f).images = s.images := rfl
@[simp] theorem State.modCtx_fills (s : State) (asid : Nat) (f : Ctx → Ctx) : (s.modCtx asid f).fills = s.fills := rfl
@[simp] theorem State.modCtx_yields (s : State) (asid : Nat) (f : Ctx → Ctx) : (s.modCtx asid f).yields = s.yields := rfl
@[simp] theorem State.modCtx_ev (s : State) (asid : Nat) (f : Ctx → Ctx) : (s.modCtx asid f).ev = s.ev := rfl
@[simp] theorem State.modCtx_agenda (s : State) (asid : Nat) (f : Ctx → Ctx) : (s.modCtx asid f).agenda = s.agenda := rfl
@[simp] theorem State.modCtx_ticks (s : State) (asid : Nat) (f : Ctx → Ctx) : (s.modCtx asid f).ticks = s.ticks := rfl
@[simp] theorem State.modCtx_fresh (s : State) (asid : Nat) (f : Ctx → Ctx) : (s.modCtx asid f).fresh = s.fresh := rfl
@[simp] theorem State.modCtx_uid (s : State) (asid : Nat) (f : Ctx → Ctx) : (s.modCtx asid f).uid = s.uid := rfl

@[simp] theorem State.setPath_threads (s : State) (p : Path) : (s.setPath p).threads = s.threads := rfl
@[simp] theorem State.setPath_fgs (s : State) (p : Path) : (s.setPath p).fgs = s.fgs := rfl
@[simp] theorem State.setPath_blocks (s : State) (p : Path) : (s.setPath p).blocks = s.blocks := rfl
@[simp] theorem State.setPath_insts (s : State) (p : Path) : (s.setPath p).insts = s.insts := rfl
@[simp] theorem State.setPath_ctxs (s : State) (p : Path) : (s.setPath p).ctxs = s.ctxs := rfl
@[simp] theorem State.setPath_ctl (s : State) (p : Path) : (s.setPath p).ctl = s.ctl := rfl
@[simp] theorem State.setPath_map (s : State) (p : Path) : (s.setPath p).map = s.map := rfl
@[simp] theorem State.setPath_opr (s : State) (p : Path) : (s.setPath p).opr = s.opr := rfl
@[simp] theorem State.setPath_mem (s : State) (p : Path) : (s.setPath p).mem = s.mem := rfl
@[simp] theorem State.setPath_sync (s : State) (p : Path) : (s.setPath p).sync = s.sync := rfl
@[simp] theorem State.setPath_links (s : State) (p : Path) : (s.setPath p).links = s.links := rfl
@[simp] theorem State.setPath_health (s : State) (p : Path) : (s.setPath p).health = s.health := rfl
@[simp] theorem State.setPath_eng (s : State) (p : Path) : (s.setPath p).eng = s.eng := rfl
@[simp] theorem State.setPath_sched (s : State) (p : Path) : (s.setPath p).sched = s.sched := rfl
@[simp] theorem State.setPath_images (s : State) (p : Path) : (s.setPath p).images = s.images := rfl
@[simp] theorem State.setPath_fills (s : State) (p : Path) : (s.setPath p).fills = s.fills := rfl
@[simp] theorem State.setPath_yields (s : State) (p : Path) : (s.setPath p).yields = s.yields := rfl
@[simp] theorem State.setPath_ev (s : State) (p : Path) : (s.setPath p).ev = s.ev := rfl
@[simp] theorem State.setPath_agenda (s : State) (p : Path) : (s.setPath p).agenda = s.agenda := rfl
@[simp] theorem State.setPath_ticks (s : State) (p : Path) : (s.setPath p).ticks = s.ticks := rfl
@[simp] theorem State.setPath_fresh (s : State) (p : Path) : (s.setPath p).fresh = s.fresh := rfl
@[simp] theorem State.setPath_uid (s : State) (p : Path) : (s.setPath p).uid = s.uid := rfl

@[simp] theorem State.dropPath_threads (s : State) (id : Nat) : (s.dropPath id).threads = s.threads := rfl
@[simp] theorem State.dropPath_fgs (s : State) (id : Nat) : (s.dropPath id).fgs = s.fgs := rfl
@[simp] theorem State.dropPath_blocks (s : State) (id : Nat) : (s.dropPath id).blocks = s.blocks := rfl
@[simp] theorem State.dropPath_insts (s : State) (id : Nat) : (s.dropPath id).insts = s.insts := rfl
@[simp] theorem State.dropPath_ctxs (s : State) (id : Nat) : (s.dropPath id).ctxs = s.ctxs := rfl
@[simp] theorem State.dropPath_ctl (s : State) (id : Nat) : (s.dropPath id).ctl = s.ctl := rfl
@[simp] theorem State.dropPath_map (s : State) (id : Nat) : (s.dropPath id).map = s.map := rfl
@[simp] theorem State.dropPath_opr (s : State) (id : Nat) : (s.dropPath id).opr = s.opr := rfl
@[simp] theorem State.dropPath_mem (s : State) (id : Nat) : (s.dropPath id).mem = s.mem := rfl
@[simp] theorem State.dropPath_sync (s : State) (id : Nat) : (s.dropPath id).sync = s.sync := rfl
@[simp] theorem State.dropPath_links (s : State) (id : Nat) : (s.dropPath id).links = s.links := rfl
@[simp] theorem State.dropPath_health (s : State) (id : Nat) : (s.dropPath id).health = s.health := rfl
@[simp] theorem State.dropPath_eng (s : State) (id : Nat) : (s.dropPath id).eng = s.eng := rfl
@[simp] theorem State.dropPath_sched (s : State) (id : Nat) : (s.dropPath id).sched = s.sched := rfl
@[simp] theorem State.dropPath_images (s : State) (id : Nat) : (s.dropPath id).images = s.images := rfl
@[simp] theorem State.dropPath_fills (s : State) (id : Nat) : (s.dropPath id).fills = s.fills := rfl
@[simp] theorem State.dropPath_yields (s : State) (id : Nat) : (s.dropPath id).yields = s.yields := rfl
@[simp] theorem State.dropPath_ev (s : State) (id : Nat) : (s.dropPath id).ev = s.ev := rfl
@[simp] theorem State.dropPath_agenda (s : State) (id : Nat) : (s.dropPath id).agenda = s.agenda := rfl
@[simp] theorem State.dropPath_ticks (s : State) (id : Nat) : (s.dropPath id).ticks = s.ticks := rfl
@[simp] theorem State.dropPath_fresh (s : State) (id : Nat) : (s.dropPath id).fresh = s.fresh := rfl
@[simp] theorem State.dropPath_uid (s : State) (id : Nat) : (s.dropPath id).uid = s.uid := rfl

@[simp] theorem State.setInst_threads (s : State) (i : Inst) : (s.setInst i).threads = s.threads := rfl
@[simp] theorem State.setInst_fgs (s : State) (i : Inst) : (s.setInst i).fgs = s.fgs := rfl
@[simp] theorem State.setInst_blocks (s : State) (i : Inst) : (s.setInst i).blocks = s.blocks := rfl
@[simp] theorem State.setInst_paths (s : State) (i : Inst) : (s.setInst i).paths = s.paths := rfl
@[simp] theorem State.setInst_ctxs (s : State) (i : Inst) : (s.setInst i).ctxs = s.ctxs := rfl
@[simp] theorem State.setInst_ctl (s : State) (i : Inst) : (s.setInst i).ctl = s.ctl := rfl
@[simp] theorem State.setInst_map (s : State) (i : Inst) : (s.setInst i).map = s.map := rfl
@[simp] theorem State.setInst_opr (s : State) (i : Inst) : (s.setInst i).opr = s.opr := rfl
@[simp] theorem State.setInst_mem (s : State) (i : Inst) : (s.setInst i).mem = s.mem := rfl
@[simp] theorem State.setInst_sync (s : State) (i : Inst) : (s.setInst i).sync = s.sync := rfl
@[simp] theorem State.setInst_links (s : State) (i : Inst) : (s.setInst i).links = s.links := rfl
@[simp] theorem State.setInst_health (s : State) (i : Inst) : (s.setInst i).health = s.health := rfl
@[simp] theorem State.setInst_eng (s : State) (i : Inst) : (s.setInst i).eng = s.eng := rfl
@[simp] theorem State.setInst_sched (s : State) (i : Inst) : (s.setInst i).sched = s.sched := rfl
@[simp] theorem State.setInst_images (s : State) (i : Inst) : (s.setInst i).images = s.images := rfl
@[simp] theorem State.setInst_fills (s : State) (i : Inst) : (s.setInst i).fills = s.fills := rfl
@[simp] theorem State.setInst_yields (s : State) (i : Inst) : (s.setInst i).yields = s.yields := rfl
@[simp] theorem State.setInst_ev (s : State) (i : Inst) : (s.setInst i).ev = s.ev := rfl
@[simp] theorem State.setInst_agenda (s : State) (i : Inst) : (s.setInst i).agenda = s.agenda := rfl
@[simp] theorem State.setInst_ticks (s : State) (i : Inst) : (s.setInst i).ticks = s.ticks := rfl
@[simp] theorem State.setInst_fresh (s : State) (i : Inst) : (s.setInst i).fresh = s.fresh := rfl
@[simp] theorem State.setInst_uid (s : State) (i : Inst) : (s.setInst i).uid = s.uid := rfl

@[simp] theorem State.countEv_threads (s : State) (a e n : Nat) : (s.countEv a e n).threads = s.threads := rfl
@[simp] theorem State.countEv_fgs (s : State) (a e n : Nat) : (s.countEv a e n).fgs = s.fgs := rfl
@[simp] theorem State.countEv_blocks (s : State) (a e n : Nat) : (s.countEv a e n).blocks = s.blocks := rfl
@[simp] theorem State.countEv_paths (s : State) (a e n : Nat) : (s.countEv a e n).paths = s.paths := rfl
@[simp] theorem State.countEv_insts (s : State) (a e n : Nat) : (s.countEv a e n).insts = s.insts := rfl
@[simp] theorem State.countEv_ctxs (s : State) (a e n : Nat) : (s.countEv a e n).ctxs = s.ctxs := rfl
@[simp] theorem State.countEv_map (s : State) (a e n : Nat) : (s.countEv a e n).map = s.map := rfl
@[simp] theorem State.countEv_opr (s : State) (a e n : Nat) : (s.countEv a e n).opr = s.opr := rfl
@[simp] theorem State.countEv_mem (s : State) (a e n : Nat) : (s.countEv a e n).mem = s.mem := rfl
@[simp] theorem State.countEv_sync (s : State) (a e n : Nat) : (s.countEv a e n).sync = s.sync := rfl
@[simp] theorem State.countEv_links (s : State) (a e n : Nat) : (s.countEv a e n).links = s.links := rfl
@[simp] theorem State.countEv_health (s : State) (a e n : Nat) : (s.countEv a e n).health = s.health := rfl
@[simp] theorem State.countEv_eng (s : State) (a e n : Nat) : (s.countEv a e n).eng = s.eng := rfl
@[simp] theorem State.countEv_sched (s : State) (a e n : Nat) : (s.countEv a e n).sched = s.sched := rfl
@[simp] theorem State.countEv_images (s : State) (a e n : Nat) : (s.countEv a e n).images = s.images := rfl
@[simp] theorem State.countEv_fills (s : State) (a e n : Nat) : (s.countEv a e n).fills = s.fills := rfl
@[simp] theorem State.countEv_yields (s : State) (a e n : Nat) : (s.countEv a e n).yields = s.yields := rfl
@[simp] theorem State.countEv_ev (s : State) (a e n : Nat) : (s.countEv a e n).ev = s.ev := rfl
@[simp] theorem State.countEv_agenda (s : State) (a e n : Nat) : (s.countEv a e n).agenda = s.agenda := rfl
@[simp] theorem State.countEv_ticks (s : State) (a e n : Nat) : (s.countEv a e n).ticks = s.ticks := rfl
@[simp] theorem State.countEv_fresh (s : State) (a e n : Nat) : (s.countEv a e n).fresh = s.fresh := rfl
@[simp] theorem State.countEv_uid (s : State) (a e n : Nat) : (s.countEv a e n).uid = s.uid := rfl

@[simp] theorem State.record_threads (s : State) (r : OprRec) : (s.record r).threads = s.threads := rfl
@[simp] theorem State.record_fgs (s : State) (r : OprRec) : (s.record r).fgs = s.fgs := rfl
@[simp] theorem State.record_blocks (s : State) (r : OprRec) : (s.record r).blocks = s.blocks := rfl
@[simp] theorem State.record_paths (s : State) (r : OprRec) : (s.record r).paths = s.paths := rfl
@[simp] theorem State.record_insts (s : State) (r : OprRec) : (s.record r).insts = s.insts := rfl
@[simp] theorem State.record_ctxs (s : State) (r : OprRec) : (s.record r).ctxs = s.ctxs := rfl
@[simp] theorem State.record_ctl (s : State) (r : OprRec) : (s.record r).ctl = s.ctl := rfl
@[simp] theorem State.record_map (s : State) (r : OprRec) : (s.record r).map = s.map := rfl
@[simp] theorem State.record_mem (s : State) (r : OprRec) : (s.record r).mem = s.mem := rfl
@[simp] theorem State.record_sync (s : State) (r : OprRec) : (s.record r).sync = s.sync := rfl
@[simp] theorem State.record_links (s : State) (r : OprRec) : (s.record r).links = s.links := rfl
@[simp] theorem State.record_health (s : State) (r : OprRec) : (s.record r).health = s.health := rfl
@[simp] theorem State.record_eng (s : State) (r : OprRec) : (s.record r).eng = s.eng := rfl
@[simp] theorem State.record_sched (s : State) (r : OprRec) : (s.record r).sched = s.sched := rfl
@[simp] theorem State.record_images (s : State) (r : OprRec) : (s.record r).images = s.images := rfl
@[simp] theorem State.record_fills (s : State) (r : OprRec) : (s.record r).fills = s.fills := rfl
@[simp] theorem State.record_yields (s : State) (r : OprRec) : (s.record r).yields = s.yields := rfl
@[simp] theorem State.record_ev (s : State) (r : OprRec) : (s.record r).ev = s.ev := rfl
@[simp] theorem State.record_agenda (s : State) (r : OprRec) : (s.record r).agenda = s.agenda := rfl
@[simp] theorem State.record_ticks (s : State) (r : OprRec) : (s.record r).ticks = s.ticks := rfl
@[simp] theorem State.record_fresh (s : State) (r : OprRec) : (s.record r).fresh = s.fresh := rfl
@[simp] theorem State.record_uid (s : State) (r : OprRec) : (s.record r).uid = s.uid := rfl

@[simp] theorem State.rest_fgs (s : State) : s.rest.fgs = s.fgs := rfl
@[simp] theorem State.rest_blocks (s : State) : s.rest.blocks = s.blocks := rfl
@[simp] theorem State.rest_ctxs (s : State) : s.rest.ctxs = s.ctxs := rfl
@[simp] theorem State.rest_map (s : State) : s.rest.map = s.map := rfl
@[simp] theorem State.rest_opr (s : State) : s.rest.opr = s.opr := rfl
@[simp] theorem State.rest_mem (s : State) : s.rest.mem = s.mem := rfl
@[simp] theorem State.rest_sync (s : State) : s.rest.sync = s.sync := rfl
@[simp] theorem State.rest_links (s : State) : s.rest.links = s.links := rfl
@[simp] theorem State.rest_health (s : State) : s.rest.health = s.health := rfl
@[simp] theorem State.rest_eng (s : State) : s.rest.eng = s.eng := rfl
@[simp] theorem State.rest_sched (s : State) : s.rest.sched = s.sched := rfl
@[simp] theorem State.rest_images (s : State) : s.rest.images = s.images := rfl
@[simp] theorem State.rest_fills (s : State) : s.rest.fills = s.fills := rfl
@[simp] theorem State.rest_ev (s : State) : s.rest.ev = s.ev := rfl
@[simp] theorem State.rest_agenda (s : State) : s.rest.agenda = s.agenda := rfl
@[simp] theorem State.rest_ticks (s : State) : s.rest.ticks = s.ticks := rfl
@[simp] theorem State.rest_fresh (s : State) : s.rest.fresh = s.fresh := rfl

/-! The requests between the dies stand in the links: nothing else of the state has them. -/
@[simp] theorem State.setCross_threads (s : State) (l : List Cross) : (s.setCross l).threads = s.threads := rfl
@[simp] theorem State.setCross_fgs (s : State) (l : List Cross) : (s.setCross l).fgs = s.fgs := rfl
@[simp] theorem State.setCross_blocks (s : State) (l : List Cross) : (s.setCross l).blocks = s.blocks := rfl
@[simp] theorem State.setCross_paths (s : State) (l : List Cross) : (s.setCross l).paths = s.paths := rfl
@[simp] theorem State.setCross_insts (s : State) (l : List Cross) : (s.setCross l).insts = s.insts := rfl
@[simp] theorem State.setCross_ctxs (s : State) (l : List Cross) : (s.setCross l).ctxs = s.ctxs := rfl
@[simp] theorem State.setCross_ctl (s : State) (l : List Cross) : (s.setCross l).ctl = s.ctl := rfl
@[simp] theorem State.setCross_map (s : State) (l : List Cross) : (s.setCross l).map = s.map := rfl
@[simp] theorem State.setCross_opr (s : State) (l : List Cross) : (s.setCross l).opr = s.opr := rfl
@[simp] theorem State.setCross_mem (s : State) (l : List Cross) : (s.setCross l).mem = s.mem := rfl
@[simp] theorem State.setCross_sync (s : State) (l : List Cross) : (s.setCross l).sync = s.sync := rfl
@[simp] theorem State.setCross_health (s : State) (l : List Cross) : (s.setCross l).health = s.health := rfl
@[simp] theorem State.setCross_eng (s : State) (l : List Cross) : (s.setCross l).eng = s.eng := rfl
@[simp] theorem State.setCross_sched (s : State) (l : List Cross) : (s.setCross l).sched = s.sched := rfl
@[simp] theorem State.setCross_images (s : State) (l : List Cross) : (s.setCross l).images = s.images := rfl
@[simp] theorem State.setCross_fills (s : State) (l : List Cross) : (s.setCross l).fills = s.fills := rfl
@[simp] theorem State.setCross_yields (s : State) (l : List Cross) : (s.setCross l).yields = s.yields := rfl
@[simp] theorem State.setCross_ev (s : State) (l : List Cross) : (s.setCross l).ev = s.ev := rfl
@[simp] theorem State.setCross_agenda (s : State) (l : List Cross) : (s.setCross l).agenda = s.agenda := rfl
@[simp] theorem State.setCross_ticks (s : State) (l : List Cross) : (s.setCross l).ticks = s.ticks := rfl
@[simp] theorem State.setCross_fresh (s : State) (l : List Cross) : (s.setCross l).fresh = s.fresh := rfl
@[simp] theorem State.setCross_uid (s : State) (l : List Cross) : (s.setCross l).uid = s.uid := rfl
@[simp] theorem State.setCross_cross (s : State) (l : List Cross) : (s.setCross l).links.cross = l := rfl
@[simp] theorem State.setCross_ucie (s : State) (l : List Cross) : (s.setCross l).links.ucie = s.links.ucie := rfl
@[simp] theorem State.setCross_out (s : State) (l : List Cross) : (s.setCross l).links.out = s.links.out := rfl
@[simp] theorem State.setCross_ports (s : State) (l : List Cross) : (s.setCross l).links.ports = s.links.ports := rfl

end Sys2Proof.Machine
end

