-- ==== Sys2Proof/Laws/Issue.lean ====
section
/-! SUPPORT. What issuing an instruction does, said once: a meaning that changes its own thread alone leaves the rest of the
state, and each thread of the path is what it makes of it. -/
namespace Sys2Proof.Machine

/-! ### Lookups -/

theorem find_map_key {α : Type} (l : List α) (k : α → Bool) (f : α → α) (hk : ∀ a, k (f a) = k a) :
    (l.map f).find? k = (l.find? k).map f := by
  induction l with
  | nil => rfl
  | cons a r ih =>
    simp only [List.map_cons, List.find?_cons, hk]
    cases k a <;> simp [ih]

theorem thread?_key {s : State} {fg l : Nat} {t : Thread} (h : s.thread? fg l = some t) : t.fg = fg ∧ t.lane = l := by
  have := List.find?_some h
  simpa using this

theorem State.thread?_modThread_ne (s : State) (fg lane fg' l : Nat) (f : Thread → Thread)
    (hf : ∀ t, (f t).fg = t.fg ∧ (f t).lane = t.lane) (h : fg' ≠ fg ∨ l ≠ lane) :
    (s.modThread fg lane f).thread? fg' l = s.thread? fg' l := by
  unfold State.thread? State.modThread
  simp only
  rw [find_map_key]
  · cases hq : List.find? (fun t => decide (t.fg = fg') && decide (t.lane = l)) s.threads with
    | none => rfl
    | some t =>
      have := List.find?_some hq
      simp at this
      simp only [Option.map_some]
      rw [if_neg]
      simp; omega
  · intro a; split <;> simp [hf]

theorem State.thread?_modThread_eq (s : State) (fg lane : Nat) (f : Thread → Thread)
    (hf : ∀ t, (f t).fg = t.fg ∧ (f t).lane = t.lane) :
    (s.modThread fg lane f).thread? fg lane = (s.thread? fg lane).map f := by
  unfold State.thread? State.modThread
  simp only
  rw [find_map_key]
  · cases hq : List.find? (fun t => decide (t.fg = fg) && decide (t.lane = lane)) s.threads with
    | none => rfl
    | some t =>
      have := List.find?_some hq
      simp at this
      simp [this.1, this.2]
  · intro a; split <;> simp [hf]

theorem State.thread?_setThread_ne (s : State) (t : Thread) (fg l : Nat) (h : fg ≠ t.fg ∨ l ≠ t.lane) :
    (s.setThread t).thread? fg l = s.thread? fg l := by
  unfold State.thread? State.setThread
  simp only
  rw [find_map_key]
  · cases hq : List.find? (fun u => decide (u.fg = fg) && decide (u.lane = l)) s.threads with
    | none => rfl
    | some u =>
      have := List.find?_some hq
      simp at this
      simp only [Option.map_some]
      rw [if_neg]
      simp; omega
  · intro a
    split
    · rename_i h'; simp at h'; simp [h'.1, h'.2]
    · rfl

theorem State.thread?_setThread_eq (s : State) (t u : Thread) (h : s.thread? t.fg t.lane = some u) :
    (s.setThread t).thread? t.fg t.lane = some t := by
  unfold State.thread? State.setThread at *
  simp only
  rw [find_map_key, h]
  · have := List.find?_some h
    simp at this
    simp [this.1, this.2]
  · intro a
    split
    · rename_i h'; simp at h'; simp [h'.1, h'.2]
    · rfl

theorem State.thread?_setThread_mk (s : State) (v : Thread) (fg l : Nat) (h1 : v.fg = fg) (h2 : v.lane = l)
    (h : ∃ w, s.thread? fg l = some w) : (s.setThread v).thread? fg l = some v := by
  obtain ⟨w, hw⟩ := h
  subst h1; subst h2
  exact State.thread?_setThread_eq s v w hw

/-! ### What leaves the rest alone -/

@[simp] theorem State.rest_setThread (s : State) (t : Thread) : (s.setThread t).rest = s.rest := rfl
@[simp] theorem State.rest_modThread (s : State) (fg l : Nat) (f : Thread → Thread) : (s.modThread fg l f).rest = s.rest := rfl
@[simp] theorem State.rest_pendL (s : State) (t : Thread) (p : Pending) : (s.pendL t p).rest = s.rest := rfl
@[simp] theorem State.rest_countEv (s : State) (a e n : Nat) : (s.countEv a e n).rest = s.rest := rfl
@[simp] theorem State.rest_setPath (s : State) (p : Path) : (s.setPath p).rest = s.rest := rfl
theorem State.rest_setFg (s : State) (g : FileGroup) : (s.setFg g).rest = s.rest.setFg g := rfl
@[simp] theorem State.rest_dropPath (s : State) (id : Nat) : (s.dropPath id).rest = s.rest := rfl
@[simp] theorem State.thread?_setPath (s : State) (p : Path) (fg l : Nat) : (s.setPath p).thread? fg l = s.thread? fg l := rfl
@[simp] theorem State.thread?_dropPath (s : State) (id fg l : Nat) : (s.dropPath id).thread? fg l = s.thread? fg l := rfl
@[simp] theorem State.thread?_countEv (s : State) (a e n fg l : Nat) : (s.countEv a e n).thread? fg l = s.thread? fg l := rfl
theorem State.asidOf_rest (s : State) (fg : Nat) : s.asidOf fg = s.rest.asidOf fg := rfl
theorem State.asidOf_congr {s1 s : State} (h : s1.rest = s.rest) (fg : Nat) : s1.asidOf fg = s.asidOf fg := by
  rw [State.asidOf_rest, h, ← State.asidOf_rest]

@[simp] theorem State.rest_retire (s : State) (fg : Nat) (b : Bool) : (s.retire fg b).rest = s.rest := by
  unfold State.retire; split <;> try split
  all_goals simp
@[simp] theorem State.rest_retireClause (s : State) (fg : Nat) : (s.retireClause fg).rest = s.rest := by
  unfold State.retireClause; split <;> try split
  all_goals simp
@[simp] theorem State.thread?_retire (s : State) (fg : Nat) (b : Bool) (g l : Nat) :
    (s.retire fg b).thread? g l = s.thread? g l := by
  unfold State.retire; split <;> try split
  all_goals simp
@[simp] theorem State.thread?_retireClause (s : State) (fg g l : Nat) : (s.retireClause fg).thread? g l = s.thread? g l := by
  unfold State.retireClause; split <;> try split
  all_goals simp
@[simp] theorem State.rest_leaveInst (s : State) (i : Option Nat) (ls : List Nat) : (s.leaveInst i ls).rest = s.rest := by
  unfold State.leaveInst; split <;> rfl
@[simp] theorem State.thread?_leaveInst (s : State) (i : Option Nat) (ls : List Nat) (fg l : Nat) :
    (s.leaveInst i ls).thread? fg l = s.thread? fg l := by
  unfold State.leaveInst; split <;> rfl

@[simp] theorem State.rest_yieldSlot (s : State) (p : Path) : (s.yieldSlot p).rest = s.rest := by unfold State.yieldSlot; split <;> rfl
@[simp] theorem State.thread?_yieldSlot (s : State) (p : Path) (fg l : Nat) : (s.yieldSlot p).thread? fg l = s.thread? fg l := by
  unfold State.yieldSlot; split <;> rfl

theorem Thread.core_mid {t u : Thread} (h : t.mid = u.mid) : t.core = u.core := by
  simp only [Thread.mid, Thread.mk.injEq, TrapRegs.mk.injEq] at h
  simp only [Thread.core, h]
@[simp] theorem Thread.mid_passed (t : Thread) : t.passed.mid = t.mid := by
  unfold Thread.passed Thread.mid
  simp only [List.map_map]
  split <;> rfl
@[simp] theorem Thread.mid_at (t : Thread) (pc : DWord) (idx : Nat) : ({ t with pc := pc, idx := idx } : Thread).mid = t.mid := rfl
@[simp] theorem Thread.core_passed (t : Thread) : t.passed.core = t.core := by
  unfold Thread.passed Thread.core
  simp only [List.map_map]
  split <;> rfl
@[simp] theorem Thread.core_at (t : Thread) (pc : DWord) (idx : Nat) : ({ t with pc := pc, idx := idx } : Thread).core = t.core := rfl
@[simp] theorem Thread.core_fg (t : Thread) : t.core.fg = t.fg := rfl
@[simp] theorem Thread.core_lane (t : Thread) : t.core.lane = t.lane := rfl
theorem Thread.quiet_core {t u : Thread} (h : t.core = u.core) (q : u.quiet) : t.quiet := by
  have h1 := congrArg Thread.trapDue h
  have h2 := congrArg Thread.ret h
  simp only [Thread.core] at h1 h2
  exact ⟨h1.trans q.1, h2.trans q.2⟩
theorem Guard.on_core (g : Guard) {t u : Thread} (h : t.core = u.core) : g.on t = g.on u := by
  have h1 := congrArg Thread.p h
  simp only [Thread.core] at h1
  simp [Guard.on, Thread.pred, h1]

/-! ### The clause boundary -/

theorem State.endThread_spec (s : State) (fg l : Nat) (q : ∀ t, s.thread? fg l = some t → t.quiet) :
    (s.endThread fg l).rest = s.rest ∧ (∀ fg' l', (fg' ≠ fg ∨ l' ≠ l) → (s.endThread fg l).thread? fg' l' = s.thread? fg' l') ∧
    ∀ t, s.thread? fg l = some t → ∃ t', (s.endThread fg l).thread? fg l = some t' ∧ Ended t t' := by
  unfold State.endThread
  cases ht : s.thread? fg l with
  | none => simp
  | some t =>
    obtain ⟨hd, hr⟩ := q t ht
    obtain ⟨kf, kl⟩ := thread?_key ht
    simp only [hr, hd]
    generalize hs1 : (if t.hIssue = true then s else s.retireClause fg) = s1
    have r1 : s1.rest = s.rest := by subst hs1; split <;> simp
    have t1 : ∀ g k, s1.thread? g k = s.thread? g k := by subst hs1; intro g k; split <;> simp
    refine ⟨by simpa using r1, ?_, ?_⟩
    · intro fg' l' h
      rw [State.thread?_setThread_ne _ _ _ _ (by simpa [kf, kl] using h), t1]
    · intro u hu
      cases hu
      refine ⟨_, State.thread?_setThread_mk _ _ _ _ kf kl ⟨t, by rw [t1]; exact ht⟩, ?_, rfl, rfl, rfl, rfl, rfl⟩
      unfold Thread.core
      simp only [List.map_map, hd, hr]
      split <;> rfl

theorem endThreads_spec (ls : List Nat) (fg : Nat) : ∀ (s : State), ls.Nodup → (∀ l ∈ ls, ∀ t, s.thread? fg l = some t → t.quiet) →
    (ls.foldl (fun s l => s.endThread fg l) s).rest = s.rest ∧
    (∀ fg' l', (fg' ≠ fg ∨ l' ∉ ls) → (ls.foldl (fun s l => s.endThread fg l) s).thread? fg' l' = s.thread? fg' l') ∧
    ∀ l ∈ ls, ∀ t, s.thread? fg l = some t → ∃ t', (ls.foldl (fun s l => s.endThread fg l) s).thread? fg l = some t' ∧ Ended t t' := by
  induction ls with
  | nil => intro s _ _; exact ⟨rfl, fun _ _ _ => rfl, by simp⟩
  | cons a r ih =>
    intro s hn q
    obtain ⟨na, nr⟩ := List.nodup_cons.mp hn
    obtain ⟨e1, e2, e3⟩ := s.endThread_spec fg a (q a (by simp))
    obtain ⟨i1, i2, i3⟩ := ih (s.endThread fg a) nr (by
      intro l hl t ht
      rw [e2 fg l (.inr fun e => na (e ▸ hl))] at ht
      exact q l (by simp [hl]) t ht)
    refine ⟨i1.trans e1, ?_, ?_⟩
    · intro fg' l' h
      have h' : fg' ≠ fg ∨ (l' ≠ a ∧ l' ∉ r) := by simpa using h
      rw [List.foldl_cons, i2 fg' l' (by rcases h' with h | h; exact .inl h; exact .inr h.2),
        e2 fg' l' (by rcases h' with h | h; exact .inl h; exact .inr h.1)]
    · intro l hl t h
      rcases List.mem_cons.mp hl with hl | hl
      · subst hl
        obtain ⟨t', h1, h2⟩ := e3 t h
        exact ⟨t', by rw [List.foldl_cons, i2 _ _ (.inr na)]; exact h1, h2⟩
      · exact i3 l hl t (by rw [e2 fg l (.inr fun e => na (e ▸ hl))]; exact h)

theorem State.advance_spec (s : State) (p : Path) (kept : List Nat) (hn : kept.Nodup)
    (q : ∀ l ∈ kept, ∀ t, s.thread? p.fg l = some t → t.quiet) :
    (s.advance p kept).rest = s.rest ∧
    (∀ fg' l', (fg' ≠ p.fg ∨ l' ∉ kept) → (s.advance p kept).thread? fg' l' = s.thread? fg' l') ∧
    ∀ l ∈ kept, ∀ t, s.thread? p.fg l = some t → ∃ t', (s.advance p kept).thread? p.fg l = some t' ∧
      (p.last → Ended t t') ∧ (¬p.last → t' = t) := by
  unfold State.advance
  split
  · rename_i hlt
    have : ¬p.last := by unfold Path.last; omega
    split <;> exact ⟨rfl, fun _ _ _ => rfl, fun l _ t h => ⟨t, h, fun hl => absurd hl this, fun _ => rfl⟩⟩
  · rename_i hlt
    have : p.last := by unfold Path.last; omega
    obtain ⟨h1, h2, h3⟩ := endThreads_spec kept p.fg s hn q
    refine ⟨by simpa using h1, by simpa using h2, fun l hl t ht => ?_⟩
    obtain ⟨t', a1, a2⟩ := h3 l hl t ht
    exact ⟨t', by simpa using a1, fun _ => a2, fun hc => absurd this hc⟩

/-! ### A meaning that changes its own thread alone -/

/-- In every state that differs from `s` in threads, paths, identities and counter values only, `f` succeeds, changes its own
thread alone, and makes of it what `R` says. -/
def Does (s : State) (f : State → Thread → Res) (R : Thread → Thread → Prop) : Prop :=
  ∀ s1 t, s1.rest = s.rest → s1.thread? t.fg t.lane = some t →
    ∃ s2, f s1 t = .ok s2 ∧ s2.rest = s.rest ∧ (∀ fg l, (fg ≠ t.fg ∨ l ≠ t.lane) → s2.thread? fg l = s1.thread? fg l) ∧
      ∃ v, s2.thread? t.fg t.lane = some v ∧ R t v
/-- `R` sees nothing of where threads stand, and leaves nothing for the end of the clause. -/
structure Local (R : Thread → Thread → Prop) : Prop where
  quiet : ∀ t v, R t v → t.quiet → v.quiet
  mid : ∀ t u v w, R t v → t.mid = u.mid → v.mid = w.mid → R u w

/-- `R` where the guard is true. -/
def guarded (g : Guard) (R : Thread → Thread → Prop) (t t' : Thread) : Prop := if g.on t then R t t' else t'.mid = t.mid

theorem issueLane_does {s s1 : State} {r : Rights} {g : Guard} {p : Path} {f : State → Thread → Res}
    {R : Thread → Thread → Prop} {kept : List Nat} {l : Nat} {t : Thread} (hr : r.ok (authOf (s.asidOf p.fg)) = true)
    (hf : Does s f R) (hl : Local R) (h1 : s1.rest = s.rest) (ht : s1.thread? p.fg l = some t) :
    ∃ s2, issueLane r g p f (s1, kept) l = (s2, kept ++ [l]) ∧ s2.rest = s.rest ∧
      (∀ fg' l', (fg' ≠ p.fg ∨ l' ≠ l) → s2.thread? fg' l' = s1.thread? fg' l') ∧
      ∃ t', s2.thread? p.fg l = some t' ∧ guarded g R t t' ∧ (t.quiet → t'.quiet) := by
  obtain ⟨kf, kl⟩ := thread?_key ht
  have hr' : r.ok (authOf (s1.asidOf p.fg)) = true := by rw [State.asidOf_congr h1]; exact hr
  unfold issueLane
  simp only [ht, hr', Bool.not_true, Bool.false_eq_true, if_false]
  have hg : g.on { t with pc := p.pc, idx := p.idx } = g.on t := Guard.on_core g rfl
  rw [hg]
  generalize hu : ({ t with pc := p.pc, idx := p.idx } : Thread).passed = u
  have um : u.mid = t.mid := by subst hu; simp
  have uc : u.core = t.core := Thread.core_mid um
  have ucf : u.fg = p.fg := by have := congrArg Thread.fg uc; simp only [Thread.core_fg] at this; omega
  have ucl : u.lane = l := by have := congrArg Thread.lane uc; simp only [Thread.core_lane] at this; omega
  have far : ∀ fg' l', (fg' ≠ p.fg ∨ l' ≠ l) → (s1.setThread u).thread? fg' l' = s1.thread? fg' l' := by
    intro fg' l' hne
    exact State.thread?_setThread_ne _ _ _ _ (by rwa [ucf, ucl])
  have at_ : (s1.setThread u).thread? p.fg l = some u := State.thread?_setThread_mk _ _ _ _ ucf ucl ⟨t, ht⟩
  by_cases hgt : g.on t = true
  · obtain ⟨s2, e, e1, e2, v, e3, e4⟩ := hf (s1.setThread u) u (by simpa using h1) (by rw [ucf, ucl]; exact at_)
    rw [ucf, ucl] at e2 e3
    rw [if_pos hgt, e]
    refine ⟨_, rfl, by simpa using e1, ?_, v, by simpa using e3, ?_, ?_⟩
    · intro fg' l' hne
      rw [State.thread?_retire, e2 _ _ hne, far _ _ hne]
    · simp only [guarded, hgt, if_true]; exact hl.mid _ _ _ _ e4 um rfl
    · intro q; exact hl.quiet _ _ e4 (Thread.quiet_core uc q)
  · rw [if_neg hgt]
    refine ⟨_, rfl, by simpa using h1, ?_, u, by simpa using at_, ?_, ?_⟩
    · intro fg' l' hne
      rw [State.thread?_retire, far _ _ hne]
    · simp only [guarded, hgt]; exact um
    · intro q; exact Thread.quiet_core uc q

theorem issueLanes_does {s : State} {r : Rights} {g : Guard} {p : Path} {f : State → Thread → Res}
    {R : Thread → Thread → Prop} (hr : r.ok (authOf (s.asidOf p.fg)) = true) (hf : Does s f R) (hl : Local R)
    (ls : List Nat) :
    ∀ (s1 : State) (kept : List Nat), ls.Nodup → s1.rest = s.rest → (∀ l ∈ ls, ∀ t, s1.thread? p.fg l = some t → t.quiet) →
    ∃ s2 k2, ls.foldl (issueLane r g p f) (s1, kept) = (s2, kept ++ k2) ∧ s2.rest = s.rest ∧ (k2.Nodup ∧ (∀ l ∈ k2, l ∈ ls) ∧ ∀ l ∈ ls, ∀ t, s1.thread? p.fg l = some t → l ∈ k2) ∧
      (∀ fg' l', (fg' ≠ p.fg ∨ l' ∉ ls) → s2.thread? fg' l' = s1.thread? fg' l') ∧
      (∀ l ∈ ls, s1.thread? p.fg l = none → s2.thread? p.fg l = none) ∧
      ∀ l ∈ ls, ∀ t, s1.thread? p.fg l = some t → ∃ t', s2.thread? p.fg l = some t' ∧ guarded g R t t' ∧ t'.quiet := by
  induction ls with
  | nil =>
    intro s1 kept _ h1 _
    exact ⟨s1, [], by simp, h1, ⟨by simp, by simp, by simp⟩, fun _ _ _ => rfl, by simp, by simp⟩
  | cons a r' ih =>
    intro s1 kept hn h1 hq
    obtain ⟨na, nr⟩ := List.nodup_cons.mp hn
    rw [List.foldl_cons]
    cases ha : s1.thread? p.fg a with
    | none =>
      have e : issueLane r g p f (s1, kept) a = (s1, kept) := by unfold issueLane; simp [ha]
      rw [e]
      obtain ⟨s2, k2, a1, a2, a3, a4, a5, a6⟩ := ih s1 kept nr h1 (fun l hl' => hq l (by simp [hl']))
      refine ⟨s2, k2, a1, a2, ⟨a3.1, fun l h => by simp [a3.2.1 l h], fun l h t ht => ?_⟩, ?_, ?_, ?_⟩
      · rcases List.mem_cons.mp h with h | h
        · subst h; rw [ha] at ht; cases ht
        · exact a3.2.2 l h t ht
      · intro fg' l' hne; apply a4; rcases hne with h | h
        · exact .inl h
        · simp at h; exact .inr h.2
      · intro l hl' hnone
        rcases List.mem_cons.mp hl' with h | h
        · subst h; rw [a4 _ _ (.inr na)]; exact ha
        · exact a5 l h hnone
      · intro l hl' t ht
        rcases List.mem_cons.mp hl' with h | h
        · subst h; rw [ha] at ht; cases ht
        · exact a6 l h t ht
    | some t0 =>
      obtain ⟨s2, b1, b2, b3, t', b4, b5, b6⟩ := issueLane_does (g := g) (kept := kept) hr hf hl h1 ha
      rw [b1]
      obtain ⟨s3, k3, a1, a2, a3, a4, a5, a6⟩ := ih s2 (kept ++ [a]) nr b2 (by
        intro l hl' t ht
        have hla : l ≠ a := fun e => na (e ▸ hl')
        rw [b3 _ _ (.inr hla)] at ht
        exact hq l (by simp [hl']) t ht)
      refine ⟨s3, a :: k3, by simpa using a1, a2, ⟨?_, ?_, ?_⟩, ?_, ?_, ?_⟩
      · exact List.nodup_cons.mpr ⟨fun h => na (a3.2.1 _ h), a3.1⟩
      · intro l h
        rcases List.mem_cons.mp h with h | h
        · simp [h]
        · simp [a3.2.1 l h]
      · intro l h t ht
        rcases List.mem_cons.mp h with h | h
        · simp [h]
        · have hla : l ≠ a := fun e => na (e ▸ h)
          exact List.mem_cons_of_mem _ (a3.2.2 l h t (by rw [b3 _ _ (.inr hla)]; exact ht))
      · intro fg' l' hne
        have h' : fg' ≠ p.fg ∨ (l' ≠ a ∧ l' ∉ r') := by simpa using hne
        rw [a4 _ _ (by rcases h' with h | h; exact .inl h; exact .inr h.2),
          b3 _ _ (by rcases h' with h | h; exact .inl h; exact .inr h.1)]
      · intro l hl' hnone
        rcases List.mem_cons.mp hl' with h | h
        · subst h; rw [ha] at hnone; cases hnone
        · have hla : l ≠ a := fun e => na (e ▸ h)
          exact a5 l h (by rw [b3 _ _ (.inr hla)]; exact hnone)
      · intro l hl' t ht
        rcases List.mem_cons.mp hl' with h | h
        · subst h
          rw [ha] at ht; cases ht
          refine ⟨t', by rw [a4 _ _ (.inr na)]; exact b4, b5, b6 (hq _ (by simp) _ ha)⟩
        · have hla : l ≠ a := fun e => na (e ▸ h)
          exact a6 l h t (by rw [b3 _ _ (.inr hla)]; exact ht)

/-- Everything the lanes and the boundary of a per-thread instruction do, where `f` does `R`. -/
theorem issueEach_all {s : State} {p : Path} {r : Rights} {g : Guard} {f : Path → State → Thread → Res}
    {R : Thread → Thread → Prop} (hi : Issues s p r) (hf : Does s (f p) R) (hl : Local R) :
    (issueEach s r g f).rest = s.rest ∧
    Threads s (issueEach s r g f) p fun t t' => ∃ t1, guarded g R t t1 ∧ (p.last → Ended t1 t') ∧ (¬p.last → t' = t1) := by
  obtain ⟨hh, hn, hr, hq⟩ := hi
  obtain ⟨s2, k2, a1, a2, ⟨n2, a3, a3'⟩, a4, a5, a6⟩ := issueLanes_does (g := g) hr hf hl p.lanes s [] hn rfl hq
  have e : issueEach s r g f = s2.advance p k2 := by
    unfold issueEach
    cases hp : s.paths with
    | nil => simp [hp] at hh
    | cons q qs =>
      simp [hp] at hh
      subst hh
      simp only [a1, List.nil_append]
  rw [e]
  have q2 : ∀ l ∈ k2, ∀ t, s2.thread? p.fg l = some t → t.quiet := by
    intro l hl' t ht
    cases hs : s.thread? p.fg l with
    | none => rw [a5 l (a3 l hl') hs] at ht; cases ht
    | some u =>
      obtain ⟨t', h1, _, h3⟩ := a6 l (a3 l hl') u hs
      rw [h1] at ht; cases ht; exact h3
  obtain ⟨e1, e2, e3⟩ := s2.advance_spec p k2 n2 q2
  refine ⟨e1.trans a2, ?_, ?_⟩
  · intro fg' l' hne
    rw [e2 _ _ (by rcases hne with h | h; exact .inl h; exact .inr fun h' => h (a3 _ h')), a4 _ _ hne]
  · intro l hl' t ht
    obtain ⟨t1, h1, c1, _⟩ := a6 l hl' t ht
    obtain ⟨t2, h2, c2⟩ := e3 l (a3' l hl' t ht) t1 h1
    exact ⟨t2, h2, t1, c1, c2⟩
theorem core_of_end {p : Path} {t1 t' : Thread} (h : (p.last → Ended t1 t') ∧ (¬p.last → t' = t1)) : t'.core = t1.core := by
  by_cases hp : p.last
  · exact (h.1 hp).1
  · rw [h.2 hp]

/-- A meaning that writes its own thread. -/
theorem does_turn {s : State} {f : State → Thread → Res} {h : Thread → Thread}
    (hf : ∀ s1 t, s1.rest = s.rest → f s1 t = .ok (s1.setThread (h t))) (hk : ∀ t, (h t).fg = t.fg ∧ (h t).lane = t.lane) :
    Does s f fun t v => v.core = (h t).core := by
  intro s1 t h1 ht
  refine ⟨_, hf s1 t h1, by simpa using h1, ?_, h t, ?_, rfl⟩
  · intro fg l hne
    exact State.thread?_setThread_ne _ _ _ _ (by rwa [(hk t).1, (hk t).2])
  · exact State.thread?_setThread_mk _ _ _ _ (hk t).1 (hk t).2 ⟨t, ht⟩
/-- What a per-thread instruction does that writes its own thread. -/
theorem issueEach_turns {s : State} {p : Path} {r : Rights} {g : Guard} {f : Path → State → Thread → Res} {h : Thread → Thread}
    (hi : Issues s p r) (hf : ∀ s1 t, s1.rest = s.rest → f p s1 t = .ok (s1.setThread (h t)))
    (hk : ∀ t, (h t).fg = t.fg ∧ (h t).lane = t.lane) (hq : ∀ t, t.quiet → (h t).quiet)
    (hc : ∀ t u, t.core = u.core → (h t).core = (h u).core) :
    (issueEach s r g f).rest = s.rest ∧ Threads s (issueEach s r g f) p (turns g h) := by
  have hl : Local fun t v => v.core = (h t).core :=
    ⟨fun t _ hv q => Thread.quiet_core hv (hq t q),
     fun t u v w h1 h2 h3 => by rw [← Thread.core_mid h3, h1, hc t u (Thread.core_mid h2)]⟩
  have hd : Does s (f p) fun t v => v.core = (h t).core := by
    intro s1 t h1 ht
    refine ⟨_, hf s1 t h1, by simpa using h1, ?_, h t, ?_, rfl⟩
    · intro fg l hne
      exact State.thread?_setThread_ne _ _ _ _ (by rwa [(hk t).1, (hk t).2])
    · exact State.thread?_setThread_mk _ _ _ _ (hk t).1 (hk t).2 ⟨t, ht⟩
  have := issueEach_all (g := g) hi hd hl
  refine ⟨this.1, this.2.1, fun l hl t ht => ?_⟩
  obtain ⟨t', h1, t1, h2, h3⟩ := this.2.2 l hl t ht
  refine ⟨t', h1, ?_⟩
  unfold guarded at h2
  unfold turns
  rw [core_of_end h3]
  split
  · rename_i hg; rwa [if_pos hg] at h2
  · rename_i hg; rw [if_neg hg] at h2; exact Thread.core_mid h2
/-- The same of the last instruction of a clause, which may also say where the thread goes and in what state. -/
theorem issueEach_ends {s : State} {p : Path} {r : Rights} {g : Guard} {f : Path → State → Thread → Res} {h : Thread → Thread}
    (hi : Issues s p r) (hp : p.last) (hf : ∀ s1 t, s1.rest = s.rest → f p s1 t = .ok (s1.setThread (h t)))
    (hk : ∀ t, (h t).fg = t.fg ∧ (h t).lane = t.lane) (hq : ∀ t, t.quiet → (h t).quiet)
    (hc : ∀ t u, t.mid = u.mid → (h t).mid = (h u).mid) :
    (issueEach s r g f).rest = s.rest ∧
    Threads s (issueEach s r g f) p fun t t' => ∃ t1, t1.mid = (if g.on t then h t else t).mid ∧ Ended t1 t' := by
  have hl : Local fun t v => v.mid = (h t).mid :=
    ⟨fun t _ hv q => Thread.quiet_core (Thread.core_mid hv) (hq t q), fun t u v w h1 h2 h3 => by rw [← h3, h1, hc t u h2]⟩
  have hd : Does s (f p) fun t v => v.mid = (h t).mid := by
    intro s1 t h1 ht
    refine ⟨_, hf s1 t h1, by simpa using h1, ?_, h t, ?_, rfl⟩
    · intro fg l hne
      exact State.thread?_setThread_ne _ _ _ _ (by rwa [(hk t).1, (hk t).2])
    · exact State.thread?_setThread_mk _ _ _ _ (hk t).1 (hk t).2 ⟨t, ht⟩
  have := issueEach_all (g := g) hi hd hl
  refine ⟨this.1, this.2.1, fun l hl t ht => ?_⟩
  obtain ⟨t', h1, t1, h2, h3, _⟩ := this.2.2 l hl t ht
  refine ⟨t', h1, t1, ?_, h3 hp⟩
  unfold guarded at h2
  split
  · rename_i hg; rwa [if_pos hg] at h2
  · rename_i hg; rwa [if_neg hg] at h2

/-! ### A meaning that makes an operation pending -/

theorem Thread.core_pendAdd (t u : Thread) (x : Pending) (h : t.core = u.core) : (t.pendAdd x).core = (u.pendAdd x).core := by
  simp only [Thread.core, Thread.mk.injEq] at h
  simp only [Thread.pendAdd, Thread.core, Thread.mk.injEq, List.map_append, List.map_cons, List.map_nil]
  simp only [h, and_self]

/-- What a per-thread instruction does that makes one operation pending in each thread. -/
theorem issueEach_pends {s : State} {p : Path} {r : Rights} {g : Guard} {f : Path → State → Thread → Res} {op : Thread → Pending}
    (hi : Issues s p r) (hf : ∀ s1 t, s1.rest = s.rest → f p s1 t = .ok (s1.pendL t (op t)))
    (hc : ∀ t u, t.core = u.core → op t = op u) :
    (issueEach s r g f).rest = s.rest ∧ Threads s (issueEach s r g f) p (pends g op) := by
  have hd : Does s (f p) fun t v => ∃ u, v.core = (t.pendAdd { op t with uid := u }).core := by
    intro s1 t h1 ht
    refine ⟨_, hf s1 t h1, by rw [State.rest_pendL]; exact h1, ?_, t.pendAdd { op t with uid := s1.uid }, ?_, s1.uid, rfl⟩
    · intro fg l hne
      unfold State.pendL State.pendU State.newUid
      exact (State.thread?_setThread_ne { s1 with uid := s1.uid + 1 } (t.pendAdd { op t with uid := s1.uid }) fg l hne).trans rfl
    · unfold State.pendL State.pendU State.newUid
      exact State.thread?_setThread_mk { s1 with uid := s1.uid + 1 } (t.pendAdd { op t with uid := s1.uid }) _ _ rfl rfl ⟨t, ht⟩
  have hl : Local fun t v => ∃ u, v.core = (t.pendAdd { op t with uid := u }).core := by
    constructor
    · rintro t v ⟨u, hv⟩ q; exact Thread.quiet_core hv q
    · rintro t u v w ⟨k, hv⟩ h1 h2
      refine ⟨k, ?_⟩
      rw [← Thread.core_mid h2, hv, hc t u (Thread.core_mid h1)]
      exact Thread.core_pendAdd _ _ _ (Thread.core_mid h1)
  have := issueEach_all (g := g) hi hd hl
  refine ⟨this.1, this.2.1, fun l hl t ht => ?_⟩
  obtain ⟨t', h1, t1, h2, h3⟩ := this.2.2 l hl t ht
  refine ⟨t', h1, ?_⟩
  unfold guarded at h2
  unfold pends
  rw [core_of_end h3]
  split
  · rename_i hg; rwa [if_pos hg] at h2
  · rename_i hg; rw [if_neg hg] at h2; exact Thread.core_mid h2

/-! ### A meaning performed once for its path -/

theorem issueOnce_does {s : State} {p : Path} {r : Rights} {g : Guard} {f : Path → State → List Thread → OnceRes} {x : State}
    (hi : Issues s p r) (ha : s.active p g ≠ [])
    (hf : ∀ s1, s1.rest = s.rest → ∃ s2, f p s1 (s.active p g) = .ok s2 ∧ s2.threads = s1.threads ∧ s2.rest = x) :
    (issueOnce s r g f).rest = x ∧ Threads s (issueOnce s r g f) p keeps := by
  obtain ⟨hh, hn, hr, hq⟩ := hi
  have hd : Does s (fun (s : State) _ => Res.ok s) fun t v => v.core = t.core := by
    intro s1 t h1 ht
    exact ⟨s1, rfl, h1, fun _ _ _ => rfl, t, ht, rfl⟩
  have hl : Local fun t v => v.core = t.core := ⟨fun _ _ h q => Thread.quiet_core h q, fun _ _ _ _ h1 h2 h3 => by rw [← Thread.core_mid h3, h1, Thread.core_mid h2]⟩
  obtain ⟨s2, k2, a1, a2, ⟨n2, a3, a3'⟩, a4, a5, a6⟩ := issueLanes_does (g := g) hr hd hl p.lanes s [] hn rfl hq
  obtain ⟨s3, b1, b2, b3⟩ := hf s2 a2
  have th : ∀ fg l, s3.thread? fg l = s2.thread? fg l := by intro fg l; unfold State.thread?; rw [b2]
  have e : issueOnce s r g f = s3.advance p k2 := by
    unfold issueOnce
    cases hp : s.paths with
    | nil => simp [hp] at hh
    | cons q qs =>
      simp [hp] at hh
      subst hh
      unfold State.active at ha b1
      simp only [a1, List.nil_append, hr, b1]
      simp [ha]
  rw [e]
  have q2 : ∀ l ∈ k2, ∀ t, s3.thread? p.fg l = some t → t.quiet := by
    intro l hl' t ht
    rw [th] at ht
    cases hs : s.thread? p.fg l with
    | none => rw [a5 l (a3 l hl') hs] at ht; cases ht
    | some u =>
      obtain ⟨t', h1, _, h3⟩ := a6 l (a3 l hl') u hs
      rw [h1] at ht; cases ht; exact h3
  obtain ⟨e1, e2, e3⟩ := s3.advance_spec p k2 n2 q2
  refine ⟨e1.trans b3, ?_, ?_⟩
  · intro fg' l' hne
    rw [e2 _ _ (by rcases hne with h | h; exact .inl h; exact .inr fun h' => h (a3 _ h')), th, a4 _ _ hne]
  · intro l hl' t ht
    obtain ⟨t1, h1, c1, _⟩ := a6 l hl' t ht
    obtain ⟨t2, h2, c2⟩ := e3 l (a3' l hl' t ht) t1 (by rw [th]; exact h1)
    refine ⟨t2, h2, (core_of_end c2).trans ?_⟩
    unfold guarded at c1
    split at c1
    · exact c1
    · exact Thread.core_mid c1

/-! ### A path of one thread -/

theorem issueLane_alone {s : State} {p : Path} {r : Rights} {g : Guard} {t : Thread} (h : Alone s p r g t)
    (f : State → Thread → Res) :
    issueLane r g p f (s, []) t.lane = match f (s.begun p t) (moved p t) with
      | .ok x => (x.retire p.fg t.trap.inH, [t.lane])
      | .trap c a => (s.takeTrap { t with pc := p.pc, idx := p.idx } c a p.iaddr true, [])
      | .stall _ => (s.setThread (({ t with pc := p.pc, idx := p.idx } : Thread).stalls p s.ticks), []) := by
  unfold issueLane
  simp only [h.found, h.issues.rights, Bool.not_true, Bool.false_eq_true, if_false]
  have hg : g.on { t with pc := p.pc, idx := p.idx } = g.on t := Guard.on_core g rfl
  rw [hg, if_pos h.on]
  change (match f (s.begun p t) (moved p t) with | .ok x => _ | .trap c a => _ | .stall _ => _) = _
  cases f (s.begun p t) (moved p t) <;> rfl
theorem issueEach_alone {s : State} {p : Path} {r : Rights} {g : Guard} {t : Thread} {f : Path → State → Thread → Res} {x : State}
    (h : Alone s p r g t) (hf : f p (s.begun p t) (moved p t) = .ok x) :
    issueEach s r g f = (x.retire p.fg t.trap.inH).advance p [t.lane] := by
  have hh := h.issues.head
  unfold issueEach
  cases hp : s.paths with
  | nil => simp [hp] at hh
  | cons q qs =>
    simp [hp] at hh
    subst hh
    simp only [h.lanes, List.foldl_cons, List.foldl_nil, issueLane_alone h, hf]
theorem issueEach_traps {s : State} {p : Path} {r : Rights} {g : Guard} {t : Thread} {f : Path → State → Thread → Res} {c : Nat} {a : DWord}
    (h : Alone s p r g t) (hf : f p (s.begun p t) (moved p t) = .trap c a) :
    issueEach s r g f = (s.takeTrap { t with pc := p.pc, idx := p.idx } c a p.iaddr true).advance p [] := by
  have hh := h.issues.head
  unfold issueEach
  cases hp : s.paths with
  | nil => simp [hp] at hh
  | cons q qs =>
    simp [hp] at hh
    subst hh
    simp only [h.lanes, List.foldl_cons, List.foldl_nil, issueLane_alone h, hf]
theorem active_alone {s : State} {p : Path} {r : Rights} {g : Guard} {t : Thread} (h : Alone s p r g t) : s.active p g = [t] := by
  unfold State.active
  simp [h.lanes, h.found, h.on]
theorem issueOnce_alone {s : State} {p : Path} {r : Rights} {g : Guard} {t : Thread} {f : Path → State → List Thread → OnceRes} {x : State}
    (h : Alone s p r g t) (hf : f p ((s.begun p t).retire p.fg t.trap.inH) [t] = .ok x) :
    issueOnce s r g f = x.advance p [t.lane] := by
  have hh := h.issues.head
  have ha := active_alone h
  unfold State.active at ha
  unfold issueOnce
  cases hp : s.paths with
  | nil => simp [hp] at hh
  | cons q qs =>
    simp [hp] at hh
    subst hh
    simp only [ha]
    simp only [h.lanes, List.foldl_cons, List.foldl_nil, issueLane_alone h, hf, h.issues.rights]
    simp

end Sys2Proof.Machine
end

