-- ==== Sys2Proof/Laws/Operands.lean ====
section
/-! SUPPORT. Operands see neither where a thread stands nor what a passing instruction moves on. -/
namespace Sys2Proof.Machine

theorem State.fgOf_congr {s1 s : State} (h : s1.rest = s.rest) (t : Thread) : s1.fgOf t = s.fgOf t := by
  have : s1.fgs = s.fgs := by have := congrArg State.fgs h; simpa using this
  simp [State.fgOf, State.fg?, this]
theorem special_congr {s1 s : State} (h : s1.rest = s.rest) (g : FileGroup) (t : Thread) (c n : Nat) :
    special s1 g t c n = special s g t c n := by
  have h1 : s1.blocks = s.blocks := by have := congrArg State.blocks h; simpa using this
  have h2 : s1.links = s.links := by have := congrArg State.links h; simpa using this
  have h3 : s1.ctl.devTime = s.ctl.devTime := (congrArg (fun x : State => x.ctl.devTime) h : s1.rest.ctl.devTime = s.rest.ctl.devTime)
  unfold special State.block? State.rank
  rw [h1, h2, h3]
theorem readReg_rest {s1 s : State} (h : s1.rest = s.rest) (g : FileGroup) (t : Thread) (u : Bool) (c n : Nat) :
    readReg s1 g t u c n = readReg s g t u c n := by unfold readReg; rw [special_congr h]
theorem readReg_core {t u : Thread} (h : t.core = u.core) (s : State) (g : FileGroup) (b : Bool) (c n : Nat) :
    readReg s g t b c n = readReg s g u b c n := by
  have h1 : t.v = u.v := (congrArg Thread.v h : t.core.v = u.core.v)
  have h2 : t.t = u.t := (congrArg Thread.t h : t.core.t = u.core.t)
  have h3 : t.lane = u.lane := (congrArg Thread.lane h : t.core.lane = u.core.lane)
  unfold readReg special
  rw [h1, h2, h3]
theorem fgOf_core {t u : Thread} (h : t.core = u.core) (s : State) : s.fgOf t = s.fgOf u := by
  have : t.fg = u.fg := (congrArg Thread.fg h : t.core.fg = u.core.fg)
  unfold State.fgOf; rw [this]

/-- A read of a thread's operands: nothing of it depends on where threads stand. -/
structure Reads {α : Type} (s : State) (f : State → Thread → α) : Prop where
  rest : ∀ s1 t, s1.rest = s.rest → f s1 t = f s t
  core : ∀ t u, t.core = u.core → f s t = f s u

theorem reads_reg (s : State) (b : Bool) (c n : Nat) : Reads s fun s t => readReg s (s.fgOf t) t b c n :=
  ⟨fun s1 t h => by rw [State.fgOf_congr h, readReg_rest h], fun t u h => by rw [fgOf_core h, readReg_core h]⟩
theorem reads_srcA (s : State) (f : FmtA) (ty : Nat) : Reads s fun s t => srcA s t f ty :=
  ⟨fun s1 t h => by unfold srcA; rw [State.fgOf_congr h, readReg_rest h], fun t u h => by unfold srcA; rw [fgOf_core h, readReg_core h]⟩
theorem reads_srcB (s : State) (f : FmtA) (ty : Nat) : Reads s fun s t => srcB s t f ty :=
  ⟨fun s1 t h => by unfold srcB; rw [State.fgOf_congr h, readReg_rest h], fun t u h => by unfold srcB; rw [fgOf_core h, readReg_core h]⟩
theorem reads_srcC (s : State) (f : FmtA) (ty : Nat) : Reads s fun s t => srcC s t f ty :=
  ⟨fun s1 t h => by unfold srcC; rw [State.fgOf_congr h, readReg_rest h], fun t u h => by unfold srcC; rw [fgOf_core h, readReg_core h]⟩
theorem reads_srcD (s : State) (f : FmtA) (ty : Nat) : Reads s fun s t => srcD s t f ty :=
  ⟨fun s1 t h => by unfold srcD; rw [State.fgOf_congr h, readReg_rest h], fun t u h => by unfold srcD; rw [fgOf_core h, readReg_core h]⟩
theorem reads_regL (s : State) (c n : Nat) : Reads s fun s t => regL s t c n := reads_reg s false c n
theorem reads_regU (s : State) (b : Bool) (c n : Nat) : Reads s fun s t => regU s t b c n := reads_reg s b c n
theorem reads_pred (s : State) (k : Nat) : Reads s fun _ t => t.pred k :=
  ⟨fun _ _ _ => rfl, fun t u h => by have h1 : t.p = u.p := (congrArg Thread.p h : t.core.p = u.core.p); simp [Thread.pred, h1]⟩
theorem reads_flags (s : State) : Reads s fun _ t => t.flags :=
  ⟨fun _ _ _ => rfl, fun t u h => by have h1 : t.fl = u.fl := (congrArg Thread.fl h : t.core.fl = u.core.fl); simp [Thread.flags, h1]⟩
theorem reads_const {α : Type} (s : State) (a : α) : Reads s fun _ _ => a := ⟨fun _ _ _ => rfl, fun _ _ _ => rfl⟩
theorem Reads.map {α β : Type} {s : State} {f : State → Thread → α} (hf : Reads s f) (k : α → β) : Reads s fun s t => k (f s t) :=
  ⟨fun s1 t h => by rw [hf.rest s1 t h], fun t u h => by rw [hf.core t u h]⟩
theorem Reads.map2 {α β γ : Type} {s : State} {f : State → Thread → α} {g : State → Thread → β} (hf : Reads s f) (hg : Reads s g)
    (k : α → β → γ) : Reads s fun s t => k (f s t) (g s t) :=
  ⟨fun s1 t h => by rw [hf.rest s1 t h, hg.rest s1 t h], fun t u h => by rw [hf.core t u h, hg.core t u h]⟩
theorem Reads.map3 {α β γ δ : Type} {s : State} {f : State → Thread → α} {g : State → Thread → β} {e : State → Thread → γ}
    (hf : Reads s f) (hg : Reads s g) (he : Reads s e) (k : α → β → γ → δ) : Reads s fun s t => k (f s t) (g s t) (e s t) :=
  ⟨fun s1 t h => by rw [hf.rest s1 t h, hg.rest s1 t h, he.rest s1 t h],
   fun t u h => by rw [hf.core t u h, hg.core t u h, he.core t u h]⟩
theorem Reads.map4 {α β γ δ ε : Type} {s : State} {f : State → Thread → α} {g : State → Thread → β} {e : State → Thread → γ}
    {d : State → Thread → δ} (hf : Reads s f) (hg : Reads s g) (he : Reads s e) (hd : Reads s d) (k : α → β → γ → δ → ε) :
    Reads s fun s t => k (f s t) (g s t) (e s t) (d s t) :=
  ⟨fun s1 t h => by rw [hf.rest s1 t h, hg.rest s1 t h, he.rest s1 t h, hd.rest s1 t h],
   fun t u h => by rw [hf.core t u h, hg.core t u h, he.core t u h, hd.core t u h]⟩

/-! ### Register writes -/

@[simp] theorem Thread.put_fg (t : Thread) (c : Nat) (ws : List Word) : (t.put c ws).fg = t.fg := by
  unfold Thread.put; split <;> (try split) <;> rfl
@[simp] theorem Thread.put_lane (t : Thread) (c : Nat) (ws : List Word) : (t.put c ws).lane = t.lane := by
  unfold Thread.put; split <;> (try split) <;> rfl
theorem Thread.put_quiet {t : Thread} (c : Nat) (ws : List Word) (h : t.quiet) : (t.put c ws).quiet := by
  unfold Thread.put; split <;> (try split) <;> exact h
theorem Thread.put_core {t u : Thread} (c : Nat) (ws : List Word) (h : t.core = u.core) : (t.put c ws).core = (u.put c ws).core := by
  have h1 : t.v = u.v := (congrArg Thread.v h : t.core.v = u.core.v)
  have h2 : t.t = u.t := (congrArg Thread.t h : t.core.t = u.core.t)
  simp only [Thread.core, Thread.mk.injEq] at h
  unfold Thread.put
  split
  · simp only [Thread.core, h]
  · split <;> simp only [Thread.core, h]
@[simp] theorem Thread.setPred_fg (t : Thread) (k : Nat) (b : Bool) : (t.setPred k b).fg = t.fg := by unfold Thread.setPred; split <;> rfl
@[simp] theorem Thread.setPred_lane (t : Thread) (k : Nat) (b : Bool) : (t.setPred k b).lane = t.lane := by unfold Thread.setPred; split <;> rfl
theorem Thread.setPred_quiet {t : Thread} (k : Nat) (b : Bool) (h : t.quiet) : (t.setPred k b).quiet := by
  unfold Thread.setPred; split <;> exact h
theorem Thread.setPred_core {t u : Thread} (k : Nat) (b : Bool) (h : t.core = u.core) : (t.setPred k b).core = (u.setPred k b).core := by
  simp only [Thread.core, Thread.mk.injEq] at h
  unfold Thread.setPred
  split <;> simp only [Thread.core, h]
@[simp] theorem Thread.raise_fg (t : Thread) (n : Nat) : (t.raise n).fg = t.fg := rfl
@[simp] theorem Thread.raise_lane (t : Thread) (n : Nat) : (t.raise n).lane = t.lane := rfl
theorem Thread.raise_quiet {t : Thread} (n : Nat) (h : t.quiet) : (t.raise n).quiet := h
theorem Thread.raise_core {t u : Thread} (n : Nat) (h : t.core = u.core) : (t.raise n).core = (u.raise n).core := by
  simp only [Thread.core, Thread.mk.injEq] at h
  simp only [Thread.raise, Thread.core, h]

/-- A per-thread instruction that writes registers of its thread. -/
theorem issueEach_put {s : State} {p : Path} {r : Rights} {g : Guard} {c : Nat} {res : State → Thread → List Word}
    (hi : Issues s p r) (hr : Reads s res) :
    (issueEach s r g fun _ s t => .ok (s.setThread (t.put c (res s t)))).rest = s.rest ∧
    Threads s (issueEach s r g fun _ s t => .ok (s.setThread (t.put c (res s t)))) p (turns g fun t => t.put c (res s t)) :=
  issueEach_turns hi (fun s1 t h => by rw [hr.rest s1 t h]) (fun t => ⟨by simp, by simp⟩) (fun t q => Thread.put_quiet _ _ q)
    (fun t u h => by rw [hr.core t u h]; exact Thread.put_core _ _ h)
/-- A per-thread instruction that writes registers and raises flags. -/
theorem issueEach_putRaise {s : State} {p : Path} {r : Rights} {g : Guard} {c : Nat} {res : State → Thread → List Word × Nat}
    {f : Path → State → Thread → Res} (hi : Issues s p r) (hr : Reads s res)
    (hf : ∀ s1 t, s1.rest = s.rest → f p s1 t = .ok (s1.setThread ((t.put c (res s1 t).1).raise (res s1 t).2))) :
    (issueEach s r g f).rest = s.rest ∧ Threads s (issueEach s r g f) p (turns g fun t => (t.put c (res s t).1).raise (res s t).2) :=
  issueEach_turns hi (fun s1 t h => by rw [hf s1 t h, hr.rest s1 t h]) (fun t => ⟨by simp, by simp⟩)
    (fun t q => Thread.raise_quiet _ (Thread.put_quiet _ _ q))
    (fun t u h => by rw [hr.core t u h]; exact Thread.raise_core _ (Thread.put_core _ _ h))
/-- A per-thread instruction that writes a predicate. -/
theorem issueEach_pred {s : State} {p : Path} {r : Rights} {g : Guard} {c : Nat} {res : State → Thread → Bool}
    (hi : Issues s p r) (hr : Reads s res) :
    (issueEach s r g fun _ s t => .ok (s.setThread (t.setPred c (res s t)))).rest = s.rest ∧
    Threads s (issueEach s r g fun _ s t => .ok (s.setThread (t.setPred c (res s t)))) p (turns g fun t => t.setPred c (res s t)) :=
  issueEach_turns hi (fun s1 t h => by rw [hr.rest s1 t h]) (fun t => ⟨by simp, by simp⟩) (fun t q => Thread.setPred_quiet _ _ q)
    (fun t u h => by rw [hr.core t u h]; exact Thread.setPred_core _ _ h)

/-- Everything a format A integer instruction does. -/
theorem intA_writes {i : Instr} {f : FmtA} {res : State → Thread → List Word} (he : ∀ s, exec i s = .next (intA s f res))
    (hr : ∀ s, Reads s res) : Writes i f res := by
  intro s p hi
  split
  · rename_i hu
    intro t ht
    refine ⟨_, he s, ?_⟩
    have ha : s.active p {} ≠ [] := by intro h; simp [h] at ht
    unfold intA
    rw [if_pos hu]
    apply issueOnce_does hi ha
    intro s1 h1
    cases hq : s.active p {} with
    | nil => exact absurd hq ha
    | cons u us =>
      simp [hq] at ht
      subst ht
      refine ⟨_, rfl, rfl, ?_⟩
      rw [State.rest_setFg, State.rest_setFg, State.fgOf_congr h1, (hr s).rest s1 u h1, h1]
  · rename_i hu
    refine ⟨_, he s, ?_⟩
    unfold intA
    rw [if_neg hu]
    exact issueEach_put hi (hr s)

end Sys2Proof.Machine
end

