-- ==== Sys2Proof/Laws/Alone.lean ====
section
/-! SUPPORT. A path of one thread: what the instruction reads is what the thread held, and what each way of issuing does. -/
namespace Sys2Proof.Machine

theorem moved_core (p : Path) (t : Thread) : (moved p t).core = t.core := by unfold moved; simp
/-- What the instruction reads of its thread is what the thread held when it came. -/
theorem Reads.at {α : Type} {s : State} {f : State → Thread → α} (hf : Reads s f) (p : Path) (t : Thread) :
    f (s.begun p t) (moved p t) = f s t := by
  rw [hf.rest (s.begun p t) _ rfl, hf.core _ t (moved_core p t)]
@[simp] theorem regL_at (s : State) (p : Path) (t : Thread) (c n : Nat) : regL (s.begun p t) (moved p t) c n = regL s t c n :=
  (reads_regL s c n).at p t
@[simp] theorem regU_at (s : State) (p : Path) (t : Thread) (b : Bool) (c n : Nat) :
    regU (s.begun p t) (moved p t) b c n = regU s t b c n := (reads_regU s b c n).at p t
@[simp] theorem srcA_at (s : State) (p : Path) (t : Thread) (f : FmtA) (n : Nat) :
    srcA (s.begun p t) (moved p t) f n = srcA s t f n := (reads_srcA s f n).at p t
@[simp] theorem srcB_at (s : State) (p : Path) (t : Thread) (f : FmtA) (n : Nat) :
    srcB (s.begun p t) (moved p t) f n = srcB s t f n := (reads_srcB s f n).at p t
theorem regL_moved (s : State) (p : Path) (t : Thread) (c n : Nat) : regL s (moved p t) c n = regL s t c n :=
  (reads_regL s c n).core _ t (moved_core p t)
theorem srcA_moved (s : State) (p : Path) (t : Thread) (f : FmtA) (n : Nat) : srcA s (moved p t) f n = srcA s t f n :=
  (reads_srcA s f n).core _ t (moved_core p t)
theorem srcB_moved (s : State) (p : Path) (t : Thread) (f : FmtA) (n : Nat) : srcB s (moved p t) f n = srcB s t f n :=
  (reads_srcB s f n).core _ t (moved_core p t)
@[simp] theorem moved_fg (p : Path) (t : Thread) : (moved p t).fg = t.fg := rfl
@[simp] theorem moved_lane (p : Path) (t : Thread) : (moved p t).lane = t.lane := rfl
theorem Alone.fg {s : State} {p : Path} {r : Rights} {g : Guard} {t : Thread} (h : Alone s p r g t) : t.fg = p.fg := (thread?_key h.found).1
@[simp] theorem begun_asidOf (s : State) (p : Path) (t : Thread) (k : Nat) : (s.begun p t).asidOf k = s.asidOf k := rfl
@[simp] theorem begun_coreOf (s : State) (p : Path) (t : Thread) (k : Nat) : (s.begun p t).coreOf k = s.coreOf k := rfl
@[simp] theorem begun_sideless (s : State) (p : Path) (t : Thread) (k : Nat) : (s.begun p t).sideless k = s.sideless k := rfl
@[simp] theorem begun_ctx (s : State) (p : Path) (t : Thread) (k : Nat) : (s.begun p t).ctx? k = s.ctx? k := rfl
@[simp] theorem begun_blockOf (s : State) (p : Path) (t : Thread) (k : Nat) : (s.begun p t).blockOf k = s.blockOf k := rfl
@[simp] theorem begun_noAddr (s : State) (p : Path) (t : Thread) : (s.begun p t).noAddr = s.noAddr := rfl
theorem begun_found {s : State} {p : Path} {r : Rights} {g : Guard} {t : Thread} (h : Alone s p r g t) :
    (s.begun p t).thread? t.fg t.lane = some (moved p t) := by
  unfold State.begun
  exact State.thread?_setThread_mk s (moved p t) t.fg t.lane rfl rfl ⟨t, by rw [h.fg]; exact h.found⟩
/-- A change of anything but threads, paths, blocks and file groups leaves the thread alone on its path. -/
theorem Alone.congr {s x : State} {p : Path} {r : Rights} {g : Guard} {t : Thread} (h : Alone s p r g t) (hp : x.paths = s.paths)
    (ht : x.threads = s.threads) (ha : x.asidOf p.fg = s.asidOf p.fg) : Alone x p r g t := by
  have th : ∀ fg l, x.thread? fg l = s.thread? fg l := fun fg l => by unfold State.thread?; rw [ht]
  exact ⟨⟨hp ▸ h.issues.head, h.issues.once, ha ▸ h.issues.rights, fun l hl t ht => h.issues.quiet l hl t (th _ _ ▸ ht)⟩, h.lanes,
    (th _ _).trans h.found, h.on⟩

/-! ### Ways of issuing -/

theorem issueZ_done {s : State} {p : Path} {r : Rights} {f : FmtZ} {t : Thread}
    {go : State → Thread → State × Except Nat (List Word)} {x : State} {ws : List Word} (h : Alone s p r f.guard t)
    (hg : go (s.begun p t) (moved p t) = (x, .ok ws)) :
    issueZ s f r go = ((wrote x t f.d ws).retire p.fg t.trap.inH).advance p [t.lane] := by
  unfold issueZ
  apply issueEach_alone h
  simp only [hg]; rfl
theorem issueZ_traps {s : State} {p : Path} {r : Rights} {f : FmtZ} {t : Thread}
    {go : State → Thread → State × Except Nat (List Word)} {x : State} {c : Nat} (h : Alone s p r f.guard t)
    (hg : go (s.begun p t) (moved p t) = (x, .error c)) :
    issueZ s f r go = (s.takeTrap { t with pc := p.pc, idx := p.idx } c s.noAddr p.iaddr true).advance p [] := by
  unfold issueZ
  apply issueEach_traps h
  simp only [hg]; rfl
/-- A thread alone on its path asks for operands only where its instruction stalls. -/
theorem opAsks_alone {s : State} {p : Path} {r : Rights} {g : Guard} {t : Thread} (h : Alone s p r g t) (f : State → Thread → Res) :
    opAsks s r g p f = match f (s.begun p t) (moved p t) with | .stall ls => [(t.lane, ls)] | _ => [] := by
  unfold opAsks
  have hg : g.on { t with pc := p.pc, idx := p.idx } = true := (Guard.on_core g rfl).trans h.on
  cases hx : f (s.begun p t) (moved p t) <;>
  · have e : f (s.setThread ({ t with pc := p.pc, idx := p.idx } : Thread).passed) ({ t with pc := p.pc, idx := p.idx } : Thread).passed = _ := hx
    simp only [h.lanes, List.filterMap_cons, List.filterMap_nil, h.found, Option.bind_some, h.issues.rights, hg, Bool.and_self, if_true, e]
/-- Where it does not, an instruction with operands in memory issues as any other. -/
theorem issueOps_alone {s : State} {p : Path} {r : Rights} {g : Guard} {t : Thread} {f : Path → State → Thread → Res}
    (h : Alone s p r g t) (hf : ∀ ls, f p (s.begun p t) (moved p t) ≠ .stall ls) : issueOps s r g f = issueEach s r g f := by
  have e : opAsks s r g p (f p) = [] := by
    rw [opAsks_alone h]
    split
    · exact absurd (by assumption) (hf _)
    · rfl
  unfold issueOps
  have hh := h.issues.head
  cases hp : s.paths with
  | nil => simp [hp] at hh
  | cons q qs =>
    simp only [hp, List.head?_cons, Option.some.injEq] at hh
    subst hh
    simp only [e]
theorem issueLong_done {s : State} {p : Path} {r : Rights} {f : FmtL} {t : Thread} {n : Nat}
    {go : Path → State → Thread → State × Except OpStop (List Nat)} {x : State} {ws : List Nat} (h : Alone s p r f.guard t)
    (hg : go p (s.begun p t) (moved p t) = (x, .ok ws)) :
    issueLong s f r n go = ((arrives x p t f n ((ws ++ [x.anyWord]).take n)).retire p.fg t.trap.inH).advance p [t.lane] := by
  unfold issueLong
  have e : ∀ ls, (fun (p : Path) (s : State) (t : Thread) =>
      let put (s : State) (ws : List Nat) : Res :=
        match s.thread? t.fg t.lane with
        | some u => .ok (s.pendL u { fmtLPend f p n with val := some ((ws ++ [s.anyWord]).take n |>.map (BitVec.ofNat 32)) })
        | none => .ok s
      match go p s t with
      | (_, .error e) => e.res fun c => put s [c]
      | (s, .ok ws) => put s ws) p (s.begun p t) (moved p t) ≠ .stall ls := by
    intro ls
    simp only [hg, moved_fg, moved_lane]
    cases x.thread? t.fg t.lane <;> simp
  rw [issueOps_alone h e]
  apply issueEach_alone h
  simp only [hg, moved_fg, moved_lane, arrives]
  cases x.thread? t.fg t.lane <;> rfl
theorem issueSys_done {s : State} {p : Path} {f : FmtL} {t : Thread} {n : Nat} {go : State → Thread → State × List Nat} {x : State}
    {ws : List Nat} (h : Alone s p rightsOpr f.guard t) (hg : go (s.begun p t) (moved p t) = (x, ws)) :
    issueSys s f n go = ((arrives x p t f n ws).retire p.fg t.trap.inH).advance p [t.lane] := by
  unfold issueSys
  apply issueEach_alone h
  simp only [hg, moved_fg, moved_lane, arrives]
  cases x.thread? t.fg t.lane <;> rfl

/-! ### What a meaning issued in one of these ways does -/

theorem done_each {i : Instr} {s : State} {p : Path} {r : Rights} {g : Guard} {t : Thread} {f : Path → State → Thread → Res} {x : State}
    (he : exec i s = .next (issueEach s r g f)) (h : Alone s p r g t) (hf : f p (s.begun p t) (moved p t) = .ok x) : Done i s p t x :=
  he.trans (congrArg _ (issueEach_alone h hf))
theorem traps_each {i : Instr} {s : State} {p : Path} {r : Rights} {g : Guard} {t : Thread} {f : Path → State → Thread → Res} {c : Nat}
    {a : DWord} (he : exec i s = .next (issueEach s r g f)) (h : Alone s p r g t)
    (hf : f p (s.begun p t) (moved p t) = .trap c a) : Traps i s p t c a :=
  he.trans (congrArg _ (issueEach_traps h hf))
theorem done_once {i : Instr} {s : State} {p : Path} {r : Rights} {g : Guard} {t : Thread} {f : Path → State → List Thread → OnceRes}
    {k : State → State} (he : exec i s = .next (issueOnce s r g f)) (h : Alone s p r g t)
    (hf : f p ((s.begun p t).retire p.fg t.trap.inH) [t] = .ok (k ((s.begun p t).retire p.fg t.trap.inH))) : DoneOnce i s p t k :=
  he.trans (congrArg _ (issueOnce_alone h hf))
theorem done_z {i : Instr} {s : State} {p : Path} {r : Rights} {f : FmtZ} {t : Thread} {go : State → Thread → State × Except Nat (List Word)}
    {x : State} {ws : List Word} (he : exec i s = .next (issueZ s f r go)) (h : Alone s p r f.guard t)
    (hg : go (s.begun p t) (moved p t) = (x, .ok ws)) : Done i s p t (wrote x t f.d ws) :=
  he.trans (congrArg _ (issueZ_done h hg))
theorem traps_z {i : Instr} {s : State} {p : Path} {r : Rights} {f : FmtZ} {t : Thread} {go : State → Thread → State × Except Nat (List Word)}
    {x : State} {c : Nat} (he : exec i s = .next (issueZ s f r go)) (h : Alone s p r f.guard t)
    (hg : go (s.begun p t) (moved p t) = (x, .error c)) : Traps i s p t c s.noAddr :=
  he.trans (congrArg _ (issueZ_traps h hg))
theorem done_long {i : Instr} {s : State} {p : Path} {r : Rights} {f : FmtL} {t : Thread} {n : Nat}
    {go : Path → State → Thread → State × Except OpStop (List Nat)} {x : State} {ws : List Nat} (he : exec i s = .next (issueLong s f r n go))
    (h : Alone s p r f.guard t) (hg : go p (s.begun p t) (moved p t) = (x, .ok ws)) (hn : ws.length = n) :
    Done i s p t (arrives x p t f n ws) := by
  have : (ws ++ [x.anyWord]).take n = ws := by subst hn; simp
  exact he.trans (congrArg _ (by rw [issueLong_done h hg, this]))
theorem done_sys {i : Instr} {s : State} {p : Path} {f : FmtL} {t : Thread} {n : Nat} {go : State → Thread → State × List Nat} {x : State}
    {ws : List Nat} (he : exec i s = .next (issueSys s f n go)) (h : Alone s p rightsOpr f.guard t)
    (hg : go (s.begun p t) (moved p t) = (x, ws)) : Done i s p t (arrives x p t f n ws) :=
  he.trans (congrArg _ (issueSys_done h hg))
/-- Rights that the context of the path has. -/
theorem Alone.rights {s : State} {p : Path} {r r' : Rights} {g : Guard} {t : Thread} (h : Alone s p r g t)
    (hr : r'.ok (authOf (s.asidOf p.fg)) = true) : Alone s p r' g t :=
  ⟨⟨h.issues.head, h.issues.once, hr, h.issues.quiet⟩, h.lanes, h.found, h.on⟩

end Sys2Proof.Machine
end

