-- ==== Sys2Proof/Laws/Encoding.lean ====
section
/-! SUPPORT. The words of each encoding format as numbers, and what the decoder's fields make of them (spec/03_encoding.md R64). -/
namespace Sys2Proof

theorem toNat_app {m n : Nat} (x : BitVec m) (y : BitVec n) : (x ++ y).toNat = x.toNat * 2 ^ n + y.toNat := by
  rw [BitVec.toNat_append, ← Nat.shiftLeft_add_eq_or_of_lt y.isLt, Nat.shiftLeft_eq]
theorem field_toNat {w : Word} {s n : Nat} : (w.extractLsb' s n).toNat = w.toNat / 2 ^ s % 2 ^ n := by
  rw [BitVec.extractLsb'_toNat, Nat.shiftRight_eq_div_pow]
theorem wordOp_eq (w : Word) : wordOp w = w.toNat / 2 ^ 23 % 256 := by rw [wordOp, field_toNat]; norm_num
theorem wordE_eq (w : Word) : wordE w = decide (2 ^ 31 ≤ w.toNat) := by
  have := w.isLt
  rw [wordE, BitVec.getLsbD, Nat.testBit, Nat.shiftRight_eq_div_pow]
  rcases Nat.lt_or_ge w.toNat (2 ^ 31) with h | h
  · rw [Nat.div_eq_of_lt h]; simp; omega
  · rw [show w.toNat / 2 ^ 31 = 1 by omega]; simp; omega

/-! ### FmtS -/

theorem FmtS.word_toNat (f : FmtS) (op : BitVec 8) : (f.word op).toNat =
    op.toNat * 2 ^ 23 + f.d.toNat * 2 ^ 15 + f.a.toNat * 2 ^ 7 + f.z.toNat * 2 ^ 6 + f.i.toNat := by
  have e : (f.word op).toNat = (0#1 ++ op ++ f.d ++ f.a ++ f.z ++ f.i).toNat := rfl
  rw [e]
  simp only [toNat_app]
  simp
  omega
@[simp] theorem FmtS.word_op (f : FmtS) (op : BitVec 8) : wordOp (f.word op) = op.toNat := by
  rw [wordOp_eq, FmtS.word_toNat]; omega
@[simp] theorem FmtS.word_e (f : FmtS) (op : BitVec 8) : wordE (f.word op) = false := by
  rw [wordE_eq, FmtS.word_toNat]; simp; try omega
@[simp] theorem FmtS.of_words (f : FmtS) (op : BitVec 8) : FmtS.ofWord (f.word op) = f := by
  have h_d : (FmtS.ofWord (f.word op)).d = f.d := by
    apply BitVec.eq_of_toNat_eq
    simp only [FmtS.ofWord, field_toNat, FmtS.word_toNat]
    omega
  have h_a : (FmtS.ofWord (f.word op)).a = f.a := by
    apply BitVec.eq_of_toNat_eq
    simp only [FmtS.ofWord, field_toNat, FmtS.word_toNat]
    omega
  have h_z : (FmtS.ofWord (f.word op)).z = f.z := by
    apply BitVec.eq_of_toNat_eq
    simp only [FmtS.ofWord, field_toNat, FmtS.word_toNat]
    omega
  have h_i : (FmtS.ofWord (f.word op)).i = f.i := by
    apply BitVec.eq_of_toNat_eq
    simp only [FmtS.ofWord, field_toNat, FmtS.word_toNat]
    omega
  have key : ∀ g : FmtS, g.d = f.d → g.a = f.a → g.z = f.z → g.i = f.i → g = f := by
    intro g; cases g; cases f; intros; simp_all
  exact key _ h_d h_a h_z h_i
theorem FmtS.word_of (w : Word) (op : BitVec 8) (he : wordE w = false) (ho : wordOp w = op.toNat) : (FmtS.ofWord w).word op = w := by
  apply BitVec.eq_of_toNat_eq
  rw [FmtS.word_toNat]
  rw [wordOp_eq] at ho
  rw [wordE_eq] at he
  simp only [FmtS.ofWord, field_toNat]
  simp at he
  have := w.isLt
  omega

/-! ### FmtA -/

theorem FmtA.word0_toNat (f : FmtA) (op : BitVec 8) : (f.word0 op).toNat =
    2 ^ 31 + op.toNat * 2 ^ 23 + f.d.toNat * 2 ^ 15 + f.a.toNat * 2 ^ 7 + f.fn.toNat * 2 ^ 2 + f.ib.toNat * 2 ^ 1 + f.ic.toNat := by
  have e : (f.word0 op).toNat = (1#1 ++ op ++ f.d ++ f.a ++ f.fn ++ f.ib ++ f.ic).toNat := rfl
  rw [e]
  simp only [toNat_app]
  simp
  omega
theorem FmtA.word1_toNat (f : FmtA) : (f.word1).toNat =
    f.gn.toNat * 2 ^ 31 + f.gp.toNat * 2 ^ 28 + f.b.toNat * 2 ^ 20 + f.c.toNat * 2 ^ 12 + f.ty.toNat * 2 ^ 6 + f.rm.toNat * 2 ^ 4 + f.st.toNat * 2 ^ 2 + f.u.toNat := by
  have e : (f.word1).toNat = (f.gn ++ f.gp ++ f.b ++ f.c ++ f.ty ++ f.rm ++ f.st ++ f.u).toNat := rfl
  rw [e]
  simp only [toNat_app]
  simp
  omega
@[simp] theorem FmtA.word0_op (f : FmtA) (op : BitVec 8) : wordOp (f.word0 op) = op.toNat := by
  rw [wordOp_eq, FmtA.word0_toNat]; omega
@[simp] theorem FmtA.word0_e (f : FmtA) (op : BitVec 8) : wordE (f.word0 op) = true := by
  rw [wordE_eq, FmtA.word0_toNat]; simp; try omega
@[simp] theorem FmtA.of_words (f : FmtA) (op : BitVec 8) : FmtA.ofWords (f.word0 op) f.word1 = f := by
  have h_d : (FmtA.ofWords (f.word0 op) f.word1).d = f.d := by
    apply BitVec.eq_of_toNat_eq
    simp only [FmtA.ofWords, field_toNat, FmtA.word0_toNat]
    omega
  have h_a : (FmtA.ofWords (f.word0 op) f.word1).a = f.a := by
    apply BitVec.eq_of_toNat_eq
    simp only [FmtA.ofWords, field_toNat, FmtA.word0_toNat]
    omega
  have h_fn : (FmtA.ofWords (f.word0 op) f.word1).fn = f.fn := by
    apply BitVec.eq_of_toNat_eq
    simp only [FmtA.ofWords, field_toNat, FmtA.word0_toNat]
    omega
  have h_ib : (FmtA.ofWords (f.word0 op) f.word1).ib = f.ib := by
    apply BitVec.eq_of_toNat_eq
    simp only [FmtA.ofWords, field_toNat, FmtA.word0_toNat]
    omega
  have h_ic : (FmtA.ofWords (f.word0 op) f.word1).ic = f.ic := by
    apply BitVec.eq_of_toNat_eq
    simp only [FmtA.ofWords, field_toNat, FmtA.word0_toNat]
    omega
  have h_gn : (FmtA.ofWords (f.word0 op) f.word1).gn = f.gn := by
    apply BitVec.eq_of_toNat_eq
    simp only [FmtA.ofWords, field_toNat, FmtA.word1_toNat]
    omega
  have h_gp : (FmtA.ofWords (f.word0 op) f.word1).gp = f.gp := by
    apply BitVec.eq_of_toNat_eq
    simp only [FmtA.ofWords, field_toNat, FmtA.word1_toNat]
    omega
  have h_b : (FmtA.ofWords (f.word0 op) f.word1).b = f.b := by
    apply BitVec.eq_of_toNat_eq
    simp only [FmtA.ofWords, field_toNat, FmtA.word1_toNat]
    omega
  have h_c : (FmtA.ofWords (f.word0 op) f.word1).c = f.c := by
    apply BitVec.eq_of_toNat_eq
    simp only [FmtA.ofWords, field_toNat, FmtA.word1_toNat]
    omega
  have h_ty : (FmtA.ofWords (f.word0 op) f.word1).ty = f.ty := by
    apply BitVec.eq_of_toNat_eq
    simp only [FmtA.ofWords, field_toNat, FmtA.word1_toNat]
    omega
  have h_rm : (FmtA.ofWords (f.word0 op) f.word1).rm = f.rm := by
    apply BitVec.eq_of_toNat_eq
    simp only [FmtA.ofWords, field_toNat, FmtA.word1_toNat]
    omega
  have h_st : (FmtA.ofWords (f.word0 op) f.word1).st = f.st := by
    apply BitVec.eq_of_toNat_eq
    simp only [FmtA.ofWords, field_toNat, FmtA.word1_toNat]
    omega
  have h_u : (FmtA.ofWords (f.word0 op) f.word1).u = f.u := by
    apply BitVec.eq_of_toNat_eq
    simp only [FmtA.ofWords, field_toNat, FmtA.word1_toNat]
    omega
  have key : ∀ g : FmtA, g.d = f.d → g.a = f.a → g.fn = f.fn → g.ib = f.ib → g.ic = f.ic → g.gn = f.gn → g.gp = f.gp → g.b = f.b → g.c = f.c → g.ty = f.ty → g.rm = f.rm → g.st = f.st → g.u = f.u → g = f := by
    intro g; cases g; cases f; intros; simp_all
  exact key _ h_d h_a h_fn h_ib h_ic h_gn h_gp h_b h_c h_ty h_rm h_st h_u
theorem FmtA.word0_of (w x : Word) (op : BitVec 8) (he : wordE w = true) (ho : wordOp w = op.toNat) : (FmtA.ofWords w x).word0 op = w := by
  apply BitVec.eq_of_toNat_eq
  rw [FmtA.word0_toNat]
  rw [wordOp_eq] at ho
  rw [wordE_eq] at he
  simp only [FmtA.ofWords, field_toNat]
  simp at he
  have := w.isLt
  omega
@[simp] theorem FmtA.word1_of (w x : Word) : (FmtA.ofWords w x).word1 = x := by
  apply BitVec.eq_of_toNat_eq
  rw [FmtA.word1_toNat]
  simp only [FmtA.ofWords, field_toNat]
  have := x.isLt
  omega

/-! ### FmtL -/

theorem FmtL.word0_toNat (f : FmtL) (op : BitVec 8) : (f.word0 op).toNat =
    2 ^ 31 + op.toNat * 2 ^ 23 + f.d.toNat * 2 ^ 15 + f.a.toNat * 2 ^ 7 + f.sb.toNat * 2 ^ 4 + f.la.toNat := by
  have e : (f.word0 op).toNat = (1#1 ++ op ++ f.d ++ f.a ++ f.sb ++ f.la).toNat := rfl
  rw [e]
  simp only [toNat_app]
  simp
  omega
theorem FmtL.word1_toNat (f : FmtL) : (f.word1).toNat =
    f.gn.toNat * 2 ^ 31 + f.gp.toNat * 2 ^ 28 + f.b.toNat * 2 ^ 20 + f.c.toNat * 2 ^ 12 + f.tail.toNat := by
  have e : (f.word1).toNat = (f.gn ++ f.gp ++ f.b ++ f.c ++ f.tail).toNat := rfl
  rw [e]
  simp only [toNat_app]
  simp
  omega
@[simp] theorem FmtL.word0_op (f : FmtL) (op : BitVec 8) : wordOp (f.word0 op) = op.toNat := by
  rw [wordOp_eq, FmtL.word0_toNat]; omega
@[simp] theorem FmtL.word0_e (f : FmtL) (op : BitVec 8) : wordE (f.word0 op) = true := by
  rw [wordE_eq, FmtL.word0_toNat]; simp; try omega
@[simp] theorem FmtL.of_words (f : FmtL) (op : BitVec 8) : FmtL.ofWords (f.word0 op) f.word1 = f := by
  have h_d : (FmtL.ofWords (f.word0 op) f.word1).d = f.d := by
    apply BitVec.eq_of_toNat_eq
    simp only [FmtL.ofWords, field_toNat, FmtL.word0_toNat]
    omega
  have h_a : (FmtL.ofWords (f.word0 op) f.word1).a = f.a := by
    apply BitVec.eq_of_toNat_eq
    simp only [FmtL.ofWords, field_toNat, FmtL.word0_toNat]
    omega
  have h_sb : (FmtL.ofWords (f.word0 op) f.word1).sb = f.sb := by
    apply BitVec.eq_of_toNat_eq
    simp only [FmtL.ofWords, field_toNat, FmtL.word0_toNat]
    omega
  have h_la : (FmtL.ofWords (f.word0 op) f.word1).la = f.la := by
    apply BitVec.eq_of_toNat_eq
    simp only [FmtL.ofWords, field_toNat, FmtL.word0_toNat]
    omega
  have h_gn : (FmtL.ofWords (f.word0 op) f.word1).gn = f.gn := by
    apply BitVec.eq_of_toNat_eq
    simp only [FmtL.ofWords, field_toNat, FmtL.word1_toNat]
    omega
  have h_gp : (FmtL.ofWords (f.word0 op) f.word1).gp = f.gp := by
    apply BitVec.eq_of_toNat_eq
    simp only [FmtL.ofWords, field_toNat, FmtL.word1_toNat]
    omega
  have h_b : (FmtL.ofWords (f.word0 op) f.word1).b = f.b := by
    apply BitVec.eq_of_toNat_eq
    simp only [FmtL.ofWords, field_toNat, FmtL.word1_toNat]
    omega
  have h_c : (FmtL.ofWords (f.word0 op) f.word1).c = f.c := by
    apply BitVec.eq_of_toNat_eq
    simp only [FmtL.ofWords, field_toNat, FmtL.word1_toNat]
    omega
  have h_tail : (FmtL.ofWords (f.word0 op) f.word1).tail = f.tail := by
    apply BitVec.eq_of_toNat_eq
    simp only [FmtL.ofWords, field_toNat, FmtL.word1_toNat]
    omega
  have key : ∀ g : FmtL, g.d = f.d → g.a = f.a → g.sb = f.sb → g.la = f.la → g.gn = f.gn → g.gp = f.gp → g.b = f.b → g.c = f.c → g.tail = f.tail → g = f := by
    intro g; cases g; cases f; intros; simp_all
  exact key _ h_d h_a h_sb h_la h_gn h_gp h_b h_c h_tail
theorem FmtL.word0_of (w x : Word) (op : BitVec 8) (he : wordE w = true) (ho : wordOp w = op.toNat) : (FmtL.ofWords w x).word0 op = w := by
  apply BitVec.eq_of_toNat_eq
  rw [FmtL.word0_toNat]
  rw [wordOp_eq] at ho
  rw [wordE_eq] at he
  simp only [FmtL.ofWords, field_toNat]
  simp at he
  have := w.isLt
  omega
@[simp] theorem FmtL.word1_of (w x : Word) : (FmtL.ofWords w x).word1 = x := by
  apply BitVec.eq_of_toNat_eq
  rw [FmtL.word1_toNat]
  simp only [FmtL.ofWords, field_toNat]
  have := x.isLt
  omega

/-! ### FmtM -/

theorem FmtM.word0_toNat (f : FmtM) (op : BitVec 8) : (f.word0 op).toNat =
    2 ^ 31 + op.toNat * 2 ^ 23 + f.d.toNat * 2 ^ 15 + f.a.toNat * 2 ^ 7 + f.sb.toNat * 2 ^ 4 + f.la.toNat := by
  have e : (f.word0 op).toNat = (1#1 ++ op ++ f.d ++ f.a ++ f.sb ++ f.la).toNat := rfl
  rw [e]
  simp only [toNat_app]
  simp
  omega
theorem FmtM.word1_toNat (f : FmtM) : (f.word1).toNat =
    f.gn.toNat * 2 ^ 31 + f.gp.toNat * 2 ^ 28 + f.ty.toNat * 2 ^ 22 + f.u.toNat * 2 ^ 21 + f.vn.toNat * 2 ^ 19 + f.off.toNat := by
  have e : (f.word1).toNat = (f.gn ++ f.gp ++ f.ty ++ f.u ++ f.vn ++ f.off).toNat := rfl
  rw [e]
  simp only [toNat_app]
  simp
  omega
@[simp] theorem FmtM.word0_op (f : FmtM) (op : BitVec 8) : wordOp (f.word0 op) = op.toNat := by
  rw [wordOp_eq, FmtM.word0_toNat]; omega
@[simp] theorem FmtM.word0_e (f : FmtM) (op : BitVec 8) : wordE (f.word0 op) = true := by
  rw [wordE_eq, FmtM.word0_toNat]; simp; try omega
@[simp] theorem FmtM.of_words (f : FmtM) (op : BitVec 8) : FmtM.ofWords (f.word0 op) f.word1 = f := by
  have h_d : (FmtM.ofWords (f.word0 op) f.word1).d = f.d := by
    apply BitVec.eq_of_toNat_eq
    simp only [FmtM.ofWords, field_toNat, FmtM.word0_toNat]
    omega
  have h_a : (FmtM.ofWords (f.word0 op) f.word1).a = f.a := by
    apply BitVec.eq_of_toNat_eq
    simp only [FmtM.ofWords, field_toNat, FmtM.word0_toNat]
    omega
  have h_sb : (FmtM.ofWords (f.word0 op) f.word1).sb = f.sb := by
    apply BitVec.eq_of_toNat_eq
    simp only [FmtM.ofWords, field_toNat, FmtM.word0_toNat]
    omega
  have h_la : (FmtM.ofWords (f.word0 op) f.word1).la = f.la := by
    apply BitVec.eq_of_toNat_eq
    simp only [FmtM.ofWords, field_toNat, FmtM.word0_toNat]
    omega
  have h_gn : (FmtM.ofWords (f.word0 op) f.word1).gn = f.gn := by
    apply BitVec.eq_of_toNat_eq
    simp only [FmtM.ofWords, field_toNat, FmtM.word1_toNat]
    omega
  have h_gp : (FmtM.ofWords (f.word0 op) f.word1).gp = f.gp := by
    apply BitVec.eq_of_toNat_eq
    simp only [FmtM.ofWords, field_toNat, FmtM.word1_toNat]
    omega
  have h_ty : (FmtM.ofWords (f.word0 op) f.word1).ty = f.ty := by
    apply BitVec.eq_of_toNat_eq
    simp only [FmtM.ofWords, field_toNat, FmtM.word1_toNat]
    omega
  have h_u : (FmtM.ofWords (f.word0 op) f.word1).u = f.u := by
    apply BitVec.eq_of_toNat_eq
    simp only [FmtM.ofWords, field_toNat, FmtM.word1_toNat]
    omega
  have h_vn : (FmtM.ofWords (f.word0 op) f.word1).vn = f.vn := by
    apply BitVec.eq_of_toNat_eq
    simp only [FmtM.ofWords, field_toNat, FmtM.word1_toNat]
    omega
  have h_off : (FmtM.ofWords (f.word0 op) f.word1).off = f.off := by
    apply BitVec.eq_of_toNat_eq
    simp only [FmtM.ofWords, field_toNat, FmtM.word1_toNat]
    omega
  have key : ∀ g : FmtM, g.d = f.d → g.a = f.a → g.sb = f.sb → g.la = f.la → g.gn = f.gn → g.gp = f.gp → g.ty = f.ty → g.u = f.u → g.vn = f.vn → g.off = f.off → g = f := by
    intro g; cases g; cases f; intros; simp_all
  exact key _ h_d h_a h_sb h_la h_gn h_gp h_ty h_u h_vn h_off
theorem FmtM.word0_of (w x : Word) (op : BitVec 8) (he : wordE w = true) (ho : wordOp w = op.toNat) : (FmtM.ofWords w x).word0 op = w := by
  apply BitVec.eq_of_toNat_eq
  rw [FmtM.word0_toNat]
  rw [wordOp_eq] at ho
  rw [wordE_eq] at he
  simp only [FmtM.ofWords, field_toNat]
  simp at he
  have := w.isLt
  omega
@[simp] theorem FmtM.word1_of (w x : Word) : (FmtM.ofWords w x).word1 = x := by
  apply BitVec.eq_of_toNat_eq
  rw [FmtM.word1_toNat]
  simp only [FmtM.ofWords, field_toNat]
  have := x.isLt
  omega

/-! ### FmtI -/

theorem FmtI.word0_toNat (f : FmtI) (op : BitVec 8) : (f.word0 op).toNat =
    2 ^ 31 + op.toNat * 2 ^ 23 + f.d.toNat * 2 ^ 15 + f.mid.toNat * 2 ^ 7 + f.ty.toNat * 2 ^ 1 + f.u.toNat := by
  have e : (f.word0 op).toNat = (1#1 ++ op ++ f.d ++ f.mid ++ f.ty ++ f.u).toNat := rfl
  rw [e]
  simp only [toNat_app]
  simp
  omega
@[simp] theorem FmtI.word0_op (f : FmtI) (op : BitVec 8) : wordOp (f.word0 op) = op.toNat := by
  rw [wordOp_eq, FmtI.word0_toNat]; omega
@[simp] theorem FmtI.word0_e (f : FmtI) (op : BitVec 8) : wordE (f.word0 op) = true := by
  rw [wordE_eq, FmtI.word0_toNat]; simp; try omega
@[simp] theorem FmtI.of_words (f : FmtI) (op : BitVec 8) : FmtI.ofWords (f.word0 op) f.imm = f := by
  have h_d : (FmtI.ofWords (f.word0 op) f.imm).d = f.d := by
    apply BitVec.eq_of_toNat_eq
    simp only [FmtI.ofWords, field_toNat, FmtI.word0_toNat]
    omega
  have h_mid : (FmtI.ofWords (f.word0 op) f.imm).mid = f.mid := by
    apply BitVec.eq_of_toNat_eq
    simp only [FmtI.ofWords, field_toNat, FmtI.word0_toNat]
    omega
  have h_ty : (FmtI.ofWords (f.word0 op) f.imm).ty = f.ty := by
    apply BitVec.eq_of_toNat_eq
    simp only [FmtI.ofWords, field_toNat, FmtI.word0_toNat]
    omega
  have h_u : (FmtI.ofWords (f.word0 op) f.imm).u = f.u := by
    apply BitVec.eq_of_toNat_eq
    simp only [FmtI.ofWords, field_toNat, FmtI.word0_toNat]
    omega
  have key : ∀ g : FmtI, g.d = f.d → g.mid = f.mid → g.ty = f.ty → g.u = f.u → g.imm = f.imm → g = f := by
    intro g; cases g; cases f; intros; simp_all
  exact key _ h_d h_mid h_ty h_u rfl
theorem FmtI.word0_of (w x : Word) (op : BitVec 8) (he : wordE w = true) (ho : wordOp w = op.toNat) : (FmtI.ofWords w x).word0 op = w := by
  apply BitVec.eq_of_toNat_eq
  rw [FmtI.word0_toNat]
  rw [wordOp_eq] at ho
  rw [wordE_eq] at he
  simp only [FmtI.ofWords, field_toNat]
  simp at he
  have := w.isLt
  omega

/-! ### FmtB1 -/

theorem FmtB1.word_toNat (f : FmtB1) (op : BitVec 8) : (f.word op).toNat =
    op.toNat * 2 ^ 23 + f.off.toNat := by
  have e : (f.word op).toNat = (0#1 ++ op ++ f.off).toNat := rfl
  rw [e]
  simp only [toNat_app]
  simp
@[simp] theorem FmtB1.word_op (f : FmtB1) (op : BitVec 8) : wordOp (f.word op) = op.toNat := by
  rw [wordOp_eq, FmtB1.word_toNat]; omega
@[simp] theorem FmtB1.word_e (f : FmtB1) (op : BitVec 8) : wordE (f.word op) = false := by
  rw [wordE_eq, FmtB1.word_toNat]; simp; try omega
@[simp] theorem FmtB1.of_words (f : FmtB1) (op : BitVec 8) : FmtB1.ofWord (f.word op) = f := by
  have h_off : (FmtB1.ofWord (f.word op)).off = f.off := by
    apply BitVec.eq_of_toNat_eq
    simp only [FmtB1.ofWord, field_toNat, FmtB1.word_toNat]
    omega
  have key : ∀ g : FmtB1, g.off = f.off → g = f := by
    intro g; cases g; cases f; intros; simp_all
  exact key _ h_off
theorem FmtB1.word_of (w : Word) (op : BitVec 8) (he : wordE w = false) (ho : wordOp w = op.toNat) : (FmtB1.ofWord w).word op = w := by
  apply BitVec.eq_of_toNat_eq
  rw [FmtB1.word_toNat]
  rw [wordOp_eq] at ho
  rw [wordE_eq] at he
  simp only [FmtB1.ofWord, field_toNat]
  simp at he
  have := w.isLt
  omega

/-! ### FmtB2 -/

theorem FmtB2.word0_toNat (f : FmtB2) (op : BitVec 8) : (f.word0 op).toNat =
    2 ^ 31 + op.toNat * 2 ^ 23 + f.off.toNat := by
  have e : (f.word0 op).toNat = (1#1 ++ op ++ f.off).toNat := rfl
  rw [e]
  simp only [toNat_app]
  simp
  omega
theorem FmtB2.word1_toNat (f : FmtB2) : (f.word1).toNat =
    f.gn.toNat * 2 ^ 31 + f.gp.toNat * 2 ^ 28 + f.x.toNat * 2 ^ 20 + f.fn.toNat * 2 ^ 12 + f.low.toNat := by
  have e : (f.word1).toNat = (f.gn ++ f.gp ++ f.x ++ f.fn ++ f.low).toNat := rfl
  rw [e]
  simp only [toNat_app]
  simp
  omega
@[simp] theorem FmtB2.word0_op (f : FmtB2) (op : BitVec 8) : wordOp (f.word0 op) = op.toNat := by
  rw [wordOp_eq, FmtB2.word0_toNat]; omega
@[simp] theorem FmtB2.word0_e (f : FmtB2) (op : BitVec 8) : wordE (f.word0 op) = true := by
  rw [wordE_eq, FmtB2.word0_toNat]; simp; try omega
@[simp] theorem FmtB2.of_words (f : FmtB2) (op : BitVec 8) : FmtB2.ofWords (f.word0 op) f.word1 = f := by
  have h_off : (FmtB2.ofWords (f.word0 op) f.word1).off = f.off := by
    apply BitVec.eq_of_toNat_eq
    simp only [FmtB2.ofWords, field_toNat, FmtB2.word0_toNat]
    omega
  have h_gn : (FmtB2.ofWords (f.word0 op) f.word1).gn = f.gn := by
    apply BitVec.eq_of_toNat_eq
    simp only [FmtB2.ofWords, field_toNat, FmtB2.word1_toNat]
    omega
  have h_gp : (FmtB2.ofWords (f.word0 op) f.word1).gp = f.gp := by
    apply BitVec.eq_of_toNat_eq
    simp only [FmtB2.ofWords, field_toNat, FmtB2.word1_toNat]
    omega
  have h_x : (FmtB2.ofWords (f.word0 op) f.word1).x = f.x := by
    apply BitVec.eq_of_toNat_eq
    simp only [FmtB2.ofWords, field_toNat, FmtB2.word1_toNat]
    omega
  have h_fn : (FmtB2.ofWords (f.word0 op) f.word1).fn = f.fn := by
    apply BitVec.eq_of_toNat_eq
    simp only [FmtB2.ofWords, field_toNat, FmtB2.word1_toNat]
    omega
  have h_low : (FmtB2.ofWords (f.word0 op) f.word1).low = f.low := by
    apply BitVec.eq_of_toNat_eq
    simp only [FmtB2.ofWords, field_toNat, FmtB2.word1_toNat]
    omega
  have key : ∀ g : FmtB2, g.off = f.off → g.gn = f.gn → g.gp = f.gp → g.x = f.x → g.fn = f.fn → g.low = f.low → g = f := by
    intro g; cases g; cases f; intros; simp_all
  exact key _ h_off h_gn h_gp h_x h_fn h_low
theorem FmtB2.word0_of (w x : Word) (op : BitVec 8) (he : wordE w = true) (ho : wordOp w = op.toNat) : (FmtB2.ofWords w x).word0 op = w := by
  apply BitVec.eq_of_toNat_eq
  rw [FmtB2.word0_toNat]
  rw [wordOp_eq] at ho
  rw [wordE_eq] at he
  simp only [FmtB2.ofWords, field_toNat]
  simp at he
  have := w.isLt
  omega
@[simp] theorem FmtB2.word1_of (w x : Word) : (FmtB2.ofWords w x).word1 = x := by
  apply BitVec.eq_of_toNat_eq
  rw [FmtB2.word1_toNat]
  simp only [FmtB2.ofWords, field_toNat]
  have := x.isLt
  omega

/-! ### FmtZ -/

theorem FmtZ.word0_toNat (f : FmtZ) (op : BitVec 8) : (f.word0 op).toNat =
    2 ^ 31 + op.toNat * 2 ^ 23 + f.d.toNat * 2 ^ 15 + f.a.toNat * 2 ^ 7 + f.fn.toNat := by
  have e : (f.word0 op).toNat = (1#1 ++ op ++ f.d ++ f.a ++ f.fn).toNat := rfl
  rw [e]
  simp only [toNat_app]
  simp
  omega
theorem FmtZ.word1_toNat (f : FmtZ) : (f.word1).toNat =
    f.gn.toNat * 2 ^ 31 + f.gp.toNat * 2 ^ 28 + f.cr.toNat * 2 ^ 16 + f.imm.toNat := by
  have e : (f.word1).toNat = (f.gn ++ f.gp ++ f.cr ++ f.imm).toNat := rfl
  rw [e]
  simp only [toNat_app]
  simp
  omega
@[simp] theorem FmtZ.word0_op (f : FmtZ) (op : BitVec 8) : wordOp (f.word0 op) = op.toNat := by
  rw [wordOp_eq, FmtZ.word0_toNat]; omega
@[simp] theorem FmtZ.word0_e (f : FmtZ) (op : BitVec 8) : wordE (f.word0 op) = true := by
  rw [wordE_eq, FmtZ.word0_toNat]; simp; try omega
@[simp] theorem FmtZ.of_words (f : FmtZ) (op : BitVec 8) : FmtZ.ofWords (f.word0 op) f.word1 = f := by
  have h_d : (FmtZ.ofWords (f.word0 op) f.word1).d = f.d := by
    apply BitVec.eq_of_toNat_eq
    simp only [FmtZ.ofWords, field_toNat, FmtZ.word0_toNat]
    omega
  have h_a : (FmtZ.ofWords (f.word0 op) f.word1).a = f.a := by
    apply BitVec.eq_of_toNat_eq
    simp only [FmtZ.ofWords, field_toNat, FmtZ.word0_toNat]
    omega
  have h_fn : (FmtZ.ofWords (f.word0 op) f.word1).fn = f.fn := by
    apply BitVec.eq_of_toNat_eq
    simp only [FmtZ.ofWords, field_toNat, FmtZ.word0_toNat]
    omega
  have h_gn : (FmtZ.ofWords (f.word0 op) f.word1).gn = f.gn := by
    apply BitVec.eq_of_toNat_eq
    simp only [FmtZ.ofWords, field_toNat, FmtZ.word1_toNat]
    omega
  have h_gp : (FmtZ.ofWords (f.word0 op) f.word1).gp = f.gp := by
    apply BitVec.eq_of_toNat_eq
    simp only [FmtZ.ofWords, field_toNat, FmtZ.word1_toNat]
    omega
  have h_cr : (FmtZ.ofWords (f.word0 op) f.word1).cr = f.cr := by
    apply BitVec.eq_of_toNat_eq
    simp only [FmtZ.ofWords, field_toNat, FmtZ.word1_toNat]
    omega
  have h_imm : (FmtZ.ofWords (f.word0 op) f.word1).imm = f.imm := by
    apply BitVec.eq_of_toNat_eq
    simp only [FmtZ.ofWords, field_toNat, FmtZ.word1_toNat]
    omega
  have key : ∀ g : FmtZ, g.d = f.d → g.a = f.a → g.fn = f.fn → g.gn = f.gn → g.gp = f.gp → g.cr = f.cr → g.imm = f.imm → g = f := by
    intro g; cases g; cases f; intros; simp_all
  exact key _ h_d h_a h_fn h_gn h_gp h_cr h_imm
theorem FmtZ.word0_of (w x : Word) (op : BitVec 8) (he : wordE w = true) (ho : wordOp w = op.toNat) : (FmtZ.ofWords w x).word0 op = w := by
  apply BitVec.eq_of_toNat_eq
  rw [FmtZ.word0_toNat]
  rw [wordOp_eq] at ho
  rw [wordE_eq] at he
  simp only [FmtZ.ofWords, field_toNat]
  simp at he
  have := w.isLt
  omega
@[simp] theorem FmtZ.word1_of (w x : Word) : (FmtZ.ofWords w x).word1 = x := by
  apply BitVec.eq_of_toNat_eq
  rw [FmtZ.word1_toNat]
  simp only [FmtZ.ofWords, field_toNat]
  have := x.isLt
  omega

end Sys2Proof
end

