-- ==== Sys2Proof/Laws/Memory.lean ====
section
/-! SUPPORT. The cell lists of memory: a written byte reads back, every other byte as before, and the canonical form is kept. -/
namespace Sys2Proof.Machine

theorem Memory.wfFrom_le {l : List Host.Cell} {a b : Nat} (h : a ≤ b) (hw : Memory.wfFrom b l = true) : Memory.wfFrom a l = true := by
  cases l with
  | nil => rfl
  | cons c r => simp only [Memory.wfFrom, Bool.and_eq_true, decide_eq_true_eq] at hw ⊢; exact ⟨⟨Nat.le_trans h hw.1.1, hw.1.2⟩, hw.2⟩
theorem cellGet_below {l : List Host.Cell} {lo a : Nat} (hw : Memory.wfFrom lo l = true) (h : a < lo) : cellGet l a = 0 := by
  cases l with
  | nil => rfl
  | cons c r =>
    simp only [Memory.wfFrom, Bool.and_eq_true, decide_eq_true_eq] at hw
    rw [cellGet, if_pos (by omega)]
theorem wfFrom_cellPut {l : List Host.Cell} {lo a : Nat} (v : Byte) (hw : Memory.wfFrom lo l = true) (h : lo ≤ a) :
    Memory.wfFrom lo (cellPut l a v) = true := by
  induction l generalizing lo with
  | nil => rw [cellPut]; split <;> simp_all [Memory.wfFrom]
  | cons c r ih =>
    have hw' := hw
    simp only [Memory.wfFrom, Bool.and_eq_true, decide_eq_true_eq] at hw
    rw [cellPut]
    split
    · split
      · exact hw'
      · simp only [Memory.wfFrom, Bool.and_eq_true, decide_eq_true_eq]
        exact ⟨⟨h, ‹_›⟩, ⟨by omega, hw.1.2⟩, hw.2⟩
    · split
      · split
        · exact Memory.wfFrom_le (by omega) hw.2
        · simp only [Memory.wfFrom, Bool.and_eq_true, decide_eq_true_eq]
          subst_vars
          exact ⟨⟨hw.1.1, ‹_›⟩, hw.2⟩
      · simp only [Memory.wfFrom, Bool.and_eq_true, decide_eq_true_eq]
        exact ⟨hw.1, ih hw.2 (by omega)⟩
theorem wf_cellPut {l : List Host.Cell} (a : Nat) (v : Byte) (hw : Memory.wf l = true) : Memory.wf (cellPut l a v) = true :=
  wfFrom_cellPut v hw (Nat.zero_le a)
theorem cellGet_cellPut {l : List Host.Cell} {lo : Nat} (a b : Nat) (v : Byte) (hw : Memory.wfFrom lo l = true) :
    cellGet (cellPut l a v) b = if b = a then v else cellGet l b := by
  induction l generalizing lo with
  | nil =>
    rw [cellPut]
    by_cases e : b = a
    · subst e; split <;> simp_all [cellGet]
    · rw [if_neg e]; split
      · rfl
      · rw [show cellGet [(a, v)] b = if b < a then 0 else if b = a then v else 0 from rfl, if_neg e]; split <;> rfl
  | cons c r ih =>
    obtain ⟨k, w⟩ := c
    simp only [Memory.wfFrom, Bool.and_eq_true, decide_eq_true_eq] at hw
    have hb := ih hw.2
    have low : ∀ x, x ≤ k → cellGet r x = 0 := fun x hx => cellGet_below hw.2 (by omega)
    have get : ∀ x, cellGet ((k, w) :: r) x = if x < k then 0 else if x = k then w else cellGet r x := fun x => by rw [cellGet]
    rw [cellPut]
    by_cases h1 : a < k
    · rw [if_pos h1]
      by_cases hv : v = 0
      · rw [if_pos hv]; by_cases e : b = a
        · rw [if_pos e, get, if_pos (by omega), hv]
        · rw [if_neg e]
      · rw [if_neg hv, cellGet]
        by_cases e : b = a
        · rw [if_pos e, if_neg (by omega)]
        · rw [if_neg e]; by_cases h2 : b < a
          · rw [if_pos h2, get, if_pos (by omega)]
          · rw [if_neg h2]
    · rw [if_neg h1]
      by_cases h2 : a = k
      · subst h2
        rw [if_pos rfl]
        by_cases hv : v = 0
        · rw [if_pos hv, get]
          by_cases e : b = a
          · rw [if_pos e, e, low _ (Nat.le_refl _), hv]
          · rw [if_neg e]; by_cases h3 : b < a
            · rw [if_pos h3, low _ (by omega)]
            · rw [if_neg h3, if_neg e]
        · rw [if_neg hv, cellGet, get]
          by_cases e : b = a
          · simp [e]
          · simp [e]
      · rw [if_neg h2, cellGet, get, hb]
        by_cases e : b = a
        · rw [if_pos e, if_pos e, if_neg (by omega), if_neg (by omega)]
        · simp [e]
theorem wf_cellsPut {l : List Host.Cell} (a : Nat) (bs : List Byte) (hw : Memory.wf l = true) : Memory.wf (cellsPut l a bs) = true := by
  induction bs generalizing l a with
  | nil => exact hw
  | cons b bs ih => rw [cellsPut]; exact ih _ (wf_cellPut _ _ hw)

theorem State.poke_wf (s : State) (a : Nat) (bs : List Byte) (hw : Memory.wf s.mem.phys = true) : Memory.wf (s.poke a bs).mem.phys = true :=
  wf_cellsPut a bs hw
theorem State.hostWrite_wf (s : State) (a : Nat) (bs : List Byte) (hw : Memory.wf s.mem.host = true) :
    Memory.wf (s.hostWrite a bs).mem.host = true := wf_cellsPut a bs hw
theorem wfFrom_filter {l : List Host.Cell} {lo : Nat} (f : Host.Cell → Bool) (hw : Memory.wfFrom lo l = true) :
    Memory.wfFrom lo (l.filter f) = true := by
  induction l generalizing lo with
  | nil => exact hw
  | cons c r ih =>
    obtain ⟨k, v⟩ := c
    simp only [Memory.wfFrom, Bool.and_eq_true, decide_eq_true_eq] at hw
    rw [List.filter_cons]
    split
    · simp only [Memory.wfFrom, Bool.and_eq_true, decide_eq_true_eq]; exact ⟨hw.1, ih hw.2⟩
    · exact ih (Memory.wfFrom_le (by omega) hw.2)
theorem State.reset_wf : Memory.wf State.reset.mem.phys = true ∧ Memory.wf State.reset.mem.host = true := ⟨rfl, rfl⟩

end Sys2Proof.Machine
end

