-- ==== Sys2Proof/Laws/Keeps.lean ====
section
/-! SUPPORT. Every operation over memory keeps the canonical form of device memory and of host memory (assumption log 10). -/
namespace Sys2Proof.Machine

/-- Device memory and host memory have their canonical form. -/
def State.MemWf (s : State) : Prop := Memory.wf s.mem.phys = true ∧ Memory.wf s.mem.host = true

theorem State.MemWf.congr {s t : State} (h : s.MemWf) (hp : t.mem.phys = s.mem.phys) (hh : t.mem.host = s.mem.host) : t.MemWf := by
  unfold State.MemWf; rw [hp, hh]; exact h
theorem State.MemWf.of_mem {s t : State} (h : s.MemWf) (hm : t.mem = s.mem) : t.MemWf := h.congr (by rw [hm]) (by rw [hm])
theorem State.reset_memWf : State.reset.MemWf := State.reset_wf
/-- What keeps the form at every entry of a list keeps it over the list. -/
theorem foldl_memWf {α : Type} (l : List α) (f : State → α → State) (hf : ∀ s a, s.MemWf → (f s a).MemWf) :
    ∀ s : State, s.MemWf → (l.foldl f s).MemWf := by
  induction l with
  | nil => intro s h; exact h
  | cons a l ih => intro s h; exact ih _ (hf s a h)
theorem foldl_memWf_fst {α β : Type} (l : List α) (f : State × β → α → State × β) (hf : ∀ x a, x.1.MemWf → (f x a).1.MemWf) :
    ∀ x : State × β, x.1.MemWf → (l.foldl f x).1.MemWf := by
  induction l with
  | nil => intro x h; exact h
  | cons a l ih => intro x h; exact ih _ (hf x a h)

/-! ### Links leave memory alone -/

theorem foldl_mem {α : Type} (l : List α) (f : State → α → State) (hf : ∀ s a, (f s a).mem = s.mem) : ∀ s : State, (l.foldl f s).mem = s.mem := by
  induction l with
  | nil => intro s; rfl
  | cons a l ih => intro s; rw [List.foldl_cons, ih, hf]
theorem State.putWire_mem (s : State) (n : Nat) (fs : List Flit) : (s.putWire n fs).mem = s.mem := by
  unfold State.putWire
  apply foldl_mem
  exact fun _ _ => rfl
theorem State.sendFlit_mem (s : State) (n fk : Nat) (b : List Byte) : (s.sendFlit n fk b).mem = s.mem := by
  unfold State.sendFlit
  dsimp only
  split
  · rw [State.putWire_mem]; rfl
  · rfl
theorem State.sendSlots_mem (s : State) (plane dst : Nat) (tx : List Byte) : (s.sendSlots plane dst tx).mem = s.mem := by
  unfold State.sendSlots
  dsimp only
  split
  · rfl
  · rw [State.sendFlit_mem]; split <;> rfl
theorem State.sendLate_mem (s : State) : s.sendLate.mem = s.mem := by
  unfold State.sendLate
  exact (foldl_mem s.links.late (fun (s : State) e => s.sendSlots e.1 e.2.1 e.2.2) (fun s e => State.sendSlots_mem s e.1 e.2.1 e.2.2) _).trans rfl
theorem State.setTxWin_mem (s : State) (w : TxWin) : (s.setTxWin w).mem = s.mem := rfl
theorem State.closeWin_mem (s : State) (w : TxWin) : (s.closeWin w).mem = s.mem := by
  unfold State.closeWin
  split
  · rfl
  · rw [State.setTxWin_mem, State.sendSlots_mem]
theorem State.sendTx_mem (s : State) (plane dst : Nat) (tx : List Byte) : (s.sendTx plane dst tx).mem = s.mem := by
  unfold State.sendTx
  dsimp only
  split
  · exact State.sendSlots_mem _ _ _ _
  · split
    · rw [State.closeWin_mem, State.sendSlots_mem]
    · rw [State.setTxWin_mem, State.sendSlots_mem]
theorem State.sendReqTx_mem (s : State) (plane : Nat) (q : OutReq) : (s.sendReqTx plane q).mem = s.mem := by
  unfold State.sendReqTx; rw [State.sendTx_mem]; rfl
theorem foldl_mem_fst {α β : Type} (l : List α) (f : State × β → α → State × β) (hf : ∀ x a, (f x a).1.mem = x.1.mem) :
    ∀ x : State × β, (l.foldl f x).1.mem = x.1.mem := by
  induction l with
  | nil => intro x; rfl
  | cons a l ih => intro x; rw [List.foldl_cons, ih, hf]
theorem State.pump_mem (s : State) : s.pump.mem = s.mem := by
  unfold State.pump
  refine (foldl_mem_fst _ _ (fun x q => ?_) (s.sendLate, [])).trans (State.sendLate_mem s)
  dsimp only
  split
  · rfl
  · split
    · exact State.sendReqTx_mem _ _ _
    · rfl
theorem State.pushOut_mem (s : State) (q : OutReq) : (s.pushOut q).mem = s.mem := by unfold State.pushOut; rw [State.pump_mem]
theorem State.parDelta_mem (s : State) (asid : Nat) (l : Leaf) (va : Nat) (old new : List Byte) :
    (s.parDelta asid l va old new).mem = s.mem := by
  unfold State.parDelta
  split
  · rfl
  · simp only [State.pushOut_mem]; rfl

/-! ### Blocks -/

theorem State.poke_memWf {s : State} (h : s.MemWf) (a : Nat) (bs : List Byte) : (s.poke a bs).MemWf := ⟨State.poke_wf s a bs h.1, h.2⟩
theorem State.hostWrite_memWf {s : State} (h : s.MemWf) (a : Nat) (bs : List Byte) : (s.hostWrite a bs).MemWf :=
  ⟨h.1, State.hostWrite_wf s a bs h.2⟩
theorem State.setDirty_memWf {s : State} (h : s.MemWf) (p : Nat) : (s.setDirty p).MemWf := by
  unfold State.setDirty
  dsimp only
  split
  · exact h
  · exact State.poke_memWf h _ _
theorem State.sweepRaw_memWf {s : State} (h : s.MemWf) (p : Nat) : (s.sweepRaw p).MemWf := by
  unfold State.sweepRaw
  split
  · refine State.setDirty_memWf ?_ p
    exact ⟨wfFrom_filter (fun c => c.1 / 65536 ≠ p) h.1, h.2⟩
  · exact h
theorem State.markDirty_memWf {s : State} (h : s.MemWf) (pa : Nat) : (s.markDirty pa).MemWf :=
  State.setDirty_memWf (State.sweepRaw_memWf (State.sweepRaw_memWf h _) _) _
theorem State.putBlock_memWf {s : State} (h : s.MemWf) (delta : Bool) (asid : Nat) (l : Leaf) (va pa : Nat) (new : List Byte) :
    (s.putBlock delta asid l va pa new).MemWf := (State.poke_memWf h _ _).of_mem (State.parDelta_mem _ _ _ _ _ _)
theorem State.sweep_memWf {s : State} (h : s.MemWf) (asid : Nat) (l : Leaf) (va pa : Nat) : (s.sweep asid l va pa).MemWf := by
  unfold State.sweep
  generalize List.range 4096 = r
  apply State.markDirty_memWf
  apply foldl_memWf
  · exact fun _ _ h => State.putBlock_memWf h _ _ _ _ _ _
  · exact h.congr rfl rfl
theorem State.ctlWrite_memWf {s : State} (h : s.MemWf) (asid : Nat) (l : Leaf) (va pa : Nat) (w : List (Option Byte)) (delta : Bool) :
    (s.ctlWrite asid l va pa w delta).1.MemWf := by
  unfold State.ctlWrite
  dsimp only
  split
  · exact h
  · generalize ht : (if s.scrubPending pa = true then s.sweep asid l va pa else s) = t
    have hw : t.MemWf := by
      rw [← ht]; split
      · exact State.sweep_memWf h _ _ _ _
      · exact h
    apply State.markDirty_memWf
    exact (State.putBlock_memWf hw delta asid l va pa _).congr rfl rfl
theorem State.hwWrite_memWf : ∀ (n : Nat) {s : State} (_ : s.MemWf) (a : Nat) (bs : List Byte), (s.hwWrite n a bs).MemWf
  | 0, _, h, _, _ => h
  | n + 1, s, h, a, bs => by
    unfold State.hwWrite
    split
    · exact h
    · exact State.hwWrite_memWf n (State.ctlWrite_memWf h _ _ _ _ _ _) _ _

/-! ### Caches -/

theorem State.wbSliceLine_memWf {s : State} (h : s.MemWf) (x : Line) : (s.wbSliceLine x).MemWf := by
  refine foldl_memWf _ _ (fun s k h => ?_) s h
  dsimp only
  split
  · exact h
  · exact State.ctlWrite_memWf h _ _ _ _ _ _
theorem State.putSlice_memWf {s : State} (h : s.MemWf) (x : Line) : (s.putSlice x).MemWf := by
  unfold State.putSlice
  dsimp only
  split
  · exact h.congr rfl rfl
  · split
    · exact h.congr rfl rfl
    · exact (State.wbSliceLine_memWf h _).congr rfl rfl
theorem State.wbL1Line_memWf {s : State} (h : s.MemWf) (x : Line) : (s.wbL1Line x).MemWf := by
  unfold State.wbL1Line
  split
  · exact h
  · exact State.putSlice_memWf h _
theorem State.putL1_memWf {s : State} (h : s.MemWf) (x : Line) : (s.putL1 x).MemWf := by
  unfold State.putL1
  dsimp only
  split
  · exact h.congr rfl rfl
  · split
    · exact h
    · exact (State.wbL1Line_memWf h _).congr rfl rfl
theorem State.fetchSlice_memWf {s : State} (h : s.MemWf) (unit pa asid va : Nat) (l : Leaf) : (s.fetchSlice unit pa asid va l).1.MemWf :=
  State.putSlice_memWf h _
theorem State.cacheRead_memWf {s : State} (h : s.MemWf) (eng : Bool) (core asid : Nat) (l : Leaf) (va pa n : Nat) :
    (s.cacheRead eng core asid l va pa n).1.MemWf := by
  have hf := State.fetchSlice_memWf h (sliceOfCore core) (pa - pa % 128) asid (va - pa % 128) l
  unfold State.cacheRead
  dsimp only
  generalize s.fetchSlice (sliceOfCore core) (pa - pa % 128) asid (va - pa % 128) l = r at hf ⊢
  split
  · split
    · exact h
    · exact hf
  · split
    · exact h
    · exact State.putL1_memWf hf _
theorem State.cacheWrite_memWf {s : State} (h : s.MemWf) (eng : Bool) (core asid : Nat) (l : Leaf) (va pa : Nat) (bs : List Byte) :
    (s.cacheWrite eng core asid l va pa bs).MemWf := by
  unfold State.cacheWrite
  refine State.markDirty_memWf ?_ _
  split
  · exact State.putSlice_memWf h _
  · exact State.putL1_memWf h _
theorem State.setScrub_memWf {s : State} (h : s.MemWf) (page : Nat) : (s.setScrub page).MemWf := h.congr rfl rfl
theorem State.wbSram_memWf {s : State} (h : s.MemWf) (x : SramLine) : (s.wbSram x).MemWf :=
  foldl_memWf _ _ (fun _ _ h => State.ctlWrite_memWf h _ _ _ _ _ _) s h
theorem State.putSram_memWf {s : State} (h : s.MemWf) (x : SramLine) : (s.putSram x).MemWf := by
  unfold State.putSram
  dsimp only
  split
  · exact h.congr rfl rfl
  · split
    · exact h
    · split
      · exact (State.wbSram_memWf h _).congr rfl rfl
      · exact h.congr rfl rfl
theorem State.sramPart_memWf {s : State} (h : s.MemWf) (asid : Nat) (l : Leaf) (d o : Nat) : (s.sramPart asid l d o).MemWf := by
  unfold State.sramPart
  split
  · exact h
  · split
    · exact (State.wbSram_memWf h _).congr rfl rfl
    · exact h.congr rfl rfl
theorem State.syncRead_memWf {s : State} (h : s.MemWf) (asid : Nat) (l : Leaf) (va d o n : Nat) : (s.syncRead asid l va d o n).1.MemWf := by
  have hp := State.sramPart_memWf h asid l d o
  unfold State.syncRead
  dsimp only
  split
  · exact State.putSram_memWf hp _
  · exact hp
theorem State.syncWrite_memWf {s : State} (h : s.MemWf) (asid : Nat) (l : Leaf) (va d o : Nat) (bs : List Byte) :
    (s.syncWrite asid l va d o bs).1.MemWf := by
  have hp := State.sramPart_memWf h asid l d o
  unfold State.syncWrite
  dsimp only
  split
  · exact State.markDirty_memWf (State.putSram_memWf hp _) _
  · exact hp

/-! ### Translation and the checks of R210 write no memory -/

/-- Device memory and host memory are the same. -/
def State.SameMem (s t : State) : Prop := t.mem.phys = s.mem.phys ∧ t.mem.host = s.mem.host
theorem State.MemWf.same {s t : State} (h : s.MemWf) (e : s.SameMem t) : t.MemWf := h.congr e.1 e.2
theorem State.SameMem.rfl {s : State} : s.SameMem s := ⟨Eq.refl _, Eq.refl _⟩
theorem State.SameMem.trans {s t u : State} (h : s.SameMem t) (k : t.SameMem u) : s.SameMem u := ⟨k.1.trans h.1, k.2.trans h.2⟩
theorem State.translate_same (s : State) (core asid va : Nat) : s.SameMem (s.translate core asid va).1 := by
  unfold State.translate
  dsimp only
  split
  · exact .rfl
  · split
    · split <;> exact ⟨Eq.refl _, Eq.refl _⟩
    · split
      · split <;> exact ⟨Eq.refl _, Eq.refl _⟩
      · exact .rfl
theorem foldl_same {α β : Type} {s : State} (l : List α) (f : State × β → α → State × β)
    (hf : ∀ x a, s.SameMem x.1 → s.SameMem (f x a).1) : ∀ x : State × β, s.SameMem x.1 → s.SameMem (l.foldl f x).1 := by
  induction l with
  | nil => intro x h; exact h
  | cons a l ih => intro x h; exact ih _ (hf x a h)
theorem State.locate_same (s : State) (core asid : Nat) (w : Want) (ps : List (Nat × Nat)) : s.SameMem (s.locate core asid w ps).1 := by
  unfold State.locate
  split
  · exact .rfl
  · refine foldl_same ps _ (fun x p h0 => ?_) (s, Except.ok []) .rfl
    obtain ⟨y, e⟩ := x
    cases e with
    | error e => exact h0
    | ok l =>
      dsimp only
      split
      · exact h0
      · exact h0
      · rename_i va _
        have ht := h0.trans (State.translate_same y core asid va)
        split
        · rename_i heq; rw [heq] at ht; exact ht
        · rename_i heq; rw [heq] at ht; split <;> exact ht
theorem State.ensureKey_same (s : State) (asid : Nat) (l : Leaf) : s.SameMem (s.ensureKey asid l) := by
  unfold State.ensureKey; split <;> exact ⟨Eq.refl _, Eq.refl _⟩
/-- The keys that the portions of an access name first. -/
def State.ensureKeys (s : State) (ps : List Piece) (asid : Nat) : State :=
  ps.foldl (fun (s : State) p => if p.leaf.raw || p.peer.isSome || p.leaf.kind = 1 then s else s.ensureKey asid p.leaf) s
theorem State.ensureKeys_same (ps : List Piece) (asid : Nat) : ∀ s : State, s.SameMem (s.ensureKeys ps asid) := by
  induction ps with
  | nil => exact fun s => .rfl
  | cons p ps ih =>
    intro s
    refine State.SameMem.trans ?_ (ih _)
    dsimp only
    split
    · exact .rfl
    · exact State.ensureKey_same s asid p.leaf
theorem State.checkParts_same (s : State) (core asid : Nat) (w : Want) (l : List (Nat × Nat)) : s.SameMem (s.checkParts core asid w l).1 := by
  unfold State.checkParts
  have hl := State.locate_same s core asid w l
  split
  · rename_i heq; rw [heq] at hl; exact hl
  · rename_i t ps heq
    rw [heq] at hl
    split
    · exact hl
    · have hk := hl.trans (State.ensureKeys_same ps asid t)
      unfold State.ensureKeys at hk
      dsimp only
      split <;> exact hk
theorem State.check_same (s : State) (core asid : Nat) (w : Want) (ea n : Nat) : s.SameMem (s.check core asid w ea n).1 :=
  State.checkParts_same s core asid w _

/-! ### Accesses -/

theorem State.atcFill_memWf {s : State} (h : s.MemWf) (core bus : Nat) : (s.atcFill core bus).MemWf := by
  unfold State.atcFill
  dsimp only
  split <;> exact h
theorem State.readPiece_memWf {s : State} (h : s.MemWf) (eng : Bool) (core asid : Nat) (p : Piece) : (s.readPiece eng core asid p).1.MemWf := by
  unfold State.readPiece
  split
  · exact State.atcFill_memWf h _ _
  · exact State.syncRead_memWf h _ _ _ _ _ _
  · split
    · exact h
    · exact State.cacheRead_memWf h _ _ _ _ _ _ _
theorem State.rootStore_memWf {s : State} (h : s.MemWf) (pa : Nat) : (s.rootStore pa).MemWf := by
  unfold State.rootStore
  split
  · exact h.congr rfl rfl
  · split
    · exact h.congr rfl rfl
    · exact h
theorem State.writePiece_memWf {s : State} (h : s.MemWf) (eng : Bool) (core asid : Nat) (p : Piece) (bs : List Byte) :
    (s.writePiece eng core asid p bs).MemWf := by
  unfold State.writePiece
  split
  · exact State.hostWrite_memWf (State.atcFill_memWf h _ _) _ _
  · exact State.syncWrite_memWf h _ _ _ _ _ _
  · split
    · exact State.rootStore_memWf (State.ctlWrite_memWf h _ _ _ _ _ _) _
    · exact State.cacheWrite_memWf h _ _ _ _ _ _ _
theorem State.readNext_memWf {s : State} (h : s.MemWf) (eng : Bool) (core asid : Nat) (got : List Byte × AccErrs) (p : Piece) :
    (s.readNext eng core asid got p).1.MemWf := by
  have hr : (if p.peer.isSome then (s, .ok []) else s.readPiece eng core asid p).1.MemWf := by
    split
    · exact h
    · exact State.readPiece_memWf h eng core asid p
  unfold State.readNext
  dsimp only
  split
  · exact h
  · split <;> (rename_i heq; rw [heq] at hr; exact hr)
theorem State.readPieces_memWf {s : State} (h : s.MemWf) (eng : Bool) (core asid : Nat) (ps : List Piece) :
    (s.readPieces eng core asid ps).1.MemWf := by
  have hf := foldl_memWf_fst ps (fun (acc : State × List Byte × AccErrs) p => acc.1.readNext eng core asid acc.2 p)
    (fun x p h => State.readNext_memWf h eng core asid x.2 p) (s, [], {}) h
  unfold State.readPieces
  generalize ps.foldl _ _ = y at hf ⊢
  obtain ⟨t, bs, e⟩ := y
  exact hf
theorem State.putPieces_memWf {s : State} (h : s.MemWf) (eng : Bool) (core asid : Nat) (ps : List Piece) (bs : List Byte) :
    (s.putPieces eng core asid ps bs).MemWf :=
  foldl_memWf_fst ps _ (fun x p h => State.writePiece_memWf h eng core asid p (x.2.take p.n)) (s, bs) h
theorem State.writePieces_memWf {s : State} (h : s.MemWf) (eng : Bool) (core asid : Nat) (ps : List Piece) (bs : List Byte) :
    (s.writePieces eng core asid ps bs).1.MemWf := by
  unfold State.writePieces
  split
  · exact h
  · exact State.putPieces_memWf h _ _ _ _ _
theorem State.noteWrite_mem (s : State) (blk : Nat) (ps : List Piece) (bs : List Byte) : (s.noteWrite blk ps bs).mem = s.mem := by
  unfold State.noteWrite
  split
  · rfl
  · split <;> rfl
theorem State.sealTo_memWf {s : State} (h : s.MemWf) (rs : List (Nat × Nat)) : (s.sealTo rs).MemWf := by
  unfold State.sealTo
  exact foldl_memWf _ _ (fun s r h => State.hwWrite_memWf _ h _ _) _ (h.congr rfl rfl)
theorem State.growBuf_memWf {s : State} (h : s.MemWf) (blk : Nat) (ps : List Piece) : (s.growBuf blk ps).MemWf := by
  unfold State.growBuf
  split
  · exact h
  · split
    · exact h
    · apply State.sealTo_memWf
      exact h.congr rfl rfl
theorem State.load_memWf {s : State} (h : s.MemWf) (eng : Bool) (core asid blk ea n : Nat) : (s.load eng core asid blk ea n).1.MemWf := by
  unfold State.load
  have hc := h.same (State.check_same s core asid .rd ea n)
  split
  · rename_i heq; rw [heq] at hc; exact hc
  · rename_i t ps heq
    rw [heq] at hc
    split
    · have hr := State.readPieces_memWf hc eng core asid ps
      split <;> (rename_i heq2; rw [heq2] at hr; exact hr)
    · split
      · exact hc
      · have hr := State.readPieces_memWf hc eng core asid ps
        split
        · rename_i heq2; rw [heq2] at hr; exact hr
        · exact hr
theorem State.store_memWf {s : State} (h : s.MemWf) (eng : Bool) (core asid blk ea : Nat) (bs : List Byte) :
    (s.store eng core asid blk ea bs).1.MemWf := by
  unfold State.store
  have hc := h.same (State.check_same s core asid .wr ea bs.length)
  split
  · rename_i heq; rw [heq] at hc; exact hc
  · rename_i t ps heq
    rw [heq] at hc
    split
    · exact hc
    · split
      · exact hc
      · split
        · split
          · exact hc
          · split
            · exact (State.growBuf_memWf hc _ _).of_mem (State.noteWrite_mem _ _ _ _)
            · exact hc
        · split
          · exact hc
          · have hr := State.writePieces_memWf hc eng core asid ps bs
            split
            · rename_i heq2; rw [heq2] at hr; exact hr.of_mem (State.noteWrite_mem _ _ _ _)
            · exact hr
theorem State.swapDirty_memWf {s : State} (h : s.MemWf) : s.swapDirty.MemWf := ⟨wfFrom_filter _ h.1, h.2⟩

end Sys2Proof.Machine
end

