-- ==== Sys2Proof/Laws/PerInstr.lean ====
section
/-! SUPPORT. Per instruction: its words are one or two, the first says by E which and holds an allocated opcode; an event has none
(spec/03_encoding.md R56, R74). -/
namespace Sys2Proof.Laws.Encoding

def Statement (i : Instr) : Prop :=
  i.isEvent = true ∨ ∃ w r, encode i = w :: r ∧ allocated (wordOp w) = true ∧ r.length = if wordE w then 1 else 0

theorem two {i : Instr} {w x : Word} (h : encode i = [w, x]) (ha : allocated (wordOp w) = true) (he : wordE w = true) : Statement i :=
  .inr ⟨w, [x], h, ha, by simp [he]⟩
theorem one {i : Instr} {w : Word} (h : encode i = [w]) (ha : allocated (wordOp w) = true) (he : wordE w = false) : Statement i :=
  .inr ⟨w, [], h, ha, by simp [he]⟩

theorem trap (f : FmtZ) : Statement (.trap f) := two rfl (by rw [FmtZ.word0_op]; rfl) (f.word0_e _)
theorem tret (f : FmtZ) : Statement (.tret f) := two rfl (by rw [FmtZ.word0_op]; rfl) (f.word0_e _)
theorem tretRec (f : FmtZ) : Statement (.tretRec f) := two rfl (by rw [FmtZ.word0_op]; rfl) (f.word0_e _)
theorem crd (f : FmtZ) : Statement (.crd f) := two rfl (by rw [FmtZ.word0_op]; rfl) (f.word0_e _)
theorem cwr (f : FmtZ) : Statement (.cwr f) := two rfl (by rw [FmtZ.word0_op]; rfl) (f.word0_e _)
theorem mapack (f : FmtZ) : Statement (.mapack f) := two rfl (by rw [FmtZ.word0_op]; rfl) (f.word0_e _)
theorem maprd (f : FmtZ) : Statement (.maprd f) := two rfl (by rw [FmtZ.word0_op]; rfl) (f.word0_e _)
theorem ctxsaveSeal (f : FmtL) : Statement (.ctxsaveSeal f) := two rfl (by rw [FmtL.word0_op]; rfl) (f.word0_e _)
theorem ctxsaveReset (f : FmtL) : Statement (.ctxsaveReset f) := two rfl (by rw [FmtL.word0_op]; rfl) (f.word0_e _)
theorem ctxloadImage (f : FmtL) : Statement (.ctxloadImage f) := two rfl (by rw [FmtL.word0_op]; rfl) (f.word0_e _)
theorem ctxloadNew (f : FmtL) : Statement (.ctxloadNew f) := two rfl (by rw [FmtL.word0_op]; rfl) (f.word0_e _)
theorem ctxloadResume (f : FmtL) : Statement (.ctxloadResume f) := two rfl (by rw [FmtL.word0_op]; rfl) (f.word0_e _)
theorem kwrapGive (f : FmtL) : Statement (.kwrapGive f) := two rfl (by rw [FmtL.word0_op]; rfl) (f.word0_e _)
theorem kwrapTake (f : FmtL) : Statement (.kwrapTake f) := two rfl (by rw [FmtL.word0_op]; rfl) (f.word0_e _)
theorem kwrapEscrow (f : FmtL) : Statement (.kwrapEscrow f) := two rfl (by rw [FmtL.word0_op]; rfl) (f.word0_e _)
theorem kwrapImport (f : FmtL) : Statement (.kwrapImport f) := two rfl (by rw [FmtL.word0_op]; rfl) (f.word0_e _)
theorem kdrop (f : FmtZ) : Statement (.kdrop f) := two rfl (by rw [FmtZ.word0_op]; rfl) (f.word0_e _)
theorem kdropErase (f : FmtZ) : Statement (.kdropErase f) := two rfl (by rw [FmtZ.word0_op]; rfl) (f.word0_e _)
theorem attestCtx (f : FmtL) : Statement (.attestCtx f) := two rfl (by rw [FmtL.word0_op]; rfl) (f.word0_e _)
theorem attestModule (f : FmtL) : Statement (.attestModule f) := two rfl (by rw [FmtL.word0_op]; rfl) (f.word0_e _)
theorem cntrd (f : FmtZ) : Statement (.cntrd f) := two rfl (by rw [FmtZ.word0_op]; rfl) (f.word0_e _)
theorem cntcfg (f : FmtZ) : Statement (.cntcfg f) := two rfl (by rw [FmtZ.word0_op]; rfl) (f.word0_e _)
theorem moncfg (f : FmtZ) : Statement (.moncfg f) := two rfl (by rw [FmtZ.word0_op]; rfl) (f.word0_e _)
theorem monrd (f : FmtZ) : Statement (.monrd f) := two rfl (by rw [FmtZ.word0_op]; rfl) (f.word0_e _)
theorem evpost (f : FmtZ) : Statement (.evpost f) := two rfl (by rw [FmtZ.word0_op]; rfl) (f.word0_e _)
theorem yieldC (f : FmtZ) : Statement (.yieldC f) := two rfl (by rw [FmtZ.word0_op]; rfl) (f.word0_e _)
theorem scrubVirt (f : FmtL) : Statement (.scrubVirt f) := two rfl (by rw [FmtL.word0_op]; rfl) (f.word0_e _)
theorem scrubPhys (f : FmtL) : Statement (.scrubPhys f) := two rfl (by rw [FmtL.word0_op]; rfl) (f.word0_e _)
theorem rankmapGet (f : FmtZ) : Statement (.rankmapGet f) := two rfl (by rw [FmtZ.word0_op]; rfl) (f.word0_e _)
theorem rankmapSet (f : FmtZ) : Statement (.rankmapSet f) := two rfl (by rw [FmtZ.word0_op]; rfl) (f.word0_e _)
theorem planemapMap (f : FmtZ) : Statement (.planemapMap f) := two rfl (by rw [FmtZ.word0_op]; rfl) (f.word0_e _)
theorem planemapShare (f : FmtZ) : Statement (.planemapShare f) := two rfl (by rw [FmtZ.word0_op]; rfl) (f.word0_e _)
theorem planemapGet (f : FmtZ) : Statement (.planemapGet f) := two rfl (by rw [FmtZ.word0_op]; rfl) (f.word0_e _)
theorem planemapRetrain (f : FmtZ) : Statement (.planemapRetrain f) := two rfl (by rw [FmtZ.word0_op]; rfl) (f.word0_e _)
theorem paritycfgSet (f : FmtZ) : Statement (.paritycfgSet f) := two rfl (by rw [FmtZ.word0_op]; rfl) (f.word0_e _)
theorem paritycfgRebuild (f : FmtZ) : Statement (.paritycfgRebuild f) := two rfl (by rw [FmtZ.word0_op]; rfl) (f.word0_e _)
theorem paritycfgGet (f : FmtZ) : Statement (.paritycfgGet f) := two rfl (by rw [FmtZ.word0_op]; rfl) (f.word0_e _)
theorem nlaunch (f : FmtL) : Statement (.nlaunch f) := two rfl (by rw [FmtL.word0_op]; rfl) (f.word0_e _)
theorem nwait (f : FmtA) : Statement (.nwait f) := two rfl (by rw [FmtA.word0_op]; rfl) (f.word0_e _)
theorem nquery (f : FmtL) : Statement (.nquery f) := two rfl (by rw [FmtL.word0_op]; rfl) (f.word0_e _)
theorem placeRsv (f : FmtL) : Statement (.placeRsv f) := two rfl (by rw [FmtL.word0_op]; rfl) (f.word0_e _)
theorem placeFree (f : FmtL) : Statement (.placeFree f) := two rfl (by rw [FmtL.word0_op]; rfl) (f.word0_e _)
theorem placeClose (f : FmtL) : Statement (.placeClose f) := two rfl (by rw [FmtL.word0_op]; rfl) (f.word0_e _)
theorem placeOpen (f : FmtL) : Statement (.placeOpen f) := two rfl (by rw [FmtL.word0_op]; rfl) (f.word0_e _)
theorem preempt (f : FmtL) : Statement (.preempt f) := two rfl (by rw [FmtL.word0_op]; rfl) (f.word0_e _)
theorem slicesetAssign (f : FmtL) : Statement (.slicesetAssign f) := two rfl (by rw [FmtL.word0_op]; rfl) (f.word0_e _)
theorem slicesetTarget (f : FmtL) : Statement (.slicesetTarget f) := two rfl (by rw [FmtL.word0_op]; rfl) (f.word0_e _)
theorem slicesetMove (f : FmtL) : Statement (.slicesetMove f) := two rfl (by rw [FmtL.word0_op]; rfl) (f.word0_e _)
theorem slicesetPool (f : FmtL) : Statement (.slicesetPool f) := two rfl (by rw [FmtL.word0_op]; rfl) (f.word0_e _)
theorem addS (f : FmtS) : Statement (.addS f) := one rfl (by rw [FmtS.word_op]; rfl) (f.word_e _)
theorem add (f : FmtA) : Statement (.add f) := two rfl (by rw [FmtA.word0_op]; rfl) (f.word0_e _)
theorem addc (f : FmtA) : Statement (.addc f) := two rfl (by rw [FmtA.word0_op]; rfl) (f.word0_e _)
theorem subS (f : FmtS) : Statement (.subS f) := one rfl (by rw [FmtS.word_op]; rfl) (f.word_e _)
theorem sub (f : FmtA) : Statement (.sub f) := two rfl (by rw [FmtA.word0_op]; rfl) (f.word0_e _)
theorem subb (f : FmtA) : Statement (.subb f) := two rfl (by rw [FmtA.word0_op]; rfl) (f.word0_e _)
theorem sadd (f : FmtA) : Statement (.sadd f) := two rfl (by rw [FmtA.word0_op]; rfl) (f.word0_e _)
theorem ssub (f : FmtA) : Statement (.ssub f) := two rfl (by rw [FmtA.word0_op]; rfl) (f.word0_e _)
theorem mulS (f : FmtS) : Statement (.mulS f) := one rfl (by rw [FmtS.word_op]; rfl) (f.word_e _)
theorem mul (f : FmtA) : Statement (.mul f) := two rfl (by rw [FmtA.word0_op]; rfl) (f.word0_e _)
theorem mulh (f : FmtA) : Statement (.mulh f) := two rfl (by rw [FmtA.word0_op]; rfl) (f.word0_e _)
theorem mad (f : FmtA) : Statement (.mad f) := two rfl (by rw [FmtA.word0_op]; rfl) (f.word0_e _)
theorem div (f : FmtL) : Statement (.div f) := two rfl (by rw [FmtL.word0_op]; rfl) (f.word0_e _)
theorem rem (f : FmtL) : Statement (.rem f) := two rfl (by rw [FmtL.word0_op]; rfl) (f.word0_e _)
theorem dot4 (f : FmtA) : Statement (.dot4 f) := two rfl (by rw [FmtA.word0_op]; rfl) (f.word0_e _)
theorem minS (f : FmtS) : Statement (.minS f) := one rfl (by rw [FmtS.word_op]; rfl) (f.word_e _)
theorem min (f : FmtA) : Statement (.min f) := two rfl (by rw [FmtA.word0_op]; rfl) (f.word0_e _)
theorem maxS (f : FmtS) : Statement (.maxS f) := one rfl (by rw [FmtS.word_op]; rfl) (f.word_e _)
theorem max (f : FmtA) : Statement (.max f) := two rfl (by rw [FmtA.word0_op]; rfl) (f.word0_e _)
theorem abs (f : FmtA) : Statement (.abs f) := two rfl (by rw [FmtA.word0_op]; rfl) (f.word0_e _)
theorem neg (f : FmtA) : Statement (.neg f) := two rfl (by rw [FmtA.word0_op]; rfl) (f.word0_e _)
theorem andS (f : FmtS) : Statement (.andS f) := one rfl (by rw [FmtS.word_op]; rfl) (f.word_e _)
theorem and (f : FmtA) : Statement (.and f) := two rfl (by rw [FmtA.word0_op]; rfl) (f.word0_e _)
theorem orS (f : FmtS) : Statement (.orS f) := one rfl (by rw [FmtS.word_op]; rfl) (f.word_e _)
theorem or (f : FmtA) : Statement (.or f) := two rfl (by rw [FmtA.word0_op]; rfl) (f.word0_e _)
theorem xorS (f : FmtS) : Statement (.xorS f) := one rfl (by rw [FmtS.word_op]; rfl) (f.word_e _)
theorem xor (f : FmtA) : Statement (.xor f) := two rfl (by rw [FmtA.word0_op]; rfl) (f.word0_e _)
theorem andnS (f : FmtS) : Statement (.andnS f) := one rfl (by rw [FmtS.word_op]; rfl) (f.word_e _)
theorem andn (f : FmtA) : Statement (.andn f) := two rfl (by rw [FmtA.word0_op]; rfl) (f.word0_e _)
theorem not (f : FmtA) : Statement (.not f) := two rfl (by rw [FmtA.word0_op]; rfl) (f.word0_e _)
theorem shlS (f : FmtS) : Statement (.shlS f) := one rfl (by rw [FmtS.word_op]; rfl) (f.word_e _)
theorem shl (f : FmtA) : Statement (.shl f) := two rfl (by rw [FmtA.word0_op]; rfl) (f.word0_e _)
theorem shrS (f : FmtS) : Statement (.shrS f) := one rfl (by rw [FmtS.word_op]; rfl) (f.word_e _)
theorem shr (f : FmtA) : Statement (.shr f) := two rfl (by rw [FmtA.word0_op]; rfl) (f.word0_e _)
theorem sarS (f : FmtS) : Statement (.sarS f) := one rfl (by rw [FmtS.word_op]; rfl) (f.word_e _)
theorem sar (f : FmtA) : Statement (.sar f) := two rfl (by rw [FmtA.word0_op]; rfl) (f.word0_e _)
theorem rolS (f : FmtS) : Statement (.rolS f) := one rfl (by rw [FmtS.word_op]; rfl) (f.word_e _)
theorem rol (f : FmtA) : Statement (.rol f) := two rfl (by rw [FmtA.word0_op]; rfl) (f.word0_e _)
theorem bfx (f : FmtA) : Statement (.bfx f) := two rfl (by rw [FmtA.word0_op]; rfl) (f.word0_e _)
theorem bfi (f : FmtA) : Statement (.bfi f) := two rfl (by rw [FmtA.word0_op]; rfl) (f.word0_e _)
theorem popc (f : FmtA) : Statement (.popc f) := two rfl (by rw [FmtA.word0_op]; rfl) (f.word0_e _)
theorem clz (f : FmtA) : Statement (.clz f) := two rfl (by rw [FmtA.word0_op]; rfl) (f.word0_e _)
theorem ctz (f : FmtA) : Statement (.ctz f) := two rfl (by rw [FmtA.word0_op]; rfl) (f.word0_e _)
theorem brev (f : FmtA) : Statement (.brev f) := two rfl (by rw [FmtA.word0_op]; rfl) (f.word0_e _)
theorem prmt (f : FmtA) : Statement (.prmt f) := two rfl (by rw [FmtA.word0_op]; rfl) (f.word0_e _)
theorem sel (f : FmtA) : Statement (.sel f) := two rfl (by rw [FmtA.word0_op]; rfl) (f.word0_e _)
theorem setp (f : FmtA) : Statement (.setp f) := two rfl (by rw [FmtA.word0_op]; rfl) (f.word0_e _)
theorem pand (f : FmtA) : Statement (.pand f) := two rfl (by rw [FmtA.word0_op]; rfl) (f.word0_e _)
theorem por (f : FmtA) : Statement (.por f) := two rfl (by rw [FmtA.word0_op]; rfl) (f.word0_e _)
theorem pxor (f : FmtA) : Statement (.pxor f) := two rfl (by rw [FmtA.word0_op]; rfl) (f.word0_e _)
theorem pnot (f : FmtA) : Statement (.pnot f) := two rfl (by rw [FmtA.word0_op]; rfl) (f.word0_e _)
theorem movS (f : FmtS) : Statement (.movS f) := one rfl (by rw [FmtS.word_op]; rfl) (f.word_e _)
theorem mov (f : FmtA) : Statement (.mov f) := two rfl (by rw [FmtA.word0_op]; rfl) (f.word0_e _)
theorem movi (f : FmtI) : Statement (.movi f) := two rfl (by rw [FmtI.word0_op]; rfl) (f.word0_e _)
theorem lea (f : FmtA) : Statement (.lea f) := two rfl (by rw [FmtA.word0_op]; rfl) (f.word0_e _)
theorem cvti (f : FmtA) : Statement (.cvti f) := two rfl (by rw [FmtA.word0_op]; rfl) (f.word0_e _)
theorem braShort (f : FmtB1) : Statement (.braShort f) := one rfl (by rw [FmtB1.word_op]; rfl) (f.word_e _)
theorem bra (f : FmtB2) : Statement (.bra f) := two rfl (by rw [FmtB2.word0_op]; rfl) (f.word0_e _)
theorem brc (f : FmtB2) : Statement (.brc f) := two rfl (by rw [FmtB2.word0_op]; rfl) (f.word0_e _)
theorem brx (f : FmtB2) : Statement (.brx f) := two rfl (by rw [FmtB2.word0_op]; rfl) (f.word0_e _)
theorem callShort (f : FmtB1) : Statement (.callShort f) := one rfl (by rw [FmtB1.word_op]; rfl) (f.word_e _)
theorem call (f : FmtB2) : Statement (.call f) := two rfl (by rw [FmtB2.word0_op]; rfl) (f.word0_e _)
theorem retShort (f : FmtB1) : Statement (.retShort f) := one rfl (by rw [FmtB1.word_op]; rfl) (f.word_e _)
theorem ret (f : FmtB2) : Statement (.ret f) := two rfl (by rw [FmtB2.word0_op]; rfl) (f.word0_e _)
theorem exitShort (f : FmtB1) : Statement (.exitShort f) := one rfl (by rw [FmtB1.word_op]; rfl) (f.word_e _)
theorem exit (f : FmtB2) : Statement (.exit f) := two rfl (by rw [FmtB2.word0_op]; rfl) (f.word0_e _)
theorem nopShort (f : FmtB1) : Statement (.nopShort f) := one rfl (by rw [FmtB1.word_op]; rfl) (f.word_e _)
theorem nop (f : FmtB2) : Statement (.nop f) := two rfl (by rw [FmtB2.word0_op]; rfl) (f.word0_e _)
theorem join (f : FmtA) : Statement (.join f) := two rfl (by rw [FmtA.word0_op]; rfl) (f.word0_e _)
theorem leave (f : FmtA) : Statement (.leave f) := two rfl (by rw [FmtA.word0_op]; rfl) (f.word0_e _)
theorem waitm (f : FmtA) : Statement (.waitm f) := two rfl (by rw [FmtA.word0_op]; rfl) (f.word0_e _)
theorem mask (f : FmtA) : Statement (.mask f) := two rfl (by rw [FmtA.word0_op]; rfl) (f.word0_e _)
theorem elect (f : FmtA) : Statement (.elect f) := two rfl (by rw [FmtA.word0_op]; rfl) (f.word0_e _)
theorem vote (f : FmtA) : Statement (.vote f) := two rfl (by rw [FmtA.word0_op]; rfl) (f.word0_e _)
theorem shfl (f : FmtA) : Statement (.shfl f) := two rfl (by rw [FmtA.word0_op]; rfl) (f.word0_e _)
theorem scan (f : FmtA) : Statement (.scan f) := two rfl (by rw [FmtA.word0_op]; rfl) (f.word0_e _)
theorem lred (f : FmtA) : Statement (.lred f) := two rfl (by rw [FmtA.word0_op]; rfl) (f.word0_e _)
theorem matchL (f : FmtA) : Statement (.matchL f) := two rfl (by rw [FmtA.word0_op]; rfl) (f.word0_e _)
theorem sleep (f : FmtA) : Statement (.sleep f) := two rfl (by rw [FmtA.word0_op]; rfl) (f.word0_e _)
theorem fadd (f : FmtA) : Statement (.fadd f) := two rfl (by rw [FmtA.word0_op]; rfl) (f.word0_e _)
theorem fsub (f : FmtA) : Statement (.fsub f) := two rfl (by rw [FmtA.word0_op]; rfl) (f.word0_e _)
theorem fmul (f : FmtA) : Statement (.fmul f) := two rfl (by rw [FmtA.word0_op]; rfl) (f.word0_e _)
theorem ffma (f : FmtA) : Statement (.ffma f) := two rfl (by rw [FmtA.word0_op]; rfl) (f.word0_e _)
theorem fmin (f : FmtA) : Statement (.fmin f) := two rfl (by rw [FmtA.word0_op]; rfl) (f.word0_e _)
theorem fmax (f : FmtA) : Statement (.fmax f) := two rfl (by rw [FmtA.word0_op]; rfl) (f.word0_e _)
theorem fcmp (f : FmtA) : Statement (.fcmp f) := two rfl (by rw [FmtA.word0_op]; rfl) (f.word0_e _)
theorem fclass (f : FmtA) : Statement (.fclass f) := two rfl (by rw [FmtA.word0_op]; rfl) (f.word0_e _)
theorem fcvt (f : FmtA) : Statement (.fcvt f) := two rfl (by rw [FmtA.word0_op]; rfl) (f.word0_e _)
theorem frnd (f : FmtA) : Statement (.frnd f) := two rfl (by rw [FmtA.word0_op]; rfl) (f.word0_e _)
theorem fscl (f : FmtA) : Statement (.fscl f) := two rfl (by rw [FmtA.word0_op]; rfl) (f.word0_e _)
theorem frcp (f : FmtL) : Statement (.frcp f) := two rfl (by rw [FmtL.word0_op]; rfl) (f.word0_e _)
theorem frsq (f : FmtL) : Statement (.frsq f) := two rfl (by rw [FmtL.word0_op]; rfl) (f.word0_e _)
theorem fsqrt (f : FmtL) : Statement (.fsqrt f) := two rfl (by rw [FmtL.word0_op]; rfl) (f.word0_e _)
theorem fex2 (f : FmtL) : Statement (.fex2 f) := two rfl (by rw [FmtL.word0_op]; rfl) (f.word0_e _)
theorem flg2 (f : FmtL) : Statement (.flg2 f) := two rfl (by rw [FmtL.word0_op]; rfl) (f.word0_e _)
theorem fsin (f : FmtL) : Statement (.fsin f) := two rfl (by rw [FmtL.word0_op]; rfl) (f.word0_e _)
theorem fcos (f : FmtL) : Statement (.fcos f) := two rfl (by rw [FmtL.word0_op]; rfl) (f.word0_e _)
theorem ftanh (f : FmtL) : Statement (.ftanh f) := two rfl (by rw [FmtL.word0_op]; rfl) (f.word0_e _)
theorem fsigm (f : FmtL) : Statement (.fsigm f) := two rfl (by rw [FmtL.word0_op]; rfl) (f.word0_e _)
theorem flagrd (f : FmtA) : Statement (.flagrd f) := two rfl (by rw [FmtA.word0_op]; rfl) (f.word0_e _)
theorem flagclr (f : FmtA) : Statement (.flagclr f) := two rfl (by rw [FmtA.word0_op]; rfl) (f.word0_e _)
theorem hadd2 (f : FmtA) : Statement (.hadd2 f) := two rfl (by rw [FmtA.word0_op]; rfl) (f.word0_e _)
theorem hmul2 (f : FmtA) : Statement (.hmul2 f) := two rfl (by rw [FmtA.word0_op]; rfl) (f.word0_e _)
theorem hfma2 (f : FmtA) : Statement (.hfma2 f) := two rfl (by rw [FmtA.word0_op]; rfl) (f.word0_e _)
theorem pack8 (f : FmtA) : Statement (.pack8 f) := two rfl (by rw [FmtA.word0_op]; rfl) (f.word0_e _)
theorem unpack8 (f : FmtA) : Statement (.unpack8 f) := two rfl (by rw [FmtA.word0_op]; rfl) (f.word0_e _)
theorem ld (f : FmtM) : Statement (.ld f) := two rfl (by rw [FmtM.word0_op]; rfl) (f.word0_e _)
theorem st (f : FmtM) : Statement (.st f) := two rfl (by rw [FmtM.word0_op]; rfl) (f.word0_e _)
theorem lds (f : FmtM) : Statement (.lds f) := two rfl (by rw [FmtM.word0_op]; rfl) (f.word0_e _)
theorem sts (f : FmtM) : Statement (.sts f) := two rfl (by rw [FmtM.word0_op]; rfl) (f.word0_e _)
theorem prf (f : FmtM) : Statement (.prf f) := two rfl (by rw [FmtM.word0_op]; rfl) (f.word0_e _)
theorem mprobe (f : FmtM) : Statement (.mprobe f) := two rfl (by rw [FmtM.word0_op]; rfl) (f.word0_e _)
theorem dirtysw (f : FmtL) : Statement (.dirtysw f) := two rfl (by rw [FmtL.word0_op]; rfl) (f.word0_e _)
theorem fence (f : FmtL) : Statement (.fence f) := two rfl (by rw [FmtL.word0_op]; rfl) (f.word0_e _)
theorem acq (f : FmtL) : Statement (.acq f) := two rfl (by rw [FmtL.word0_op]; rfl) (f.word0_e _)
theorem rel (f : FmtL) : Statement (.rel f) := two rfl (by rw [FmtL.word0_op]; rfl) (f.word0_e _)
theorem bind (f : FmtL) : Statement (.bind f) := two rfl (by rw [FmtL.word0_op]; rfl) (f.word0_e _)
theorem unbind (f : FmtL) : Statement (.unbind f) := two rfl (by rw [FmtL.word0_op]; rfl) (f.word0_e _)
theorem atom (f : FmtL) : Statement (.atom f) := two rfl (by rw [FmtL.word0_op]; rfl) (f.word0_e _)
theorem atomSp (f : FmtL) : Statement (.atomSp f) := two rfl (by rw [FmtL.word0_op]; rfl) (f.word0_e _)
theorem red (f : FmtL) : Statement (.red f) := two rfl (by rw [FmtL.word0_op]; rfl) (f.word0_e _)
theorem redSp (f : FmtL) : Statement (.redSp f) := two rfl (by rw [FmtL.word0_op]; rfl) (f.word0_e _)
theorem take (f : FmtL) : Statement (.take f) := two rfl (by rw [FmtL.word0_op]; rfl) (f.word0_e _)
theorem tknew (f : FmtL) : Statement (.tknew f) := two rfl (by rw [FmtL.word0_op]; rfl) (f.word0_e _)
theorem tksave (f : FmtL) : Statement (.tksave f) := two rfl (by rw [FmtL.word0_op]; rfl) (f.word0_e _)
theorem tkload (f : FmtL) : Statement (.tkload f) := two rfl (by rw [FmtL.word0_op]; rfl) (f.word0_e _)
theorem tkdrainClose (f : FmtL) : Statement (.tkdrainClose f) := two rfl (by rw [FmtL.word0_op]; rfl) (f.word0_e _)
theorem tkdrainOpen (f : FmtL) : Statement (.tkdrainOpen f) := two rfl (by rw [FmtL.word0_op]; rfl) (f.word0_e _)
theorem tkdrainFree (f : FmtL) : Statement (.tkdrainFree f) := two rfl (by rw [FmtL.word0_op]; rfl) (f.word0_e _)
theorem barinit (f : FmtA) : Statement (.barinit f) := two rfl (by rw [FmtA.word0_op]; rfl) (f.word0_e _)
theorem arrive (f : FmtA) : Statement (.arrive f) := two rfl (by rw [FmtA.word0_op]; rfl) (f.word0_e _)
theorem arriveClu (f : FmtA) : Statement (.arriveClu f) := two rfl (by rw [FmtA.word0_op]; rfl) (f.word0_e _)
theorem arriveDom (f : FmtA) : Statement (.arriveDom f) := two rfl (by rw [FmtA.word0_op]; rfl) (f.word0_e _)
theorem expect (f : FmtA) : Statement (.expect f) := two rfl (by rw [FmtA.word0_op]; rfl) (f.word0_e _)
theorem barwait (f : FmtA) : Statement (.barwait f) := two rfl (by rw [FmtA.word0_op]; rfl) (f.word0_e _)
theorem bartest (f : FmtA) : Statement (.bartest f) := two rfl (by rw [FmtA.word0_op]; rfl) (f.word0_e _)
theorem cpb (f : FmtL) : Statement (.cpb f) := two rfl (by rw [FmtL.word0_op]; rfl) (f.word0_e _)
theorem cpt (f : FmtL) : Statement (.cpt f) := two rfl (by rw [FmtL.word0_op]; rfl) (f.word0_e _)
theorem cpl (f : FmtL) : Statement (.cpl f) := two rfl (by rw [FmtL.word0_op]; rfl) (f.word0_e _)
theorem cpa (f : FmtL) : Statement (.cpa f) := two rfl (by rw [FmtL.word0_op]; rfl) (f.word0_e _)
theorem cpcan (f : FmtL) : Statement (.cpcan f) := two rfl (by rw [FmtL.word0_op]; rfl) (f.word0_e _)
theorem tdef (f : FmtL) : Statement (.tdef f) := two rfl (by rw [FmtL.word0_op]; rfl) (f.word0_e _)
theorem tseal (f : FmtL) : Statement (.tseal f) := two rfl (by rw [FmtL.word0_op]; rfl) (f.word0_e _)
theorem tdrop (f : FmtL) : Statement (.tdrop f) := two rfl (by rw [FmtL.word0_op]; rfl) (f.word0_e _)
theorem tquery (f : FmtL) : Statement (.tquery f) := two rfl (by rw [FmtL.word0_op]; rfl) (f.word0_e _)
theorem gang (f : FmtA) : Statement (.gang f) := two rfl (by rw [FmtA.word0_op]; rfl) (f.word0_e _)
theorem oclaim (f : FmtL) : Statement (.oclaim f) := two rfl (by rw [FmtL.word0_op]; rfl) (f.word0_e _)
theorem orel (f : FmtA) : Statement (.orel f) := two rfl (by rw [FmtA.word0_op]; rfl) (f.word0_e _)
theorem mma (f : FmtL) : Statement (.mma f) := two rfl (by rw [FmtL.word0_op]; rfl) (f.word0_e _)
theorem mmag (f : FmtL) : Statement (.mmag f) := two rfl (by rw [FmtL.word0_op]; rfl) (f.word0_e _)
theorem mmas (f : FmtL) : Statement (.mmas f) := two rfl (by rw [FmtL.word0_op]; rfl) (f.word0_e _)
theorem accz (f : FmtL) : Statement (.accz f) := two rfl (by rw [FmtL.word0_op]; rfl) (f.word0_e _)
theorem moduleReset : Statement .moduleReset := .inl rfl
theorem novigImageUpdate : Statement .novigImageUpdate := .inl rfl
theorem novigQuarantineClear : Statement .novigQuarantineClear := .inl rfl
theorem buyerKeyAdd : Statement .buyerKeyAdd := .inl rfl
theorem gracePeriodExpiry : Statement .gracePeriodExpiry := .inl rfl
theorem clauseFetch : Statement .clauseFetch := .inl rfl
theorem clauseBoundary : Statement .clauseBoundary := .inl rfl
theorem ageRuleFill : Statement .ageRuleFill := .inl rfl
theorem opfRecordWrite : Statement .opfRecordWrite := .inl rfl
theorem longLatencyCommit : Statement .longLatencyCommit := .inl rfl
theorem errorCompletion : Statement .errorCompletion := .inl rfl
theorem syncDeadlock : Statement .syncDeadlock := .inl rfl
theorem rendezvousRelease : Statement .rendezvousRelease := .inl rfl
theorem joinRelease : Statement .joinRelease := .inl rfl
theorem waitmRelease : Statement .waitmRelease := .inl rfl
theorem sleepExpiry : Statement .sleepExpiry := .inl rfl
theorem nwaitWake : Statement .nwaitWake := .inl rfl
theorem bankQueueWrite : Statement .bankQueueWrite := .inl rfl
theorem cacheWriteBack : Statement .cacheWriteBack := .inl rfl
theorem tableWalk : Statement .tableWalk := .inl rfl
theorem atomicRequestServe : Statement .atomicRequestServe := .inl rfl
theorem ticketTokenExit : Statement .ticketTokenExit := .inl rfl
theorem barrierArrivalCount : Statement .barrierArrivalCount := .inl rfl
theorem remoteArrival : Statement .remoteArrival := .inl rfl
theorem copyJobStart : Statement .copyJobStart := .inl rfl
theorem copyChunk : Statement .copyChunk := .inl rfl
theorem copyWindowDeadlock : Statement .copyWindowDeadlock := .inl rfl
theorem claimGrant : Statement .claimGrant := .inl rfl
theorem latchCommandAccept : Statement .latchCommandAccept := .inl rfl
theorem matrixCommandStart : Statement .matrixCommandStart := .inl rfl
theorem groupKStep : Statement .groupKStep := .inl rfl
theorem sramUncorrectable : Statement .sramUncorrectable := .inl rfl
theorem stackUncorrectable : Statement .stackUncorrectable := .inl rfl
theorem patrolScrub : Statement .patrolScrub := .inl rfl
theorem laneFailure : Statement .laneFailure := .inl rfl
theorem sliceErrorRateFail : Statement .sliceErrorRateFail := .inl rfl
theorem stackLost : Statement .stackLost := .inl rfl
theorem coreSelftestFail : Statement .coreSelftestFail := .inl rfl
theorem pcieLinkChange : Statement .pcieLinkChange := .inl rfl
theorem suspicionHalving : Statement .suspicionHalving := .inl rfl
theorem controlCoreRestart : Statement .controlCoreRestart := .inl rfl
theorem contextEndDone : Statement .contextEndDone := .inl rfl
theorem commandWindowExec : Statement .commandWindowExec := .inl rfl
theorem qtailWrite : Statement .qtailWrite := .inl rfl
theorem qctlWrite : Statement .qctlWrite := .inl rfl
theorem packetTake : Statement .packetTake := .inl rfl
theorem dispatchPass : Statement .dispatchPass := .inl rfl
theorem regionReserve : Statement .regionReserve := .inl rfl
theorem serviceWindow : Statement .serviceWindow := .inl rfl
theorem nodeCompletion : Statement .nodeCompletion := .inl rfl
theorem evqRead : Statement .evqRead := .inl rfl
theorem evSetWrite : Statement .evSetWrite := .inl rfl
theorem evClrWrite : Statement .evClrWrite := .inl rfl
theorem rerunEnd : Statement .rerunEnd := .inl rfl
theorem registerWrite : Statement .registerWrite := .inl rfl
theorem ucieFlitReceive : Statement .ucieFlitReceive := .inl rfl
theorem ucieLaneEvent : Statement .ucieLaneEvent := .inl rfl
theorem transactionReceive : Statement .transactionReceive := .inl rfl
theorem guestusFlitReceive : Statement .guestusFlitReceive := .inl rfl
theorem fabricPortDown : Statement .fabricPortDown := .inl rfl
theorem rankLoss : Statement .rankLoss := .inl rfl
theorem tagWindowClose : Statement .tagWindowClose := .inl rfl
theorem tagVerify : Statement .tagVerify := .inl rfl
theorem tagTimeout : Statement .tagTimeout := .inl rfl
theorem parityRebuild : Statement .parityRebuild := .inl rfl
theorem hostAtomicCompletion : Statement .hostAtomicCompletion := .inl rfl
theorem pxRespWrite : Statement .pxRespWrite := .inl rfl
theorem proxyTimeout : Statement .proxyTimeout := .inl rfl
theorem atsInvalidation : Statement .atsInvalidation := .inl rfl
theorem atsAbortTimeout : Statement .atsAbortTimeout := .inl rfl
theorem hostDmaWrite : Statement .hostDmaWrite := .inl rfl
theorem vfTableWrite : Statement .vfTableWrite := .inl rfl
theorem functionLevelReset : Statement .functionLevelReset := .inl rfl
theorem eventRecordDelivery : Statement .eventRecordDelivery := .inl rfl
theorem tdiStateChange : Statement .tdiStateChange := .inl rfl
theorem hostAtomicopToBar : Statement .hostAtomicopToBar := .inl rfl

end Sys2Proof.Laws.Encoding
end

