-- ==== Sys2Proof/Tests/Slice0.lean ====
section
/-! SUPPORT. The model's own tests: ill-formed terms that the check refuses; words written out from the encodings of
the spec; and for every statement with hypotheses a concrete state and operands that meet them. -/
namespace Sys2Proof.Tests
set_option Elab.async false
open Machine Claim

/-! ### WellFormed: a term that each check refuses, with the code of R77 that it stands for -/

/-- The code of the check of R77 that refuses the instruction. -/
def refusal (i : Instr) : Option Nat := (staticCheck i).map (·.code)
/-- A sum of two registers, unguarded. -/
def sum : FmtA := { d := 2, a := 0, fn := 0, ib := 0, ic := 0, gn := 0, gp := 7, b := 1, c := 0, ty := 6, rm := 0, st := 0, u := 0 }
/-- A division: in format L, C is 248. -/
def quot : FmtL := { d := 2, a := 0, sb := 0, la := 0, gn := 0, gp := 7, b := 1, c := 248, tail := 0x180 }

theorem test_wf_accepts : (Instr.add sum).wf = true ∧ (Instr.div quot).wf = true := by decide
/-- C of ADD is reserved, and C of DIV must hold 248 (R69, R127). -/
theorem test_wf_refuses_reserved_fields : refusal (.add { sum with c := 3 }) = some 0x1002 ∧ refusal (.div { quot with c := 0 }) = some 0x1002 := by decide
/-- TRET takes FN 0 alone, MOV no A (R103, R127). -/
theorem test_wf_refuses_in_the_first_word : refusal (.tret { d := 0, a := 0, fn := 1, gn := 0, gp := 7, cr := 0, imm := 0 }) = some 0x1002
    ∧ refusal (.mov { sum with a := 1 }) = some 0x1002 := by decide
/-- Reserved TY, RM, ST and U (R68, R69), and a uniform instruction under a guard (R122). -/
theorem test_wf_refuses_coded_values : refusal (.add { sum with ty := 0x0B }) = some 0x1002 ∧ refusal (.add { sum with rm := 1 }) = some 0x1002 ∧
    refusal (.add { sum with st := 1 }) = some 0x1002 ∧ refusal (.add { sum with u := 3 }) = some 0x1002 ∧
    refusal (.add { sum with u := 2, gp := 0 }) = some 0x1002 := by decide
/-- A destination that holds 248, an odd pair, a pair past the last register (R66). -/
theorem test_wf_refuses_registers : refusal (.add { sum with d := 248 }) = some 0x1009 ∧ refusal (.add { sum with d := 3, ty := 7, b := 4 }) = some 0x1009 ∧
    refusal (.add { sum with a := 247, d := 4, b := 4, ty := 7 }) = some 0x1009 := by decide
/-- A temporary as the destination of a long-latency instruction, a link from 240 up, a vector code from 64 up in a
uniform position (R66, R149). -/
theorem test_wf_refuses_places : refusal (.div { quot with d := 240 }) = some 0x1009 ∧
    refusal (.call { off := 4, gn := 0, gp := 7, x := 240, fn := 0, low := 0 }) = some 0x1009 ∧ refusal (.add { sum with u := 1, b := 64 }) = some 0x1009 := by decide
/-- A mask above 11, a predicate above 7, a barrier above 15 (R66). -/
theorem test_wf_refuses_numbers : refusal (.join { sum with d := 0, a := 12, b := 0, ty := 0 }) = some 0x1009 ∧
    refusal (.setp { sum with d := 8 }) = some 0x1009 ∧ refusal (.bartest { sum with d := 8, a := 16, b := 0, ty := 0 }) = some 0x1009 := by decide
/-- An event of the table has no encoding. -/
theorem test_wf_refuses_events : (Instr.moduleReset).wf = false ∧ encode .moduleReset = [] := by decide

/-- A temporary that no earlier instruction of its clause wrote is refused, one that was written is not (R77 step 6). -/
theorem test_check_temporaries :
    (checkInstrs 240 0 1 (encode (.add { sum with a := 240 })) 1 []).map (·.code) = some 0x1008 ∧
    checkInstrs 240 0 2 (encode (.add { sum with d := 240 }) ++ encode (.add { sum with a := 240 })) 1 [] = none := by decide
/-- A header that is none, one with COUNT 0, one whose WORDS is wrong; an opcode that is not allocated, one of another
class, a clause-ending instruction that is not the last (R77). -/
theorem test_check_clauses :
    let nop := encode (.nopShort { off := 0 })
    let codes := fun ws => (checkClause 32 ws).map (·.code)
    codes (0x90010100 :: nop) = some 0x1006 ∧ codes (0xA0010000 :: nop) = some 0x1005 ∧ codes (0xA0020100 :: nop) = some 0x1007 ∧
    codes [0xA0010100, 0] = some 0x1001 ∧ codes (0xA0020100 :: encode (.div quot)) = none ∧
    codes (0xA0020100 :: encode (.mma { quot with d := 248, a := 0, b := 248, tail := 0 })) = some 0x1003 ∧
    codes (0xA0020200 :: (encode (.exitShort { off := 0 }) ++ nop)) = some 0x1004 ∧
    codes (0xA0010100 :: encode (.exitShort { off := 0 })) = none := by decide

/-! ### Words written out, field by field, from the encoding tables of the spec -/

/-- The words decode to the instruction, with nothing left over; it is well-formed and encodes to them. -/
def reads (ws : List Word) (i : Instr) : Bool :=
  (match decode ws with | .ok (j, []) => decide (j = i) | _ => false) && i.wf && encode i = ws
abbrev stands (l : List (List Word × Instr)) : Prop := l.all (fun e => reads e.1 e.2) = true
/-- R103. -/
theorem test_decode_system : stands [
  ([0x80800480, 0xE00007A5], .trap { d := 0, a := 9, fn := 0, gn := 1, gp := 6, cr := 0, imm := 1957 }),
  ([0x81000000, 0xE0000000], .tret { d := 0, a := 0, fn := 0, gn := 1, gp := 6, cr := 0, imm := 0 }),
  ([0x81028481, 0xE0000000], .tretRec { d := 5, a := 9, fn := 1, gn := 1, gp := 6, cr := 0, imm := 0 }),
  ([0x81830480, 0xE0310011], .crd { d := 6, a := 9, fn := 0, gn := 1, gp := 6, cr := 49, imm := 17 }),
  ([0x82030400, 0xE0420003], .cwr { d := 6, a := 8, fn := 0, gn := 1, gp := 6, cr := 66, imm := 3 }),
  ([0x82828400, 0xE0000000], .mapack { d := 5, a := 8, fn := 0, gn := 1, gp := 6, cr := 0, imm := 0 }),
  ([0x83020480, 0xE000017B], .maprd { d := 4, a := 9, fn := 0, gn := 1, gp := 6, cr := 0, imm := 379 }),
  ([0x838304D9, 0xB0AF8000], .ctxsaveSeal { d := 6, a := 9, sb := 5, la := 9, gn := 1, gp := 3, b := 10, c := 248, tail := 0x0 }),
  ([0x838304D9, 0xB00F8001], .ctxsaveReset { d := 6, a := 9, sb := 5, la := 9, gn := 1, gp := 3, b := 0, c := 248, tail := 0x1 }),
  ([0x840284D9, 0xB0AF8000], .ctxloadImage { d := 5, a := 9, sb := 5, la := 9, gn := 1, gp := 3, b := 10, c := 248, tail := 0x0 }),
  ([0x840284D9, 0xB0AF8001], .ctxloadNew { d := 5, a := 9, sb := 5, la := 9, gn := 1, gp := 3, b := 10, c := 248, tail := 0x1 }),
  ([0x840284D9, 0xB00F8002], .ctxloadResume { d := 5, a := 9, sb := 5, la := 9, gn := 1, gp := 3, b := 0, c := 248, tail := 0x2 }),
  ([0x848304D9, 0xB0A0B000], .kwrapGive { d := 6, a := 9, sb := 5, la := 9, gn := 1, gp := 3, b := 10, c := 11, tail := 0x0 }),
  ([0x84830059, 0xB0AF8001], .kwrapTake { d := 6, a := 0, sb := 5, la := 9, gn := 1, gp := 3, b := 10, c := 248, tail := 0x1 }),
  ([0x848304D9, 0xB0A0C002], .kwrapEscrow { d := 6, a := 9, sb := 5, la := 9, gn := 1, gp := 3, b := 10, c := 12, tail := 0x2 }),
  ([0x848304D9, 0xB0A0C003], .kwrapImport { d := 6, a := 9, sb := 5, la := 9, gn := 1, gp := 3, b := 10, c := 12, tail := 0x3 }),
  ([0x85028480, 0xE0000000], .kdrop { d := 5, a := 9, fn := 0, gn := 1, gp := 6, cr := 0, imm := 0 }),
  ([0x85028401, 0xE00003FF], .kdropErase { d := 5, a := 8, fn := 1, gn := 1, gp := 6, cr := 0, imm := 1023 }),
  ([0x85828459, 0xB0AF8000], .attestCtx { d := 5, a := 8, sb := 5, la := 9, gn := 1, gp := 3, b := 10, c := 248, tail := 0x0 }),
  ([0x85828459, 0xB0AF8001], .attestModule { d := 5, a := 8, sb := 5, la := 9, gn := 1, gp := 3, b := 10, c := 248, tail := 0x1 }),
  ([0x86030480, 0xE000003F], .cntrd { d := 6, a := 9, fn := 0, gn := 1, gp := 6, cr := 0, imm := 63 }),
  ([0x86830400, 0xE000003E], .cntcfg { d := 6, a := 8, fn := 0, gn := 1, gp := 6, cr := 0, imm := 62 }),
  ([0x87000480, 0xE00000FF], .moncfg { d := 0, a := 9, fn := 0, gn := 1, gp := 6, cr := 0, imm := 255 }),
  ([0x87830480, 0xE0000012], .monrd { d := 6, a := 9, fn := 0, gn := 1, gp := 6, cr := 0, imm := 18 }),
  ([0x88028400, 0xE0007FFE], .evpost { d := 5, a := 8, fn := 0, gn := 1, gp := 6, cr := 0, imm := 32766 }),
  ([0x88800000, 0xE0000000], .yieldC { d := 0, a := 0, fn := 0, gn := 1, gp := 6, cr := 0, imm := 0 }),
  ([0x89028459, 0xB09F8000], .scrubVirt { d := 5, a := 8, sb := 5, la := 9, gn := 1, gp := 3, b := 9, c := 248, tail := 0x0 }),
  ([0x89028459, 0xB09F8001], .scrubPhys { d := 5, a := 8, sb := 5, la := 9, gn := 1, gp := 3, b := 9, c := 248, tail := 0x1 })] := by decide +kernel
/-- R395. -/
theorem test_decode_fabric : stands [
  ([0x8C028480, 0xE000017F], .rankmapGet { d := 5, a := 9, fn := 0, gn := 1, gp := 6, cr := 0, imm := 383 }),
  ([0x8C028481, 0xE0000011], .rankmapSet { d := 5, a := 9, fn := 1, gn := 1, gp := 6, cr := 0, imm := 17 }),
  ([0x8C828480, 0xE0000008], .planemapMap { d := 5, a := 9, fn := 0, gn := 1, gp := 6, cr := 0, imm := 8 }),
  ([0x8C828481, 0xE00000BF], .planemapShare { d := 5, a := 9, fn := 1, gn := 1, gp := 6, cr := 0, imm := 191 }),
  ([0x8C82FC02, 0xE000000F], .planemapGet { d := 5, a := 248, fn := 2, gn := 1, gp := 6, cr := 0, imm := 15 }),
  ([0x8C82FC03, 0xE000000E], .planemapRetrain { d := 5, a := 248, fn := 3, gn := 1, gp := 6, cr := 0, imm := 14 }),
  ([0x8D028400, 0xE0000000], .paritycfgSet { d := 5, a := 8, fn := 0, gn := 1, gp := 6, cr := 0, imm := 0 }),
  ([0x8D02FC01, 0xE0000000], .paritycfgRebuild { d := 5, a := 248, fn := 1, gn := 1, gp := 6, cr := 0, imm := 0 }),
  ([0x8D027C02, 0xE0000000], .paritycfgGet { d := 4, a := 248, fn := 2, gn := 1, gp := 6, cr := 0, imm := 0 })] := by decide +kernel
/-- R355. -/
theorem test_decode_launch : stands [
  ([0xE8028459, 0xBF8F8000], .nlaunch { d := 5, a := 8, sb := 5, la := 9, gn := 1, gp := 3, b := 248, c := 248, tail := 0x0 }),
  ([0xE8828482, 0xAFA00000], .nwait { d := 5, a := 9, fn := 0, ib := 1, ic := 0, gn := 1, gp := 2, b := 250, c := 0, ty := 0, rm := 0, st := 0, u := 0 }),
  ([0xE90204D9, 0xBF8F8000], .nquery { d := 4, a := 9, sb := 5, la := 9, gn := 1, gp := 3, b := 248, c := 248, tail := 0x0 }),
  ([0xE98284D9, 0xB0AF8000], .placeRsv { d := 5, a := 9, sb := 5, la := 9, gn := 1, gp := 3, b := 10, c := 248, tail := 0x0 }),
  ([0xE98284D9, 0xBF8F8001], .placeFree { d := 5, a := 9, sb := 5, la := 9, gn := 1, gp := 3, b := 248, c := 248, tail := 0x1 }),
  ([0xE982FC59, 0xB0AF8002], .placeClose { d := 5, a := 248, sb := 5, la := 9, gn := 1, gp := 3, b := 10, c := 248, tail := 0x2 }),
  ([0xE982FC59, 0xB0AF8003], .placeOpen { d := 5, a := 248, sb := 5, la := 9, gn := 1, gp := 3, b := 10, c := 248, tail := 0x3 }),
  ([0xEA02FC59, 0xB0AF8000], .preempt { d := 5, a := 248, sb := 5, la := 9, gn := 1, gp := 3, b := 10, c := 248, tail := 0x0 }),
  ([0xEA8284D9, 0xB0AF8000], .slicesetAssign { d := 5, a := 9, sb := 5, la := 9, gn := 1, gp := 3, b := 10, c := 248, tail := 0x0 }),
  ([0xEA8284D9, 0xB0AF8001], .slicesetTarget { d := 5, a := 9, sb := 5, la := 9, gn := 1, gp := 3, b := 10, c := 248, tail := 0x1 }),
  ([0xEA8284D9, 0xB0BF8002], .slicesetMove { d := 5, a := 9, sb := 5, la := 9, gn := 1, gp := 3, b := 11, c := 248, tail := 0x2 }),
  ([0xEA82FC59, 0xB0A0C003], .slicesetPool { d := 5, a := 248, sb := 5, la := 9, gn := 1, gp := 3, b := 10, c := 12, tail := 0x3 })] := by decide +kernel
/-- R127. -/
theorem test_decode_integer : stands [
  ([0x90028480, 0xA0B00181], .add { d := 5, a := 9, fn := 0, ib := 0, ic := 0, gn := 1, gp := 2, b := 11, c := 0, ty := 6, rm := 0, st := 0, u := 1 }),
  ([0x90830204, 0xA0A031C0], .addc { d := 6, a := 4, fn := 1, ib := 0, ic := 0, gn := 1, gp := 2, b := 10, c := 3, ty := 7, rm := 0, st := 0, u := 0 }),
  ([0x91030202, 0xAC8000C0], .sub { d := 6, a := 4, fn := 0, ib := 1, ic := 0, gn := 1, gp := 2, b := 200, c := 0, ty := 3, rm := 0, st := 0, u := 0 }),
  ([0x91830200, 0xA0A05080], .subb { d := 6, a := 4, fn := 0, ib := 0, ic := 0, gn := 1, gp := 2, b := 10, c := 5, ty := 2, rm := 0, st := 0, u := 0 }),
  ([0x92028480, 0xA0B00041], .sadd { d := 5, a := 9, fn := 0, ib := 0, ic := 0, gn := 1, gp := 2, b := 11, c := 0, ty := 1, rm := 0, st := 0, u := 1 }),
  ([0x92828480, 0xA0B00141], .ssub { d := 5, a := 9, fn := 0, ib := 0, ic := 0, gn := 1, gp := 2, b := 11, c := 0, ty := 5, rm := 0, st := 0, u := 1 }),
  ([0x93028480, 0xA0B00001], .mul { d := 5, a := 9, fn := 0, ib := 0, ic := 0, gn := 1, gp := 2, b := 11, c := 0, ty := 0, rm := 0, st := 0, u := 1 }),
  ([0x93828480, 0xA0B00101], .mulh { d := 5, a := 9, fn := 0, ib := 0, ic := 0, gn := 1, gp := 2, b := 11, c := 0, ty := 4, rm := 0, st := 0, u := 1 }),
  ([0x94028481, 0xA0B0D080], .mad { d := 5, a := 9, fn := 0, ib := 0, ic := 1, gn := 1, gp := 2, b := 11, c := 13, ty := 2, rm := 0, st := 0, u := 0 }),
  ([0x94830259, 0xB0AF80C0], .div { d := 6, a := 4, sb := 5, la := 9, gn := 1, gp := 3, b := 10, c := 248, tail := 0xc0 }),
  ([0x950284D9, 0xB0BF8181], .rem { d := 5, a := 9, sb := 5, la := 9, gn := 1, gp := 3, b := 11, c := 248, tail := 0x181 }),
  ([0x95828480, 0xA0B0D100], .dot4 { d := 5, a := 9, fn := 0, ib := 0, ic := 0, gn := 1, gp := 2, b := 11, c := 13, ty := 4, rm := 0, st := 0, u := 0 }),
  ([0x96028480, 0xA0B00181], .min { d := 5, a := 9, fn := 0, ib := 0, ic := 0, gn := 1, gp := 2, b := 11, c := 0, ty := 6, rm := 0, st := 0, u := 1 }),
  ([0x96828480, 0xA0B00181], .max { d := 5, a := 9, fn := 0, ib := 0, ic := 0, gn := 1, gp := 2, b := 11, c := 0, ty := 6, rm := 0, st := 0, u := 1 }),
  ([0x97028480, 0x70000082], .abs { d := 5, a := 9, fn := 0, ib := 0, ic := 0, gn := 0, gp := 7, b := 0, c := 0, ty := 2, rm := 0, st := 0, u := 2 }),
  ([0x97830200, 0xA00000C0], .neg { d := 6, a := 4, fn := 0, ib := 0, ic := 0, gn := 1, gp := 2, b := 0, c := 0, ty := 3, rm := 0, st := 0, u := 0 }),
  ([0x98028480, 0xA0B00181], .and { d := 5, a := 9, fn := 0, ib := 0, ic := 0, gn := 1, gp := 2, b := 11, c := 0, ty := 6, rm := 0, st := 0, u := 1 }),
  ([0x98828480, 0xA0B00181], .or { d := 5, a := 9, fn := 0, ib := 0, ic := 0, gn := 1, gp := 2, b := 11, c := 0, ty := 6, rm := 0, st := 0, u := 1 }),
  ([0x99028480, 0xA0B00181], .xor { d := 5, a := 9, fn := 0, ib := 0, ic := 0, gn := 1, gp := 2, b := 11, c := 0, ty := 6, rm := 0, st := 0, u := 1 }),
  ([0x99828480, 0xA0B00181], .andn { d := 5, a := 9, fn := 0, ib := 0, ic := 0, gn := 1, gp := 2, b := 11, c := 0, ty := 6, rm := 0, st := 0, u := 1 }),
  ([0x9A028480, 0xA0000180], .not { d := 5, a := 9, fn := 0, ib := 0, ic := 0, gn := 1, gp := 2, b := 0, c := 0, ty := 6, rm := 0, st := 0, u := 0 }),
  ([0x9A828480, 0xA0B00181], .shl { d := 5, a := 9, fn := 0, ib := 0, ic := 0, gn := 1, gp := 2, b := 11, c := 0, ty := 6, rm := 0, st := 0, u := 1 }),
  ([0x9B028480, 0xA0B00181], .shr { d := 5, a := 9, fn := 0, ib := 0, ic := 0, gn := 1, gp := 2, b := 11, c := 0, ty := 6, rm := 0, st := 0, u := 1 }),
  ([0x9B828480, 0xA0B00181], .sar { d := 5, a := 9, fn := 0, ib := 0, ic := 0, gn := 1, gp := 2, b := 11, c := 0, ty := 6, rm := 0, st := 0, u := 1 }),
  ([0x9C028480, 0xA0B00181], .rol { d := 5, a := 9, fn := 0, ib := 0, ic := 0, gn := 1, gp := 2, b := 11, c := 0, ty := 6, rm := 0, st := 0, u := 1 }),
  ([0x9C828483, 0xA0B0D180], .bfx { d := 5, a := 9, fn := 0, ib := 1, ic := 1, gn := 1, gp := 2, b := 11, c := 13, ty := 6, rm := 0, st := 0, u := 0 }),
  ([0x9D028480, 0xA0B0D180], .bfi { d := 5, a := 9, fn := 0, ib := 0, ic := 0, gn := 1, gp := 2, b := 11, c := 13, ty := 6, rm := 0, st := 0, u := 0 }),
  ([0x9D828480, 0xA0000180], .popc { d := 5, a := 9, fn := 0, ib := 0, ic := 0, gn := 1, gp := 2, b := 0, c := 0, ty := 6, rm := 0, st := 0, u := 0 }),
  ([0x9E028480, 0xA0000180], .clz { d := 5, a := 9, fn := 0, ib := 0, ic := 0, gn := 1, gp := 2, b := 0, c := 0, ty := 6, rm := 0, st := 0, u := 0 }),
  ([0x9E828480, 0xA0000180], .ctz { d := 5, a := 9, fn := 0, ib := 0, ic := 0, gn := 1, gp := 2, b := 0, c := 0, ty := 6, rm := 0, st := 0, u := 0 }),
  ([0x9F028480, 0xA0000180], .brev { d := 5, a := 9, fn := 0, ib := 0, ic := 0, gn := 1, gp := 2, b := 0, c := 0, ty := 6, rm := 0, st := 0, u := 0 }),
  ([0x9F828480, 0xA0B0D000], .prmt { d := 5, a := 9, fn := 0, ib := 0, ic := 0, gn := 1, gp := 2, b := 11, c := 13, ty := 0, rm := 0, st := 0, u := 0 }),
  ([0xA0028480, 0xA0B04080], .sel { d := 5, a := 9, fn := 0, ib := 0, ic := 0, gn := 1, gp := 2, b := 11, c := 4, ty := 2, rm := 0, st := 0, u := 0 }),
  ([0xA08184D4, 0xA0B04080], .setp { d := 3, a := 9, fn := 21, ib := 0, ic := 0, gn := 1, gp := 2, b := 11, c := 4, ty := 2, rm := 0, st := 0, u := 0 }),
  ([0xA1018200, 0xA0500000], .pand { d := 3, a := 4, fn := 0, ib := 0, ic := 0, gn := 1, gp := 2, b := 5, c := 0, ty := 0, rm := 0, st := 0, u := 0 }),
  ([0xA1818200, 0xA0500000], .por { d := 3, a := 4, fn := 0, ib := 0, ic := 0, gn := 1, gp := 2, b := 5, c := 0, ty := 0, rm := 0, st := 0, u := 0 }),
  ([0xA2018200, 0xA0500000], .pxor { d := 3, a := 4, fn := 0, ib := 0, ic := 0, gn := 1, gp := 2, b := 5, c := 0, ty := 0, rm := 0, st := 0, u := 0 }),
  ([0xA2818200, 0xA0000000], .pnot { d := 3, a := 4, fn := 0, ib := 0, ic := 0, gn := 1, gp := 2, b := 0, c := 0, ty := 0, rm := 0, st := 0, u := 0 }),
  ([0xA3028000, 0xA0B00181], .mov { d := 5, a := 0, fn := 0, ib := 0, ic := 0, gn := 1, gp := 2, b := 11, c := 0, ty := 6, rm := 0, st := 0, u := 1 }),
  ([0xA3830006, 0x89ABCDEF], .movi { d := 6, mid := 0, ty := 3, u := 0, imm := 0x89abcdef }),
  ([0xA403021C, 0xA0B0D180], .lea { d := 6, a := 4, fn := 7, ib := 0, ic := 0, gn := 1, gp := 2, b := 11, c := 13, ty := 6, rm := 0, st := 0, u := 0 }),
  ([0xA4830214, 0xA00000C4], .cvti { d := 6, a := 4, fn := 5, ib := 0, ic := 0, gn := 1, gp := 2, b := 0, c := 0, ty := 3, rm := 0, st := 1, u := 0 })] := by decide +kernel
/-- R71, R127. -/
theorem test_decode_short_integer : stands [
  ([0x100284A1], .addS { d := 5, a := 9, z := 0, i := 33 }),
  ([0x110284E1], .subS { d := 5, a := 9, z := 1, i := 33 }),
  ([0x130284A1], .mulS { d := 5, a := 9, z := 0, i := 33 }),
  ([0x160284E1], .minS { d := 5, a := 9, z := 1, i := 33 }),
  ([0x168284A1], .maxS { d := 5, a := 9, z := 0, i := 33 }),
  ([0x180284E1], .andS { d := 5, a := 9, z := 1, i := 33 }),
  ([0x188284A1], .orS { d := 5, a := 9, z := 0, i := 33 }),
  ([0x190284E1], .xorS { d := 5, a := 9, z := 1, i := 33 }),
  ([0x198284A1], .andnS { d := 5, a := 9, z := 0, i := 33 }),
  ([0x1A8284E1], .shlS { d := 5, a := 9, z := 1, i := 33 }),
  ([0x1B0284A1], .shrS { d := 5, a := 9, z := 0, i := 33 }),
  ([0x1B8284E1], .sarS { d := 5, a := 9, z := 1, i := 33 }),
  ([0x1C0284A1], .rolS { d := 5, a := 9, z := 0, i := 33 }),
  ([0x23028061], .movS { d := 5, a := 0, z := 1, i := 33 })] := by decide +kernel
/-- R149. -/
theorem test_decode_control : stands [
  ([0x28400000], .braShort { off := -4194304 }),
  ([0xA83FFFFF, 0xD0000000], .bra { off := 4194303, gn := 1, gp := 5, x := 0, fn := 0, low := 0 }),
  ([0xA8FFFFFD, 0xD0B01000], .brc { off := -3, gn := 1, gp := 5, x := 11, fn := 1, low := 0 }),
  ([0xA9000000, 0xD0801000], .brx { off := 0, gn := 1, gp := 5, x := 8, fn := 1, low := 0 }),
  ([0x2980004D], .callShort { off := 77 }),
  ([0xA9FFFFB3, 0xD0600000], .call { off := -77, gn := 1, gp := 5, x := 6, fn := 0, low := 0 }),
  ([0x2A000000], .retShort { off := 0 }),
  ([0xAA000000, 0xD0600000], .ret { off := 0, gn := 1, gp := 5, x := 6, fn := 0, low := 0 }),
  ([0x2A800000], .exitShort { off := 0 }),
  ([0xAA800000, 0xD0000000], .exit { off := 0, gn := 1, gp := 5, x := 0, fn := 0, low := 0 }),
  ([0x30800000], .nopShort { off := 0 }),
  ([0xB0800000, 0xD0000000], .nop { off := 0, gn := 1, gp := 5, x := 0, fn := 0, low := 0 }),
  ([0xAB000580, 0xA0000000], .join { d := 0, a := 11, fn := 0, ib := 0, ic := 0, gn := 1, gp := 2, b := 0, c := 0, ty := 0, rm := 0, st := 0, u := 0 }),
  ([0xAB800500, 0xA0000000], .leave { d := 0, a := 10, fn := 0, ib := 0, ic := 0, gn := 1, gp := 2, b := 0, c := 0, ty := 0, rm := 0, st := 0, u := 0 }),
  ([0xAC000480, 0xA0000000], .waitm { d := 0, a := 9, fn := 0, ib := 0, ic := 0, gn := 1, gp := 2, b := 0, c := 0, ty := 0, rm := 0, st := 0, u := 0 }),
  ([0xAC838414, 0xA0900000], .mask { d := 7, a := 8, fn := 5, ib := 0, ic := 0, gn := 1, gp := 2, b := 9, c := 0, ty := 0, rm := 0, st := 0, u := 0 }),
  ([0xAD028484, 0xA0003000], .elect { d := 5, a := 9, fn := 1, ib := 0, ic := 0, gn := 1, gp := 2, b := 0, c := 3, ty := 0, rm := 0, st := 0, u := 0 }),
  ([0xAD85840C, 0xA000A000], .vote { d := 11, a := 8, fn := 3, ib := 0, ic := 0, gn := 1, gp := 2, b := 0, c := 10, ty := 0, rm := 0, st := 0, u := 0 }),
  ([0xAE03020E, 0xA0D0A1C0], .shfl { d := 6, a := 4, fn := 3, ib := 1, ic := 0, gn := 1, gp := 2, b := 13, c := 10, ty := 7, rm := 0, st := 0, u := 0 }),
  ([0xAE8284B0, 0xA000A180], .scan { d := 5, a := 9, fn := 12, ib := 0, ic := 0, gn := 1, gp := 2, b := 0, c := 10, ty := 6, rm := 0, st := 0, u := 0 }),
  ([0xAF028488, 0xA000A080], .lred { d := 5, a := 9, fn := 2, ib := 0, ic := 0, gn := 1, gp := 2, b := 0, c := 10, ty := 2, rm := 0, st := 0, u := 0 }),
  ([0xAF828204, 0xA000A1C0], .matchL { d := 5, a := 4, fn := 1, ib := 0, ic := 0, gn := 1, gp := 2, b := 0, c := 10, ty := 7, rm := 0, st := 0, u := 0 }),
  ([0xB0000002, 0xAC800000], .sleep { d := 0, a := 0, fn := 0, ib := 1, ic := 0, gn := 1, gp := 2, b := 200, c := 0, ty := 0, rm := 0, st := 0, u := 0 })] := by decide +kernel
/-- R177. -/
theorem test_decode_float : stands [
  ([0xB8028480, 0xA0B00225], .fadd { d := 5, a := 9, fn := 0, ib := 0, ic := 0, gn := 1, gp := 2, b := 11, c := 0, ty := 8, rm := 2, st := 1, u := 1 }),
  ([0xB8828480, 0xA0B00271], .fsub { d := 5, a := 9, fn := 0, ib := 0, ic := 0, gn := 1, gp := 2, b := 11, c := 0, ty := 9, rm := 3, st := 0, u := 1 }),
  ([0xB9028480, 0xA0B00291], .fmul { d := 5, a := 9, fn := 0, ib := 0, ic := 0, gn := 1, gp := 2, b := 11, c := 0, ty := 10, rm := 1, st := 0, u := 1 }),
  ([0xB9828481, 0xA0B0D210], .ffma { d := 5, a := 9, fn := 0, ib := 0, ic := 1, gn := 1, gp := 2, b := 11, c := 13, ty := 8, rm := 1, st := 0, u := 0 }),
  ([0xBA028480, 0xA0B00201], .fmin { d := 5, a := 9, fn := 0, ib := 0, ic := 0, gn := 1, gp := 2, b := 11, c := 0, ty := 8, rm := 0, st := 0, u := 1 }),
  ([0xBA828480, 0xA0B00201], .fmax { d := 5, a := 9, fn := 0, ib := 0, ic := 0, gn := 1, gp := 2, b := 11, c := 0, ty := 8, rm := 0, st := 0, u := 1 }),
  ([0xBB0184B8, 0xA0B04200], .fcmp { d := 3, a := 9, fn := 14, ib := 0, ic := 0, gn := 1, gp := 2, b := 11, c := 4, ty := 8, rm := 0, st := 0, u := 0 }),
  ([0xBB828480, 0xA0000200], .fclass { d := 5, a := 9, fn := 0, ib := 0, ic := 0, gn := 1, gp := 2, b := 0, c := 0, ty := 8, rm := 0, st := 0, u := 0 }),
  ([0xBC030480, 0xA00080D0], .fcvt { d := 6, a := 9, fn := 0, ib := 0, ic := 0, gn := 1, gp := 2, b := 0, c := 8, ty := 3, rm := 1, st := 0, u := 0 }),
  ([0xBC828480, 0xA0000230], .frnd { d := 5, a := 9, fn := 0, ib := 0, ic := 0, gn := 1, gp := 2, b := 0, c := 0, ty := 8, rm := 3, st := 0, u := 0 }),
  ([0xBD028480, 0xA0B00200], .fscl { d := 5, a := 9, fn := 0, ib := 0, ic := 0, gn := 1, gp := 2, b := 11, c := 0, ty := 8, rm := 0, st := 0, u := 0 }),
  ([0xBD8284D9, 0xBF8F8230], .frcp { d := 5, a := 9, sb := 5, la := 9, gn := 1, gp := 3, b := 248, c := 248, tail := 0x230 }),
  ([0xBE0284D9, 0xBF8F8200], .frsq { d := 5, a := 9, sb := 5, la := 9, gn := 1, gp := 3, b := 248, c := 248, tail := 0x200 }),
  ([0xBE8284D9, 0xBF8F8220], .fsqrt { d := 5, a := 9, sb := 5, la := 9, gn := 1, gp := 3, b := 248, c := 248, tail := 0x220 }),
  ([0xBF0284D9, 0xBF8F8200], .fex2 { d := 5, a := 9, sb := 5, la := 9, gn := 1, gp := 3, b := 248, c := 248, tail := 0x200 }),
  ([0xBF8284D9, 0xBF8F8200], .flg2 { d := 5, a := 9, sb := 5, la := 9, gn := 1, gp := 3, b := 248, c := 248, tail := 0x200 }),
  ([0xC00284D9, 0xBF8F8200], .fsin { d := 5, a := 9, sb := 5, la := 9, gn := 1, gp := 3, b := 248, c := 248, tail := 0x200 }),
  ([0xC08284D9, 0xBF8F8200], .fcos { d := 5, a := 9, sb := 5, la := 9, gn := 1, gp := 3, b := 248, c := 248, tail := 0x200 }),
  ([0xC10284D9, 0xBF8F8200], .ftanh { d := 5, a := 9, sb := 5, la := 9, gn := 1, gp := 3, b := 248, c := 248, tail := 0x200 }),
  ([0xC18284D9, 0xBF8F8200], .fsigm { d := 5, a := 9, sb := 5, la := 9, gn := 1, gp := 3, b := 248, c := 248, tail := 0x200 }),
  ([0xC2028000, 0xA0000000], .flagrd { d := 5, a := 0, fn := 0, ib := 0, ic := 0, gn := 1, gp := 2, b := 0, c := 0, ty := 0, rm := 0, st := 0, u := 0 }),
  ([0xC2800002, 0xA1F00000], .flagclr { d := 0, a := 0, fn := 0, ib := 1, ic := 0, gn := 1, gp := 2, b := 31, c := 0, ty := 0, rm := 0, st := 0, u := 0 }),
  ([0xC3028480, 0xA0B00260], .hadd2 { d := 5, a := 9, fn := 0, ib := 0, ic := 0, gn := 1, gp := 2, b := 11, c := 0, ty := 9, rm := 2, st := 0, u := 0 }),
  ([0xC3828480, 0xA0B00284], .hmul2 { d := 5, a := 9, fn := 0, ib := 0, ic := 0, gn := 1, gp := 2, b := 11, c := 0, ty := 10, rm := 0, st := 1, u := 0 }),
  ([0xC4028480, 0xA0B0D240], .hfma2 { d := 5, a := 9, fn := 0, ib := 0, ic := 0, gn := 1, gp := 2, b := 11, c := 13, ty := 9, rm := 0, st := 0, u := 0 }),
  ([0xC4828204, 0xA0B00FC4], .pack8 { d := 5, a := 4, fn := 1, ib := 0, ic := 0, gn := 1, gp := 2, b := 11, c := 0, ty := 63, rm := 0, st := 1, u := 0 }),
  ([0xC5020480, 0xA0000900], .unpack8 { d := 4, a := 9, fn := 0, ib := 0, ic := 0, gn := 1, gp := 2, b := 0, c := 0, ty := 36, rm := 0, st := 0, u := 0 })] := by decide +kernel
/-- R208. -/
theorem test_decode_memory : stands [
  ([0xC8040263, 0xC1B40000], .ld { d := 8, a := 4, sb := 6, la := 3, gn := 1, gp := 4, ty := 6, u := 1, vn := 2, off := -262144 }),
  ([0xC8840263, 0xC1C3FFFF], .st { d := 8, a := 4, sb := 6, la := 3, gn := 1, gp := 4, ty := 7, u := 0, vn := 0, off := 262143 }),
  ([0xC90404E3, 0xC18FFFFF], .lds { d := 8, a := 9, sb := 6, la := 3, gn := 1, gp := 4, ty := 6, u := 0, vn := 1, off := -1 }),
  ([0xC98284E3, 0xC020004D], .sts { d := 5, a := 9, sb := 6, la := 3, gn := 1, gp := 4, ty := 0, u := 1, vn := 0, off := 77 }),
  ([0xCA7C0263, 0xC0100080], .prf { d := 248, a := 4, sb := 6, la := 3, gn := 1, gp := 4, ty := 0, u := 0, vn := 2, off := 128 }),
  ([0xCA830263, 0xC0080008], .mprobe { d := 6, a := 4, sb := 6, la := 3, gn := 1, gp := 4, ty := 0, u := 0, vn := 1, off := 8 }),
  ([0xCB02FC59, 0xBF8F8000], .dirtysw { d := 5, a := 248, sb := 5, la := 9, gn := 1, gp := 3, b := 248, c := 248, tail := 0x0 })] := by decide +kernel
/-- R238, R248, R259, R265. -/
theorem test_decode_ordering_and_synchronisation : stands [
  ([0xCC000059, 0xBF8F8098], .fence { d := 0, a := 0, sb := 5, la := 9, gn := 1, gp := 3, b := 248, c := 248, tail := 0x98 }),
  ([0xCC830259, 0xBF8F8053], .acq { d := 6, a := 4, sb := 5, la := 9, gn := 1, gp := 3, b := 248, c := 248, tail := 0x53 }),
  ([0xCD030259, 0xBF8F80AB], .rel { d := 6, a := 4, sb := 5, la := 9, gn := 1, gp := 3, b := 248, c := 248, tail := 0xab }),
  ([0xCD828259, 0xB0A0C003], .bind { d := 5, a := 4, sb := 5, la := 9, gn := 1, gp := 3, b := 10, c := 12, tail := 0x3 }),
  ([0xCE0284D9, 0xBF8F8000], .unbind { d := 5, a := 9, sb := 5, la := 9, gn := 1, gp := 3, b := 248, c := 248, tail := 0x0 }),
  ([0xD0030259, 0xB0A0C79A], .atom { d := 6, a := 4, sb := 5, la := 9, gn := 1, gp := 3, b := 10, c := 12, tail := 0x79a }),
  ([0xD08284D9, 0xB0BF8811], .atomSp { d := 5, a := 9, sb := 5, la := 9, gn := 1, gp := 3, b := 11, c := 248, tail := 0x811 }),
  ([0xD17C0259, 0xB0BF80A4], .red { d := 248, a := 4, sb := 5, la := 9, gn := 1, gp := 3, b := 11, c := 248, tail := 0xa4 }),
  ([0xD1FC04D9, 0xB0BF8909], .redSp { d := 248, a := 9, sb := 5, la := 9, gn := 1, gp := 3, b := 11, c := 248, tail := 0x909 }),
  ([0xD2030259, 0xBF8F80AB], .take { d := 6, a := 4, sb := 5, la := 9, gn := 1, gp := 3, b := 248, c := 248, tail := 0xab }),
  ([0xD2828259, 0xB0AF8006], .tknew { d := 5, a := 4, sb := 5, la := 9, gn := 1, gp := 3, b := 10, c := 248, tail := 0x6 }),
  ([0xD3028259, 0xB0AF8000], .tksave { d := 5, a := 4, sb := 5, la := 9, gn := 1, gp := 3, b := 10, c := 248, tail := 0x0 }),
  ([0xD3828259, 0xB0AF8000], .tkload { d := 5, a := 4, sb := 5, la := 9, gn := 1, gp := 3, b := 10, c := 248, tail := 0x0 }),
  ([0xD4028259, 0xBF8F8000], .tkdrainClose { d := 5, a := 4, sb := 5, la := 9, gn := 1, gp := 3, b := 248, c := 248, tail := 0x0 }),
  ([0xD4028259, 0xBF8F8001], .tkdrainOpen { d := 5, a := 4, sb := 5, la := 9, gn := 1, gp := 3, b := 248, c := 248, tail := 0x1 }),
  ([0xD4028259, 0xBF8F8002], .tkdrainFree { d := 5, a := 4, sb := 5, la := 9, gn := 1, gp := 3, b := 248, c := 248, tail := 0x2 }),
  ([0xD4800782, 0xAC800000], .barinit { d := 0, a := 15, fn := 0, ib := 1, ic := 0, gn := 1, gp := 2, b := 200, c := 0, ty := 0, rm := 0, st := 0, u := 0 }),
  ([0xD5000784, 0xA0000000], .arrive { d := 0, a := 15, fn := 1, ib := 0, ic := 0, gn := 1, gp := 2, b := 0, c := 0, ty := 0, rm := 0, st := 0, u := 0 }),
  ([0xD5000708, 0xA0B00000], .arriveClu { d := 0, a := 14, fn := 2, ib := 0, ic := 0, gn := 1, gp := 2, b := 11, c := 0, ty := 0, rm := 0, st := 0, u := 0 }),
  ([0xD500068C, 0xA0A00000], .arriveDom { d := 0, a := 13, fn := 3, ib := 0, ic := 0, gn := 1, gp := 2, b := 10, c := 0, ty := 0, rm := 0, st := 0, u := 0 }),
  ([0xD5800600, 0xA0B00001], .expect { d := 0, a := 12, fn := 0, ib := 0, ic := 0, gn := 1, gp := 2, b := 11, c := 0, ty := 0, rm := 0, st := 0, u := 1 }),
  ([0xD6000588, 0xA0D00000], .barwait { d := 0, a := 11, fn := 2, ib := 0, ic := 0, gn := 1, gp := 2, b := 13, c := 0, ty := 0, rm := 0, st := 0, u := 0 }),
  ([0xD6840504, 0xA0000000], .bartest { d := 8, a := 10, fn := 1, ib := 0, ic := 0, gn := 1, gp := 2, b := 0, c := 0, ty := 0, rm := 0, st := 0, u := 0 })] := by decide +kernel
/-- R288. -/
theorem test_decode_copy : stands [
  ([0xD87C0459, 0xB090BF02], .cpb { d := 248, a := 8, sb := 5, la := 9, gn := 1, gp := 3, b := 9, c := 11, tail := 0xf02 }),
  ([0xD8FC04D9, 0xB0C0BE01], .cpt { d := 248, a := 9, sb := 5, la := 9, gn := 1, gp := 3, b := 12, c := 11, tail := 0xe01 }),
  ([0xD97C04D9, 0xB0AF8D01], .cpl { d := 248, a := 9, sb := 5, la := 9, gn := 1, gp := 3, b := 10, c := 248, tail := 0xd01 }),
  ([0xD9FC04D9, 0xB0BF8C43], .cpa { d := 248, a := 9, sb := 5, la := 9, gn := 1, gp := 3, b := 11, c := 248, tail := 0xc43 }),
  ([0xDA02FC59, 0xBF8F8B00], .cpcan { d := 5, a := 248, sb := 5, la := 9, gn := 1, gp := 3, b := 248, c := 248, tail := 0xb00 })] := by decide +kernel
/-- R318. -/
theorem test_decode_tensor : stands [
  ([0xE0028459, 0xBF8F8000], .tdef { d := 5, a := 8, sb := 5, la := 9, gn := 1, gp := 3, b := 248, c := 248, tail := 0x0 }),
  ([0xE082FC59, 0xBF8F8000], .tseal { d := 5, a := 248, sb := 5, la := 9, gn := 1, gp := 3, b := 248, c := 248, tail := 0x0 }),
  ([0xE10284D9, 0xBF8F8000], .tdrop { d := 5, a := 9, sb := 5, la := 9, gn := 1, gp := 3, b := 248, c := 248, tail := 0x0 }),
  ([0xE18404D9, 0xBF8F8007], .tquery { d := 8, a := 9, sb := 5, la := 9, gn := 1, gp := 3, b := 248, c := 248, tail := 0x7 }),
  ([0xE2028480, 0xA0000000], .gang { d := 5, a := 9, fn := 0, ib := 0, ic := 0, gn := 1, gp := 2, b := 0, c := 0, ty := 0, rm := 0, st := 0, u := 0 }),
  ([0xE28284D9, 0xB0BF8000], .oclaim { d := 5, a := 9, sb := 5, la := 9, gn := 1, gp := 3, b := 11, c := 248, tail := 0x0 }),
  ([0xE3000480, 0xA0B00000], .orel { d := 0, a := 9, fn := 0, ib := 0, ic := 0, gn := 1, gp := 2, b := 11, c := 0, ty := 0, rm := 0, st := 0, u := 0 }),
  ([0xE3FC04D9, 0xBF8F8F00], .mma { d := 248, a := 9, sb := 5, la := 9, gn := 1, gp := 3, b := 248, c := 248, tail := 0xf00 }),
  ([0xE47C04D9, 0xB0CF8E00], .mmag { d := 248, a := 9, sb := 5, la := 9, gn := 1, gp := 3, b := 12, c := 248, tail := 0xe00 }),
  ([0xE4FC04D9, 0xBF8F8D00], .mmas { d := 248, a := 9, sb := 5, la := 9, gn := 1, gp := 3, b := 248, c := 248, tail := 0xd00 }),
  ([0xE57C04D9, 0xBF8F8C01], .accz { d := 248, a := 9, sb := 5, la := 9, gn := 1, gp := 3, b := 248, c := 248, tail := 0xc01 })] := by decide +kernel

/-! ### Small states -/

/-- Registers that hold some values, 0 elsewhere. -/
def file (n : Nat) (v : List (Nat × Nat)) : List Word := v.foldl (fun l e => l.set e.1 (BitVec.ofNat 32 e.2)) (List.replicate n 0)
/-- A thread of file group 1 in lane 0, whose registers hold some values. -/
def thr (v : List (Nat × Nat) := []) : Thread := { fg := 1, lane := 0, status := .issuing, pc := 0x1000, npc := 0x100C, v := file 32 v }
/-- Its path, at the one instruction of a clause. -/
def pth : Path := { id := 3, fg := 1, lanes := [0], pc := 0x1000, words := [0xA0020100, 0, 0] }
def grp : FileGroup := { id := 1, blk := 2, num := 0, unit := 0, n := 1, nregs := 32, m := List.replicate 12 1 }
def blk (asid core : Nat) : Block := { id := 2, node := 0, num := 0, clu := 0, core := core, asid := asid, regs := 32, scratch := List.replicate 64 0 }
/-- One thread on its path, of context `asid` on `core`; context 5 runs. -/
def solo (asid core : Nat) (t : Thread) : State :=
  { State.reset with threads := [t], fgs := [grp], blocks := [blk asid core], paths := [pth], ctxs := [{ asid := 5, state := 1 }], uid := 10 }
/-- The thread in context 5 on core 0, in an operator thread on C0's control core, and in the auditor's window. -/
def own (v : List (Nat × Nat) := []) : State := solo 5 0 (thr v)
def opr (v : List (Nat × Nat) := []) : State := solo oprAsid 256 (thr v)
def aud (v : List (Nat × Nat) := []) : State := solo audAsid 256 (thr v)

theorem issues_one {s : State} {r : Rights} {t : Thread} (hp : s.paths = [pth]) (hr : r.ok (authOf (s.asidOf 1)) = true)
    (ht : s.thread? 1 0 = some t) (hq : t.trapDue = none ∧ t.ret = none) : Issues s pth r := by
  refine ⟨by rw [hp]; rfl, by decide, hr, fun l hl u hu => ?_⟩
  have : l = 0 := by simpa [pth] using hl
  subst this
  change s.thread? 1 0 = some u at hu
  rw [ht] at hu; cases hu; exact hq
theorem alone_one {s : State} {r : Rights} {t : Thread} {g : Guard} (hp : s.paths = [pth]) (hr : r.ok (authOf (s.asidOf 1)) = true)
    (ht : s.thread? 1 0 = some t) (hl : t.lane = 0) (hq : t.trapDue = none ∧ t.ret = none) (hg : g.on t = true) : Alone s pth r g t :=
  ⟨issues_one hp hr ht hq, by rw [hl]; rfl, by rw [hl]; exact ht, hg⟩

theorem own_alone (v : List (Nat × Nat)) {r : Rights} (hr : r.own = true) : Alone (own v) pth r {} (thr v) :=
  alone_one rfl hr rfl rfl ⟨rfl, rfl⟩ rfl
theorem opr_alone (v : List (Nat × Nat)) {r : Rights} (hr : r.opr = true) : Alone (opr v) pth r {} (thr v) :=
  alone_one rfl hr rfl rfl ⟨rfl, rfl⟩ rfl
theorem aud_alone (v : List (Nat × Nat)) {r : Rights} (hr : r.aud = true) : Alone (aud v) pth r {} (thr v) :=
  alone_one rfl hr rfl rfl ⟨rfl, rfl⟩ rfl

/-! ### What the statements assume is met: integer, floating-point and control instructions -/

theorem own_issues {r : Rights} (hr : r.own = true) : Issues own pth r := (own_alone [] hr).issues
theorem opr_issues {r : Rights} (hr : r.opr = true) : Issues opr pth r := (opr_alone [] hr).issues
/-- An instruction of format A, unguarded. -/
def fA : FmtA := { d := 4, a := 2, fn := 0, ib := 0, ic := 0, gn := 0, gp := 7, b := 6, c := 0, ty := 6, rm := 0, st := 0, u := 0 }
def fL : FmtL := { d := 4, a := 2, sb := 1, la := 0, gn := 0, gp := 7, b := 8, c := 6, tail := 0 }
def fZ : FmtZ := { d := 4, a := 2, fn := 0, gn := 0, gp := 7, cr := 0, imm := 0 }
def fM : FmtM := { d := 4, a := 2, sb := 1, la := 0, gn := 0, gp := 7, ty := 6, u := 0, vn := 0, off := 0 }

theorem test_meets_TwoSourceResults :
    (∃ i k f s p, twoA i = some (k, f) ∧ f.ty.toNat < 8 ∧ Issues s p rightsAll ∧ f.u ≠ 2#2) ∧
    (∃ i k f s p t, twoA i = some (k, f) ∧ f.ty.toNat < 8 ∧ Issues s p rightsAll ∧ f.u = 2#2 ∧ (s.active p {}).head? = some t) ∧
    (∃ i k f s p, twoS i = some (k, f) ∧ Issues s p rightsAll) :=
  ⟨⟨.rol { fA with ty := 7 }, _, _, own, pth, rfl, by decide, own_issues rfl, by decide⟩,
   ⟨.add { fA with ty := 7, u := 2 }, _, _, own, pth, _, rfl, by decide, own_issues rfl, rfl, rfl⟩,
   ⟨.andnS { d := 0, a := 1, z := 1, i := 63 }, _, _, own, pth, rfl, own_issues rfl⟩⟩
theorem test_meets_OneSourceMoveMad :
    (∃ i r f, one i = (some r, some f) ∧ f.ty.toNat < 8) ∧ (∃ i c f, counts i = some (c, f) ∧ f.ty.toNat < 8) ∧
    (∃ s p, Issues s p rightsAll) ∧ (∃ f : FmtI, ∃ s p t, Issues s p rightsAll ∧ f.u = 1#1 ∧ (s.active p {}).head? = some t) :=
  ⟨⟨.neg { fA with ty := 7 }, _, _, rfl, by decide⟩, ⟨.ctz { fA with ty := 7 }, _, _, rfl, by decide⟩, ⟨own, pth, own_issues rfl⟩,
   ⟨{ d := 4, mid := 0, ty := 3, u := 1, imm := 0x80000000 }, own, pth, _, own_issues rfl, rfl, rfl⟩⟩
/-- A zero divisor and another, in the statement on DIV. -/
theorem test_meets_CarriesAndDivision :
    (∃ f : FmtA, ∃ s p, f.ty.toNat < 8 ∧ Issues s p rightsAll) ∧ (∃ f : FmtL, ∃ s p, FmtL.ty f < 8 ∧ Issues s p rightsAll) ∧
    regU (own [(8, 0)]) (thr [(8, 0)]) false 8 1 = 0 ∧ regU (own [(8, 3)]) (thr [(8, 3)]) false 8 1 = 3 :=
  ⟨⟨{ fA with ty := 7 }, own, pth, by decide, own_issues rfl⟩, ⟨{ fL with tail := 0x1C0 }, own, pth, by decide, own_issues rfl⟩, by decide, by decide⟩
theorem test_meets_ComparesAndPredicates :
    (∃ (f : FmtA) (s : State) (p : Path) (r : Thread → Bool), Issues s p rightsAll ∧ ∀ t, r t = true ↔
      cmpInt (f.fn.toNat % 8) (valOf (srcA s t f f.ty.toNat) f.ty.toNat) (valOf (srcB s t f f.ty.toNat) f.ty.toNat)) ∧
    (∃ i o f s p, predOp i = some (o, f) ∧ Issues s p rightsAll) :=
  ⟨⟨fA, own, pth, fun t => decide (valOf (srcA own t fA 6) 6 = valOf (srcB own t fA 6) 6), own_issues rfl,
    fun _ => decide_eq_true_iff⟩, ⟨.pxor fA, _, _, own, pth, rfl, own_issues rfl⟩⟩
theorem test_meets_FieldsAndAddresses :
    (∃ f : FmtA, f.ty.toNat < 8) ∧ (∃ f : FmtA, f.ty.toNat = 2) ∧ (∃ f : FmtA, f.ty.toNat = 6) ∧ ∃ s p, Issues s p rightsAll :=
  ⟨⟨{ fA with ty := 7 }, by decide⟩, ⟨{ fA with ty := 2 }, by decide⟩, ⟨fA, by decide⟩, own, pth, own_issues rfl⟩
/-- An exact quotient; and a tie of .f16, at which 2049 lies between 2048 and 2050. -/
theorem test_meets_RoundByRule :
    (∃ (F : Fmt) (m e : Int), m ≠ 0 ∧ max ((Nat.log2 m.natAbs : Int) + e) F.emin - F.p + 1 ≤ e) ∧
    (∃ (F : Fmt) (m e : Int), m ≠ 0 ∧ e < max ((Nat.log2 m.natAbs : Int) + e) F.emin - F.p + 1) ∧
    roundTo (fmtOf 9) 0 2049 0 = (1024, 1, true) :=
  ⟨⟨fmtOf 9, 1024, 0, by decide, by decide⟩, ⟨fmtOf 9, 2049, 0, by decide, by decide⟩, by decide⟩
theorem test_meets_SpecialValueArithmetic :
    (∃ m : Int, m ≠ 0) ∧ ∃ (m n e f : Int), e ≤ f ∧ m + n * 2 ^ (f - e).toNat ≠ 0 := ⟨⟨1, by decide⟩, 3, -1, 0, 1, by decide, by decide⟩
theorem test_meets_FloatArithmetic :
    ∃ i f r s p, floatOp i = some (f, r) ∧ Issues s p rightsAll ∧ s.health.vecFaults = [] := ⟨.ffma { fA with ty := 8 }, _, _, own, pth, rfl, own_issues rfl, rfl⟩
theorem test_meets_FloatConversionsAndCompares :
    (∃ i f r s p, floatOther i = some (f, r) ∧ Issues s p rightsAll) ∧ (∃ (c : Nat) (x y : FOp), c < 8 ∧ (x.1.isNan || y.1.isNan) = true) :=
  ⟨⟨.fcvt { fA with ty := 8 }, _, _, own, pth, rfl, own_issues rfl⟩, 7, (.zero true, false), (.nan, true), by decide, by decide⟩
theorem test_meets_SpecialFunctions : ∃ i f r s p, floatSpecial i = some (f, r) ∧ Issues s p rightsAll :=
  ⟨.fsigm fL, _, _, own, pth, rfl, own_issues rfl⟩

/-! ### One step each, from the rules and the examples of the spec -/

/-- Register `n` after the instruction, or the result that its operation will commit. -/
def after (i : Instr) (v : List (Nat × Nat)) (n : Nat) : Option Nat :=
  match exec i (own v) with
  | .next t => (t.thread? 1 0).map fun u => match u.pend.head? with | some q => ((q.val.getD []).getD 0 0).toNat | none => (u.v.getD n 0).toNat
  | _ => none
def flagsAfter (i : Instr) (v : List (Nat × Nat)) : Option Nat :=
  match exec i (own v) with
  | .next t => (t.thread? 1 0).map fun u => (u.fl ||| BitVec.ofNat 32 ((u.pend.head?.map (·.flags)).getD 0)).toNat
  | _ => none

/-- A sum wraps at the width of its type, and a source may be the destination (R128). -/
theorem test_add_wraps : after (.add { fA with d := 2 }) [(2, 0xFFFFFFFF), (6, 2)] 2 = some 1 := by decide +kernel
theorem test_ssub_clamps : after (.ssub { fA with ty := 2 }) [(2, 0x80000000), (6, 1)] 4 = some 0x80000000 ∧ after (.ssub fA) [(2, 1), (6, 2)] 4 = some 0 := by decide +kernel
theorem test_mulh_signs : after (.mulh { fA with ty := 2 }) [(2, 0xFFFFFFFF), (6, 2)] 4 = some 0xFFFFFFFF ∧ after (.mulh fA) [(2, 0xFFFFFFFF), (6, 2)] 4 = some 1 := by decide +kernel
/-- A shift by the width or more (R128). -/
theorem test_shifts_past_the_width : after (.shl fA) [(2, 1), (6, 32)] 4 = some 0 ∧ after (.sar { fA with ty := 2 }) [(2, 0x80000000), (6, 40)] 4 = some 0xFFFFFFFF ∧
    after (.rol fA) [(2, 0x80000001), (6, 33)] 4 = some 3 := by decide +kernel
theorem test_counts : after (.clz { fA with b := 0 }) [(2, 1)] 4 = some 31 ∧ after (.ctz { fA with b := 0 }) [] 4 = some 32 ∧
    after (.popc { fA with b := 0 }) [(2, 0xF0F0)] 4 = some 8 := by decide +kernel
/-- CVTI.s8.z32 of 200 gives -56, and with .sat 127 (R139). -/
theorem test_cvti : after (.cvti { fA with b := 0, ty := 0, fn := 6 }) [(2, 200)] 4 = some 0xFFFFFFC8 ∧
    after (.cvti { fA with b := 0, ty := 0, fn := 6, st := 1 }) [(2, 200)] 4 = some 127 := by decide +kernel
/-- A sum of 1.0 and 2^-25 rounds to 1.0 with NX; infinities of two signs make a NaN with NV (R164, R175). -/
theorem test_fadd : after (.fadd { fA with ty := 8 }) [(2, 0x3F800000), (6, 0x33000000)] 4 = some 0x3F800000 ∧
    flagsAfter (.fadd { fA with ty := 8 }) [(2, 0x3F800000), (6, 0x33000000)] ≠ some 0 ∧
    after (.fadd { fA with ty := 8 }) [(2, 0x7F800000), (6, 0xFF800000)] 4 = some 0x7FC00000 := by decide +kernel
/-- FCVT.s8.f32 of 200.7 gives 127; FCVT.f16.f32 of 70,000.0 gives infinity, and with .sat 65,504 (R184). -/
theorem test_fcvt : after (.fcvt { fA with b := 0, c := 8, ty := 0 }) [(2, 0x4348B333)] 4 = some 127 ∧
    after (.fcvt { fA with b := 0, c := 8, ty := 9 }) [(2, 0x4788B800)] 4 = some 0x7C00 ∧
    after (.fcvt { fA with b := 0, c := 8, ty := 9, st := 1 }) [(2, 0x4788B800)] 4 = some 0x7BFF := by decide +kernel
/-- In .b8p4se 2 is 0x48, 3 is 0x4C and 5 is 0x52 (R168). -/
theorem test_narrow_sum : after (.fcvt { fA with b := 0, c := 8, ty := 0x30 }) [(2, 0x40A00000)] 4 = some 0x52 ∧
    after (.fcvt { fA with b := 0, c := 0x30, ty := 8 }) [(2, 0x4C)] 4 = some 0x40400000 := by decide +kernel

/-! ### A page of device memory: what an access to it does, of any length -/

/-- A page of device memory of no key. -/
def page : Leaf := { lg := 30, addr := 0, kind := 0, r := true, w := true, x := true, buf := 0, br := {}, raw := true }
/-- The piece of the page that a part of an access is. -/
def onPage (p : Nat × Nat) : Piece := { ea := p.1, va := p.1, n := p.2, leaf := page, pa := p.1 }
theorem foldl_pieces {s : State} (g : Nat × Nat → Piece) (f : State × Except (Nat × Nat) (List Piece) → Nat × Nat → State × Except (Nat × Nat) (List Piece)) :
    ∀ (ps : List (Nat × Nat)) (acc : List Piece), (∀ p ∈ ps, ∀ acc, f (s, .ok acc) p = (s, .ok (acc ++ [g p]))) →
      ps.foldl f (s, .ok acc) = (s, .ok (acc ++ ps.map g)) := by
  intro ps
  induction ps with
  | nil => intro acc _; simp
  | cons p ps ih =>
    intro acc h
    rw [List.foldl_cons, h p (by simp), ih _ fun q hq => h q (by simp [hq])]
    simp
/-- Every piece below 2^30 lies on the page, where the only cached translation is the page's. -/
theorem locate_page {s : State} {core asid : Nat} (w : Want) (ht : s.mem.tlb = [{ unit := core, asid := asid, va := 0, leaf := page }])
    (ps : List (Nat × Nat)) (h : ∀ p ∈ ps, p.1 < 2 ^ 30) : s.locate core asid w ps = (s, .ok (ps.map onPage)) := by
  have hw : ∀ p ∈ ps, s.window (asid = oprAsid) p.1 = .ok (p.1, none) := by
    intro p hp
    have := h p hp
    unfold State.window
    have h1 : ¬ 2 ^ 57 ≤ p.1 := by omega
    have h2 : bits p.1 48 9 = 0 := by unfold bits; rw [Nat.shiftRight_eq_div_pow, Nat.div_eq_of_lt (by omega), Nat.zero_mod]
    have h3 : p.1 % 2 ^ 48 = p.1 := Nat.mod_eq_of_lt (by omega)
    simp only [h1, h2, h3, if_true, if_false]
  have hn : ∀ f : Nat × Nat → Option (Nat × Nat), (∀ p ∈ ps, f p = none) → ps.findSome? f = none := fun f hf => List.findSome?_eq_none_iff.2 hf
  unfold State.locate
  rw [hn _ fun p hp => by simp only [hw p hp]]
  refine foldl_pieces onPage _ ps [] fun p hp acc => ?_
  have hlt := h p hp
  have htr : s.translate core asid p.1 = (s, .ok page) := by
    unfold State.translate
    rw [ht]
    have : Tlb.hit { unit := core, asid := asid, va := 0, leaf := page } core asid p.1 = true := by
      simp [Tlb.hit, page]; omega
    simp only [List.find?, this]
  have hok : w.ok page = true := by cases w <;> rfl
  simp only [hw p hp, htr, hok, Bool.not_true, Bool.false_eq_true, if_false]
  have : page.addr + p.1 % 2 ^ page.lg = p.1 := by simp only [page]; omega
  rw [this]; rfl
theorem parts_lt : ∀ (k ea n : Nat), ea + n ≤ 2 ^ 30 → ∀ p ∈ parts k ea n, p.1 < 2 ^ 30 := by
  intro k
  induction k with
  | zero => intro ea n _ p hp; simp [parts] at hp
  | succ k ih =>
    intro ea n h p hp
    unfold parts at hp
    split at hp
    · simp at hp
    · rename_i hn
      simp only [List.mem_cons] at hp
      rcases hp with hp | hp
      · subst hp; show ea % 2 ^ 64 < 2 ^ 30; omega
      · refine ih _ _ ?_ p hp
        have : Nat.min n (16 - ea % 16) ≤ n := Nat.min_le_left ..
        omega
/-- An access to the page passes the checks and changes nothing. -/
theorem check_page {s : State} {core asid : Nat} (w : Want) (ea n : Nat) (ht : s.mem.tlb = [{ unit := core, asid := asid, va := 0, leaf := page }])
    (h : ea + n ≤ 2 ^ 30) :
    s.check core asid w ea n = (s, .ok ((parts (n / 16 + 2) ea n).map onPage)) ∧
      ∀ q ∈ (parts (n / 16 + 2) ea n).map onPage, q.leaf = page ∧ q.peer = none ∧ q.pa < 2 ^ 30 := by
  have hl := locate_page w ht (parts (n / 16 + 2) ea n) (parts_lt _ _ _ h)
  have hq : ∀ q ∈ (parts (n / 16 + 2) ea n).map onPage, q.leaf = page ∧ q.peer = none ∧ q.pa < 2 ^ 30 := by
    intro q hq
    obtain ⟨p, hp, rfl⟩ := List.mem_map.1 hq
    exact ⟨rfl, rfl, parts_lt _ _ _ h p hp⟩
  refine ⟨?_, hq⟩
  unfold State.check State.checkParts
  rw [hl]
  generalize (parts (n / 16 + 2) ea n).map onPage = l at hq
  have h1 : l.findSome? (Piece.outside asid) = none := by
    rw [List.findSome?_eq_none_iff]
    intro q hq'
    simp [Piece.outside, (hq q hq').1, page]
  have h2 : (l.foldl (fun (s : State) p => if p.leaf.raw || p.peer.isSome || p.leaf.kind = 1 then s else s.ensureKey asid p.leaf) s) = s := by
    clear h1
    induction l with
    | nil => rfl
    | cons q l ih =>
      simp only [List.foldl_cons, (hq q (by simp)).1, page, Bool.true_or, if_true]
      exact ih fun r hr => hq r (by simp [hr])
  have h3 : l.find? (s.noKey asid) = none := by
    rw [List.find?_eq_none]
    intro q hq'
    simp [State.noKey, (hq q hq').1, page]
  simp only [h1, h2, h3]
/-- A core of die 0 reaches the page. -/
theorem reach_page {s : State} {core asid : Nat} {q : Piece} (hc : dieOfCore core = 0) (hl : q.leaf = page) (hn : q.peer = none) (ha : q.pa < 2 ^ 30) :
    s.pieceReach core asid q = true := by
  have hp : q.pa / 137438953472 = 0 := Nat.div_eq_of_lt (by omega)
  simp [State.pieceReach, hl, hn, page, hc, hp, ringJoined]
theorem no_regs {asid : Nat} {l : List Piece} (h : ∀ q ∈ l, q.leaf = page) : schedOff asid l = none := by
  cases l with
  | nil => rfl
  | cons q l => simp [schedOff, h q (by simp), page]
/-- A store to the page of a block that is not checked is done. -/
theorem store_page {s : State} {core asid : Nat} (blk ea : Nat) (bs : List Byte) (ht : s.mem.tlb = [{ unit := core, asid := asid, va := 0, leaf := page }])
    (hc : dieOfCore core = 0) (h : ea + bs.length ≤ 2 ^ 30) (hb : ∀ b, s.block? blk = some b → b.run = 0) (hp : s.mem.poison = [])
    (hs : (s.map.unit 321).1 ≠ 3) : ∃ x, s.store false core asid blk ea bs = (x, .done []) := by
  obtain ⟨hl, hq⟩ := check_page .wr ea bs.length ht h
  generalize (parts (bs.length / 16 + 2) ea bs.length).map onPage = l at hl hq
  have h1 : l.findSome? (·.peer) = none := List.findSome?_eq_none_iff.2 fun q hq' => (hq q hq').2.1
  have h2 : l.any s.pieceHeld = false := by
    rw [List.any_eq_false]
    intro q hq'
    simp [State.pieceHeld, (hq q hq').1, page, Leaf.parity]
  have h3 : s.writeStops false core asid l = none := by
    have hf : (l.find? fun p => p.peer.isNone && s.writeFails false core asid p) = none := by
      rw [List.find?_eq_none]
      intro q hq'
      have hd : q.pa / 68719476736 % 8 = 0 := by rw [Nat.div_eq_of_lt (by have := (hq q hq').2.2; omega)]
      simp [State.writeFails, (hq q hq').1, page, State.poisoned, hp, hd, hs]
    unfold State.writeStops
    rw [hf]
    refine List.findSome?_eq_none_iff.2 fun q hq' => ?_
    simp [reach_page hc (hq q hq').1 (hq q hq').2.1 (hq q hq').2.2, State.tdiBad, (hq q hq').1, page]
  have h5 : s.runOf blk = 0 := by
    unfold State.runOf
    cases hb' : s.block? blk with
    | none => rfl
    | some b => simpa using hb b hb'
  unfold State.store
  rw [hl]
  simp only [h1, h2, h5, no_regs fun q hq' => (hq q hq').1]
  unfold State.writePieces
  rw [h3]
  exact ⟨(s.putPieces false core asid l bs).noteWrite blk l bs, by simp⟩
/-- The bytes of a piece as the control core reads them. -/
def pageBytes (s : State) (asid : Nat) (q : Piece) : List Byte := match (s.readPiece false 256 asid q).2 with | .ok b => b | .error _ => []
theorem foldl_reads {s : State} (g : Piece → List Byte) (f : State × List Byte × AccErrs → Piece → State × List Byte × AccErrs) : ∀ l : List Piece,
    (∀ q ∈ l, ∀ acc, f (s, acc, {}) q = (s, acc ++ g q, {})) → ∀ acc, l.foldl f (s, acc, {}) = (s, acc ++ l.flatMap g, {}) := by
  intro l
  induction l with
  | nil => intro _ acc; simp
  | cons q l ih =>
    intro h acc
    rw [List.foldl_cons, h q (by simp) acc, ih (fun r hr => h r (by simp [hr]))]
    simp
/-- A load from the page by the control core is done. -/
theorem load_page {s : State} {asid : Nat} (blk ea n : Nat) (ht : s.mem.tlb = [{ unit := 256, asid := asid, va := 0, leaf := page }])
    (h : ea + n ≤ 2 ^ 30) (hp : s.mem.poison = []) (hs : (s.map.unit 321).1 ≠ 3) (hb : s.divertOf blk = []) :
    s.load false 256 asid blk ea n = (s, .done (((parts (n / 16 + 2) ea n).map onPage).flatMap (pageBytes s asid))) := by
  obtain ⟨hl, hq⟩ := check_page .rd ea n ht h
  generalize (parts (n / 16 + 2) ea n).map onPage = l at hl hq
  have h1 : l.findSome? (·.peer) = none := List.findSome?_eq_none_iff.2 fun q hq' => (hq q hq').2.1
  have h2 : ∀ q ∈ l, s.readPiece false 256 asid q = (s, .ok (pageBytes s asid q)) := by
    intro q hq'
    have hd : (q.pa - q.pa % 16) / 68719476736 % 8 = 0 := by rw [Nat.div_eq_of_lt (by have := (hq q hq').2.2; omega)]
    have hk : q.leaf.kind = 0 := by rw [(hq q hq').1]; rfl
    have hp' : s.poisoned (q.pa - q.pa % 16) = false := by simp [State.poisoned, hp, hd, hs]
    unfold pageBytes State.readPiece State.ctlRead
    rw [hk]
    by_cases h0 : s.scrubPending (q.pa - q.pa % 16) = true <;> simp [h0, hp']
  have h3 : s.readPieces false 256 asid l = (s, .done (l.flatMap (pageBytes s asid))) := by
    unfold State.readPieces
    have hn := foldl_reads (s := s) (pageBytes s asid) (fun (acc : State × List Byte × AccErrs) p => acc.1.readNext false 256 asid acc.2 p) l
      (fun q hq' acc => by simp [State.readNext, (hq q hq').2.1, reach_page (by decide : dieOfCore 256 = 0) (hq q hq').1 (hq q hq').2.1 (hq q hq').2.2, h2 q hq']) []
    rw [hn]
    rfl
  unfold State.load
  rw [hl]
  simp only [h1, h3, hb, no_regs fun q hq' => (hq q hq').1]
  rfl
/-- What an operator instruction on C0's control core reads from the page and writes to it. -/
theorem opRead_page {s : State} {t : Thread} (iaddr : DWord) (ea n : Nat) (hc : s.coreOf t.fg = 256)
    (ht : s.mem.tlb = [{ unit := 256, asid := s.asidOf t.fg, va := 0, leaf := page }]) (h : ea + n ≤ 2 ^ 30) (hp : s.mem.poison = [])
    (hs : (s.map.unit 321).1 ≠ 3) (hb : s.divertOf (s.blkId t.fg) = [])
    (hw : s.accWaits t 0 { ea := ea, n := n, rd := true } = false) :
    s.opRead t iaddr ea n = (s, .ok (((parts (n / 16 + 2) ea n).map onPage).flatMap (pageBytes s (s.asidOf t.fg)))) := by
  unfold State.opRead
  rw [hw, hc, load_page _ ea n ht h hp hs hb]
  rfl
theorem opWrite_page {s : State} {t : Thread} (ea : Nat) (bs : List Byte) (hc : s.coreOf t.fg = 256)
    (ht : s.mem.tlb = [{ unit := 256, asid := s.asidOf t.fg, va := 0, leaf := page }]) (h : ea + bs.length ≤ 2 ^ 30) (hp : s.mem.poison = [])
    (hs : (s.map.unit 321).1 ≠ 3) (hb : ∀ b, s.block? (s.blkId t.fg) = some b → b.run = 0)
    (hw : s.accWaits t 0 { ea := ea, n := bs.length, wr := true } = false) : ∃ y, s.opWrite t ea bs = (y, .ok ()) := by
  obtain ⟨y, hy⟩ := store_page (s.blkId t.fg) ea bs ht (by decide) h hb hp hs
  unfold State.opWrite
  rw [hw, hc, hy]
  exact ⟨y, rfl⟩

/-! ### Control flow -/

theorem pth_last : pth.last := by unfold Path.last; decide
/-- A rendezvous instance that the path holds whole. -/
def ofInst : Inst := { id := 7, fg := 1, pc := 0x1000, lanes := [0], m := List.replicate 12 1, living := [0] }
def rdvPath : Path := { pth with inst := some 7 }
def rdv : State := { own with insts := [ofInst], paths := [rdvPath] }
theorem rdv_issues : Issues rdv rdvPath rightsAll := by
  have h := own_issues (r := rightsAll) rfl
  exact ⟨rfl, h.once, rfl, h.quiet⟩
theorem rdv_whole : Whole rdv rdvPath ofInst :=
  ⟨rfl, rfl, rfl, rfl, by simp [rdvPath, pth], fun q hq => by simp [rdv] at hq⟩

/-- Targets that are a multiple of 4, and one that is not. -/
theorem test_meets_Branches :
    (∃ i g link tgt s p, branch i = some (g, link, tgt) ∧ Issues s p rightsAll ∧ p.last ∧ ∀ t ∈ s.active p g, (tgt p s t).toNat % 4 = 0) ∧
    (∃ i g link tgt s p t, branch i = some (g, link, tgt) ∧ Alone s p rightsAll g t ∧ (tgt p s t).toNat % 4 ≠ 0) :=
  ⟨⟨.call { off := -1024, gn := 0, gp := 7, x := 6, fn := 0, low := 0 }, _, _, _, own, pth, rfl, own_issues rfl, pth_last, by
      intro t _; exact (by decide : (pth.pc + BitVec.ofInt 64 (4 * (BitVec.ofInt 23 (-1024)).toInt)).toNat % 4 = 0)⟩,
   .ret { off := 0, gn := 0, gp := 7, x := 6, fn := 0, low := 0 }, _, _, _, own [(6, 0x2002)], pth, thr [(6, 0x2002)], rfl, own_alone _ rfl, by decide +kernel⟩
theorem test_meets_HoldsAndSleeps : ∃ i f st s p, holds i = some (f, st) ∧ Issues s p rightsAll ∧ p.last :=
  ⟨.sleep fA, _, _, own, pth, rfl, own_issues rfl, pth_last⟩
theorem test_meets_MasksAndElection :
    (∃ s p g, Issues s p rightsAll ∧ s.fg? p.fg = some g ∧ (∀ h ∈ s.fgs, h.id = g.id → h = g)) ∧
    (∃ (f : FmtA), ∃ s p g, Issues s p rightsAll ∧ s.fg? p.fg = some g ∧ s.active p f.guard ≠ []) :=
  ⟨⟨own, pth, grp, own_issues rfl, rfl, by simp [own, solo]⟩, fA, own, pth, grp, own_issues rfl, rfl, by decide⟩
theorem test_meets_CrossLaneResults :
    ∃ (f : FmtA), ∃ s p i g, Issues s p rightsAll ∧ Whole s p i ∧ f.fn = 3#5 ∧ s.fg? p.fg = some g ∧ executing s p f.guard ≠ [] :=
  ⟨{ fA with fn := 3 }, rdv, rdvPath, ofInst, grp, rdv_issues, rdv_whole, rfl, rfl, by decide⟩
/-- The instance has a thread that stands at no cross-lane instruction: another path of it that does not wait. -/
theorem test_meets_BranchConsensusAndWaits :
    (∃ s p i, Issues s p rightsAll ∧ Whole s p i ∧ p.last) ∧
    (∃ (s : State) (p : Path) (inst : Inst), s.paths.head? = some p ∧ p.inst = some inst.id ∧ s.inst? inst.id = some inst ∧
      ∃ l ∈ inst.lanes, ∀ q ∈ s.paths, (q.id = p.id ∨ q.waiting) → q.inst = some inst.id → l ∉ q.lanes) :=
  ⟨⟨rdv, rdvPath, ofInst, rdv_issues, rdv_whole, pth_last⟩,
   { rdv with paths := [rdvPath, { rdvPath with id := 4, lanes := [1] }], insts := [{ ofInst with lanes := [0, 1] }] }, rdvPath,
   { ofInst with lanes := [0, 1] }, rfl, rfl, rfl, 1, by decide, by decide⟩

/-! ### Memory and ordering -/

def isOk {α ε : Type} : Except ε α → Bool | .ok _ => true | .error _ => false
def isDone : AccRes → Bool | .done _ => true | _ => false
def isErr : AccRes → Bool | .err _ _ => true | _ => false
theorem ok_of {α ε : Type} {r : State × Except ε α} (h : isOk r.2 = true) : ∃ x v, r = (x, .ok v) := by
  obtain ⟨x, v | v⟩ := r
  · cases h
  · exact ⟨x, v, rfl⟩
theorem error_of {α ε : Type} {r : State × Except ε α} (h : isOk r.2 = false) : ∃ x v, r = (x, .error v) := by
  obtain ⟨x, v | v⟩ := r
  · exact ⟨x, v, rfl⟩
  · cases h
theorem fault_of {α : Type} {r : State × Except OpStop α} (h : (match r.2 with | .error (.fault _ _) => true | _ => false) = true) :
    ∃ x c e, r = (x, .error (.fault c e)) := by
  obtain ⟨x, (_ | _ | _) | _⟩ := r <;> first | exact ⟨_, _, _, rfl⟩ | cases h
theorem status_of {α : Type} {r : State × Except OpStop α} (h : (match r.2 with | .error (.status _) => true | _ => false) = true) :
    ∃ x c, r = (x, .error (.status c)) := by
  obtain ⟨x, (_ | _ | _) | _⟩ := r <;> first | exact ⟨_, _, rfl⟩ | cases h
theorem done_of {r : State × AccRes} (h : isDone r.2 = true) : ∃ x b, r = (x, .done b) := by
  obtain ⟨x, v⟩ := r
  cases v <;> first | exact ⟨x, _, rfl⟩ | cases h
theorem err_of {r : State × AccRes} (h : isErr r.2 = true) : ∃ x c a, r = (x, .err c a) := by
  obtain ⟨x, v⟩ := r
  cases v <;> first | exact ⟨x, _, _, rfl⟩ | cases h
/-- Of two things that follow each other, the second on what the first gives, both answer. -/
theorem ok_then {α β ε δ : Type} {r : State × Except ε α} {f : State → α → State × Except δ β}
    (h : (match r.2 with | .ok v => isOk (f r.1 v).2 | .error _ => false) = true) : ∃ x v, r = (x, .ok v) ∧ ∃ y w, f x v = (y, .ok w) := by
  obtain ⟨x, v | v⟩ := r
  · cases h
  · exact ⟨x, v, rfl, ok_of h⟩
/-- With the first page of context 5 translated for core 0. -/
def mapped (s : State) : State := { s with mem := { s.mem with tlb := [{ unit := 0, asid := 5, va := 0, leaf := page }] } }
theorem mapped_alone (v : List (Nat × Nat)) {r : Rights} (hr : r.own = true) : Alone (mapped (own v)) pth r {} (thr v) :=
  (own_alone v hr).congr rfl rfl rfl

/-- A load and a store that are done and that fail, both after a store to the same bytes that waits, and a store that SIDE = 0 forbids. -/
theorem test_meets_LoadsAndStores :
    let at_ := fun (s : State) (t : Thread) => (s.begun pth t).pendU (moved pth t) (fmtMPend fM pth (mRegs fM.vn.toNat fM.ty.toNat))
    let st := fun (s : State) (t : Thread) => (s.begun pth t).pendU (moved pth t) (fmtMPend fM pth 0)
    let ea := fun (s : State) (t : Thread) => wrap 64 ((regU s t (fM.u = 1#1) fM.a.toNat 2 : Int) + fM.off.toInt)
    let bytes := fun (s : State) (t : Thread) => toBytes (mSize fM) (regL s t fM.d.toNat (mRegs fM.vn.toNat fM.ty.toNat))
    let acc := fun (s : State) (t : Thread) =>
      ({ fg := t.fg, lane := t.lane, uid := (st s t).1, write := true, ea := ea s t, size := mSize fM, data := bytes s t } : HeldAcc)
    let get := fun (s : State) (t : Thread) =>
      ({ fg := t.fg, lane := t.lane, uid := (at_ s t).1, write := false, ea := ea s t, size := mSize fM, ty := fM.ty.toNat, vn := fM.vn.toNat } : HeldAcc)
    let later := fun (t : Thread) (x : State) (a : HeldAcc) (w : Want) => x.accWaits (moved pth t) a.uid a.touch || (x.farHome t.fg w a.ea a.size).isSome
    let both := fun (s : State) (t : Thread) (b : Bool) => later t (at_ s t).2 (get s t) .rd = b ∧ later t (st s t).2 (acc s t) .wr = b
    (∃ s t, Alone s pth rightsAll fM.guard t ∧ s.sideStore t (ea s t) (mSize fM) = false ∧ both s t false ∧
      (∃ c bs, (at_ s t).2.load false (s.coreOf pth.fg) (s.asidOf pth.fg) (blkOf s t) (ea s t) (mSize fM) = (c, .done bs)) ∧
      (∃ c bs, (st s t).2.store false (s.coreOf pth.fg) (s.asidOf pth.fg) (blkOf s t) (ea s t) (bytes s t) = (c, .done bs))) ∧
    (∃ s t, Alone s pth rightsAll fM.guard t ∧ s.sideStore t (ea s t) (mSize fM) = false ∧ both s t false ∧
      (∃ c code addr, (at_ s t).2.load false (s.coreOf pth.fg) (s.asidOf pth.fg) (blkOf s t) (ea s t) (mSize fM) = (c, .err code addr)) ∧
      (∃ c code addr, (st s t).2.store false (s.coreOf pth.fg) (s.asidOf pth.fg) (blkOf s t) (ea s t) (bytes s t) = (c, .err code addr))) ∧
    (∃ s t, Alone s pth rightsAll fM.guard t ∧ s.sideStore t (ea s t) (mSize fM) = false ∧ both s t true) ∧
    (∃ s t, Alone s pth rightsAll fM.guard t ∧ s.sideStore t (ea s t) (mSize fM) = true) ∧
    (∃ ea n : Nat, 2 ^ 57 ≤ ea ∧ ea < 2 ^ 64 ∧ 0 < n) :=
  let far := [(fM.a.toNat, 0), (fM.a.toNat + 1, 2 ^ 25)]
  let after : Thread := { thr with
    pend := [true, false].map fun w => { uid := 4, sb := 0, left := 0, iaddr := 0, todo := .access { fg := 1, lane := 0, uid := 4, write := w, ea := 3, size := 64, data := [] } } }
  let sync := [(fM.a.toNat, 0), (fM.a.toNat + 1, 0xC000)]
  ⟨⟨mapped own, thr, mapped_alone [] rfl, by decide +kernel, by decide +kernel, done_of (by decide +kernel), done_of (by decide +kernel)⟩,
   ⟨mapped (own far), thr far, mapped_alone far rfl, by decide +kernel, by decide +kernel, err_of (by decide +kernel), err_of (by decide +kernel)⟩,
   ⟨solo 5 0 after, after, alone_one rfl rfl rfl rfl ⟨rfl, rfl⟩ rfl, by decide +kernel, by decide +kernel⟩,
   ⟨{ own sync with blocks := [{ blk 5 0 with side := false }] }, thr sync, alone_one rfl rfl rfl rfl ⟨rfl, rfl⟩ rfl, by decide +kernel⟩,
   2 ^ 57, 1, by decide, by decide, by decide⟩
theorem test_meets_StoreFrame :
    ∃ (s : State) (core asid : Nat) (l : Leaf) (pa : Nat) (bs : List Byte), core < 256 ∧ pa % 16 + bs.length ≤ 16 ∧ Memory.wf s.mem.phys = true ∧
      (s.mem.l1.filter fun y => !y.is core (pa - pa % 128) asid l.buf && y.unit = core).length < 1024 :=
  ⟨own, 255, 5, page, 0x10C, [1, 2, 3, 4], by decide, by decide, rfl, by decide⟩
/-- The last words of the scratchpad, and one byte past it; a queue of two banks. -/
theorem test_meets_ScratchpadAccess :
    (∃ (f : FmtM), ∃ s p t b, Alone s p rightsAll f.guard t ∧ s.blockOf p.fg = some b ∧ 60 + mSize f ≤ b.scratch.length ∧ b.scratch.length < 61 + mSize f) ∧
    (∃ (b : Block) (off : Nat) (bs : List Byte), bs ≠ [] ∧ off + bs.length ≤ b.scratch.length ∧ off + bs.length ≤ 2 ^ 32) ∧
    (∃ b : Block, b.bankQ.length = 2 ∧ ∀ q ∈ b.bankQ, q.off % 16 + q.bytes.length ≤ 16 ∧ q.off + q.bytes.length ≤ b.scratch.length) :=
  ⟨⟨fM, own, pth, thr, blk 5 0, own_alone [] rfl, rfl, by decide, by decide⟩, ⟨blk 5 0, 60, [1, 2, 3, 4], by decide, by decide, by decide⟩,
   { blk 5 0 with bankQ := bankParts 14 [1, 2, 3, 4] }, by decide, by decide⟩
theorem test_meets_ProbesAndBitmap :
    (∃ (f : FmtM), ∃ s p t, Alone s p rightsAll f.guard t) ∧ (∃ (f : FmtL), ∃ s p t, Alone s p rightsOpr f.guard t) ∧ ∃ s : State, Memory.wf s.mem.phys = true :=
  ⟨⟨fM, own, pth, thr, own_alone [] rfl⟩, ⟨fL, opr, pth, thr, opr_alone [] rfl⟩, own, rfl⟩
theorem test_meets_OrderingIssue :
    (∃ i f n w s p, awaits i = some (f, n, w) ∧ Issues s p rightsAll ∧ s.sideless p.fg = false) ∧
    (∃ i f n w s p, awaits i = some (f, n, w) ∧ Issues s p rightsAll ∧ s.sideless p.fg = true ∧ i = .acq f) ∧
    (∃ i f n w s p t, awaits i = some (f, n, w) ∧ Alone s p rightsAll f.guard t ∧ s.sideless p.fg = true ∧ i ≠ .fence f ∧ i ≠ .acq f) :=
  ⟨⟨.tknew { fL with tail := 6 }, _, _, _, own, pth, rfl, own_issues rfl, rfl⟩,
   ⟨.acq fL, _, _, _, { own with blocks := [{ blk 5 0 with side := false }] }, pth, rfl, issues_one rfl rfl rfl ⟨rfl, rfl⟩, rfl, rfl⟩,
   .rel fL, _, _, _, { own with blocks := [{ blk 5 0 with side := false }] }, pth, thr, rfl, alone_one rfl rfl rfl rfl ⟨rfl, rfl⟩ rfl, rfl, by decide, by decide⟩
/-- A synchronisation word of context 5 in the sync space, and operations on it that nothing holds back. -/
def syncOwn : State :=
  { own with mem := { own.mem with tlb := [{ unit := 0, asid := 5, va := 3 * 2 ^ 46, leaf := { page with kind := 2 } }] } }
/-- An atomic that a host has been asked for; and a parity update on its way. -/
def asked : HostAtom :=
  { id := 1, fg := 1, lane := 0, uid := 5, asid := 5, buf := 0, ea := 0, bus := 0, op := 0, at_ := 0, x := 1, y := 0, ord := 0, sc := 0, red := false }
def parityDue : State := { own with links := { own.links with out := [{ id := 1, kind := 8, rank := 1, addr := 0, size := 16, asid := 5 }] } }
/-- An operation whose object no other die keeps. -/
theorem near_of {s : State} {t : Thread} {p : Pending} (h : (s.farAsk t p).isNone = true) : s.farAsk t p = none := Option.isNone_iff_eq_none.1 h
/-- A fence that waits for an earlier load, one that a dropped translation's atomic delays, one whose thread has lost a store, and one
that ends; a release and an acquire on a word, a lost one, and one outside every space. -/
theorem test_meets_OrderingEffects :
    let q := fun o : Todo => ({ uid := 4, sb := 0, left := 0, iaddr := 0, todo := o } : Pending)
    let obj := 3 * 2 ^ 46 + 8
    let fence := fun sc : Nat => q (.fence false true false sc)
    let free := fun (s : State) (t : Thread) (q : Pending) => q.held = false ∧ s.mayPerform t = true ∧ s.todoWaits t q = false ∧ s.crossOf t.fg t.lane q.uid = none ∧ s.farAsk t q = none
    let waits := fun (s : State) (t : Thread) sc => let d := s.doFence t false true false sc; d.relWaits (d.coreOf t.fg) (d.asidOf t.fg) sc fun _ => sc
    (∃ (s : State) (t : Thread), free s t (fence 5) ∧ s.releaseReady t 4 5 = false) ∧
    (∃ (s : State) (t : Thread), free s t (fence 7) ∧ s.releaseReady t 4 7 = true ∧ s.dropWaits t 4 7 = true) ∧
    (∃ (s : State) (t : Thread), free s t (fence 6) ∧ s.releaseReady t 4 6 = true ∧ s.dropWaits t 4 6 = false ∧ t.relLost 6 = true) ∧
    (∃ (s : State) (t : Thread), free s t (fence 6) ∧ s.releaseReady t 4 6 = true ∧ s.dropWaits t 4 6 = false ∧ t.relLost 6 = false ∧ waits s t 6 = false) ∧
    (∃ (s : State) (t : Thread), free s t (fence 6) ∧ s.releaseReady t 4 6 = true ∧ s.dropWaits t 4 6 = false ∧ t.relLost 6 = false ∧ waits s t 6 = true) ∧
    (∃ (s : State) (t : Thread), free s t (q (.rel obj 6)) ∧ s.releaseReady t 4 6 = true ∧ t.relLost 6 = true ∧
      ∃ c p, s.findObj (s.coreOf t.fg) (s.asidOf t.fg) .rw obj = (c, .ok p)) ∧
    (∃ (s : State) (t : Thread), free s t (q (.rel obj 5)) ∧ s.releaseReady t 4 5 = true ∧ t.relLost 5 = false ∧
      ∃ c p, s.findObj (s.coreOf t.fg) (s.asidOf t.fg) .rw obj = (c, .ok p) ∧
        ∃ d bs, c.readPiece false (s.coreOf t.fg) (s.asidOf t.fg) p = (d, .ok bs)) ∧
    (∃ (s : State) (t : Thread), free s t (q (.rel (2 ^ 57) 5)) ∧
      s.findObj (s.coreOf t.fg) (s.asidOf t.fg) .rw (2 ^ 57) = (s, .error (.err 0x3003 (2 ^ 57)))) ∧
    (∃ (s : State) (t : Thread), free s t (q (.acq obj 5)) ∧
      ∃ c p, s.findObj (s.coreOf t.fg) (s.asidOf t.fg) .rd obj = (c, .ok p) ∧
        ∃ d bs, c.readPiece false (s.coreOf t.fg) (s.asidOf t.fg) p = (d, .ok bs)) := by
  let lost : Thread := { thr with lost := true }
  refine ⟨⟨own, { thr with pend := [{ uid := 3, sb := 0, left := 0, iaddr := 0 }] }, by decide +kernel, by decide +kernel⟩,
    ⟨{ opr with links := { opr.links with hostAtoms := [asked] } }, thr, by decide +kernel, by decide +kernel, by decide +kernel⟩,
    ⟨own, lost, by decide +kernel, by decide +kernel, by decide +kernel, rfl⟩, ⟨own, thr, by decide +kernel, by decide +kernel, by decide +kernel, rfl, by decide +kernel⟩,
    ⟨parityDue, thr, by decide +kernel, by decide +kernel, by decide +kernel, rfl, by decide +kernel⟩, ⟨syncOwn, lost, ⟨rfl, by decide +kernel, by decide +kernel, rfl, rfl⟩, by decide +kernel, rfl, ok_of (by decide +kernel)⟩,
    ⟨syncOwn, thr, ⟨rfl, by decide +kernel, by decide +kernel, rfl, near_of (by decide +kernel)⟩, by decide +kernel, rfl, ?_⟩,
    ⟨own, thr, ⟨rfl, by decide +kernel, by decide +kernel, rfl, near_of (by decide +kernel)⟩, by decide +kernel⟩, ⟨syncOwn, thr, ⟨rfl, by decide +kernel, by decide +kernel, rfl, near_of (by decide +kernel)⟩, ?_⟩⟩
  · exact ok_then (r := syncOwn.findObj 0 5 .rw (3 * 2 ^ 46 + 8)) (f := fun c p => c.readPiece false 0 5 p) (by decide +kernel)
  · exact ok_then (r := syncOwn.findObj 0 5 .rd (3 * 2 ^ 46 + 8)) (f := fun c p => c.readPiece false 0 5 p) (by decide +kernel)

/-! ### Synchronisation -/

theorem test_meets_Bindings :
    (∃ (f : FmtL), ∃ s p t c n, Alone s p rightsOwn f.guard t ∧ s.sideless p.fg = false ∧ s.ctx? (s.asidOf p.fg) = some c ∧
      0 < regL s t f.b.toNat 2 ∧ s.norm (regL s t f.a.toNat 2) + regL s t f.b.toNat 2 ≤ 2 ^ 47 ∧ s.objOf (regL s t f.c.toNat 2) < 2 ^ 57 ∧
      bits (s.objOf (regL s t f.c.toNat 2)) 48 9 ≤ 0x180 ∧ spaceOf (s.objOf (regL s t f.c.toNat 2) % 2 ^ 48) = 2 ∧
      n < 4096 ∧ (∀ b ∈ c.bindings, b.num ≠ n) ∧ ∀ k < n, ∃ b ∈ c.bindings, b.num = k) ∧
    (∃ (f : FmtL), ∃ s p t c, Alone s p rightsOwn f.guard t ∧ s.sideless p.fg = false ∧ s.ctx? (s.asidOf p.fg) = some c) ∧
    (∃ (f : FmtL), ∃ s p t, Alone s p rightsOwn f.guard t ∧ s.sideless p.fg = true) :=
  let v := [(3, 32767), (2, 0xFFFFFF80), (8, 128), (6, 8), (7, 0xC000)]
  ⟨⟨fL, { own v with ctxs := [{ asid := 5, state := 1, bindings := [{ num := 0, base := 0, len := 128, obj := 8, sc := 3 }] }] }, pth, thr v, _, 1,
    alone_one rfl rfl rfl rfl ⟨rfl, rfl⟩ rfl, rfl, rfl, by decide +kernel, by decide +kernel, by decide +kernel, by decide +kernel, by decide +kernel,
    by decide, by decide, by decide⟩,
   ⟨fL, own, pth, thr, _, own_alone [] rfl, rfl, rfl⟩,
   fL, { own with blocks := [{ blk 5 0 with side := false }] }, pth, thr, alone_one rfl rfl rfl rfl ⟨rfl, rfl⟩ rfl, rfl⟩
theorem test_meets_AtomicIssue :
    (∃ i f sp red s p t, atomic i = some (f, sp, red) ∧ Alone s p rightsAll f.guard t ∧ (sp = true ∨ s.sideless p.fg = false) ∧
      ∀ q ∈ s.sync.reqs, q.id ≠ s.uid) ∧
    (∃ i f red s p t, atomic i = some (f, false, red) ∧ Alone s p rightsAll f.guard t ∧ s.sideless p.fg = true) :=
  ⟨⟨.atom fL, _, _, _, own, pth, thr, rfl, own_alone [] rfl, .inr rfl, by decide⟩,
   .atom fL, _, _, { own with blocks := [{ blk 5 0 with side := false }] }, pth, thr, rfl, alone_one rfl rfl rfl rfl ⟨rfl, rfl⟩ rfl, rfl⟩
theorem test_meets_AtomicValues :
    ∃ at_ old x, at_ ≤ 6 ∧ old < 2 ^ atWidth at_ ∧ x < 2 ^ atWidth at_ ∧ 4 ≤ at_ := ⟨6, 65535, 0x3F80, by decide, by decide, by decide, by decide⟩
theorem test_meets_BarrierChange :
    ∃ (s : State) (b : Block), s.block? 2 = some b ∧ 15 < b.bars.length ∧ (b.bar 15).current = (b.bar 15).expected ∧ (b.bar 15).pending % 2 ^ 64 = 0 ∧
      ¬({ b.bar 15 with current := 1 } : Bar).current = (b.bar 15).expected := ⟨own, blk 5 0, rfl, by decide, rfl, rfl, by decide⟩
theorem test_meets_BarrierInstructions :
    ∃ (f : FmtA), ∃ s p t b, Alone s p rightsAll f.guard t ∧ s.blockOf p.fg = some b ∧ srcB s t f 6 ≤ 4095 ∧ f.fn = 2#5 ∧
      (b.bar f.a.toNat).phase = regL s t f.b.toNat 1 % 2 :=
  ⟨{ fA with fn := 2 }, own [(6, 4094)], pth, thr [(6, 4094)], blk 5 0, own_alone _ rfl, rfl, by decide, rfl, by decide⟩
/-- A node whose cluster 0 has had a block on core 3. -/
def wide : Node :=
  { id := 0, asid := 5, part := 0, queue := 0, state := 3, seq := 0, clusters := [{ num := 0, cores := [(0, 3)] }]
    pkt := { desc := 0, code := 0, blocks := 4, cshape := 4, fgs := 1, threads := 1, side := true, notify := false, pennant := 0, signal := 0, wait := 0
             ntype := 0, tag := 0, args := [], regs := 8, scratch := 0, producer := 0, gang := 0, entry := 0, feet := [] } }
/-- A rank that is valid and one that is not; a block of no domain job; a block that has ended, and one that never was. -/
theorem test_meets_RemoteArrivals :
    let s : State := { own [(6, 2)] with
      blocks := [{ blk 5 0 with tag := 9 }], links := { own.links with ranks := own.links.ranks.set 0 0x80000000 } }
    (∃ t b c, Alone s pth rightsAll fA.guard t ∧ s.blockOf 1 = some b ∧
      s.blocks.find? (fun c => c.node = b.node && c.clu = b.clu && c.run = b.run && c.core = b.core / 4 * 4) = some c ∧
      s.sideless 1 = false ∧ b.tag ≠ 0 ∧ s.rankValid 0 = true ∧ s.rankValid 1 = false) ∧
    (∃ b, own.blockOf 1 = some b ∧ b.tag = 0) ∧
    (∃ (s : State) (t : Thread) (b : Block) (n : Node) (k : Cluster), Alone s pth rightsAll fA.guard t ∧ s.blockOf 1 = some b ∧
      s.blocks.find? (fun c => c.node = b.node && c.clu = b.clu && c.run = b.run && c.core = b.core / 4 * 4 + 3) = none ∧ srcB s t fA 6 % 4 = 3 ∧
      s.sched.pool.find? (fun n => n.id = b.node) = some n ∧ k ∈ n.clusters ∧ k.num = b.clu ∧ ∃ e ∈ k.cores, e.1 = b.run ∧ e.2 % 4 = 3) ∧
    (∃ (s : State) (t : Thread) (b : Block), Alone s pth rightsAll fA.guard t ∧ s.blockOf 1 = some b ∧ srcB s t fA 6 % 4 = 3 ∧
      s.blocks.find? (fun c => c.node = b.node && c.clu = b.clu && c.run = b.run && c.core = b.core / 4 * 4 + 3) = none ∧ s.sched.pool = []) ∧
    (∃ (s : State) (t : Thread) (b : Block), Alone s pth rightsAll fA.guard t ∧ s.blockOf 1 = some b ∧ s.sideless 1 = true) :=
  ⟨⟨thr [(6, 2)], _, _, alone_one rfl rfl rfl rfl ⟨rfl, rfl⟩ rfl, rfl, rfl, rfl, by decide, by decide, by decide⟩, ⟨_, rfl, rfl⟩,
   ⟨{ own [(6, 3)] with sched := { pool := [wide] } }, thr [(6, 3)], _, _, _, (own_alone _ rfl).congr rfl rfl rfl, rfl, rfl, by decide, rfl, List.mem_singleton.2 rfl, rfl,
     _, List.mem_singleton.2 rfl, rfl, rfl⟩,
   ⟨own [(6, 3)], thr [(6, 3)], _, own_alone _ rfl, rfl, by decide, rfl, rfl⟩,
   { own with blocks := [{ blk 5 0 with side := false }] }, thr, _, alone_one rfl rfl rfl rfl ⟨rfl, rfl⟩ rfl, rfl, rfl⟩

/-! ### Traps and the system -/

theorem test_meets_RightsRows :
    ∃ (i : Instr) (s : State) (p : Path) (t : Thread), i.isEvent = false ∧ s.paths.head? = some p ∧ p.lanes = [t.lane] ∧ s.thread? p.fg t.lane = some t ∧
      authOf (s.asidOf p.fg) ≠ .auditor ∧ (rowOf i).ok (authOf (s.asidOf p.fg)) = false :=
  ⟨.moncfg fZ, own, pth, thr, by decide, rfl, rfl, rfl, by decide, by decide⟩
/-- The context with a handler; a thread in its handler; the context without one. -/
theorem test_meets_OwnerTrapEntry :
    let meets := fun (s : State) (t : Thread) (c : Ctx) => t.win = false ∧ 0x4001 ≠ 0xA001 ∧ oprCode 0x4001 = false ∧ s.thread? t.fg t.lane = some t ∧
      s.asidOf t.fg ≠ oprAsid ∧ s.ctx? (s.asidOf t.fg) = some c ∧ ∃ b, s.blockOf t.fg = some b ∧ b.run = 0
    (∃ s t c, meets s t c ∧ t.trap.inH = false ∧ c.trapVec ≠ 0) ∧ (∃ s t c, meets s t c ∧ t.trap.inH = true) ∧
    (∃ s t c, meets s t c ∧ t.trap.inH = false ∧ c.trapVec = 0) :=
  let t : Thread := { thr with trap := { inH := true } }
  ⟨⟨{ own with ctxs := [{ asid := 5, state := 1, trapVec := 0x4000 }] }, thr, _, ⟨rfl, by decide, rfl, rfl, by decide, rfl, _, rfl, rfl⟩, rfl, by decide⟩,
   ⟨solo 5 0 t, t, _, ⟨rfl, by decide, rfl, rfl, by decide, rfl, _, rfl, rfl⟩, rfl⟩,
   own, thr, _, ⟨rfl, by decide, rfl, rfl, by decide, rfl, _, rfl, rfl⟩, rfl, rfl⟩
theorem test_meets_OperatorTraps :
    (∃ (s : State) (t : Thread), t.win = false ∧ 0x3010 ≠ 0xA001 ∧ oprCode 0x3010 = true ∧ s.thread? t.fg t.lane = some t ∧ ∀ h ∈ s.opr.held, h.tick ≠ s.ticks) ∧
    (∃ (s : State) (t : Thread), t.win = false ∧ 0x4001 ≠ 0xA001 ∧ oprCode 0x4001 = false ∧ s.asidOf t.fg = oprAsid) :=
  ⟨⟨own, thr, rfl, by decide, rfl, rfl, by decide⟩, opr, thr, rfl, by decide, rfl, rfl⟩
/-- A thread of the handler, with its entry's record; and holds with one of number 7. -/
def rec7 : TrapRecord := { pc := 0x2000, idx := 0, words := [], t := List.replicate 8 0, pend := [], sb := List.replicate 8 0, status := .pooled, inst := none, npc := 0 }
def inHandler : Thread := { thr with trap := { inH := true, record := some rec7 } }
theorem test_meets_TrapInstructions :
    (∃ (f : FmtZ), ∃ s p t, Alone s p rightsAll f.guard t) ∧
    (∃ (f : FmtZ), ∃ s p t, Alone s p rightsOwn f.guard t ∧ t.trap.inH = false) ∧
    (∃ (f : FmtZ), ∃ s p t r, Alone s p rightsOwn f.guard t ∧ t.trap.inH = true ∧ t.trap.record = some r ∧ t.trap.resume = t.trap.entryResume) ∧
    (∃ (f : FmtZ), ∃ s p t r, Alone s p rightsOwn f.guard t ∧ t.trap.inH = true ∧ t.trap.record = some r ∧ t.trap.resume ≠ t.trap.entryResume ∧ t.trap.resume.toNat / 2 ^ 60 ≠ 0) ∧
    (∃ (f : FmtZ), ∃ s p t r, Alone s p rightsOwn f.guard t ∧ t.trap.inH = true ∧ t.trap.record = some r ∧ t.trap.resume ≠ t.trap.entryResume ∧ t.trap.resume.toNat / 2 ^ 60 = 0
      ∧ t.ret = none) ∧
    (∃ (s : State) (t : Thread) (r : TrapRecord), s.thread? 1 0 = some t ∧ t.ret = some r ∧ t.trapDue = none) ∧
    (∃ (f : FmtZ), ∃ s p t h, Alone s p rightsOpr f.guard t ∧ s.opr.held.find? (fun h => h.hold = regL s t f.a.toNat 1 % 65536) = some h) ∧
    (∃ (f : FmtZ), ∃ s p t, Alone s p rightsOpr f.guard t ∧ ∀ h ∈ s.opr.held, h.hold ≠ regL s t f.a.toNat 1 % 65536) :=
  let went := fun a : DWord => { inHandler with trap := { inHandler.trap with resume := a } }
  let back : Thread := { thr with ret := some rec7 }
  ⟨⟨fZ, own, pth, thr, own_alone [] rfl⟩, ⟨fZ, own, pth, thr, own_alone [] rfl, rfl⟩,
   ⟨fZ, solo 5 0 inHandler, pth, inHandler, rec7, alone_one rfl rfl rfl rfl ⟨rfl, rfl⟩ rfl, rfl, rfl, rfl⟩,
   ⟨fZ, solo 5 0 (went (1 <<< 60)), pth, went (1 <<< 60), rec7, alone_one rfl rfl rfl rfl ⟨rfl, rfl⟩ rfl, rfl, rfl, by decide, by decide⟩,
   ⟨fZ, solo 5 0 (went 0x3000), pth, went 0x3000, rec7, alone_one rfl rfl rfl rfl ⟨rfl, rfl⟩ rfl, rfl, rfl, by decide, by decide, rfl⟩,
   ⟨solo 5 0 back, back, rec7, rfl, rfl, rfl⟩,
   ⟨fZ, { opr [(2, 0x10007)] with opr := { held := [{ hold := 7, code := 0x3010, asid := 5, tick := 1, pc := 0 }] } }, pth, thr [(2, 0x10007)], _,
    alone_one rfl rfl rfl rfl ⟨rfl, rfl⟩ rfl, rfl⟩,
   fZ, opr, pth, thr, opr_alone [] rfl, by decide⟩
/-- For each authority a register it may read or write, and one that it may not; an index at the end of a register and one past it. -/
theorem test_meets_ControlRegisters :
    (∃ (f : FmtZ), ∃ s p t row c, Alone s p rightsAll f.guard t ∧ crRow f.cr.toNat = some row ∧ f.imm.toNat < row.n ∧ authOf (s.asidOf p.fg) = .owner ∧
      s.ctx? (s.asidOf p.fg) = some c ∧ 1 ≤ row.own ∧ f.a.toNat = 248) ∧
    (∃ (f : FmtZ), ∃ s p t row, Alone s p rightsAll f.guard t ∧ crRow f.cr.toNat = some row ∧ f.imm.toNat < row.n ∧ authOf (s.asidOf p.fg) = .operator ∧
      1 ≤ row.opr ∧ row.scope ≠ .c ∧ f.a.toNat = 248) ∧
    (∃ (f : FmtZ), ∃ s p t row c, Alone s p rightsAll f.guard t ∧ crRow f.cr.toNat = some row ∧ f.imm.toNat < row.n ∧ authOf (s.asidOf p.fg) = .operator ∧
      1 ≤ row.opr ∧ row.scope = .c ∧ f.a.toNat ≠ 248 ∧ s.ctx? (regL s t f.a.toNat 1) = some c) ∧
    (∃ (f : FmtZ), ∃ s p t row, Alone s p rightsAll f.guard t ∧ crRow f.cr.toNat = some row ∧ f.imm.toNat < row.n ∧ row.may (authOf (s.asidOf p.fg)) = 0) ∧
    (∃ (f : FmtZ), ∃ s p t row, Alone s p rightsAll f.guard t ∧ crRow f.cr.toNat = some row ∧ f.imm.toNat < row.n ∧ row.may (authOf (s.asidOf p.fg)) = 2 ∧
      (authOf (s.asidOf p.fg) = .owner ∨ row.scope ≠ .c)) ∧
    (∃ (f : FmtZ), ∃ s p t, Alone s p rightsAll f.guard t ∧ ∀ row, crRow f.cr.toNat = some row → row.n ≤ f.imm.toNat) ∧
    (∃ (f : FmtZ), ∃ s p t, Alone s p rightsAll f.guard t ∧ regL s t f.a.toNat 1 + f.imm.toNat = 1023) ∧
    (∃ (f : FmtZ), ∃ s p t, Alone s p rightsAll f.guard t ∧ regL s t f.a.toNat 1 + f.imm.toNat = 1024) ∧
    (∃ (f : FmtZ), ∃ s p t, Alone s p rightsOwn f.guard t ∧ regL s t f.a.toNat 2 = s.map.version) ∧
    (∃ (f : FmtZ), ∃ s p t, Alone s p rightsOwn f.guard t ∧ regL s t f.a.toNat 2 ≠ s.map.version) :=
  ⟨⟨{ fZ with cr := 2, imm := 7, a := 248 }, own, pth, thr, _, _, own_alone [] rfl, rfl, by decide, rfl, rfl, by decide, rfl⟩,
   ⟨{ fZ with cr := 0x42, imm := 255, a := 248 }, opr, pth, thr, _, opr_alone [] rfl, rfl, by decide, rfl, by decide, by decide, rfl⟩,
   ⟨{ fZ with cr := 0x11 }, opr [(2, 5)], pth, thr [(2, 5)], _, _, opr_alone _ rfl, rfl, by decide, rfl, by decide, rfl, by decide, rfl⟩,
   ⟨{ fZ with cr := 0x31 }, own, pth, thr, _, own_alone [] rfl, rfl, by decide, rfl⟩,
   ⟨{ fZ with cr := 0x30 }, own, pth, thr, _, own_alone [] rfl, rfl, by decide, rfl, .inl rfl⟩,
   ⟨{ fZ with cr := 2, imm := 8 }, own, pth, thr, own_alone [] rfl, by intro row h; cases h; decide⟩,
   ⟨{ fZ with imm := 1000 }, own [(2, 23)], pth, thr [(2, 23)], own_alone _ rfl, by decide⟩,
   ⟨{ fZ with imm := 1000 }, own [(2, 24)], pth, thr [(2, 24)], own_alone _ rfl, by decide⟩,
   ⟨fZ, own [(2, 1)], pth, thr [(2, 1)], own_alone _ rfl, by decide⟩, fZ, own, pth, thr, own_alone [] rfl, by decide⟩
/-- The operator on C0's control core, with some contexts and cluster slots; and the same for one context 0. -/
def withCtx (l : List Ctx) (v : List (Nat × Nat)) : State :=
  { opr v with
    ctxs := l
    sched := { (opr v).sched with slots := { rsv := some 0 } :: List.replicate 63 {} }
    mem := { (opr v).mem with tlb := [{ unit := 256, asid := oprAsid, va := 0, leaf := page }] } }
theorem ctx_alone (l : List Ctx) (v : List (Nat × Nat)) {r : Rights} (hr : r.opr = true) : Alone (withCtx l v) pth r {} (thr v) :=
  (opr_alone v hr).congr rfl rfl rfl
/-- An image without ciphertext of a context, with the tag that AES-256-GCM gives it under the key 0. -/
def imageOf (asid seq : Nat) : List Byte :=
  let head := List.replicate 8 0 ++ toBytes 8 asid ++ toBytes 8 seq ++ toBytes 8 0 ++ toBytes 8 80 ++ List.replicate 24 0
  head ++ natsB (gcmTag (natBytes 32 0) (bNats (slice head 40 12)) (bNats head) [])
/-- A sealed context, whose image may lie at 0. -/
def sealed (img : List Byte) : State :=
  { withCtx [{ asid := 0, state := 2 }] [] with
    images := [{ asid := 0, seq := 0, text := [] }]
    mem := { (withCtx [] []).mem with phys := cellsPut [] 0 img } }
theorem sealed_alone (img : List Byte) : Alone (sealed img) pth rightsOpr {} thr := (ctx_alone [{ asid := 0, state := 2 }] [] rfl).congr rfl rfl rfl
/-- What the operator reads there. -/
def imageRead (img : List Byte) (n : Nat) : List Byte := ((parts (n / 16 + 2) 0 n).map onPage).flatMap (pageBytes ((sealed img).begun pth thr) oprAsid)
theorem sealed_read (img : List Byte) (n : Nat) (hn : n ≤ 2 ^ 30) :
    ((sealed img).begun pth thr).opRead (moved pth thr) pth.iaddr 0 n = ((sealed img).begun pth thr, .ok (imageRead img n)) :=
  opRead_page _ 0 n rfl rfl (by rw [Nat.zero_add]; exact hn) rfl (by show (State.reset.map.unit 321).1 ≠ 3; decide) rfl rfl
/-- A context in each state that an instruction asks for; no image, one of another context, one that is not the last, and the last. -/
theorem test_meets_ContextImages :
    (∃ (f : FmtL), ∃ s p t c x ps, Alone s p rightsOpr f.guard t ∧ s.ctx? (regL s t f.a.toNat 1) = some c ∧ (c.state = 1 ∨ c.state = 3) ∧
      (s.begun p t).check (s.coreOf p.fg) (s.asidOf p.fg) .wr (regL s t f.b.toNat 2) ((s.begun p t).sealLen (regL s t f.a.toNat 1)) = (x, .ok ps)) ∧
    (∃ (f : FmtL), ∃ s p t, Alone s p rightsOpr f.guard t ∧ ∀ c, s.ctx? (regL s t f.a.toNat 1) = some c → c.state ≠ 1 ∧ c.state ≠ 3) ∧
    (∃ (f : FmtL), ∃ s p t c, Alone s p rightsOpr f.guard t ∧ s.ctx? (regL s t f.a.toNat 1) = some c ∧ c.state ≠ 0 ∧ c.state ≠ 5) ∧
    (∀ e ∈ [(none, 0, 0), (some [], 1, 0), (some [], 0, 1), (some [], 0, 0)],
      ∃ s c x h y img, Alone s pth rightsOpr fL.guard thr ∧ s.ctx? (regL s thr fL.a.toNat 1) = some c ∧ (c.state = 2 ∨ c.state = 4) ∧
        s.hasSlots (regL s thr fL.a.toNat 1) = true ∧ (s.begun pth thr).opRead (moved pth thr) pth.iaddr (regL s thr fL.b.toNat 2) 64 = (x, .ok h) ∧
        x.opRead (moved pth thr) pth.iaddr (regL s thr fL.b.toNat 2) (Nat.min (field h 32 8) (2 ^ 39)) = (y, .ok img) ∧
        openImage c.key img = e.1 ∧ field h 8 2 = e.2.1 ∧ field h 16 8 = e.2.2 ∧ regL s thr fL.a.toNat 1 = 0 ∧ c.saveSeq = 0) ∧
    (∃ (s : State) (c : Ctx) (text : List Byte) (i : SealedImage) (d : Ctx), s.images.find? (fun i => i.asid = c.asid && i.seq = c.saveSeq && i.text = text) = some i ∧ s.ctx? c.asid = some d) ∧
    (∃ (f : FmtL), ∃ s p t x r, Alone s p rightsOpr f.guard t ∧ regL s t f.a.toNat 1 ≤ 1023 ∧ s.ctx? (regL s t f.a.toNat 1) = none ∧
      (s.begun p t).opRead (moved p t) p.iaddr (regL s t f.b.toNat 2) 1280 = (x, .ok r)) ∧
    (∃ (f : FmtL), ∃ s p t c, Alone s p rightsOpr f.guard t ∧ s.ctx? (regL s t f.a.toNat 1) = some c ∧ c.state = 3 ∧ s.hasSlots (regL s t f.a.toNat 1) = true) ∧
    (∃ (f : FmtL), ∃ s p t c, Alone s p rightsOpr f.guard t ∧ s.ctx? (regL s t f.a.toNat 1) = some c ∧ c.state = 3 ∧ s.hasSlots (regL s t f.a.toNat 1) = false) := by
  refine ⟨?_, ⟨fL, withCtx [{ asid := 0, state := 2 }] [], pth, thr, ctx_alone _ [] rfl, by intro c h; cases h; decide⟩,
    ⟨fL, withCtx [{ asid := 0, state := 4 }] [], pth, thr, _, ctx_alone _ [] rfl, rfl, by decide, by decide⟩, ?_,
    ⟨sealed [], { asid := 0, state := 2 }, [], _, _, rfl, rfl⟩, ?_,
    ⟨fL, withCtx [{ asid := 0, state := 3 }] [], pth, thr, _, ctx_alone _ [] rfl, rfl, rfl, rfl⟩,
    ⟨fL, withCtx [{ asid := 5, state := 3 }] [(2, 5)], pth, thr [(2, 5)], _, ctx_alone _ _ rfl, rfl, rfl, rfl⟩⟩
  · exact ⟨fL, withCtx [{ asid := 0, state := 3 }] [], pth, thr, _, _, _, ctx_alone _ [] rfl, rfl, .inr rfl, (check_page .wr 0 _ rfl (by decide)).1⟩
  · have h (img : List Byte) (e : Option (List Byte) × Nat × Nat) (hn : Nat.min (field (imageRead img 64) 32 8) (2 ^ 39) ≤ 2 ^ 30)
        (ho : openImage 0 (imageRead img (Nat.min (field (imageRead img 64) 32 8) (2 ^ 39))) = e.1)
        (ha : field (imageRead img 64) 8 2 = e.2.1) (hs : field (imageRead img 64) 16 8 = e.2.2) :
        ∃ s c x h y img, Alone s pth rightsOpr fL.guard thr ∧ s.ctx? (regL s thr fL.a.toNat 1) = some c ∧ (c.state = 2 ∨ c.state = 4) ∧
          s.hasSlots (regL s thr fL.a.toNat 1) = true ∧ (s.begun pth thr).opRead (moved pth thr) pth.iaddr (regL s thr fL.b.toNat 2) 64 = (x, .ok h) ∧
          x.opRead (moved pth thr) pth.iaddr (regL s thr fL.b.toNat 2) (Nat.min (field h 32 8) (2 ^ 39)) = (y, .ok img) ∧
          openImage c.key img = e.1 ∧ field h 8 2 = e.2.1 ∧ field h 16 8 = e.2.2 ∧ regL s thr fL.a.toNat 1 = 0 ∧ c.saveSeq = 0 :=
      ⟨sealed img, { asid := 0, state := 2 }, (sealed img).begun pth thr, imageRead img 64, (sealed img).begun pth thr, _, sealed_alone img, rfl, .inl rfl, rfl,
        sealed_read img 64 (by decide), sealed_read img _ hn, ho, ha, hs, rfl, rfl⟩
    have h0 := h [] (none, 0, 0) (by decide +kernel) (by decide +kernel) (by decide +kernel) (by decide +kernel)
    have h1 := h (imageOf 1 0) (some [], 1, 0) (by decide +kernel) (by decide +kernel) (by decide +kernel) (by decide +kernel)
    have h2 := h (imageOf 0 1) (some [], 0, 1) (by decide +kernel) (by decide +kernel) (by decide +kernel) (by decide +kernel)
    have h3 := h (imageOf 0 0) (some [], 0, 0) (by decide +kernel) (by decide +kernel) (by decide +kernel) (by decide +kernel)
    exact List.forall_mem_cons.2 ⟨h0, List.forall_mem_cons.2 ⟨h1, List.forall_mem_cons.2 ⟨h2, List.forall_mem_singleton.2 h3⟩⟩⟩
  · exact ⟨fL, withCtx [] [(2, 1023)], pth, thr [(2, 1023)], _, _, ctx_alone _ _ rfl, by decide, rfl,
      opRead_page _ 0 1280 rfl rfl (by decide) rfl (by decide) rfl rfl⟩
theorem length_padTo (n : Nat) (l : List Byte) : (padTo n l).length = n := by simp [padTo, slice]
/-- Context 5 on C0's control core, with the page, some bytes of device memory and a slot that holds the key of buffer 0. -/
def ctlOwn (cells : List Host.Cell) (v : List (Nat × Nat)) : State :=
  { solo 5 256 (thr v) with
    mem := { (solo 5 256 (thr v)).mem with
      phys := cells, keySlots := [{ num := 0, key := 3, owner := 5 }], tlb := [{ unit := 256, asid := 5, va := 0, leaf := page }] } }
theorem ctlOwn_alone (cells : List Host.Cell) (v : List (Nat × Nat)) {r : Rights} (hr : r.own = true) : Alone (ctlOwn cells v) pth r {} (thr v) :=
  alone_one rfl hr rfl rfl ⟨rfl, rfl⟩ rfl
/-- Cells that make a buffer record 0: 256 bytes, key slot 0, owner 5, VALID. -/
def buf0 : List Host.Cell := [(0x200009, 1), (0x200012, 5), (0x200014, 1)]
/-- A report that says it is a module's, and one that does not; a blob of any material; an escrowed context. What the checks of a
signature or a blob answer are constants that nothing sees; no statement assumes one. -/
theorem test_meets_KeyInstructions :
    (∃ (f : FmtL), ∃ s p t c key x, Alone s p rightsOwn f.guard t ∧ s.sideless p.fg = false ∧ (s.bufRec 0).ok = true ∧ (s.bufRec 0).owner = s.asidOf p.fg ∧
      regL s t f.a.toNat 1 = 0 ∧ s.ctx? (regL s t f.c.toNat 1) = some c ∧
      let leaf : Leaf := { lg := 16, addr := 0, kind := 0, r := true, w := true, x := false, buf := 0, br := s.bufRec 0 }
      let b := (s.begun p t).ensureKey (s.asidOf p.fg) leaf
      b.keyOf (s.asidOf p.fg) leaf = some key ∧ b.opWrite (moved p t) (regL s t f.b.toNat 2) (padTo 128 (toBytes 2 0 ++ toBytes 2 5 ++ toBytes 4 0
        ++ c.meas.take 8 ++ (keyWrap (wrapKey c) (natBytes 64 key)).map (BitVec.ofNat 8))) = (x, .ok ())) ∧
    (∃ (f : FmtL), ∃ s p t c blob x, Alone s p rightsOwn f.guard t ∧ s.sideless p.fg = false ∧ s.ctx? (s.asidOf p.fg) = some c ∧
      (s.begun p t).opRead (moved p t) p.iaddr (regL s t f.b.toNat 2) 128 = (x, .ok blob)) ∧
    (∃ (f : FmtL), ∃ s p t h x blob y, Alone s p rightsOwn f.guard t ∧ s.sideless p.fg = false ∧ s.asidOf p.fg ≠ oprAsid ∧
      (s.begun p t).opRead (moved p t) p.iaddr (regL s t f.b.toNat 2) 16 = (x, .ok h) ∧ x.opRead (moved p t) p.iaddr (regL s t f.b.toNat 2) (blobLen h) = (y, .ok blob)) ∧
    (∃ (f : FmtL), ∃ s p t c rep x, Alone s p rightsOpr f.guard t ∧ s.ctx? (regL s t f.a.toNat 1) = some c ∧ c.state = 2 ∧
      (s.begun p t).opRead (moved p t) p.iaddr (regL s t f.b.toNat 2) 10240 = (x, .ok rep) ∧ field rep 8 2 = 2 ∧
      ∀ blob : List Byte, blob.length ≤ 2 ^ 25 → ∃ y, x.opWrite (moved p t) (regL s t f.c.toNat 2) blob = (y, .ok ())) ∧
    (∃ (f : FmtL), ∃ s p t c rep x, Alone s p rightsOpr f.guard t ∧ s.ctx? (regL s t f.a.toNat 1) = some c ∧ c.state = 2 ∧
      (s.begun p t).opRead (moved p t) p.iaddr (regL s t f.b.toNat 2) 10240 = (x, .ok rep) ∧ field rep 8 2 ≠ 2) ∧
    (∀ a ∈ [0, 1024], ∃ (f : FmtL), ∃ s p t, Alone s p rightsOpr f.guard t ∧ s.sideless p.fg = false ∧ regL s t f.a.toNat 1 = a ∧
      (1023 < a ∨ ∃ c, s.ctx? a = some c)) ∧
    (∃ (f : FmtL), ∃ s p t h x blob y, Alone s p rightsOpr f.guard t ∧ s.sideless p.fg = false ∧ regL s t f.a.toNat 1 ≤ 1023 ∧
      s.ctx? (regL s t f.a.toNat 1) = none ∧ (s.begun p t).opRead (moved p t) p.iaddr (regL s t f.b.toNat 2) 16 = (x, .ok h) ∧
      x.opRead (moved p t) p.iaddr (regL s t f.b.toNat 2) (blobLen h) = (y, .ok blob) ∧
      ∀ e : Escrowed, let body := receiptBody e.asid e.seq (shakeB blob 48)
        ∃ z, y.opWrite (moved p t) (regL s t f.c.toNat 2) (body ++ padTo 3309 (Config.sign body)) = (z, .ok ())) ∧
    (∃ (f : FmtZ), ∃ s p t x, Alone s p rightsOwn f.guard t ∧ s.sideless p.fg = false ∧ regL s t f.a.toNat 1 ≤ 4095 ∧
      s.mem.keySlots.find? (fun y => y.num = regL s t f.a.toNat 1) = some x ∧ x.owner = s.asidOf p.fg ∧ x.dropped = false) ∧
    (∃ (f : FmtZ), ∃ s p t x, Alone s p rightsOwn f.guard t ∧ s.sideless p.fg = false ∧ regL s t f.a.toNat 1 = 4095 ∧
      s.mem.keySlots.find? (fun y => y.num = regL s t f.a.toNat 1) = some x ∧ x.owner ≠ s.asidOf p.fg) ∧
    (∃ (f : FmtZ), ∃ s p t c e x r, Alone s p rightsOpr f.guard t ∧ s.ctx? f.imm.toNat = some c ∧ c.state = 4 ∧ c.escrow = some e ∧
      (s.begun p t).opRead (moved p t) p.iaddr (regL s t f.a.toNat 2) 3373 = (x, .ok r)) ∧
    (∃ (f : FmtL), ∃ s p t, s.sideless p.fg = true ∧ Alone s p rightsOwn f.guard t ∧ Alone s p rightsAll f.guard t) ∧
    ∃ (f : FmtZ), ∃ s p t, s.sideless p.fg = true ∧ Alone s p rightsOwn f.guard t := by
  have lenMax (h : List Byte) : blobLen h ≤ 2 ^ 26 := by
    have : Nat.min (field h 0 8) (2 ^ 24) ≤ 2 ^ 24 := Nat.min_le_right ..
    have : Nat.min (field h 8 8) (2 ^ 24) ≤ 2 ^ 24 := Nat.min_le_right ..
    unfold blobLen; omega
  have side {r : Rights} (hr : r.own = true) : Alone { own with blocks := [{ blk 5 0 with side := false }] } pth r {} thr :=
    alone_one rfl hr rfl rfl ⟨rfl, rfl⟩ rfl
  refine ⟨?_, ?_, ?_, ?_, ?_, ?_, ?_, ?_, ?_, ?_, ⟨fL, _, pth, thr, rfl, side rfl, side rfl⟩, fZ, _, pth, thr, rfl, side rfl⟩
  · obtain ⟨y, hy⟩ := opWrite_page (s := ((ctlOwn buf0 [(6, 5)]).begun pth (thr [(6, 5)])).ensureKey 5
        { lg := 16, addr := 0, kind := 0, r := true, w := true, x := false, buf := 0, br := (ctlOwn buf0 [(6, 5)]).bufRec 0 })
      (t := moved pth (thr [(6, 5)])) 0 (padTo 128 (toBytes 2 0 ++ toBytes 2 5 ++ toBytes 4 0 ++ (List.replicate 64 0).take 8
        ++ (keyWrap (wrapKey { asid := 5, state := 1 }) (natBytes 64 3)).map (BitVec.ofNat 8))) rfl rfl (by rw [length_padTo]; decide) rfl (by decide)
        (by intro b h; cases h; rfl) rfl
    exact ⟨fL, ctlOwn buf0 [(6, 5)], pth, thr [(6, 5)], _, 3, y, ctlOwn_alone _ _ rfl, rfl, by decide +kernel, by decide +kernel, rfl, rfl, by decide +kernel, hy⟩
  · exact ⟨fL, ctlOwn [] [], pth, thr, _, _, _, ctlOwn_alone _ _ rfl, rfl, rfl, opRead_page _ 0 128 rfl rfl (by decide) rfl (by decide) rfl rfl⟩
  · exact ⟨fL, ctlOwn [] [], pth, thr, _, _, _, _, ctlOwn_alone _ _ rfl, rfl, by decide, opRead_page _ 0 16 rfl rfl (by decide) rfl (by decide) rfl rfl,
      opRead_page _ 0 _ rfl rfl (by have := lenMax; rw [Nat.zero_add]; exact Nat.le_trans (this _) (by decide)) rfl (by decide) rfl rfl⟩
  · let s : State := { withCtx [{ asid := 0, state := 2 }] [] with mem := { (withCtx [] []).mem with phys := [(8, 2)] } }
    exact ⟨fL, s, pth, thr, _, _, _, (ctx_alone [{ asid := 0, state := 2 }] [] rfl).congr rfl rfl rfl, rfl, rfl,
      opRead_page _ 0 10240 rfl rfl (by decide) rfl (by decide) rfl rfl, by decide +kernel,
      fun blob hb => opWrite_page 0 blob rfl rfl (by rw [Nat.zero_add]; exact Nat.le_trans hb (by decide)) rfl (by decide) (by intro b h; cases h; rfl) rfl⟩
  · exact ⟨fL, withCtx [{ asid := 0, state := 2 }] [], pth, thr, _, _, _, ctx_alone _ _ rfl, rfl, rfl,
      opRead_page _ 0 10240 rfl rfl (by decide) rfl (by decide) rfl rfl, by decide +kernel⟩
  · exact List.forall_mem_cons.2 ⟨⟨fL, withCtx [{ asid := 0, state := 2 }] [], pth, thr, ctx_alone _ _ rfl, rfl, rfl, .inr ⟨_, rfl⟩⟩,
      List.forall_mem_singleton.2 ⟨fL, withCtx [] [(2, 1024)], pth, thr [(2, 1024)], ctx_alone _ _ rfl, rfl, rfl, .inl (by decide)⟩⟩
  · exact ⟨fL, withCtx [] [], pth, thr, _, _, _, _, ctx_alone _ _ rfl, rfl, by decide, rfl, opRead_page _ 0 16 rfl rfl (by decide) rfl (by decide) rfl rfl,
      opRead_page _ 0 _ rfl rfl (by have := lenMax; rw [Nat.zero_add]; exact Nat.le_trans (this _) (by decide)) rfl (by decide) rfl rfl,
      fun e => opWrite_page 0 _ rfl rfl (by rw [List.length_append, length_padTo, receiptBody, length_padTo]; decide) rfl (by decide) (by intro b h; cases h; rfl) rfl⟩
  · exact ⟨fZ, ctlOwn [] [], pth, thr, _, ctlOwn_alone _ _ rfl, rfl, by decide, rfl, rfl, rfl⟩
  · let s : State := { own [(2, 4095)] with mem := { own.mem with keySlots := [{ num := 4095, key := 3, owner := 6 }] } }
    exact ⟨fZ, s, pth, thr [(2, 4095)], _, (own_alone [(2, 4095)] rfl).congr rfl rfl rfl, rfl, by decide, rfl, by decide⟩
  · exact ⟨{ fZ with imm := 0 }, withCtx [{ asid := 0, state := 4, escrow := some { dest := [], hash := [] } }] [], pth, thr, _, _, _, _, ctx_alone _ _ rfl, rfl, rfl, rfl,
      opRead_page _ 0 3373 rfl rfl (by decide) rfl (by decide) rfl rfl⟩
theorem length_report (s : State) (kind asid : Nat) (nonce meas : List Byte) : (s.report kind asid nonce meas).length = 10240 := by
  unfold State.report; exact length_padTo _ _
/-- A page table of context 5 at 2^28 that maps one page of 2^30 bytes at 2^30, with its root. -/
def tableCells : List Host.Cell :=
  [(rootAddr 5, toBytes 8 0x10000000), (rootAddr 5 + 8, [1]), (0x10000000, [1]), (0x10000004, toBytes 8 0x10001000), (0x10001000, [0x47]),
   (0x10001004, toBytes 8 0x40000000)].foldl (fun l e => cellsPut l e.1 e.2) []
def paged : State :=
  { withCtx [{ asid := 5, state := 1 }] [(8, 1), (2, 16384)] with mem := { (withCtx [] []).mem with phys := tableCells } }
/-- Context 5 with one page translated, as the leaf says. -/
def leafed (l : Leaf) : State := { own [(8, 1)] with mem := { own.mem with tlb := [{ unit := 0, asid := 5, va := 0, leaf := l }] } }
/-- With valid roots of context 5 and of the operator. -/
def rooted (s : State) : State := { s with mem := { s.mem with phys := cellsPut (cellsPut [] (rootAddr 5 + 8) [1]) (rootAddr oprAsid + 8) [1] } }
/-- A nonce that cannot be read, for a rank without an entry too; a page of context 5 that may be written, one of a sync buffer, one that is not mapped; a page that no live
context maps, and one that context 5 maps by a page table of one leaf. -/
theorem test_meets_ReportsAndScrubs :
    (∃ (f : FmtL), ∃ s p t c nonce x y, Alone s p rightsOwn f.guard t ∧ s.ctx? (s.asidOf p.fg) = some c ∧
      (s.begun p t).opRead (moved p t) p.iaddr (regL s t f.b.toNat 2) 32 = (x, .ok nonce) ∧
      x.opWrite (moved p t) (regL s t f.a.toNat 2) (x.report 1 (s.asidOf p.fg) nonce c.meas) = (y, .ok ())) ∧
    (∃ (f : FmtL), ∃ s p t nonce x y, Alone s p rightsOpr f.guard t ∧ (s.begun p t).opRead (moved p t) p.iaddr (regL s t f.b.toNat 2) 32 = (x, .ok nonce) ∧
      x.opWrite (moved p t) (regL s t f.a.toNat 2) (x.report 2 0xFFFF nonce []) = (y, .ok ())) ∧
    (∀ own_ : Bool, ∃ (f : FmtL), ∃ s p t x c e, Alone s p (if own_ then rightsOwn else rightsOpr) f.guard t ∧
      (s.begun p t).opRead (moved p t) p.iaddr (regL s t f.b.toNat 2) 32 = (x, .error (.fault c e))) ∧
    (∀ own_ : Bool, ∃ (f : FmtL), ∃ s p t x c, Alone s p (if own_ then rightsOwn else rightsOpr) f.guard t ∧
      (s.begun p t).opRead (moved p t) p.iaddr (regL s t f.b.toNat 2) 32 = (x, .error (.status c))) ∧
    (∃ (f : FmtL), ∃ s p t, Alone s p rightsOwn f.guard t ∧ regL s t f.b.toNat 1 = 65537) ∧
    (∃ (f : FmtL), ∃ s p t, Alone s p rightsOwn f.guard t ∧ regL s t f.b.toNat 1 = 1 ∧ regL s t f.a.toNat 2 % 65536 = 0 ∧
      ∃ e ∈ ((s.begun p t).leavesOf (moved p t) 1 (regL s t f.a.toNat 2)).2, ∃ l : Leaf, e.2 = .ok l ∧ l.kind ≠ 0) ∧
    (∃ (f : FmtL), ∃ s p t e, Alone s p rightsOwn f.guard t ∧ regL s t f.b.toNat 1 = 1 ∧ regL s t f.a.toNat 2 % 65536 = 0 ∧
      ((s.begun p t).leavesOf (moved p t) 1 (regL s t f.a.toNat 2)).2 = [e] ∧ match e.2 with | .ok l => l.kind = 0 ∧ l.w = false | .error _ => False) ∧
    (∃ (s : State) (pa : Nat), s.poisoned pa = false) ∧
    (∃ (f : FmtL), ∃ s p t, ∃ ls : List (Nat × Leaf), Alone s p rightsOwn f.guard t ∧ regL s t f.b.toNat 1 = 1 ∧ regL s t f.a.toNat 2 % 65536 = 0 ∧
      ((s.begun p t).leavesOf (moved p t) 1 (regL s t f.a.toNat 2)).2 = ls.map (fun e : Nat × Leaf => (e.1, Except.ok e.2)) ∧
      ∀ e ∈ ls, e.2.kind = 0 ∧ e.2.w = true) ∧
    (∃ (f : FmtL), ∃ s p t, Alone s p rightsOpr f.guard t ∧ 0 < regL s t f.b.toNat 1 ∧ regL s t f.b.toNat 1 ≤ 65536 ∧
      regL s t f.a.toNat 2 + regL s t f.b.toNat 1 = 2 ^ 23 ∧
      ∀ k ∈ (List.range (regL s t f.b.toNat 1)).map (regL s t f.a.toNat 2 + ·), inPages (s.livePages 0xFFFFFFFF) k = false) ∧
    (∃ (f : FmtL), ∃ s p t, Alone s p rightsOpr f.guard t ∧ 0 < regL s t f.b.toNat 1 ∧ regL s t f.b.toNat 1 ≤ 65536 ∧
      regL s t f.a.toNat 2 + regL s t f.b.toNat 1 ≤ 2 ^ 23 ∧
      ∃ k ∈ (List.range (regL s t f.b.toNat 1)).map (regL s t f.a.toNat 2 + ·), inPages (s.livePages 0xFFFFFFFF) k = true) := by
  refine ⟨?_, ?_, ?_, ?_, ⟨fL, own [(8, 65537)], pth, thr [(8, 65537)], own_alone _ rfl, by decide⟩,
    ⟨fL, leafed { page with kind := 2 }, pth, thr [(8, 1)], alone_one rfl rfl rfl rfl ⟨rfl, rfl⟩ rfl, by decide, by decide, _, List.mem_singleton.2 rfl, _, rfl, by decide⟩,
    ⟨fL, leafed { page with w := false }, pth, thr [(8, 1)], _, alone_one rfl rfl rfl rfl ⟨rfl, rfl⟩ rfl, by decide, by decide, rfl, rfl, rfl⟩,
    ⟨own, 0, rfl⟩, ?_, ?_, ?_⟩
  · have hr := opRead_page (s := (ctlOwn [] []).begun pth thr) (t := moved pth thr) pth.iaddr 0 32 rfl rfl (by decide) rfl (by decide) rfl rfl
    generalize ((parts (32 / 16 + 2) 0 32).map onPage).flatMap (pageBytes _ _) = nonce at hr
    obtain ⟨y, hy⟩ := opWrite_page (s := (ctlOwn [] []).begun pth thr) (t := moved pth thr) 0
      (((ctlOwn [] []).begun pth thr).report 1 5 nonce (List.replicate 64 0)) rfl rfl (by rw [length_report]; decide) rfl (by decide) (by intro b h; cases h; rfl) rfl
    exact ⟨fL, ctlOwn [] [], pth, thr, _, nonce, _, y, ctlOwn_alone _ _ rfl, rfl, hr, hy⟩
  · have hr := opRead_page (s := (withCtx [] []).begun pth thr) (t := moved pth thr) pth.iaddr 0 32 rfl rfl (by decide) rfl (by decide) rfl rfl
    generalize ((parts (32 / 16 + 2) 0 32).map onPage).flatMap (pageBytes _ _) = nonce at hr
    obtain ⟨y, hy⟩ := opWrite_page (s := (withCtx [] []).begun pth thr) (t := moved pth thr) 0
      (((withCtx [] []).begun pth thr).report 2 0xFFFF nonce []) rfl rfl (by rw [length_report]; decide) rfl (by decide) (by intro b h; cases h; rfl) rfl
    exact ⟨fL, withCtx [] [], pth, thr, nonce, _, y, ctx_alone _ _ rfl, hr, hy⟩
  · intro b
    cases b
    · obtain ⟨x, c, e, h⟩ := fault_of (r := ((opr [(9, 2 ^ 25)]).begun pth (thr [(9, 2 ^ 25)])).opRead (moved pth (thr [(9, 2 ^ 25)])) pth.iaddr (2 ^ 57) 32) (by decide +kernel)
      exact ⟨fL, opr [(9, 2 ^ 25)], pth, thr [(9, 2 ^ 25)], x, c, e, opr_alone _ rfl, h⟩
    · obtain ⟨x, c, e, h⟩ := fault_of (r := ((own [(9, 2 ^ 25)]).begun pth (thr [(9, 2 ^ 25)])).opRead (moved pth (thr [(9, 2 ^ 25)])) pth.iaddr (2 ^ 57) 32) (by decide +kernel)
      exact ⟨fL, own [(9, 2 ^ 25)], pth, thr [(9, 2 ^ 25)], x, c, e, own_alone _ rfl, h⟩
  · intro b
    cases b
    · obtain ⟨x, c, h⟩ := status_of (r := ((rooted (opr [(9, 2 ^ 17)])).begun pth (thr [(9, 2 ^ 17)])).opRead (moved pth (thr [(9, 2 ^ 17)])) pth.iaddr (2 ^ 49) 32) (by decide +kernel)
      exact ⟨fL, rooted (opr [(9, 2 ^ 17)]), pth, thr [(9, 2 ^ 17)], x, c, (opr_alone [(9, 2 ^ 17)] rfl).congr rfl rfl rfl, h⟩
    · obtain ⟨x, c, h⟩ := status_of (r := ((rooted (own [(9, 2 ^ 17)])).begun pth (thr [(9, 2 ^ 17)])).opRead (moved pth (thr [(9, 2 ^ 17)])) pth.iaddr (2 ^ 49) 32) (by decide +kernel)
      exact ⟨fL, rooted (own [(9, 2 ^ 17)]), pth, thr [(9, 2 ^ 17)], x, c, (own_alone [(9, 2 ^ 17)] rfl).congr rfl rfl rfl, h⟩
  · exact ⟨fL, mapped (own [(8, 1)]), pth, thr [(8, 1)], [(0, page)], mapped_alone _ rfl, by decide, by decide, rfl, by simp [page]⟩
  · exact ⟨fL, withCtx [] [(8, 1), (2, 8388607)], pth, thr [(8, 1), (2, 8388607)], ctx_alone _ _ rfl, by decide, by decide, by decide, fun _ _ => rfl⟩
  · exact ⟨fL, paged, pth, thr [(8, 1), (2, 16384)], (ctx_alone [{ asid := 5, state := 1 }] [(8, 1), (2, 16384)] rfl).congr rfl rfl rfl, by decide, by decide, by decide,
      16384, by decide, by decide +kernel⟩
theorem test_meets_CountersAndEvents :
    (∃ (f : FmtZ), ∃ s p t, Alone s p { opr := false, own := false, aud := true } f.guard t ∧ regL s t f.a.toNat 1 + f.imm.toNat = 63) ∧
    (∃ (f : FmtZ), ∃ s p t, Alone s p { opr := false, own := false, aud := true } f.guard t ∧ 63 < regL s t f.a.toNat 1 + f.imm.toNat) ∧
    (∃ (f : FmtZ), ∃ s p t, Alone s p { opr := false, own := false, aud := true } f.guard t ∧ regL s t f.a.toNat 1 = 255 ∧ f.imm.toNat = 18) ∧
    (∃ (f : FmtZ), ∃ s p t, Alone s p { opr := false, own := false, aud := true } f.guard t ∧ 255 < regL s t f.a.toNat 1) ∧
    (∃ (f : FmtZ), ∃ s p t, Alone s p { opr := false, own := false, aud := true } f.guard t ∧ f.imm.toNat = 255) ∧
    (∃ (f : FmtZ), ∃ s p t, Alone s p rightsAll f.guard t ∧ s.sideless p.fg = false) ∧
    (∃ (f : FmtZ), ∃ s p t, Alone s p rightsAll f.guard t ∧ s.sideless p.fg = true) ∧
    (∃ (s : State) (k : Nat), k < s.ctl.cntCfg.length ∧ k < s.ctl.cntVal.length ∧ bit (s.ctl.cntCfg.getD k 0).toNat 31 = true ∧
      bits (s.ctl.cntCfg.getD k 0).toNat 0 16 = 5 ∧ bit (s.ctl.cntCfg.getD k 0).toNat 30 = false ∧ bits (s.ctl.cntCfg.getD k 0).toNat 32 10 = 3) ∧
    (∃ m : Mon, m.bins.length = 16) ∧ (∃ n : Nat, 255 < n) ∧
    (∃ v : Vf, v.evrEn = false) ∧ (∃ v : Vf, v.evrEn = true ∧ v.num % 64 ≠ 0 ∧ v.state = 3) ∧ (∃ v : Vf, v.evrEn = true ∧ v.num % 64 = 0 ∧ v.evrRoom = true) ∧
    ∃ v : Vf, v.evrEn = true ∧ v.num % 64 ≠ 0 ∧ v.state ≠ 3 ∧ v.evrRoom = false :=
  ⟨⟨{ fZ with imm := 13 }, aud [(2, 50)], pth, thr [(2, 50)], aud_alone _ rfl, by decide⟩, ⟨{ fZ with imm := 14 }, aud [(2, 50)], pth, thr [(2, 50)], aud_alone _ rfl, by decide⟩,
   ⟨{ fZ with imm := 18 }, aud [(2, 255)], pth, thr [(2, 255)], aud_alone _ rfl, by decide, by decide⟩, ⟨fZ, aud [(2, 256)], pth, thr [(2, 256)], aud_alone _ rfl, by decide⟩,
   ⟨{ fZ with imm := 255 }, aud, pth, thr, aud_alone [] rfl, by decide⟩,
   ⟨fZ, own, pth, thr, own_alone [] rfl, rfl⟩, ⟨fZ, { own with blocks := [{ blk 5 0 with side := false }] }, pth, thr, alone_one rfl rfl rfl rfl ⟨rfl, rfl⟩ rfl, rfl⟩,
   ⟨{ own with ctl := { cntCfg := [0x380000005#64], cntVal := [7] } }, 0, by decide, by decide, by decide, by decide, by decide, by decide⟩,
   ⟨{}, rfl⟩, ⟨256, by decide⟩, ⟨{ num := 1 }, rfl⟩, ⟨{ num := 1, evrEn := true, entry := 3 }, rfl, by decide, by decide⟩,
   ⟨{ num := 0, evrEn := true }, rfl, by decide, by decide⟩, { num := 1, evrEn := true, evrTail := 16 }, rfl, by decide, by decide, by decide⟩
/-- Operator threads whose R holds some values; a port that is down. -/
def portDown : State := { opr with map := { opr.map with units := opr.map.units.set 362 (3, 0) } }
def busy : State := { opr with links := { opr.links with out := [{ id := 1, kind := 0, rank := 1, addr := 0, size := 16, asid := 5, sent := some 0 }] } }
theorem test_meets_FabricManagement :
    (∃ (f : FmtZ), ∃ s p t, Alone s p rightsAll f.guard t ∧ regL s t f.a.toNat 1 + f.imm.toNat = 383) ∧
    (∃ (f : FmtZ), ∃ s p t, Alone s p rightsAll f.guard t ∧ 383 < regL s t f.a.toNat 1 + f.imm.toNat) ∧
    (∃ (f : FmtZ), ∃ s p t, Alone s p rightsOpr f.guard t ∧ s.onPlane (f.imm.toNat % 16) = false ∧ s.mapOk (f.imm.toNat % 16) (regL s t f.a.toNat 1 % 16) = true) ∧
    (∃ (f : FmtZ), ∃ s p t, Alone s p rightsOpr f.guard t ∧ s.mapOk (f.imm.toNat % 16) (regL s t f.a.toNat 1 % 16) = false) ∧
    (∃ (f : FmtZ), ∃ s p t, Alone s p rightsOpr f.guard t ∧ s.onPlane (f.imm.toNat % 16) = true ∧ s.mapOk (f.imm.toNat % 16) (regL s t f.a.toNat 1 % 16) = true) ∧
    (∃ (f : FmtZ), ∃ s p t, Alone s p rightsOpr f.guard t ∧ f.imm.toNat / 64 % 4 = 2 ∧ regL s t f.a.toNat 1 % 2 ^ 13 = 4096 ∧
      ((putAssoc s.links.mins (64 * 2 + f.imm.toNat % 64) 4096).map (·.2)).sum ≤ 4096) ∧
    (∃ (f : FmtZ), ∃ s p t, Alone s p rightsOpr f.guard t ∧ 4096 < regL s t f.a.toNat 1 % 2 ^ 13) ∧
    (∃ (f : FmtZ), ∃ s p t, Alone s p rightsOpr f.guard t ∧ (s.map.unit (363 + f.imm.toNat % 16)).1 ≠ 3 ∧ (s.map.unit (363 + f.imm.toNat % 16)).1 ≠ 4) ∧
    (∃ (f : FmtZ), ∃ s p t, Alone s p rightsOpr f.guard t ∧ (s.map.unit (363 + f.imm.toNat % 16)).1 = 3) ∧
    (∃ (f : FmtZ), ∃ s p t, Alone s p rightsOpr f.guard t ∧ s.parityBad (regL s t f.a.toNat 4) = true) ∧
    (∃ (f : FmtZ), ∃ s p t, Alone s p rightsOpr f.guard t ∧ s.parityBad (regL s t f.a.toNat 4) = false) :=
  ⟨⟨{ fZ with imm := 333 }, own [(2, 50)], pth, thr [(2, 50)], own_alone _ rfl, by decide +kernel⟩, ⟨{ fZ with imm := 334 }, own [(2, 50)], pth, thr [(2, 50)], own_alone _ rfl, by decide +kernel⟩,
   ⟨fZ, opr, pth, thr, opr_alone [] rfl, by decide +kernel, by decide +kernel⟩, ⟨fZ, opr [(2, 1)], pth, thr [(2, 1)], opr_alone _ rfl, by decide +kernel⟩,
   ⟨fZ, busy, pth, thr, (opr_alone [] rfl).congr rfl rfl rfl, by decide +kernel, by decide +kernel⟩,
   ⟨{ fZ with imm := 0xBF }, opr [(2, 4096)], pth, thr [(2, 4096)], opr_alone _ rfl, by decide +kernel, by decide +kernel, by decide +kernel⟩,
   ⟨fZ, opr [(2, 4097)], pth, thr [(2, 4097)], opr_alone _ rfl, by decide +kernel⟩,
   ⟨fZ, opr, pth, thr, opr_alone [] rfl, by decide +kernel, by decide +kernel⟩, ⟨fZ, portDown, pth, thr, alone_one rfl rfl rfl rfl ⟨rfl, rfl⟩ rfl, by decide +kernel⟩,
   ⟨{ fZ with a := 4 }, opr [(4, 0x1200)], pth, thr [(4, 0x1200)], opr_alone _ rfl, by decide +kernel⟩,
   ⟨{ fZ with a := 4 }, opr, pth, thr, opr_alone [] rfl, by decide +kernel⟩⟩
/-- A packet of one block of one thread, and its node, running. -/
def pkt0 : Packet :=
  { desc := 0, code := 0, blocks := 1, cshape := 1, fgs := 1, threads := 1, side := true, notify := false, pennant := 0, signal := 0, wait := 0, ntype := 0, tag := 0
    args := List.replicate 16 0, regs := 8, scratch := 0, producer := 0, gang := 0, entry := 0, feet := [] }
def node0 : Node := { id := 0, asid := 5, part := 0, queue := 0, pkt := pkt0, state := 3, seq := 0 }
/-- The bytes of that packet: one block, cluster and group of one thread, SIDE, its descriptor at 0x400. -/
def packetBytes : List Byte := toBytes 8 0x400 ++ List.replicate 8 0 ++ [1, 0, 0, 0, 1, 1, 1, 1] ++ List.replicate 232 0
/-- Context 5 on the control core, with the descriptor of 8 registers at 0x400, and its node in the pool. -/
def launching : State := { ctlOwn [(0x448, 8)] [] with sched := { pool := [node0] } }
/-- The scheduler reads from the page. -/
theorem read_part (s : State) (ea n : Nat) (ht : s.mem.tlb = [{ unit := 256, asid := 5, va := 0, leaf := page }]) (hn : s.peerRead? 5 ea n 0 = none)
    (h : ea + n ≤ 2 ^ 30) (h0 : n ≤ 2 ^ 48 - ea % 2 ^ 48) (hp : s.mem.poison = []) (hs : (s.map.unit 321).1 ≠ 3) (hb : s.block? 0 = none) :
    s.schedRead 5 ea n = (s, .ok (((parts (n / 16 + 2) ea n).map onPage).flatMap (pageBytes s 5))) := by
  simp only [State.schedRead, if_pos h0, State.schedPart, hn, load_page (s := s) (asid := 5) 0 ea n ht h hp hs (by simp [State.divertOf, hb])]
theorem read_asked {s : State} {ea n : Nat} {r : PeerRead} (h0 : n ≤ 2 ^ 48 - ea % 2 ^ 48) (h : s.peerRead? 5 ea n 0 = some r) (hd : r.data = none) (he : r.err = 0) :
    s.schedRead 5 ea n = (s, .error none) := by
  simp only [State.schedRead, if_pos h0, State.schedPart, h, hd, he, if_true]
/-- A node that runs and one that is not there, a wait for one that is there; SIDE = 0; a packet that reads well. -/
theorem test_meets_NodeInstructions :
    (∃ s p, Issues s p rightsOwn ∧ s.sideless p.fg = false ∧ p.last) ∧
    (∃ (f : FmtL), ∃ s p t, Alone s p rightsOwn f.guard t ∧ s.sideless p.fg = true) ∧
    (∃ (s : State) (t : Thread) (q : Pending), s.lowerFirst t q = true) ∧ (∃ (s : State) (t : Thread), s.mayPerform t = false) ∧
    (∃ (s : State) (t : Thread) (q : Pending) (pk : List Byte) (x y : State), s.lowerFirst t q = false ∧ s.mayPerform t = true ∧
      s.todoRead t q 0 256 [] = (x, some pk) ∧ x.readPacket (s.asidOf t.fg) pk = (y, .error none)) ∧
    (∃ (s : State) (t : Thread) (q : Pending) (pk : List Byte) (x y : State), s.lowerFirst t q = false ∧ s.mayPerform t = true ∧
      s.todoRead t q 0 256 [] = (x, some pk) ∧ x.readPacket (s.asidOf t.fg) pk = (y, .error (some 0xB010))) ∧
    (∃ (s : State) (t : Thread) (q : Pending) (pk : List Byte) (x : State) (k : Packet) (y : State) (n : Node), s.lowerFirst t q = false ∧ s.mayPerform t = true ∧
      s.todoRead t q 0 256 [] = (x, some pk) ∧
      x.readPacket (s.asidOf t.fg) pk = (y, .ok k) ∧ y.poolRoom (((y.ctx? (s.asidOf t.fg)).map (·.part)).getD 0) = true ∧ y.releaseReady t q.uid 5 = true ∧
      ((y.blockOf t.fg).bind fun b => y.node? b.node) = some n) ∧
    (∃ (f : FmtL), ∃ s p t n, Alone s p rightsAll f.guard t ∧ s.node? (regL s t f.a.toNat 1) = some n ∧ (s.asidOf p.fg = oprAsid ∨ n.asid = s.asidOf p.fg)) ∧
    (∃ (f : FmtL), ∃ s p t, Alone s p rightsAll f.guard t ∧ ∀ n, s.node? (regL s t f.a.toNat 1) = some n → s.asidOf p.fg ≠ oprAsid ∧ n.asid ≠ s.asidOf p.fg) := by
  refine ⟨⟨own, pth, own_issues rfl, rfl, pth_last⟩,
   ⟨fL, { own with blocks := [{ blk 5 0 with side := false }] }, pth, thr, alone_one rfl rfl rfl rfl ⟨rfl, rfl⟩ rfl, rfl⟩, ?_, ?_, ?_, ?_, ?_,
   ⟨fL, { own with sched := { pool := [node0] } }, pth, thr, node0, (own_alone [] rfl).congr rfl rfl rfl, rfl, .inr rfl⟩,
   ⟨fL, { own with sched := { pool := [{ node0 with asid := 6 }] } }, pth, thr, (own_alone [] rfl).congr rfl rfl rfl, by intro n h; cases h; decide⟩⟩
  · let q : Pending := { uid := 4, sb := 0, left := 0, iaddr := 0x1000, todo := .launch 0 }
    exact ⟨{ own with threads := [{ thr with pend := [q] }, { thr with lane := 1, pend := [q] }] }, { thr with lane := 1 }, q, by decide⟩
  · exact ⟨{ own with blocks := [{ blk 5 0 with place := .stopped }] }, thr, rfl⟩
  · let s : State := { launching with sched := { launching.sched with reads := [{ id := 9, asid := 5, addr := 0x400, size := 512, who := 0 }] } }
    exact ⟨s, thr, { uid := 4, sb := 0, left := 0, iaddr := 0, got := some packetBytes }, packetBytes, s, s, rfl, rfl, rfl, rfl⟩
  · let s : State := ctlOwn [] []
    have hn : parsePacket packetBytes (((parts (512 / 16 + 2) 0x400 512).map onPage).flatMap (pageBytes s 5)) = none := by decide +kernel
    have hf : field packetBytes 0 8 = 0x400 := by decide
    refine ⟨s, thr, { uid := 4, sb := 0, left := 0, iaddr := 0, got := some packetBytes }, packetBytes, s, s, rfl, rfl, rfl, ?_⟩
    change State.readPacket s 5 packetBytes = _
    unfold State.readPacket
    rw [hf, read_part s 0x400 512 rfl rfl (by decide) (by decide) rfl (by decide) rfl]
    simp only [hn]
  · let q : Pending := { uid := 4, sb := 0, left := 0, iaddr := 0, got := some packetBytes }
    have hk : ∃ k, launching.readPacket 5 packetBytes = (launching, .ok k) := by
      have hf : field packetBytes 0 8 = 0x400 := by decide
      have hs : (parsePacket packetBytes (((parts (512 / 16 + 2) 0x400 512).map onPage).flatMap (pageBytes launching 5))).isSome = true := by decide +kernel
      obtain ⟨k, hk⟩ := Option.isSome_iff_exists.1 hs
      refine ⟨k, ?_⟩
      unfold State.readPacket
      rw [hf, read_part launching 0x400 512 rfl rfl (by decide) (by decide) rfl (by decide) rfl]
      simp only [hk]
    obtain ⟨k, hk⟩ := hk
    exact ⟨launching, thr, q, packetBytes, launching, k, launching, node0, rfl, rfl, rfl, hk, by decide, rfl, rfl⟩
/-- Operator commands on slots of each kind. -/
def slotted (e : SlotEntry) (v : List (Nat × Nat)) : State := { opr v with sched := { slots := List.replicate 64 e } }
theorem slotted_alone (e : SlotEntry) (v : List (Nat × Nat)) {r : Rights} (hr : r.opr = true) : Alone (slotted e v) pth r {} (thr v) :=
  (opr_alone v hr).congr rfl rfl rfl
theorem test_meets_Placement :
    (∃ (f : FmtL), ∃ s p t c, Alone s p rightsOpr f.guard t ∧ s.ctx? (regL s t f.a.toNat 1) = some c ∧ c.state ≠ 0 ∧ c.state ≠ 5 ∧ regL s t f.b.toNat 2 = 1 + 2 ^ 63 ∧
      ∀ k ∈ slotsIn (regL s t f.b.toNat 2), (s.slotE k).assigned = true ∧ (s.slotE k).part = c.part ∧
        ((s.slotE k).rsv = none ∨ (s.slotE k).rsv = some (regL s t f.a.toNat 1))) ∧
    (∃ (f : FmtL), ∃ s p t, Alone s p rightsOpr f.guard t ∧ s.ctx? (regL s t f.a.toNat 1) = none) ∧
    (∃ (f : FmtL), ∃ s p t, Alone s p rightsOpr f.guard t ∧ regL s t f.a.toNat 1 = 63 ∧ s.slotUsed 63 = false ∧ (s.slotE 63).rsv = none ∧ (regL s t f.b.toNat 1).testBit 6 = true) ∧
    (∃ (f : FmtL), ∃ s p t, Alone s p rightsOpr f.guard t ∧ regL s t f.a.toNat 1 = 0 ∧ s.slotUsed 0 = false ∧ (s.slotE 0).rsv = none ∧ (regL s t f.b.toNat 1).testBit 6 = false) ∧
    (∃ (f : FmtL), ∃ s p t, Alone s p rightsOpr f.guard t ∧ 63 < regL s t f.a.toNat 1) ∧
    (∃ (f : FmtL), ∃ s p t, Alone s p rightsOpr f.guard t ∧ (s.slotE (regL s t f.a.toNat 1)).rsv ≠ none) ∧
    (∃ (f : FmtL), ∃ s p t, Alone s p rightsOpr f.guard t ∧ regL s t f.a.toNat 1 = 63 ∧ regL s t f.b.toNat 1 = 1 ∧ (s.slotE 63).assigned = true ∧
      (s.slotE 1).assigned = false ∧ s.slotUsed 1 = false ∧ (∀ i, i < 4 → s.map.coreLive (4 * 1 + i) = true) ∧
      ∃ y, ((s.begun p t).blocks.filter fun b => b.place = .resident && b.core < 256 && b.core / 4 = 63).foldl
        (fun (acc : Option State) b => acc.bind fun s => s.saveImage b) (some (s.begun p t)) = some y) ∧
    (∃ (f : FmtL), ∃ s p t, Alone s p rightsOpr f.guard t ∧ regL s t f.b.toNat 2 % 65536 = 0 ∧ regL s t f.c.toNat 2 % 65536 = 0 ∧ 0 < regL s t f.c.toNat 2 ∧
      2 ^ 26 = regL s t f.b.toNat 2) ∧
    (∃ (f : FmtL), ∃ s p t, Alone s p rightsOpr f.guard t ∧ regL s t f.b.toNat 2 + 65536 = 2 ^ 26) ∧
    (∀ x ∈ [1023, 1024], ∃ (f : FmtL), ∃ s p t, Alone s p rightsOpr f.guard t ∧ regL s t f.a.toNat 1 = x) := by
  refine ⟨⟨fL, slotted { assigned := true } [(2, 5), (8, 1), (9, 0x80000000)], pth, thr [(2, 5), (8, 1), (9, 0x80000000)], _, slotted_alone _ _ rfl, rfl, by decide, by decide, by decide, by decide +kernel⟩,
    ⟨fL, opr, pth, thr, opr_alone [] rfl, rfl⟩, ⟨fL, opr [(2, 63), (8, 64)], pth, thr [(2, 63), (8, 64)], opr_alone _ rfl, by decide, by decide, by decide, by decide⟩,
    ⟨fL, opr, pth, thr, opr_alone [] rfl, by decide, by decide, by decide, by decide⟩, ⟨fL, opr [(2, 64)], pth, thr [(2, 64)], opr_alone _ rfl, by decide⟩,
    ⟨fL, slotted { rsv := some 5 } [], pth, thr, slotted_alone _ _ rfl, by decide⟩, ?_,
    ⟨fL, opr [(8, 0x4000000), (6, 65536)], pth, thr [(8, 0x4000000), (6, 65536)], opr_alone _ rfl, by decide, by decide, by decide, by decide⟩,
    ⟨fL, opr [(8, 0x3FF0000)], pth, thr [(8, 0x3FF0000)], opr_alone _ rfl, by decide⟩,
    List.forall_mem_cons.2 ⟨⟨fL, opr [(2, 1023)], pth, thr [(2, 1023)], opr_alone _ rfl, by decide⟩,
      List.forall_mem_singleton.2 ⟨fL, opr [(2, 1024)], pth, thr [(2, 1024)], opr_alone _ rfl, by decide⟩⟩⟩
  let v := [(2, 63), (8, 1)]
  let s : State := { opr v with sched := { slots := List.replicate 63 {} ++ [{ assigned := true }] } }
  exact ⟨fL, s, pth, thr v, (opr_alone v rfl).congr rfl rfl rfl, by decide, by decide, by decide, by decide, by decide, by decide +kernel, _, rfl⟩
theorem test_meets_CopyInstructions :
    (∃ (f : FmtL), ∃ s p t, Alone s p rightsOwn f.guard t ∧ s.notProducer p.fg = false ∧ (s.window_ (s.coreOf p.fg)).length ≤ 63 ∧ s.sideless p.fg = false ∧
      0 < regL s t f.c.toNat 1) ∧
    (∃ (f : FmtL), ∃ s p t, Alone s p rightsOwn f.guard t ∧ s.notProducer p.fg = false ∧ (s.window_ (s.coreOf p.fg)).length ≤ 63 ∧ s.sideless p.fg = false ∧
      regL s t f.c.toNat 1 = 0 ∧ Alone (s.addJob (s.blkId p.fg) (FmtL.br f) (.cpb false false 0 0 0) [] [] 0) p rightsOwn f.guard t) ∧
    (∃ (f : FmtL), ∃ s p t, Alone s p rightsOwn f.guard t ∧ s.notProducer p.fg = true) ∧
    (let js := fun (f : FmtL) (s : State) (p : Path) => s.eng.jobs.filter fun j => j.blk = s.blkId p.fg && j.bar = FmtL.br f && j.state ≠ .counted
     ∀ e ∈ [(false, false), (true, false), (true, true)], ∃ (f : FmtL), ∃ s p t, Alone s p rightsOwn f.guard t ∧ s.notProducer p.fg = false ∧
       Alone (s.cancelJobs (js f s p)) p rightsOwn f.guard t ∧ (js f s p ≠ [] ↔ e.1 = true) ∧ ((js f s p).filter Job.performing ≠ [] ↔ e.2 = true)) ∧
    (∀ e ∈ [false, true], ∃ (s : State) (j : Job), s.eng.jobs.find? (fun k => k.id = j.id) = some j ∧ j.performing = e) ∧
    (∀ e ∈ [JobState.counted, .running], ∃ (s : State) (t : Thread) (q : Pending) (js : List Nat) (n : Nat), q.todo = .cancel js n ∧ q.held = false ∧ s.mayPerform t = true ∧
      s.todoWaits t q = false ∧ s.crossOf t.fg t.lane q.uid = none ∧ ∃ j ∈ s.eng.jobs, j.id ∈ js ∧ j.state = e) ∧
    (∀ n ∈ [0, 1], ∃ s : State, s.eng.jobs = [] ∧ s.eng.cmds = [] ∧ n < 2) :=
  let job (st : JobState) (k : Nat) : Job := { id := 40, blk := 2, bar := 0, kind := .cpb true true 0 16 16, rd := [], wr := [], state := st, left := 16, inbox := List.replicate k (0, [1]) }
  let working (l : List Job) : State := { own with eng := { jobs := l } }
  have gone (x : State) (h : x.paths = [pth] ∧ x.thread? 1 0 = some thr ∧ x.asidOf 1 = 5 ∧ x.fgs = [grp]) : Alone x pth rightsOwn fL.guard thr :=
    alone_one h.1 (by rw [h.2.2.1]; rfl) h.2.1 rfl ⟨rfl, rfl⟩ rfl
  ⟨⟨fL, own [(6, 1)], pth, thr [(6, 1)], own_alone _ rfl, rfl, by decide, rfl, by decide⟩,
   ⟨fL, own, pth, thr, own_alone [] rfl, rfl, by decide, rfl, by decide, alone_one rfl rfl rfl rfl ⟨rfl, rfl⟩ rfl⟩,
   ⟨fL, { own with blocks := [{ blk 5 0 with producer := 1 }] }, pth, thr, alone_one rfl rfl rfl rfl ⟨rfl, rfl⟩ rfl, rfl⟩,
   List.forall_mem_cons.2 ⟨⟨fL, own, pth, thr, own_alone [] rfl, rfl, own_alone [] rfl, by decide, by decide⟩,
     List.forall_mem_cons.2 ⟨⟨fL, working [job .held 0], pth, thr, (own_alone [] rfl).congr rfl rfl rfl, rfl, gone _ (by decide +kernel), by decide +kernel, by decide +kernel⟩,
       List.forall_mem_singleton.2 ⟨fL, working [job .running 1], pth, thr, (own_alone [] rfl).congr rfl rfl rfl, rfl, gone _ (by decide +kernel), by decide +kernel, by decide +kernel⟩⟩⟩,
   List.forall_mem_cons.2 ⟨⟨working [job .held 0], job .held 0, rfl, by decide⟩, List.forall_mem_singleton.2 ⟨working [job .running 1], job .running 1, rfl, by decide⟩⟩,
   fun e _ => ⟨working [job e 0], thr, { uid := 4, sb := 0, left := 0, iaddr := 0, todo := .cancel [40] 1 }, [40], 1, rfl, rfl, rfl, rfl, rfl, job e 0, List.mem_singleton.2 rfl, List.mem_singleton.2 rfl, rfl⟩,
   fun n h => ⟨own, rfl, rfl, by simp at h; omega⟩⟩
/-- A sealed record of handle 0. -/
def recorded : State := { own with ctxs := [{ asid := 5, state := 1, records := [{ handle := 0, bytes := List.replicate 128 0, key := 0 }] }] }
/-- The image of a tensor record: 8 elements of .f16 in buffer 0. -/
def tensorImage : List Byte := [9, 1, 0, 0, 0, 0, 0, 0, 8] ++ List.replicate 15 0 ++ [2] ++ List.replicate 103 0
theorem test_meets_TensorInstructions :
    let reason := fun (s : State) (t : Thread) =>
      let r := TRec.of (s.fgOf t).defRec
      sealCheck (s.asidOf t.fg) (s.bufRec r.buf) (s.mem.keySlots.any fun k => k.owner = s.asidOf t.fg && k.buf = some r.buf)
        (((if (s.bufRec r.buf).owner = s.asidOf t.fg then s.mem.keySlots.find? fun k => k.num = (s.bufRec r.buf).key
          else s.mem.keySlots.find? fun k => k.owner = s.asidOf t.fg && k.buf = some r.buf).map (·.dropped)).getD false)
        s.health.decodeEn r true false
    let meets := fun (s : State) (t : Thread) => (TRec.of (s.fgOf t).defRec).coded = false ∧
      ∃ c, s.ctx? (s.asidOf t.fg) = some c ∧ (1024 ≤ c.records.length : Bool) = false
    (∃ (f : FmtL), ∃ s p t, Alone s p rightsOwn f.guard t ∧ ∀ q ∈ t.allPend, q.uid ≠ s.uid) ∧
    (∃ (f : FmtL), ∃ s p t r, Alone s p rightsOwn f.guard t ∧ s.sealedRec (s.asidOf p.fg) (regL s t f.a.toNat 1) = some r) ∧
    (∃ (f : FmtL), ∃ s p t, Alone s p rightsOwn f.guard t ∧ s.sealedRec (s.asidOf p.fg) (regL s t f.a.toNat 1) = none) ∧
    (∃ (f : FmtL), ∃ s p t, Alone s p rightsOwn f.guard t ∧ regL s t f.a.toNat 1 = 2 ^ 31 ∧
      s.grantable (s.coreOf p.fg) (s.blkId p.fg) p.id (regL s t f.a.toNat 1) (regL s t f.b.toNat 1 % 16) = true) ∧
    (∃ (f : FmtL), ∃ s p t, Alone s p rightsOwn f.guard t ∧ (∀ c ∈ s.eng.claims, c.path ≠ p.id) ∧
      s.grantable (s.coreOf p.fg) (s.blkId p.fg) p.id (regL s t f.a.toNat 1) (regL s t f.b.toNat 1 % 16) = false) ∧
    (∃ (f : FmtA), ∃ s p t b, Alone s p rightsOwn f.guard t ∧ s.blockOf p.fg = some b ∧ popc8 (srcA s t f 6 % 256) = 0 ∧ b.latch.open_ = false ∧
      (∀ c ∈ s.eng.cmds, c.blk ≠ b.id)) ∧
    (∃ (f : FmtA), ∃ s p t b, Alone s p rightsOwn f.guard t ∧ s.blockOf p.fg = some b ∧ popc8 (srcA s t f 6 % 256) = 1) ∧
    (∃ (s : State) (t : Thread) (q : Pending) (x : State) (b : List Byte) (g : FileGroup), s.todoRead t q 0 128 [] = (x, some b) ∧ x.fg? t.fg = some g) ∧
    (∃ s t, meets s t ∧ reason s t ≠ 0) ∧ (∃ s t, meets s t ∧ reason s t = 0 ∧ ∃ b, s.blockOf t.fg = some b ∧ b.run = 0) := by
  let taken : State := { own [(2, 1)] with blocks := [blk 5 0, { blk 5 0 with id := 9 }], eng := { slots := [{ num := 0, blk := 9 }] } }
  refine ⟨⟨fL, own, pth, thr, own_alone [] rfl, by decide⟩, ⟨fL, recorded, pth, thr, _, (own_alone [] rfl).congr rfl rfl rfl, rfl⟩,
    ⟨fL, own, pth, thr, own_alone [] rfl, rfl⟩, ⟨fL, own [(2, 2 ^ 31)], pth, thr [(2, 2 ^ 31)], own_alone _ rfl, by decide, by decide⟩,
    ⟨fL, taken, pth, thr [(2, 1)], alone_one rfl rfl rfl rfl ⟨rfl, rfl⟩ rfl, by decide, by decide +kernel⟩,
    ⟨fA, own, pth, thr, _, own_alone [] rfl, rfl, by decide, rfl, by decide⟩,
    ⟨fA, own [(2, 128)], pth, thr [(2, 128)], _, own_alone _ rfl, rfl, by decide⟩,
    ⟨own, thr, { uid := 4, sb := 0, left := 0, iaddr := 0, got := some [] }, own, [], grp, rfl, rfl⟩,
    ⟨own, thr, ⟨by decide +kernel, _, rfl, rfl⟩, by decide +kernel⟩, ?_⟩
  let s : State := { own with fgs := [{ grp with defRec := tensorImage }], mem := { own.mem with phys := buf0 } }
  exact ⟨s, thr, ⟨by decide +kernel, _, rfl, rfl⟩, by decide +kernel, _, rfl, rfl⟩
/-- Block 2 with a gang of groups 0 and 1, its latch as it is. -/
def gang (l : Latch) : State :=
  { own with fgs := [grp, { grp with id := 8, num := 1 }], threads := [thr, { thr with fg := 8 }], blocks := [{ blk 5 0 with gang := 3, latch := l }] }
theorem gang_alone (l : Latch) : Alone (gang l) pth rightsOwn {} thr := alone_one rfl rfl rfl rfl ⟨rfl, rfl⟩ rfl
/-- An MMA on barrier 15 of group 0: outside a gang; in one as the first, as the last, in a gang of others; and where its latch holds another instruction or one
from another address. -/
theorem test_meets_MatrixInstructions :
    let f : FmtL := { fL with tail := 0xF00 }
    let me : Latch := { open_ := true, op := 0, iaddr := pth.iaddr, fn := 0, br := 15, a := 0, b := 0, present := [1] }
    matrix (.mma f) = some (0, f) ∧
    (Alone own pth rightsOwn f.guard thr ∧ own.blockOf 1 = some (blk 5 0) ∧ own.fg? 1 = some grp ∧ (blk 5 0).gang = 0 ∧ (own.queue_ (own.coreOf 1)).length < 16) ∧
    (∃ s t b, Alone s pth rightsOwn f.guard t ∧ s.blockOf 1 = some b ∧ s.fg? 1 = some grp ∧ b.gang = 0 ∧ (s.queue_ (s.coreOf 1)).length = 16) ∧
    (∃ s t b, Alone s pth rightsOwn f.guard t ∧ s.blockOf 1 = some b ∧ s.fg? 1 = some grp ∧ b.gang ≠ 0 ∧ b.gang.getLsbD grp.num = false) ∧
    (∃ b, Alone (gang {}) pth rightsOwn f.guard thr ∧ (gang {}).blockOf 1 = some b ∧ b.gang.getLsbD grp.num = true ∧ b.latch = {} ∧ (gang {}).latchFull b [grp.num] = false) ∧
    (∃ l b, Alone (gang l) pth rightsOwn f.guard thr ∧ (gang l).blockOf 1 = some b ∧ b.latch = me ∧ grp.num ∉ b.latch.present ∧ (gang l).latchFull b (b.latch.present ++ [grp.num]) = true) ∧
    (∃ l b, Alone (gang l) pth rightsOwn f.guard thr ∧ (gang l).blockOf 1 = some b ∧ b.latch.open_ = true ∧ grp.num ∈ b.latch.present) ∧
    (∀ l ∈ [{ me with br := 3 }, { me with iaddr := 0x2000 }], ∃ b, Alone (gang l) pth rightsOwn f.guard thr ∧ (gang l).blockOf 1 = some b ∧
      b.latch.open_ = true ∧ b.latch ≠ me ∧ grp.num ∉ b.latch.present) := by
  let c : Cmd := { id := 20, blk := 2, bar := 0, op := 0, a := 0, rd := [], wr := [], state := .ready, left := 0 }
  let full : State := { own with eng := { cmds := List.replicate 16 c } }
  let others : State := { own with blocks := [{ blk 5 0 with gang := 6 }] }
  exact ⟨rfl, ⟨own_alone [] rfl, rfl, rfl, rfl, by decide⟩, ⟨full, thr, _, (own_alone [] rfl).congr rfl rfl rfl, rfl, rfl, rfl, by decide⟩,
    ⟨others, thr, _, alone_one rfl rfl rfl rfl ⟨rfl, rfl⟩ rfl, rfl, rfl, by decide, by decide⟩, ⟨_, gang_alone _, rfl, by decide, rfl, by decide⟩,
    ⟨{ open_ := true, op := 0, iaddr := pth.iaddr, fn := 0, br := 15, a := 0, b := 0, present := [1] }, _, gang_alone _, rfl, rfl, by decide, by decide⟩,
    ⟨{ open_ := true, present := [0] }, _, gang_alone _, rfl, rfl, by decide⟩,
    List.forall_mem_cons.2 ⟨⟨_, gang_alone _, rfl, rfl, by decide, by decide⟩, List.forall_mem_singleton.2 ⟨_, gang_alone _, rfl, rfl, by decide, by decide⟩⟩⟩
theorem test_meets_Exits :
    (∃ i g s p t, exit? i = some g ∧ Alone s p rightsAll g t ∧ ∃ k ∈ t.sb, k ≠ 0) ∧ (∃ i g s p t, exit? i = some g ∧ Alone s p rightsAll g t ∧ ∀ k ∈ t.sb, k = 0) :=
  let busy : Thread := { thr with sb := [0, 0, 0, 0, 0, 0, 0, 1] }
  ⟨⟨.exitShort { off := 0 }, _, solo 5 0 busy, pth, busy, rfl, alone_one rfl rfl rfl rfl ⟨rfl, rfl⟩ rfl, 1, by decide, by decide⟩,
   .exitShort { off := 0 }, _, own, pth, thr, rfl, own_alone [] rfl, by decide⟩

/-! ### Events -/

def okVal {α ε : Type} : Except ε α → Option α | .ok v => some v | .error _ => none
theorem eq_of_okVal {α ε : Type} {r : State × Except ε α} {v : α} (h : okVal r.2 = some v) : r = (r.1, .ok v) := by
  obtain ⟨x, _ | w⟩ := r
  · cases h
  · cases h; rfl
/-- The path of context 5 on the control core at a clause header at 0x1000, with some words in memory there. -/
def atHeader (ws : List Word) : State :=
  { ctlOwn (cellsPut [] 0x1000 (ws.flatMap fun w => toBytes 4 w.toNat)) [] with paths := [{ pth with words := [] }], ev := { a := 3 } }
def voteWords : List Word := 0xA0026100#32 :: encode (.vote { fA with d := 1, a := 2, b := 0, ty := 0 })
/-- A pooled thread at its header, of a context with a handler. -/
def pooled (t : Thread) : State := { solo 5 0 { t with status := .pooled } with paths := [], ctxs := [{ asid := 5, state := 1, trapVec := 0x4000, milePending := true }] }
/-- A path at an address that no clause can have. -/
def farPath : Path := { pth with words := [], pc := 1 <<< 57 }
def farHeader : State := { own with paths := [farPath], ev := { a := 3 } }
theorem fetchFault_of {α : Type} {r : State × Except FetchStop α} (h : (match r.2 with | .error (.fault _ _) => true | _ => false) = true) :
    ∃ x c a, r = (x, .error (.fault c a)) := by
  obtain ⟨x, (_ | _) | _⟩ := r <;> first | exact ⟨_, _, _, rfl⟩ | cases h
/-- A path at an address of rank 1, which is not this module's. -/
def peerPath : Path := { pth with words := [], pc := 2 <<< 48 }
def otherRank (p : BitVec 9) : Word := 0x80000000#32 ||| (p ^^^ 1).zeroExtend 32
theorem otherRank_word : ∀ p : BitVec 9, (otherRank p).getLsbD 31 = true ∧ (otherRank p).extractLsb' 0 9 ≠ p ∧ bits (otherRank p).toNat 28 3 = 0 := by decide +kernel
def peerHeader : State := { own with paths := [peerPath], ev := { a := 3 }, links := { own.links with ranks := [0, otherRank Config.ownPort] } }
theorem peerHeader_stalls : peerHeader.fetchClause peerPath = (peerHeader, .error (.stall [(562949953421312, 4)])) := by
  have h := otherRank_word Config.ownPort
  have hr : peerHeader.rank = 0x1FF := by
    unfold State.rank peerHeader
    simp [List.findIdx?_cons, h.2.1]
  have hv : peerHeader.rankValid 1 = true := h.1
  have hw : peerHeader.window (decide (5 = oprAsid)) 562949953421312 = .ok (0, some 1) := by
    unfold State.window
    rw [hr]
    simp [hv, bits, oprAsid]
  have hl : peerHeader.check 0 5 .ex 562949953421312 4 =
      (peerHeader, .ok [{ ea := 562949953421312, va := 0, n := 4, leaf := rawLeaf, pa := 0, peer := some 1 }]) := by
    have hp : parts (4 / 16 + 2) 562949953421312 4 = [(562949953421312, 4)] := by decide
    unfold State.check State.checkParts State.locate
    rw [hp]
    simp [hw, Piece.outside, State.noKey]
  have hb : peerHeader.fetchBytes peerPath 4 = (peerHeader, .error (.stall [(562949953421312, 4)])) := by
    have hs : peerHeader.rankState 1 = 0 := h.2.2
    have ht : peerHeader.lostAt 0 5 [{ ea := 562949953421312, va := 0, n := 4, leaf := rawLeaf, pa := 0, peer := some 1 }] = none := by
      have hj : linkJoined peerHeader.map.units (dieOfCore 0) (peerHeader.planeOf 562949953421312 / 8) = true := by decide +kernel
      simp [State.lostAt, State.pieceReach, hs, hj]
    unfold State.fetchBytes
    simp only [show peerPath.pc.toNat = 562949953421312 from by decide, show peerHeader.coreOf peerPath.fg = 0 from rfl,
      show peerHeader.asidOf peerPath.fg = 5 from rfl, hl, List.filter, Option.isNone_some, State.readPieces, List.foldl, ht]
    rfl
  unfold State.fetchClause
  rw [hb]
/-- A clause of EXIT, one of VOTE, one that the check refuses, one that cannot be fetched; and what may be due for a thread at a boundary. -/
theorem test_meets_ClauseEvents :
    (let found := fun (s : State) (p : Path) => s.paths.find? (fun q => q.id = s.ev.a) = some p ∧ p.words = [] ∧ s.pathEvents p = s
     (∃ (s : State) (p : Path), s.paths.find? (fun q => q.id = s.ev.a) = some p ∧ p.words = [] ∧ (s.pathEvents p).paths.find? (fun q => q.id = (s.pathEvents p).ev.a) = none) ∧
     (∀ r ∈ [true, false], ∃ s x p ws g, found s p ∧ s.fetchClause p = (x, .ok ws) ∧ s.fg? p.fg = some g ∧ checkClause g.nregs ws = none ∧ s.fgs = x.fgs ∧
       (clauseRdv ws).isEmpty = r) ∧
     (∃ s x p ws g c, found s p ∧ s.fetchClause p = (x, .ok ws) ∧ x.fg? p.fg = some g ∧ checkClause g.nregs ws = some c) ∧
     (∃ s x p c a, found s p ∧ s.fetchClause p = (x, .error (.fault c a))) ∧
     (∃ s x p ls, found s p ∧ s.fetchClause p = (x, .error (.stall ls)))) ∧
    (∃ (s : State) (g : FileGroup), s.fg? s.ev.a = some g) ∧
    (let at_ := fun (t : Thread) => (pooled t).thread? 1 0 = some { t with status := .pooled } ∧ (pooled t).atBoundary { t with status := .pooled } = true ∧
       ∃ b, (pooled t).blockOf 1 = some b ∧ b.there = true
     at_ { thr with due := [{ code := 0x2001, addr := 0, iaddr := 0 }] } ∧ at_ { thr with stopDue := true } ∧
     at_ { thr with stopDue := true, trap := { inH := true, crit := true } } ∧
     at_ thr ∧ thr.trap.mileSeen < (pooled thr).map.version ∧
       ∃ c, (pooled thr).ctx? 5 = some c ∧ c.milePending = true ∧ c.state = 1 ∧ c.trapVec ≠ 0) ∧
    (∀ d ∈ [true, false], ∃ (s : State) (t : Thread) (b : Block), s.thread? 1 0 = some t ∧ s.atBoundary t = true ∧ s.blockOf 1 = some b ∧ b.there = true ∧ b.place = .stopping ∧ t.stopDue = d) ∧
    (let z := fun s : State => (s.fgs.filter fun g => g.unit = s.ev.b && s.coreOf g.id = s.ev.a).foldl (fun x g =>
       (x.threadsOf g.id).foldl (fun x t => x.boundaryEvent g.id t.lane) x) s
     let oldest := fun s : State => oldestKey (((z s).fgs.filter fun g => (g.unit = s.ev.b && (z s).coreOf g.id = s.ev.a) && ((z s).room g).isSome).flatMap
       fun g => (z s).poolOf g.id)
     (∃ s : State, s.ageDue s.ev.a s.ev.b = true ∧ oldest s = none) ∧
     ∃ s : State, s.ageDue s.ev.a s.ev.b = true ∧ ∃ fg k g lg free, oldest s = some (fg, k) ∧ (z s).fg? fg = some g ∧ (z s).room g = some (lg, free)) ∧
    (∃ (s : State), s.ageDue s.ev.a s.ev.b = false) := by
  refine ⟨⟨?_, ?_, ?_, ?_, ?_⟩, ⟨{ own with ev := { a := 1 } }, grp, rfl⟩, ⟨⟨rfl, rfl, _, rfl, rfl⟩, ⟨rfl, rfl, _, rfl, rfl⟩, ⟨rfl, rfl, _, rfl, rfl⟩,
    ⟨rfl, rfl, _, rfl, rfl⟩, by decide, _, rfl, rfl, rfl, by decide⟩, ?_, ⟨?_, ?_⟩, ⟨{ own with ctl := { cycle := 63 } }, by decide⟩⟩
  · let t : Thread := { thr with due := [{ code := 0x2001, addr := 0, iaddr := 0 }] }
    exact ⟨{ solo 5 0 t with paths := [{ pth with words := [] }], ev := { a := 3 } }, _, rfl, rfl, by decide +kernel⟩
  · exact List.forall_mem_cons.2
      ⟨⟨atHeader [0xA0010100, 0x2A800000], _, _, [0xA0010100, 0x2A800000], grp, ⟨rfl, rfl, rfl⟩, eq_of_okVal (by decide +kernel), rfl, by decide +kernel, by decide +kernel, by decide +kernel⟩,
       List.forall_mem_singleton.2
       ⟨atHeader voteWords, _, _, voteWords, grp, ⟨rfl, rfl, rfl⟩, eq_of_okVal (by decide +kernel), rfl, by decide +kernel, by decide +kernel, by decide +kernel⟩⟩
  · exact ⟨atHeader [0xA0010100, 0], _, _, [0xA0010100, 0], grp, ⟨0x1001, 1, 1⟩, ⟨rfl, rfl, rfl⟩, eq_of_okVal (by decide +kernel), rfl, by decide +kernel⟩
  · obtain ⟨x, c, a, h⟩ := fetchFault_of (r := farHeader.fetchClause farPath) (by decide +kernel)
    exact ⟨farHeader, x, farPath, c, a, ⟨rfl, rfl, rfl⟩, h⟩
  · exact ⟨peerHeader, peerHeader, peerPath, _, ⟨rfl, rfl, rfl⟩, peerHeader_stalls⟩
  · let s (d : Bool) : State := { pooled { thr with stopDue := d } with blocks := [{ blk 5 0 with place := .stopping }] }
    exact List.forall_mem_cons.2 ⟨⟨s true, _, _, rfl, rfl, rfl, rfl, rfl, rfl⟩, List.forall_mem_singleton.2 ⟨s false, _, _, rfl, rfl, rfl, rfl, rfl, rfl⟩⟩
  · exact ⟨{ own with threads := [], paths := [], ctl := { cycle := 64 } }, by decide +kernel, by decide +kernel⟩
  · let s : State := { solo 5 0 { thr with status := .pooled } with paths := [], ctl := { cycle := 64 } }
    have hz : (s.fgs.filter fun g => g.unit = s.ev.b && s.coreOf g.id = s.ev.a).foldl (fun x g =>
       (x.threadsOf g.id).foldl (fun x t => x.boundaryEvent g.id t.lane) x) s = s := by rfl
    refine ⟨s, by decide +kernel, ?_⟩
    simp only [hz]
    have h1 : (oldestKey ((s.fgs.filter fun g => (g.unit = s.ev.b && s.coreOf g.id = s.ev.a) && (s.room g).isSome).flatMap fun g => s.poolOf g.id)).isSome = true := by decide +kernel
    have h2 : (s.room grp).isSome = true := by decide +kernel
    have h3 : ((oldestKey ((s.fgs.filter fun g => (g.unit = s.ev.b && s.coreOf g.id = s.ev.a) && (s.room g).isSome).flatMap fun g => s.poolOf g.id)).map (·.1)) = some 1 := by decide +kernel
    obtain ⟨⟨fg, k⟩, hk⟩ := Option.isSome_iff_exists.1 h1
    obtain ⟨⟨lg, free⟩, hr⟩ := Option.isSome_iff_exists.1 h2
    rw [hk] at h3
    have : fg = 1 := by simpa using h3
    subst this
    exact ⟨1, k, grp, lg, free, hk, rfl, hr⟩

/-- The word of a rank in state `a` at a port. -/
def rankWord (a : Nat) (p : BitVec 9) : Word := BitVec.ofNat 32 (2 ^ 31 + 2 ^ 28 * a) ||| p.zeroExtend 32
/-- This module as rank 0 in state `a`, a rank 1 in state `b`, and the two as a parity group. -/
def ranked (a b : Nat) (s : State) : State :=
  { s with links := { s.links with ranks := [rankWord a Config.ownPort, rankWord b 0], parity := 513 } }
theorem rankWord_own : ∀ p : BitVec 9, (rankWord 0 p).getLsbD 31 = true ∧ (rankWord 0 p).extractLsb' 0 9 = p ∧ bits (rankWord 0 p).toNat 28 3 = 0 := by decide +kernel
theorem rankWord_own2 : ∀ p : BitVec 9, (rankWord 2 p).getLsbD 31 = true ∧ (rankWord 2 p).extractLsb' 0 9 = p ∧ bits (rankWord 2 p).toNat 28 3 = 2 := by decide +kernel
theorem ranked_rank {a b : Nat} {s : State} (h : (rankWord a Config.ownPort).getLsbD 31 = true ∧ (rankWord a Config.ownPort).extractLsb' 0 9 = Config.ownPort) :
    (ranked a b s).rank = 0 := by
  unfold State.rank ranked
  simp [List.findIdx?_cons, h.1, h.2]
theorem ranked_parHold (s : State) : (ranked 0 1 s).parHold = true := by
  unfold State.parHold
  rw [ranked_rank ⟨(rankWord_own _).1, (rankWord_own _).2.1⟩]
  have h0 : (ranked 0 1 s).rankState 0 = 0 := (rankWord_own Config.ownPort).2.2
  have h1 : (ranked 0 1 s).rankState 1 = 1 := (by decide : bits (rankWord 1 0).toNat 28 3 = 1)
  have hm : parMembers (ranked 0 1 s).links.parity = [1, 0] := (by decide : parMembers 513 = [1, 0])
  simp [hm, h0, h1]

/-- A thread whose first pending operation is `q`. -/
def pendingOp (q : Pending) : Thread := { thr with pend := [q], sb := [1, 0, 0, 0, 0, 0, 0, 0] }
def withEv (s : State) (a b c : Nat) (v : DWord := 0) (data : List Byte := []) : State := { s with ev := { a := a, b := b, c := c, v := v, data := data } }
def dirtyLine : Line := { unit := 0, pa := 128, asid := 5, va := 128, leaf := page, data := List.replicate 128 1, valid := -1, dirty := 1 }
def parLine : Line := { dirtyLine with leaf := { page with raw := false, br := { flags := 4, ok := true } } }
def cached (x : Line) : State := { own with mem := { l1 := [x], slice := [x] } }
theorem test_meets_CommitAndMemoryEvents :
    (∃ (s : State) (t : Thread) (q : Pending), s.thread? s.ev.a s.ev.b = some t ∧ t.win = false ∧ s.ev.c = 0 ∧
      NextEnd (s.ending t) (fun p => p.err.isNone && p.val.isSome && (p.dst.isEmpty || p.left = 0) && !s.atSea t.fg t.lane p.uid) q) ∧
    (∃ (s : State) (t : Thread) (q : Pending) (e : Nat × DWord), s.thread? s.ev.a s.ev.b = some t ∧ t.win = false ∧ q.err = some e ∧ NextEnd (s.ending t) (fun p => p.err.isSome && !s.atSea t.fg t.lane p.uid) q) ∧
    (∃ (s : State) (t : Thread) (q : Pending), s.thread? s.ev.a s.ev.b = some t ∧ t.win = false ∧ s.ev.c = q.uid + 1 ∧ q ∈ t.allPend ∧
      ∀ x ∈ t.allPend, x.uid = q.uid → x = q) ∧
    (∃ (s : State) (b : Block) (q : BankStore), s.block? s.ev.a = some b ∧ b.bankQ.find? (fun q => q.bank = s.ev.b) = some q) ∧
    (∃ (s : State) (x : Line), s.ev.a = 0 ∧ s.mem.l1.find? (fun y : Line => y.unit = s.ev.b && y.pa = s.ev.v.toNat && y.leaf.buf = s.ev.c) = some x) ∧
    (∃ (s : State) (x : Line), s.ev.a ≠ 0 ∧ s.mem.slice.find? (fun y : Line => y.unit = s.ev.b && y.pa = s.ev.v.toNat && y.leaf.buf = s.ev.c) = some x ∧ s.lineHeld x = false) ∧
    (∃ (s : State) (x : Line), s.ev.a ≠ 0 ∧ s.mem.slice.find? (fun y : Line => y.unit = s.ev.b && y.pa = s.ev.v.toNat && y.leaf.buf = s.ev.c) = some x ∧ s.lineHeld x = true) ∧
    (∃ (s : State) (l : Leaf), (s.translate s.ev.a s.ev.b (s.ev.v.toNat % 2 ^ 48)).2 = .ok l ∧ l.raw = false) := by
  refine ⟨⟨withEv (solo 5 0 (pendingOp { uid := 4, sb := 0, left := 0, iaddr := 0, dst := [3], val := some [7] })) 1 0 0, _, _, rfl, rfl, rfl, [], [], rfl, rfl, by simp⟩,
    ⟨withEv (solo 5 0 (pendingOp { uid := 4, sb := 0, left := 0, iaddr := 0, err := some (0x3001, 0) })) 1 0 0, _, _, _, rfl, rfl, rfl, [], [], rfl, rfl, by simp⟩,
    ⟨withEv (solo 5 0 (pendingOp { uid := 4, sb := 0, left := 0, iaddr := 0, todo := .fence false true true 5 })) 1 0 5, _,
      { uid := 4, sb := 0, left := 0, iaddr := 0, todo := .fence false true true 5 }, rfl, rfl, rfl, by simp [pendingOp, Thread.allPend, thr], by simp [pendingOp, Thread.allPend, thr]⟩,
    ⟨withEv { own with blocks := [{ blk 5 0 with bankQ := [{ off := 16, bytes := [3, 4] }] }] } 2 (Config.bankOf 1) 0, _, { off := 16, bytes := [3, 4] }, rfl,
      by simp [withEv, BankStore.bank]⟩, ⟨withEv (cached dirtyLine) 0 0 0 128, dirtyLine, rfl, rfl⟩, ⟨withEv (cached dirtyLine) 1 0 0 128, dirtyLine, by decide, rfl, rfl⟩,
    ⟨withEv (ranked 0 1 (cached parLine)) 1 0 0 128, parLine, by decide, rfl, ?_⟩,
    ⟨withEv { own with mem := { tlb := [{ unit := 0, asid := 5, va := 0, leaf := parLine.leaf }] } } 0 5 0, parLine.leaf, congrArg Prod.snd (eq_of_okVal (by decide +kernel)), rfl⟩⟩
  have h := ranked_parHold (withEv (cached parLine) 1 0 0 128)
  unfold State.lineHeld
  rw [show (withEv (ranked 0 1 (cached parLine)) 1 0 0 128).parHold = true from h]
  decide
/-- One thread in a state of its own, in no path. -/
def held (st : Status) : State := withEv { solo 5 0 { thr with status := st } with paths := [] } 1 0 0 0x1000
def twoHeld (st : Status) : State := { held st with threads := [{ thr with status := st }, { thr with lane := 1 }], fgs := [{ grp with n := 2, m := List.replicate 12 3 }] }
theorem test_meets_ReleaseEvents :
    (∃ (s : State) (g : FileGroup) (b : Block), s.fg? s.ev.a = some g ∧ s.rdvMet g s.ev.v = true ∧ s.block? g.blk = some b ∧ b.place = .resident) ∧
    (∃ (s : State) (g : FileGroup), s.fg? s.ev.a = some g ∧ ∀ b, s.block? g.blk = some b → b.place ≠ .resident) ∧
    (∃ (s : State) (g : FileGroup), s.fg? s.ev.a = some g ∧ s.rdvMet g s.ev.v = false) ∧
    (∃ (s : State) (g : FileGroup), s.fg? s.ev.a = some g ∧ s.deadlocked g = true) ∧
    (∃ (s : State) (g : FileGroup), s.fg? s.ev.a = some g ∧ s.deadlocked g = false) ∧
    (∃ (s : State) (g : FileGroup) (t : Thread) (a : DWord) (m : Nat), s.fg? s.ev.a = some g ∧ s.thread? s.ev.a s.ev.b = some t ∧ t.status = .heldWaitm a m ∧
      ∀ u ∈ s.named g.id (g.mask m), u.lane = t.lane) ∧
    (∃ (s : State) (g : FileGroup) (t : Thread) (a : DWord) (m : Nat), s.fg? s.ev.a = some g ∧ s.thread? s.ev.a s.ev.b = some t ∧ t.status = .heldWaitm a m ∧
      ∃ u ∈ s.named g.id (g.mask m), u.lane ≠ t.lane) ∧
    (∃ (s : State) (t : Thread) (w : Nat), s.thread? s.ev.a s.ev.b = some t ∧ t.status = .sleeping w ∧ w ≤ s.ctl.cycle) ∧
    (∃ (s : State) (t : Thread) (w : Nat), s.thread? s.ev.a s.ev.b = some t ∧ t.status = .sleeping w ∧ s.ctl.cycle < w) ∧
    (∃ (s : State) (t : Thread) (id wake d : Nat), s.thread? s.ev.a s.ev.b = some t ∧ t.status = .nwait id wake d) :=
  ⟨⟨held .heldRdv, grp, _, rfl, by decide +kernel, rfl, rfl⟩,
   ⟨{ held .heldRdv with blocks := [{ blk 5 0 with place := .stopped }] }, grp, rfl, by intro b h; cases h; decide⟩, ⟨held .pooled, grp, rfl, by decide +kernel⟩,
   ⟨twoHeld (.heldWaitm 0x1004 0) |> fun s => { s with threads := [{ thr with status := .heldWaitm 0x1004 0 }, { thr with lane := 1, status := .heldWaitm 0x1004 0 }] },
    _, rfl, by decide +kernel⟩,
   ⟨held .pooled, grp, rfl, by decide +kernel⟩,
   ⟨held (.heldWaitm 0x1004 0), grp, _, 0x1004, 0, rfl, rfl, rfl, by decide +kernel⟩, ⟨twoHeld (.heldWaitm 0x1004 0), _, _, 0x1004, 0, rfl, rfl, rfl, by decide +kernel⟩,
   ⟨held (.sleeping 0), _, 0, rfl, rfl, by decide⟩, ⟨held (.sleeping 1), _, 1, rfl, rfl, by decide⟩, ⟨held (.nwait 0 1 3), _, 0, 1, 3, rfl, rfl⟩⟩
def req0 : AtomReq := { id := 30, fg := 1, op := 0, at_ := 0, sp := true, red := false, ord := 2, sc := 0, lanes := [{ lane := 0, uid := 5, ea := 0, x := 1, y := 0 }] }
def waiting : List Pending := [{ uid := 4, sb := 0, left := 0, iaddr := 0 }, { uid := 5, sb := 0, left := 0, iaddr := 0 }]
def syncing (x : SyncSys) (ps : List Pending := []) : State := { solo 5 0 { thr with pend := ps } with sync := x }
def arr0 : Arrival := { seq := 30, blk := 2, bar := 0, kind := 0, from_ := [(1, 0, [4])] }
def rem0 : RemoteArr := { fg := 1, lane := 0, waits := [4], bar := 0, dom := false, blk := 2, asid := 5, tag := 0, node := 0 }
def token0 : Token := { id := 31, fg := 1, lane := 0, uid := 5, wire := 0, ord := 0, sc := 0 }
def net0 : Net := { dom := false, home := 0, word := 0, asid := 5, base := 0, tokens := [token0] }
theorem test_meets_SyncEvents :
    (∃ (s : State) (r : AtomReq), s.sync.reqs.find? (fun q => q.id = s.ev.a) = some r ∧ s.reqReady r = false) ∧
    (∃ (s : State) (r : AtomReq), s.sync.reqs.find? (fun q => q.id = s.ev.a) = some r ∧ r.sent = true) ∧
    (∃ (s : State) (r : AtomReq) (x : State) (q : AtomReq), s.sync.reqs.find? (fun q => q.id = s.ev.a) = some r ∧ r.sent = false ∧ s.reqReady r = true ∧ s.sendReq r = (x, q)) ∧
    (∃ (s : State) (r : AtomReq) (b : Block), r.sp = true ∧ s.blockOf r.fg = some b ∧ b.bankQ = []) ∧
    (∀ c ∈ [0, 3], ∃ (s : State) (n : Net) (k : Token), s.sync.nets[s.ev.a]? = some n ∧ n.tokens.find? (fun y => y.id = s.ev.b) = some k ∧ k.layer < 10 ∧
      (k.layer = 0 → (n.tokens.find? fun y => y.layer = 0) = some k) ∧ s.ev.c = c ∧ c < 10 - k.layer ∧ k.ord ≠ 1) ∧
    (∃ (s : State) (a : Arrival), s.sync.arrivals.find? (fun a => a.seq = s.ev.a) = some a ∧ s.arrivalReady a = true) ∧
    (∃ (s : State) (a : Arrival), s.sync.arrivals.find? (fun a => a.seq = s.ev.a) = some a ∧ s.arrivalReady a = false) ∧
    (∃ (s : State) (a : Arrival) (b : Block), s.block? a.blk = some b ∧ a.count = true ∧ a.hold = false ∧ (b.bar a.bar).current < (b.bar a.bar).expected ∧ a.err = 0 ∧ a.bytes = 0) ∧
    (∀ n ∈ [true, false], ∃ a : Arrival, a.err = 0 ∧ a.bytes ≠ 0 ∧ a.count = n) ∧
    (∃ (s : State) (r : RemoteArr) (t : Thread), s.ev.c ≠ 1 ∧ s.sync.remote[s.ev.a]? = some r ∧ r.dom = false ∧ s.thread? r.fg r.lane = some t ∧
      (∀ p ∈ t.allPend, p.arrived = true ∨ p.uid ∉ r.waits) ∧ s.storesDone r.fg r.lane r.uid (if r.dom then 6 else 3) r.jobs = true) ∧
    (∃ (s : State) (r : RemoteArr) (t : Thread), s.ev.c ≠ 1 ∧ s.sync.remote[s.ev.a]? = some r ∧ r.dom = false ∧ s.thread? r.fg r.lane = some t ∧
      ∃ p ∈ t.allPend, p.arrived = false ∧ p.uid ∈ r.waits) ∧
    (∃ (s : State), s.ev.c = 1) :=
  let early : Pending := { uid := 4, sb := 0, left := 0, iaddr := 0 }
  ⟨⟨withEv (syncing { reqs := [{ req0 with id := 29, lanes := [{ lane := 0, uid := 4, ea := 0, x := 1, y := 0 }] }, req0] } waiting) 30 0 0, req0, rfl, by decide +kernel⟩,
   ⟨withEv (syncing { reqs := [{ req0 with sent := true }] }) 30 0 0, _, rfl, rfl⟩,
   ⟨withEv (syncing { reqs := [req0] }) 30 0 0, req0, _, _, rfl, rfl, by decide +kernel, rfl⟩,
   ⟨own, req0, blk 5 0, rfl, rfl, rfl⟩,
   fun c hc => ⟨withEv (syncing { nets := [net0] }) 0 31 c, net0, token0, rfl, rfl, by decide, fun _ => rfl, rfl, by
     simp at hc; rcases hc with rfl | rfl <;> decide, by decide⟩,
   ⟨withEv (syncing { arrivals := [arr0] }) 30 0 0, arr0, rfl, by decide +kernel⟩,
   ⟨withEv (syncing { arrivals := [arr0] } [early]) 30 0 0, arr0, rfl, by decide +kernel⟩,
   ⟨{ own with blocks := [{ blk 5 0 with bars := List.replicate 16 { expected := 1 } }] }, arr0, _, rfl, rfl, rfl, by decide, rfl, rfl⟩,
   fun n _ => ⟨{ arr0 with bytes := 16, count := n }, rfl, (by decide : (16 : Nat) ≠ 0), rfl⟩,
   ⟨withEv (syncing { remote := [rem0] }) 0 0 0, rem0, _, by decide, rfl, rfl, rfl, by decide, by decide⟩,
   ⟨withEv (syncing { remote := [rem0] } [early]) 0 0 0, rem0, _, by decide, rfl, rfl, rfl, by decide⟩, withEv own 0 0 1, rfl⟩

def job0 : Job := { id := 40, blk := 2, bar := 0, kind := .cpb true true 0 16 16, rd := [], wr := [], state := .ready, left := 16 }
def cmd0 : Cmd := { id := 50, blk := 2, bar := 0, op := 0, a := 2 ^ 19, groups := [(1, 2), (1, 2)], rd := [], wr := [], state := .ready, left := 1024 }
def engine (e : EngSys) : State := { own with eng := e }
/-- The engines with a command that runs: the four slots hold tensors of bytes, with a record of handle 0. -/
def running (c : Cmd) (rc : List Byte) : State :=
  { engine { cmds := [c], slots := (List.range 4).map fun n => { num := n, blk := 2, valid := true }, banks := [{ num := 0, blk := 2, words := [] }] } with
    ctxs := [{ asid := 5, state := 1, records := [{ handle := 0, bytes := rc, key := 0 }] }] }
def claimPath : Path := { pth with words := 0xA0020100 :: encode (.oclaim { fL with a := 2, b := 4 }) }
/-- 64 jobs that are all held, and a copy that waits for an entry. -/
def stuckWords : List Word := 0xA0020100 :: encode (.cpb fL)
def stuck : State :=
  { engine { jobs := List.replicate 64 { job0 with state := .held }, stalls := [{ core := 0, path := 3, since := some 0 }] } with
    paths := [{ pth with words := stuckWords }], ctl := { cycle := 1024 } }
theorem clauseInstr_claim : clauseInstr claimPath.words claimPath.idx = some (.oclaim { fL with a := 2, b := 4 }, 1) := by decide +kernel
theorem clauseInstr_stuck : clauseInstr stuckWords 1 = some (.cpb fL, 1) := by decide +kernel
theorem test_meets_EngineEvents :
    (∃ (s : State) (id : Nat), (((s.window_ s.ev.a).filter fun j : Job => j.state = .ready && match s.block? j.blk with | some b => b.place = .resident || b.place = .ended | none => false).map (·.id)).min? = some id ∧
      ((s.window_ s.ev.a).filter fun j => j.state = .running).length < 8) ∧
    (∃ (s : State) (id : Nat), (((s.window_ s.ev.a).filter fun j : Job => j.state = .ready && match s.block? j.blk with | some b => b.place = .resident || b.place = .ended | none => false).map (·.id)).min? = some id ∧
      8 ≤ ((s.window_ s.ev.a).filter fun j => j.state = .running).length) ∧
    (let late := fun j : Job => j.prov.isEmpty && !j.heldWr.isEmpty
     ∀ l ∈ [false, true], ∃ (s : State) (j : Job), (s.window_ s.ev.a).find? (fun j : Job => (j.state = .running || late j) && !j.hold && j.reads.isEmpty && match s.block? j.blk with
      | some b => b.place = .resident || b.place = .ended || (b.place = .stopping && j.performing) | none => false) = some j ∧ late j = l) ∧
    (∀ x ∈ [false, true], ∃ (s : State) (j : Job) (b : Block) (a c n : Nat), s.eng.jobs.find? (fun k => k.id = j.id) = some j ∧ s.block? j.blk = some b ∧
      j.kind = .cpb true true a c n ∧ j.prov = [] ∧ b.bankQ = [] ∧ b.asid < 1024 ∧ j.chunk = 0 ∧ 0 < n ∧ n ≤ 4096 ∧
      a + n ≤ b.scratch.length ∧ c + n ≤ b.scratch.length ∧ j.cancel = x) ∧
    (∃ (j : Job) (b : Block) (a c n : Nat), b.bankQ = [] ∧ j.chunk = 0 ∧ 0 < n ∧ n ≤ 4096 ∧ a + n ≤ b.scratch.length ∧ c + n ≤ b.scratch.length) ∧
    (∃ (s : State), ∀ x ∈ s.touch.eng.stalls, x.core = s.ev.a → ∀ c, x.since = some c → s.ctl.cycle < c + 1024) ∧
    (∃ (s : State) (x : CopyStall) (c : Nat) (p : Path) (l : Nat) (t : Thread) (f : FmtL) (k : Nat), s.touch.eng.stalls = [x] ∧ x.core = s.ev.a ∧ x.since = some c ∧
      c + 1024 ≤ s.ctl.cycle ∧ s.paths.find? (fun p => p.id = x.path) = some p ∧ p.lanes = [l] ∧ s.thread? p.fg l = some t ∧ t.lane = l ∧ l < 128 ∧
      clauseInstr p.words p.idx = some (.cpb f, k) ∧ f.guard.on t = true) ∧
    (∃ (s : State) (c : ClaimWait) (p : Path) (f : FmtL) (k : Nat), s.eng.claims.find? (fun c => c.core = s.ev.a && s.grantable c.core c.blk c.path c.slots c.banks) = some c ∧
      s.paths.find? (fun p => p.id = c.path) = some p ∧ clauseInstr p.words p.idx = some (.oclaim f, k)) ∧
    (∃ (s : State) (c : Cmd), s.eng.cmds.find? (fun c => c.waiting && s.onCore c.blk s.ev.a) = some c ∧ (s.queue_ s.ev.a).length < 16) ∧
    (∃ (s : State) (c : Cmd), s.eng.cmds.find? (fun c => c.waiting && s.onCore c.blk s.ev.a) = some c ∧ 16 ≤ (s.queue_ s.ev.a).length) ∧
    (∃ (s : State) (id : Nat), (((s.queue_ s.ev.a).filter fun c : Cmd => c.state = .ready && match s.block? c.blk with | some b => decide (b.place ≠ .stopping) | none => false).map (·.id)).min? = some id ∧
      ∀ c ∈ s.queue_ s.ev.a, c.state ≠ .running) ∧
    (∃ (s : State) (id : Nat), (((s.queue_ s.ev.a).filter fun c : Cmd => c.state = .ready && match s.block? c.blk with | some b => decide (b.place ≠ .stopping) | none => false).map (·.id)).min? = some id ∧
      ∃ c ∈ s.queue_ s.ev.a, c.state = .running) ∧
    (∃ a b : List Int, a.length = b.length ∧ a.length ≤ 32) :=
  ⟨⟨engine { jobs := [job0] }, 40, by decide +kernel, by decide +kernel⟩,
   ⟨engine { jobs := job0 :: List.replicate 8 { job0 with state := .running } }, 40, by decide +kernel, by decide +kernel⟩,
   List.forall_mem_cons.2 ⟨⟨engine { jobs := [{ job0 with state := .running }] }, _, rfl, rfl⟩,
     List.forall_mem_singleton.2 ⟨engine { jobs := [{ job0 with state := .running, heldWr := [(0, [1])] }] }, _, rfl, rfl⟩⟩,
   fun x _ => ⟨engine { jobs := [{ job0 with state := .running, cancel := x }] }, { job0 with state := .running, cancel := x }, blk 5 0, 0, 16, 16, rfl, rfl, rfl, rfl, rfl, by decide, rfl, by decide, by decide,
     (by decide : 0 + 16 ≤ (blk 5 0).scratch.length), (by decide : 16 + 16 ≤ (blk 5 0).scratch.length), rfl⟩, ⟨job0, blk 5 0, 48, 0, 16, rfl, rfl, by decide, by decide, by decide, by decide⟩,
   ⟨own, by decide⟩,
   ⟨stuck, { core := 0, path := 3, since := some 0 }, 0, _, 0, thr, fL, 1, by decide +kernel, rfl, rfl, by decide, rfl, rfl, rfl, rfl, by decide, clauseInstr_stuck, rfl⟩,
   ⟨{ engine { claims := [{ core := 0, blk := 2, path := 3, slots := 1, banks := 0 }] } with paths := [claimPath] }, { core := 0, blk := 2, path := 3, slots := 1, banks := 0 }, claimPath, _, _,
     by decide +kernel, rfl, clauseInstr_claim⟩,
   ⟨engine { cmds := [{ cmd0 with waiting := true }] }, _, rfl, by decide +kernel⟩,
   ⟨engine { cmds := { cmd0 with waiting := true } :: List.replicate 16 cmd0 }, _, rfl, by decide +kernel⟩,
   ⟨engine { cmds := [cmd0] }, 50, by decide +kernel, by decide +kernel⟩,
   ⟨engine { cmds := [cmd0, { cmd0 with state := .running }] }, 50, by decide +kernel, by decide +kernel⟩, [-3, 2], [5, -7], rfl, by decide⟩
/-- A group K-step that is not the last of its group, the last of a group, the last of all; one that fails; and an ACCZ. -/
theorem test_meets_EngineEvents_kStep :
    let goes := fun (s : State) (c : Cmd) => match s.block? c.blk with | some b => decide (b.place ≠ .stopping) || !c.inbox.isEmpty | none => false
    let at_ := fun (s : State) (c : Cmd) => (s.queue_ s.ev.a).find? (fun c : Cmd => c.state = .running && !c.hold && c.reads.isEmpty && goes s c) = some c ∧ s.block? c.blk = some (blk 5 0) ∧ c.prov = [] ∧
      c.step < c.groups.length * cmdK c.a ∧ 0 < ((c.groups[c.step / cmdK c.a]?).map (·.1)).getD 0
    let k := fun c : Cmd => cmdK c.a
    let ok := fun (s : State) (c : Cmd) => at_ s c ∧ c.op ≠ 3 ∧ ∃ x, s.kStep s.ev.a 5 c (c.step / k c) (c.step % k c) = (x, .ok)
    (∃ s c, ok s c ∧ c.step % k c ≠ k c - 1) ∧
    (∃ s c, ok s c ∧ c.step % k c = k c - 1 ∧ c.step + 1 < c.groups.length * k c) ∧
    (∃ s c, ok s c ∧ c.step % k c = k c - 1 ∧ c.step + 1 = c.groups.length * k c) ∧
    (∃ s c x code, at_ s c ∧ c.op ≠ 3 ∧ s.kStep s.ev.a 5 c (c.step / k c) (c.step % k c) = (x, .fail code)) ∧
    (∃ s c bank, at_ s c ∧ c.op = 3 ∧ c.step = 0 ∧ s.bank? c.blk (selBank c.a) = some bank) := by
  have pair {r : State × EngRes} {e : EngRes} (h : r.2 = e) : r = (r.1, e) := by rw [← h]
  let c (n : Nat) : Cmd := { cmd0 with state := .running, step := n }
  let rc := List.replicate 128 (0 : Byte)
  exact ⟨⟨running (c 0) rc, c 0, ⟨⟨rfl, rfl, rfl, by decide, by decide⟩, by decide, _, pair (by decide +kernel)⟩, by decide⟩,
    ⟨running (c 1) rc, c 1, ⟨⟨rfl, rfl, rfl, by decide, by decide⟩, by decide, _, pair (by decide +kernel)⟩, by decide, by decide⟩,
    ⟨running (c 3) rc, c 3, ⟨⟨rfl, rfl, rfl, by decide, by decide⟩, by decide, _, pair (by decide +kernel)⟩, by decide, by decide⟩,
    ⟨engine { cmds := [c 0] }, c 0, _, 0x6004, ⟨rfl, rfl, rfl, by decide, by decide⟩, by decide, pair (by decide +kernel)⟩,
    running { c 0 with op := 3 } rc, { c 0 with op := 3 }, { num := 0, blk := 2, words := [] }, ⟨rfl, rfl, rfl, by decide, by decide⟩, rfl, rfl, by decide +kernel⟩
/-- A core taken out of service, first and at a DEV_TIME at which the map has changed before. -/
theorem test_meets_MapChanges : ∀ at_ ∈ [none, some 0], ∃ (s : State) (us : List (Nat × Nat)), closeUnits s.map.units us ≠ s.map.units ∧
    s.ctl.pubTime = at_ ∧ s.ctl.devTime = 0 ∧ (∃ c ∈ s.ctxs, c.state = 1) ∧
    ∃ b ∈ s.blocks, (∀ x ∈ s.blocks, x.id = b.id → x = b) ∧ b.place = .resident ∧ b.core < 256 ∧ s.map.coreLive b.core = true ∧
      2 ≤ ((closeUnits s.map.units us).getD b.core (0, 0)).1 := fun at_ _ =>
  ⟨{ own with ctl := { pubTime := at_ } }, own.map.units.set 0 (2, 0),
    (by decide +kernel : closeUnits own.map.units (own.map.units.set 0 (2, 0)) ≠ own.map.units), rfl, rfl, ⟨_, .head _, rfl⟩, blk 5 0, .head _, by simp [own, solo], rfl, by decide,
    (by decide +kernel : own.map.coreLive 0 = true), (by decide +kernel : 2 ≤ ((closeUnits own.map.units (own.map.units.set 0 (2, 0))).getD 0 (0, 0)).1)⟩

def ailing (h : Health) : State := { own with health := h }
def lanes (st bad : Nat) : State := { withEv own 0 0 7 with map := { own.map with units := own.map.units.set 0 (st, bad) } }
theorem test_meets_HealthEvents :
    (∃ (s : State), s.health.novig = true ∧ s.health.buyerKey = none) ∧ (∃ (s : State), s.health.novig = true ∧ s.health.buyerKey ≠ none) ∧
    (∃ (s : State), s.health.novig = false ∧ s.health.buyerKey ≠ none) ∧
    (∃ (s : State), s.ev.a = 0 ∧ s.ev.b < 256 ∧
      (s.ctl.susp.modify s.ev.b fun v => Nat.min (v + 2048) 65535).getD s.ev.b 0 < s.ctl.chkQthr ∧ s.health.quarantine.Nodup) ∧
    (∃ (s : State), s.ev.a = 0 ∧ s.ev.b < 256 ∧
      s.ctl.chkQthr ≤ (s.ctl.susp.modify s.ev.b fun v => Nat.min (v + 2048) 65535).getD s.ev.b 0 ∧ s.map.coreLive s.ev.b = true) ∧
    (∃ (s : State) (n : Net), s.ev.a = 2 ∧ (s.sync.nets.filter fun n => !n.dom && n.home = s.ev.b)[s.ev.c]? = some n) ∧
    (∃ (s : State), s.ev.a < 2 ∧ s.ev.b = 0) ∧ (∃ (s : State), s.ev.a < 2 ∧ 0 < s.ev.b ∧ s.ev.b < 32) ∧
    (∀ d ∈ [[], [5]], ∃ (s : State), (s.health.halfDue.filter fun e => e < s.ctl.devTime) = d) ∧ (∃ s : State, Memory.wf s.mem.phys = true) ∧
    (∃ (s : State), s.ev.a < 64 ∧ 16 < s.sliceErrors s.ev.a) ∧ (∃ (s : State), s.ev.a < 8 ∧ s.sliceErrors s.ev.a ≤ 16) ∧
    (∀ c ∈ [0, 7, 65], ∃ (s : State), s.ev.a = 1 ∧ s.ev.c = c) ∧ (∃ (s : State), s.ev.a = 3) ∧ (∃ (s : State), s.ev.a < 2 ∧ s.ev.b < 32 ∧ s.ev.c = 1) ∧
    (∀ i ∈ [[], [1]], ∃ (s : State), s.health.novig = true ∧ s.ev.data = i) ∧ (∃ b, b ≠ own.ev.a % 2 ^ 39 / 16) ∧ (∃ a, 0x4000 ≤ a ∧ a < 0x4010) ∧
    (∃ a, 0x400000 ≤ a ∧ a < 0x600000) ∧ (∃ a, (a < 0x4000 ∨ 0x4010 ≤ a) ∧ (a < 0x400000 ∨ 0x600000 ≤ a)) ∧
    (∀ bad ∈ [63, 5], ∃ (s : State), s.ev.a < 256 ∧ s.ev.b < 4 ∧ s.ev.c < 33 ∧ (s.map.units.getD s.ev.a (3, 0)).1 < 2 ∧
      bits (s.map.units.getD s.ev.a (3, 0)).2 (6 * s.ev.b) 6 = bad ∧ bad ≠ s.ev.c) :=
  ⟨⟨ailing { novig := true }, rfl, rfl⟩, ⟨ailing { novig := true, buyerKey := some [] }, rfl, by decide⟩, ⟨ailing { novig := false, buyerKey := some [] }, rfl, by decide⟩,
   ⟨own, rfl, by decide, by decide +kernel, by decide⟩,
   ⟨{ own with ctl := { susp := List.replicate 256 3000 } }, rfl, by decide, by decide +kernel, by decide +kernel⟩,
   ⟨withEv (syncing { nets := [net0] }) 2 0 0, net0, rfl, rfl⟩, ⟨withEv own 1 0 0, by decide, rfl⟩, ⟨withEv own 1 31 0, by decide, by decide, by decide⟩,
   List.forall_mem_cons.2 ⟨⟨own, by decide +kernel⟩, List.forall_mem_singleton.2 ⟨{ own with health := { halfDue := [5] }, ctl := { devTime := 6 } }, by decide +kernel⟩⟩, ⟨own, rfl⟩,
   ⟨withEv (ailing { sliceErrs := List.replicate 17 (7, 0) }) 7 0 0, by decide +kernel⟩, ⟨withEv (ailing { sliceErrs := List.replicate 16 (7, 0) }) 7 0 0, by decide +kernel⟩,
   fun c _ => ⟨withEv own 1 0 c, rfl, rfl⟩, ⟨withEv own 3 0 0, rfl⟩, ⟨withEv own 1 16 1, by decide, by decide, rfl⟩,
   fun i _ => ⟨withEv (ailing { novig := true }) 0 0 0 0 i, rfl, rfl⟩, ⟨1, by decide⟩, ⟨0x4000, by decide, by decide⟩, ⟨0x400000, by decide, by decide⟩, ⟨0, by decide, by decide⟩,
   List.forall_mem_cons.2 ⟨⟨lanes 1 63, by decide +kernel⟩, List.forall_mem_singleton.2 ⟨lanes 1 5, by decide +kernel⟩⟩⟩

def cluster0 : Cluster := { num := 0, ended := 1, been := [(0, 0), (1, 1), (2, 2)], placed := true }
def rerun (c : Cluster) : State := { own with blocks := [], sched := { pool := [{ node0 with clusters := [c] }] } }
theorem test_meets_RerunVerdicts :
    let isOver := fun (s : State) (n : Node) (c : Cluster) => c.placed = true ∧ c.ended = n.pkt.cshape ∧ ∀ b ∈ s.blocks, b.node = n.id → b.clu ≠ c.num
    let at_ := fun (o : State) (n : Node) (c : Cluster) => o.sweepEnded.node? o.ev.a = some n ∧ n.clusters.find? (fun c => c.num = o.ev.b) = some c
    let runs := fun (o : State) (n : Node) (c : Cluster) (st : Nat) => at_ o n c ∧ isOver o.sweepEnded n c ∧ c.stage = st
    let d := Cluster.digestOf
    (∀ r ∈ [false, true], ∃ s n c, runs s n c 1 ∧ agree (d c 0) (d c 1) = r) ∧
    (∃ s n c, runs s n c 2 ∧ agree (d c 0) (d c 2) = true) ∧
    (∃ s n c, runs s n c 2 ∧ agree (d c 0) (d c 2) = false ∧ agree (d c 1) (d c 2) = true) ∧
    (∃ s n c, runs s n c 2 ∧ agree (d c 0) (d c 2) = false ∧ agree (d c 1) (d c 2) = false) ∧
    (∃ s n c, at_ s n c ∧ c.stage ≠ 1 ∧ c.stage ≠ 2) ∧ (∃ s n c, at_ s n c ∧ ¬isOver s.sweepEnded n c) :=
  let c (st : Nat) (d : List (BitVec 128)) : Cluster := { cluster0 with stage := st, digest := d }
  let n (c : Cluster) : Node := { node0 with clusters := [c] }
  ⟨List.forall_mem_cons.2 ⟨⟨rerun (c 1 [1]), n (c 1 [1]), c 1 [1], by decide +kernel⟩, List.forall_mem_singleton.2 ⟨rerun (c 1 [0, 0]), n (c 1 [0, 0]), c 1 [0, 0], by decide +kernel⟩⟩,
   ⟨rerun (c 2 [0, 1, 0]), n (c 2 [0, 1, 0]), c 2 [0, 1, 0], by decide +kernel⟩, ⟨rerun (c 2 [1, 0, 0]), n (c 2 [1, 0, 0]), c 2 [1, 0, 0], by decide +kernel⟩,
   ⟨rerun (c 2 [1, 2, 0]), n (c 2 [1, 2, 0]), c 2 [1, 2, 0], by decide +kernel⟩, ⟨rerun (c 3 []), n (c 3 []), c 3 [], by decide +kernel⟩, rerun { c 1 [] with placed := false }, n { c 1 [] with placed := false }, { c 1 [] with placed := false }, by decide +kernel⟩

def inCtx (c : Ctx) (cycle : Nat := 0) : State := { withEv own 5 0 0 with ctxs := [c], ctl := { cycle := cycle } }
def rec0 : OprRec := { die := 0, code := 0xA003 }
def recWaits (base head : Nat) : State :=
  { own with opr := { waiting := [rec0] }, ctl := { opfBase := List.replicate 4 base, opfHead := List.replicate 4 head } }
/-- A command window asked for MAPRD of entry 1 into v4, and for words that are no instruction. -/
def mapRd : List Word := encode (.maprd { d := 4, a := 248, fn := 0, gn := 0, gp := 7, cr := 0, imm := 1 })
def window (w : Word) (x : Word) : State := { withEv State.reset 0 0 0 (x ++ w) with uid := 10 }
/-- The root of context 5, two tables and a leaf of 1 GiB at 0. -/
def ctxPage : List Host.Cell := [(0x52, 1), (0x58, 1), (0x10000, 1), (0x10006, 2), (0x20000, 0x41)]
theorem test_meets_ContextEvents :
    (∃ (s : State) (c : Ctx) (e : Nat), s.ctx? s.ev.a = some c ∧ c.state = 1 ∧ c.milePending = true ∧ c.grace = some e ∧ e ≤ s.ctl.cycle) ∧
    (∃ (s : State) (c : Ctx) (e : Nat), s.ctx? s.ev.a = some c ∧ c.state = 1 ∧ c.milePending = true ∧ c.grace = some e ∧ s.ctl.cycle < e) ∧
    (∃ (s : State) (c : Ctx), s.ctx? s.ev.a = some c ∧ c.state ≠ 5) ∧
    (∃ (s : State) (c : Ctx), s.ctx? s.ev.a = some c ∧ c.state = 5 ∧ c.endCode = 0 ∧
      ∃ e ∈ s.ctxPages c.asid, ∃ q, e.1 ≤ q ∧ q < e.1 + e.2 ∧ q < 2 ^ 23 ∧ inPages (s.livePages c.asid) q = false) ∧
    (∃ (s : State) (c : Ctx), s.ctx? s.ev.a = some c ∧ c.state = 5 ∧ c.endCode ≠ 0 ∧ s.vfFor c.asid = none) ∧
    (∃ (s : State) (r : OprRec), s.opr.waiting.find? (fun r => r.die = s.ev.a) = some r ∧ s.ctl.opfBase.getD s.ev.a 0 ≠ 0 ∧
      (s.ctl.opfTail.getD s.ev.a 0 + 1) % 256 ≠ s.ctl.opfHead.getD s.ev.a 0) ∧
    (∀ e ∈ [(0, 0), (4096, 1)], ∃ (s : State) (r : OprRec), s.opr.waiting.find? (fun r => r.die = s.ev.a) = some r ∧ s.ctl.opfBase.getD s.ev.a 0 = e.1 ∧
      s.ctl.opfHead.getD s.ev.a 0 = e.2 ∧ (e.1 = 0 ∨ (s.ctl.opfTail.getD s.ev.a 0 + 1) % 256 = e.2)) ∧
    (∃ (s : State) (f : FmtZ) (k w : Nat) (w0 w1 : Word), w = (if s.ev.b = 1 then 2 else s.ev.a % 2) ∧ w0 = BitVec.ofNat 32 s.ev.v.toNat ∧
      w1 = BitVec.ofNat 32 (s.ev.v.toNat / 2 ^ 32) ∧ s.winThread w = none ∧ wordE w0 = true ∧ opClass (wordOp w0) = 7 ∧
      checkInstrs 240 7 1 [w0, w1] 1 [0, 1, 2, 3, 4, 5, 6, 7] = none ∧ clauseInstr [0, w0, w1] 1 = some (.maprd f, k) ∧
      f.guard = {} ∧ f.a = 248#8 ∧ f.imm.toNat < 1024 ∧ f.d.toNat ≤ 236 ∧ s.links.cmdOut.length = 3 ∧
      (∀ b ∈ s.blocks, b.id < s.uid) ∧ (∀ g ∈ s.fgs, g.id < s.uid) ∧ (∀ t ∈ s.threads, t.fg < s.uid) ∧ (∀ p ∈ s.paths, p.fg < s.uid)) ∧
    (∃ (s : State), s.winThread (if s.ev.b = 1 then 2 else s.ev.a % 2) = none ∧ allocated (wordOp (BitVec.ofNat 32 s.ev.v.toNat)) = false ∧
      wordE (BitVec.ofNat 32 s.ev.v.toNat) = false) := 
  ⟨⟨inCtx { asid := 5, state := 1, milePending := true, grace := some 7 } 7, _, 7, rfl, rfl, rfl, rfl, by decide⟩,
   ⟨inCtx { asid := 5, state := 1, milePending := true, grace := some 7 }, _, 7, rfl, rfl, rfl, rfl, by decide⟩,
   ⟨inCtx { asid := 5, state := 1 }, _, rfl, by decide⟩,
   ⟨{ inCtx { asid := 5, state := 5 } with mem := { phys := ctxPage } }, _, rfl, rfl, rfl, (0, 16384), by decide +kernel, 0x400, by decide, by decide, by decide, by decide +kernel⟩,
   ⟨inCtx { asid := 5, state := 5, endCode := 0xB020 }, _, rfl, rfl, by decide, rfl⟩,
   ⟨recWaits 4096 0, rec0, rfl, by decide, by decide⟩,
   List.forall_mem_cons.2 ⟨⟨recWaits 0 0, rec0, rfl, by decide, by decide, .inl rfl⟩, List.forall_mem_singleton.2 ⟨recWaits 4096 1, rec0, rfl, by decide, by decide, .inr (by decide)⟩⟩,
   ⟨window (mapRd.getD 0 0) (mapRd.getD 1 0), { d := 4, a := 248, fn := 0, gn := 0, gp := 7, cr := 0, imm := 1 }, 1, 0, mapRd.getD 0 0, mapRd.getD 1 0, by decide +kernel⟩,
   window 0x7E000000 0, rfl, by decide +kernel, by decide +kernel⟩
/-- A queue of context 5 with one packet at 0x1000, and the device memory around it. -/
def queue0 : Queue := { num := 0, asid := 5, en := true, base := 0x1000, tail := 1 }
def packetCells : List Host.Cell := [(0x448, 8), (0x1001, 4), (0x1010, 1), (0x1014, 1), (0x1015, 1), (0x1016, 1), (0x1017, 1)]
def queued (q : Queue) (cells : List Host.Cell) : State := { ctlOwn cells [] with sched := { queues := [q] } }
theorem stack_there : (State.reset.map.unit 321).1 ≠ 3 := by decide +kernel
theorem queued_read (cells : List Host.Cell) : (queued queue0 cells).schedRead 5 0x1000 256 =
    (queued queue0 cells, .ok (((parts (256 / 16 + 2) 0x1000 256).map onPage).flatMap (pageBytes (queued queue0 cells) 5))) :=
  read_part _ 0x1000 256 rfl rfl (by decide) (by decide) rfl stack_there rfl
def isErrorSome {α : Type} : Except (Option Nat) α → Bool | .error (some _) => true | _ => false
theorem some_of {α : Type} {r : State × Except (Option Nat) α} (h : isErrorSome r.2 = true) : ∃ x c, r = (x, .error (some c)) := by
  obtain ⟨x, (_ | c) | v⟩ := r
  · cases h
  · exact ⟨x, c, rfl⟩
  · cases h
/-- The queue bound to VF 1 of link die 0. -/
def bell (v : DWord) (off : Nat) : State := withEv (queued { queue0 with vf := 1 } []) 1 off 0 v
/-- A packet whose pennant lies at 0x2000, and whose descriptor is not one. -/
def badCells : List Host.Cell := [(0x1019, 0x20)]
def evqEntry : EvqEntry := { node := 2 ^ 31, part := 0, status := 0, signal := 7, pennant := 0, notify := false, ntype := 0, asid := 5, payload := 0 }
/-- A read of the 512 bytes at 0 for the scheduler, not yet answered. -/
def asked0 : PeerRead := { id := 9, asid := 5, addr := 0, size := 512, who := 0 }
def reading : State := { queued queue0 [] with sched := { queues := [queue0], reads := [asked0] } }
theorem test_meets_SchedulerEvents :
    (let bound := fun s : State => s.sched.queues.filter fun q => 1 ≤ q.vf && q.vf ≤ 62 && 64 * q.ld + q.vf = s.ev.a
     let room := fun (s : State) (q : Queue) => (s.ev.v.toNat % 2 ^ 32 + 2 ^ 32 - q.head) % 2 ^ 32
     (∃ (s : State) (q : Queue), s.ev.b % 16 = 8 ∧ (bound s)[s.ev.b / 16]? = some q ∧ room s q = 2 ^ q.logn) ∧
     (∃ (s : State) (q : Queue), s.ev.b % 16 = 8 ∧ (bound s)[s.ev.b / 16]? = some q ∧ room s q = 2 ^ q.logn + 1) ∧
     (∃ (s : State), s.ev.b % 16 = 0) ∧ (∃ (s : State), s.ev.b % 16 = 8 ∧ (bound s)[s.ev.b / 16]? = none)) ∧
    (∃ (s : State) (q : Queue), s.queue? s.ev.a = some q ∧ s.health.novig = true) ∧
    (∃ (s : State) (q : Queue), s.queue? s.ev.a = some q ∧ s.health.novig = false ∧ q.en = true) ∧
    (∃ (s : State) (q : Queue), s.queue? s.ev.a = some q ∧ s.health.novig = false ∧ q.en = false ∧ 4 ≤ bits s.ev.v.toNat 8 4 ∧ bits s.ev.v.toNat 8 4 ≤ 12) ∧
    (let open_ := fun (s : State) (q : Queue) => s.queue? s.ev.a = some q ∧ q.en = true ∧ q.err = 0 ∧ q.head ≠ q.tail ∧ s.poolRoom (((s.ctx? q.asid).map (·.part)).getD 0) = true
     let read := fun (s : State) (q : Queue) => s.schedRead q.asid (q.base + 256 * (q.head % 2 ^ q.logn)) 256
     (∃ s q x, open_ s q ∧ read s q = (x, .error none)) ∧
     (∃ s q x code, open_ s q ∧ read s q = (x, .error (some code))) ∧
     (∃ s q x y pk, open_ s q ∧ read s q = (x, .ok pk) ∧ x.readPacket q.asid pk = (y, .error none)) ∧
     (∃ s q x y pk p, open_ s q ∧ read s q = (x, .ok pk) ∧ x.readPacket q.asid pk = (y, .ok p)) ∧
     (∀ pen ∈ [0, 0x2000], ∃ s q x y pk st, open_ s q ∧ read s q = (x, .ok pk) ∧ x.readPacket q.asid pk = (y, .error (some st)) ∧ field pk 24 8 = pen)) ∧
    (∃ (s : State) (x : State) (d : List Byte), (256 : Nat) ≤ 2 ^ 48 - 0x1000 % 2 ^ 48 ∧ s.peerRead? 5 0x1000 256 0 = none ∧ s.load false 256 5 0 0x1000 256 = (x, .done d)) ∧
    (∃ (s : State) (x : State) (code a : Nat), s.peerRead? 6 0x1000 256 0 = none ∧ s.load false 256 6 0 0x1000 256 = (x, .err code a)) ∧
    (∃ (s : State) (asid : Nat) (p : Packet), s.sched.pool = [] ∧ s.ctx? asid ≠ none ∧ (p.wait = 0 ∨ p.wait ∈ (s.part (((s.ctx? asid).map (·.part)).getD 0)).tags)) ∧
    (∃ (s : State) (e : EvqEntry) (n : Node), s.ev.a = 0 ∧ s.sched.evq = [e] ∧ s.node? e.node = some n ∧ n.posted = true ∧ 1 ≤ e.signal ∧ e.signal ≤ 4095 ∧ e.part < s.sched.parts.length) ∧
    (∃ (s : State), bits s.ev.v.toNat 0 12 ≠ 0 ∧ bits s.ev.v.toNat 16 6 < s.sched.parts.length) := by
  have hopen (cells : List Host.Cell) : (queued queue0 cells).queue? (queued queue0 cells).ev.a = some queue0 ∧ queue0.en = true ∧ queue0.err = 0 ∧
      queue0.head ≠ queue0.tail ∧ (queued queue0 cells).poolRoom ((((queued queue0 cells).ctx? queue0.asid).map (·.part)).getD 0) = true :=
    ⟨rfl, rfl, rfl, by decide, rfl⟩
  have hpkt (cells : List Host.Cell) (a : Nat) (pk : List Byte) (hp : pk = ((parts (256 / 16 + 2) 0x1000 256).map onPage).flatMap (pageBytes (queued queue0 cells) 5))
      (hf : field pk 0 8 = a) (ha : a + 512 ≤ 2 ^ 30) :
      (queued queue0 cells).readPacket 5 pk = (queued queue0 cells, match parsePacket pk (((parts (512 / 16 + 2) a 512).map onPage).flatMap (pageBytes (queued queue0 cells) 5)) with
        | some p => .ok p | none => .error (some 0xB010)) := by
    unfold State.readPacket
    rw [hf, read_part (queued queue0 cells) a 512 rfl rfl ha (by omega) rfl stack_there rfl]
    dsimp only
    generalize parsePacket pk _ = r
    cases r <;> rfl
  have hbad (cells : List Host.Cell) (pen : Nat)
      (hf : field (((parts (256 / 16 + 2) 0x1000 256).map onPage).flatMap (pageBytes (queued queue0 cells) 5)) 0 8 = 0)
      (hn : parsePacket (((parts (256 / 16 + 2) 0x1000 256).map onPage).flatMap (pageBytes (queued queue0 cells) 5))
        (((parts (512 / 16 + 2) 0 512).map onPage).flatMap (pageBytes (queued queue0 cells) 5)) = none)
      (he : field (((parts (256 / 16 + 2) 0x1000 256).map onPage).flatMap (pageBytes (queued queue0 cells) 5)) 24 8 = pen) :
      ∃ (s : State) (q : Queue) (x y : State) (pk : List Byte) (st : Nat), (s.queue? s.ev.a = some q ∧ q.en = true ∧ q.err = 0 ∧ q.head ≠ q.tail ∧ s.poolRoom (((s.ctx? q.asid).map (·.part)).getD 0) = true) ∧
        s.schedRead q.asid (q.base + 256 * (q.head % 2 ^ q.logn)) 256 = (x, .ok pk) ∧ x.readPacket q.asid pk = (y, .error (some st)) ∧ field pk 24 8 = pen := by
    have hk := hpkt cells 0 _ rfl hf (by decide)
    rw [hn] at hk
    exact ⟨_, queue0, _, _, _, _, hopen cells, queued_read cells, hk, he⟩
  refine ⟨⟨⟨bell 16 8, { queue0 with vf := 1 }, by decide, by decide, by decide⟩, ⟨bell 17 8, { queue0 with vf := 1 }, by decide, by decide, by decide⟩, ⟨bell 0 0, by decide⟩,
      bell 0 24, by decide, by decide⟩,
    ⟨{ withEv (queued queue0 []) 0 0 0 with health := { novig := true } }, queue0, rfl, rfl⟩, ⟨withEv (queued queue0 []) 0 0 0, queue0, rfl, rfl, rfl⟩,
    ⟨withEv (queued { queue0 with en := false } []) 0 0 0 0x400, _, rfl, rfl, rfl, by decide, by decide⟩, ⟨?_, ?_, ?_, ?_, ?_⟩, ?_, ?_, ⟨own, 5, pkt0, rfl, by decide, .inl rfl⟩,
    ⟨{ own with sched := { State.reset.sched with evq := [evqEntry], pool := [{ node0 with id := 2 ^ 31, posted := true }] } }, evqEntry, _, rfl, rfl, rfl, rfl, by decide, by decide, by decide +kernel⟩,
    withEv own 0 0 0 7, by decide, by decide +kernel⟩
  · let s : State := { queued queue0 [] with sched := { queues := [queue0], reads := [{ id := 9, asid := 5, addr := 0x1000, size := 256, who := 0 }] } }
    exact ⟨s, queue0, s, ⟨rfl, rfl, rfl, by decide, rfl⟩, rfl⟩
  · let q : Queue := { queue0 with asid := 6 }
    obtain ⟨x, c, h⟩ := some_of (r := (queued q []).schedRead q.asid (q.base + 256 * (q.head % 2 ^ q.logn)) 256) (by decide +kernel)
    exact ⟨queued q [], q, x, c, ⟨rfl, rfl, rfl, by decide, by decide +kernel⟩, h⟩
  · have hr := read_part reading 0x1000 256 rfl rfl (by decide) (by decide) rfl stack_there rfl
    have hf : field (((parts (256 / 16 + 2) 0x1000 256).map onPage).flatMap (pageBytes reading 5)) 0 8 = 0 := by decide +kernel
    have hq := read_asked (s := reading) (ea := 0) (n := 512) (r := asked0) (by decide) rfl rfl rfl
    have hk : reading.readPacket 5 (((parts (256 / 16 + 2) 0x1000 256).map onPage).flatMap (pageBytes reading 5)) = (reading, .error none) := by
      unfold State.readPacket
      rw [hf, hq]
    exact ⟨reading, queue0, reading, reading, _, ⟨rfl, rfl, rfl, by decide, rfl⟩, hr, hk⟩
  · have hf : field (((parts (256 / 16 + 2) 0x1000 256).map onPage).flatMap (pageBytes (queued queue0 packetCells) 5)) 0 8 = 0x400 := by decide +kernel
    have hk := hpkt packetCells 0x400 _ rfl hf (by decide)
    have hs : (parsePacket (((parts (256 / 16 + 2) 0x1000 256).map onPage).flatMap (pageBytes (queued queue0 packetCells) 5))
      (((parts (512 / 16 + 2) 0x400 512).map onPage).flatMap (pageBytes (queued queue0 packetCells) 5))).isSome = true := by decide +kernel
    obtain ⟨k, hs⟩ := Option.isSome_iff_exists.1 hs
    rw [hs] at hk
    exact ⟨_, queue0, _, _, _, k, hopen packetCells, queued_read packetCells, hk⟩
  · exact List.forall_mem_cons.2 ⟨hbad [] 0 (by decide +kernel) (by decide +kernel) (by decide +kernel),
      List.forall_mem_singleton.2 (hbad badCells 0x2000 (by decide +kernel) (by decide +kernel) (by decide +kernel))⟩
  · exact ⟨queued queue0 [], _, _, by decide, rfl, load_page 0 0x1000 256 rfl (by decide) rfl stack_there rfl⟩
  · obtain ⟨x, c, a, h⟩ := err_of (r := (queued queue0 []).load false 256 6 0 0x1000 256) (by decide +kernel)
    exact ⟨queued queue0 [], x, c, a, rfl, h⟩

def ready0 : Node := { node0 with state := 2 }
/-- A ready node, in a partition that owns the first slot or none. -/
def dispatching (slots : List SlotEntry) (e : PartEntry := {}) (t : Nat := 0) : State :=
  { own with blocks := [], sched := { pool := [ready0], slots := slots, parts := [e] }, ctl := { devTime := t } }
def slot0 : SlotEntry := { assigned := true }
theorem heads_one (slots : List SlotEntry) (e : PartEntry) (t : Nat) : (dispatching slots e t).heads 0 [] = [ready0] := by
  unfold State.heads
  have h : ((dispatching slots e t).sched.pool.filter fun n => n.part = 0 && n.waits && (dispatching slots e t).ctxRuns n.asid && !([] : List Nat).contains n.queue) = [ready0] := rfl
  simp only [h]
  simp [List.mergeSort_singleton]
/-- The node has ended its one block. -/
def endedNode : Node := { node0 with state := 4, ended := 1, next := 1 }
def endedPool (n : Node) : State := { own with blocks := [], sched := { pool := [n] } }
/-- A copy job of the node's block is under way. -/
def busyNode : State := { endedPool endedNode with blocks := [blk 5 0], eng := { jobs := [job0] } }
def keptNode : Node := { endedNode with pkt := { pkt0 with feet := [(2, 128, 1)] } }
/-- The node's one dirty line is held by its parity group. -/
def keptState : State := { endedPool keptNode with mem := { slice := [parLine] } }
theorem keptState_line : (ranked 0 1 keptState).lineHeld parLine = true := by
  unfold State.lineHeld
  rw [ranked_parHold]
  decide
theorem keptState_foot : (ranked 0 1 keptState).inFeet 5 keptNode.pkt writeMode parLine = true := by
  have hn : (ranked 0 1 keptState).norm 128 = 128 := by
    unfold State.norm
    rw [ranked_rank ⟨(rankWord_own _).1, (rankWord_own _).2.1⟩]
    decide
  simp [State.inFeet, keptNode, endedNode, writeMode, hn]
  decide
theorem endedPool_flushed : (withEv (endedPool endedNode) 0 0 0).sweepEnded.flushNode (withEv (endedPool endedNode) 0 0 0).ev.a =
    withEv (endedPool { endedNode with flushed := true }) 0 0 0 := by decide +kernel
/-- A dirty line that is held is not written back. -/
theorem writeBack_kept {s : State} {x : Line} {k : Line → Bool} (asid : Nat) (hl : s.mem.l1 = []) (hs : s.mem.slice = [x]) (h : s.lineHeld x = true) :
    s.writeBackAll asid k = s := by
  obtain ⟨threads, fgs, blocks, paths, insts, ctxs, ctl, map, opr, mem, sync, links, health, eng, sched, images, fills, yields, ev, agenda, ticks, fresh, uid⟩ := s
  obtain ⟨phys, host, scrub, poison, dirtyActive, l1, slice, tlb, keySlots, sram, hostBad⟩ := mem
  simp only at hl hs
  subst hl hs
  simp only [State.writeBackAll, List.filter_nil, List.foldl_nil, List.map_nil, List.filter_cons, List.map_cons, h, Bool.not_true, Bool.and_false, Bool.false_eq_true, if_false]
theorem test_meets_SchedulerEvents_dispatch :
    (∃ (s : State), s.ev.a < 64 ∧ ∃ b, (s.part s.ev.a).blocked = some b ∧ ∀ n, s.node? b.1 = some n → n.waits = false) ∧
    (∃ (s : State), s.ev.a < 64 ∧ ¬∃ b, (s.part s.ev.a).blocked = some b ∧ ∀ n, s.node? b.1 = some n → n.waits = false) ∧
    (∃ (s : State) (part : Nat) (stuck : List Nat) (n : Node) (rest : List Node) (cs : List (Nat × List Nat)), s.heads part stuck = n :: rest ∧ (s.part part).blocked = none ∧
      s.findPlace n (s.slotsOf part) (s.part part).reserve [] n.pkt.cshape [] = some cs) ∧
    (∃ (s : State) (part : Nat) (stuck : List Nat) (n : Node) (rest : List Node), s.heads part stuck = n :: rest ∧ (s.part part).blocked = none ∧
      s.findPlace n (s.slotsOf part) (s.part part).reserve [] n.pkt.cshape [] = none) ∧
    (∃ (s : State) (b : Nat × Nat × Nat), (s.part s.ev.a).blocked = some b ∧ (s.part s.ev.a).reserve = none ∧ (32 ≤ b.2.2 ∨ b.2.1 + 500000 ≤ s.ctl.devTime) ∧
      (((s.slotsOf s.ev.a).map fun x => x.1 / 2).filter fun r => (s.slotsOf s.ev.a).any fun x => x.1 / 2 = r && !(s.slotE x.2).closed) ≠ []) ∧
    (∃ (s : State) (b : Nat × Nat × Nat), (s.part s.ev.a).blocked = some b ∧ (s.part s.ev.a).reserve = none ∧ b.2.2 < 32 ∧ s.ctl.devTime < b.2.1 + 500000) ∧
    (∃ (s : State), s.ctl.devTime < s.sched.winStart + 10000000) ∧
    (∃ (s : State), s.sched.winStart + 10000000 ≤ s.ctl.devTime ∧ ∀ p ∈ s.sched.parts, p.auto = false) ∧
    (∃ (s : State) (b : Nat × Nat × Nat), (s.part s.ev.a).blocked = some b ∧ (s.part s.ev.a).reserve = none ∧
      (((s.slotsOf s.ev.a).map fun x => x.1 / 2).filter fun r => (s.slotsOf s.ev.a).any fun x => x.1 / 2 = r && !(s.slotE x.2).closed) = []) ∧
    (∃ (s : State) (n : Node), s.node? 0 = some n ∧ n.state = 4 ∧ n.flushed = false ∧ s.nodeBusy 0 = true) ∧
    (∀ f ∈ [false, true], ∃ (s : State) (n : Node), s.node? 0 = some n ∧ n.state = 4 ∧ n.flushed = false ∧ s.nodeBusy 0 = false ∧
      (s.writeBackAll n.asid (s.inFeet n.asid n.pkt writeMode)).keptBack n.asid (s.inFeet n.asid n.pkt writeMode) = f ∧ n.unsettled = false) ∧
    (∃ (s : State) (n : Node), (s.sweepEnded.flushNode s.ev.a).node? s.ev.a = some n ∧ n.flushed = false) ∧
    (∃ (s : State) (n : Node), (s.sweepEnded.flushNode s.ev.a).node? s.ev.a = some n ∧ n.posted = true) ∧
    (∃ (s : State) (n : Node), (s.sweepEnded.flushNode s.ev.a).node? s.ev.a = some n ∧ n.flushed = true ∧ n.posted = false ∧ n.unsettled = false ∧ n.hold = false ∧
      (s.sweepEnded.flushNode s.ev.a).sched.evq.length < 1024 ∧ (∀ b ∈ (s.sweepEnded.flushNode s.ev.a).blocks, b.node ≠ n.id) ∧
      ((s.sweepEnded.flushNode s.ev.a).writeBackAll n.asid fun _ => true).parBusy n.asid = false ∧ n.pkt.pennant = 0) := by
  refine ⟨⟨dispatching [] { blocked := some (9, 0, 0) }, by decide, (9, 0, 0), rfl, by intro n h; cases h⟩,
   ⟨dispatching [], by decide, by rintro ⟨b, h, -⟩; cases h⟩,
   ⟨dispatching [slot0], 0, [], ready0, [], [(0, [0])], heads_one _ _ _, rfl, by decide +kernel⟩,
   ⟨dispatching [], 0, [], ready0, [], heads_one _ _ _, rfl, by decide +kernel⟩,
   ⟨dispatching [slot0] { blocked := some (9, 0, 32) }, (9, 0, 32), rfl, rfl, .inl (by decide), by decide +kernel⟩,
   ⟨dispatching [slot0] { blocked := some (9, 0, 31) } 499999, (9, 0, 31), rfl, rfl, by decide, by decide⟩,
   ⟨dispatching [] {} 9999999, by decide⟩, ⟨dispatching [] {} 10000000, by decide, by decide⟩,
   ⟨dispatching [] { blocked := some (9, 0, 31) }, (9, 0, 31), rfl, rfl, by decide +kernel⟩,
   ⟨busyNode, endedNode, rfl, rfl, rfl, by decide +kernel⟩,
   List.forall_mem_cons.2 ⟨⟨endedPool endedNode, endedNode, rfl, rfl, rfl, by decide +kernel, by decide +kernel, rfl⟩,
     List.forall_mem_singleton.2 ⟨ranked 0 1 keptState, keptNode, rfl, rfl, rfl, by decide +kernel, ?_, rfl⟩⟩,
   ⟨withEv busyNode 0 0 0, endedNode, by decide +kernel, rfl⟩, ⟨withEv (endedPool { endedNode with flushed := true, posted := true }) 0 0 0, { endedNode with flushed := true, posted := true }, by decide +kernel, rfl⟩,
   withEv (endedPool endedNode) 0 0 0, { endedNode with flushed := true }, ?_, rfl, rfl, rfl, rfl, ?_, ?_, ?_, rfl⟩
  · rw [show keptNode.asid = 5 from rfl, writeBack_kept 5 rfl rfl keptState_line, State.keptBack]
    rw [show (ranked 0 1 keptState).mem.slice = [parLine] from rfl, List.any_cons, keptState_foot, keptState_line]
    rfl
  · rw [endedPool_flushed]
    rfl
  · rw [endedPool_flushed]
    decide
  · rw [endedPool_flushed]
    intro b h
    cases h
  · rw [endedPool_flushed]
    decide +kernel
def linked (l : Links) : State := { own with links := l }
/-- A Guestus flit whose SEQ and TYPE make up `n`, and its check. -/
def flitHead (n : Nat) : List Byte := toBytes 8 n ++ List.replicate 240 0
def flit (n : Nat) : List Byte := flitHead n ++ toBytes 8 (crc64 (flitHead n)).toNat
def goodFlit (b : List Byte) : Prop := b.length = 256 ∧ field b 248 8 = (crc64 (b.take 248)).toNat ∧ bits (field b 0 2) 12 4 ≤ 2
theorem length_toBytes : ∀ n v, (toBytes n v).length = n
  | 0, _ => rfl
  | n + 1, v => by simp [toBytes, length_toBytes n]
theorem ofBytes_toBytes : ∀ n v, ofBytes (toBytes n v) = v % 256 ^ n
  | 0, v => by simp [toBytes, ofBytes, Nat.mod_one]
  | n + 1, v => by
    rw [toBytes, ofBytes, ofBytes_toBytes n, Nat.pow_succ', Nat.mod_mul]
    rfl
theorem good_flit {n : Nat} (h : n < 3 * 2 ^ 12) : goodFlit (flit n) ∧ bits (field (flit n) 0 2) 0 12 = n % 4096 ∧ bits (field (flit n) 0 2) 12 4 = n / 4096 := by
  have hl : (flitHead n).length = 248 := by rw [flitHead, List.length_append, length_toBytes, List.length_replicate]
  have hs : slice (flit n) 248 8 = toBytes 8 (crc64 (flitHead n)).toNat := by
    rw [slice, flit, ← hl, List.drop_left, List.take_of_length_le (Nat.le_of_eq (length_toBytes 8 _)), length_toBytes]
    exact List.append_nil _
  have hh : slice (flit n) 0 2 = toBytes 2 n := rfl
  have h2 : field (flit n) 0 2 = n := by
    unfold field
    rw [hh, ofBytes_toBytes]
    omega
  have hb : ∀ lo k, bits n lo k = n / 2 ^ lo % 2 ^ k := fun lo k => by rw [bits, Nat.shiftRight_eq_div_pow]
  unfold goodFlit
  simp only [h2, hb]
  refine ⟨⟨by simp [flit, hl, length_toBytes], ?_, by omega⟩, by omega, by omega⟩
  unfold field
  rw [hs, ofBytes_toBytes, flit, ← hl, List.take_left]
  exact Nat.mod_eq_of_lt (crc64 (flitHead n)).isLt
def portLost : State := { own with map := { own.map with units := own.map.units.set 362 (3, 0) } }
def module_ (u : Nat × Nat) (b : Nat) : State := { withEv own 0 b 0 with map := { own.map with units := own.map.units.set 328 u } }
/-- A window that a tag has closed, in this module's own words of it. -/
def win0 : RxWin := { id := 60, src := 1, plane := 0, cls := 0, num := 0 }
def tagFor (s : State) (w : RxWin) : Nat := s.tagOf w.src w.src s.rank w.plane w.cls w.num w.slots
def windows (ws : List RxWin) (t : Nat) : State := { withEv (linked { rxWins := ws }) 60 0 0 with ctl := { devTime := t } }
/-- Its tag as this module computes it. -/
def tagged : RxWin := { win0 with tag := some (0, tagFor own win0) }
/-- The operator's page, with buffer record 0 of context 5, and this module as the rank that is rebuilt. -/
def rebuilding : State :=
  let s := ranked 2 0 (ctlOwn buf0 [])
  { s with links := { s.links with parPhase := 3 }, ev := { data := List.replicate 16 1 } }
theorem test_meets_FabricEvents :
    (∀ e ∈ [((3, 0), 0), ((0, 7), 0), ((0, 8), 0), ((0, 0), 1), ((1, 0), 0), ((0, 0), 2)], ∃ (s : State), s.ev.a < 32 ∧ s.map.unit (329 + s.ev.a) = e.1 ∧ s.ev.b = e.2) ∧
    (∀ b ∈ [0, 1], ∃ (s : State), s.ev.a < 16 ∧ s.ev.b = b) ∧
    (∃ (s : State), s.ev.a < 16 ∧ s.portUp s.ev.a = false) ∧ (∃ (s : State), s.ev.a < 16 ∧ s.portUp s.ev.a = true ∧ ¬goodFlit s.ev.data) ∧
    (∀ n ∈ [0, 4096, 8192, 4097, 8191], ∃ (s : State), s.ev.a < 16 ∧ s.portUp s.ev.a = true ∧ goodFlit s.ev.data ∧ (s.port s.ev.a).rxNext = 0 ∧
      bits (field s.ev.data 0 2) 0 12 = n % 4096 ∧ bits (field s.ev.data 0 2) 12 4 = n / 4096) ∧
    (∃ (s : State), s.ev.a < 16 ∧ s.ev.b = 0 ∧ s.portUp s.ev.a = true ∧ 8 ≤ (s.port s.ev.a).naks) ∧
    (∃ (s : State), s.ev.a < 16 ∧ ¬(8 ≤ (s.port s.ev.a).naks ∨ ((s.port s.ev.a).unacked ≠ [] ∧ (s.port s.ev.a).lastAck + 1000000 ≤ s.ctl.devTime))) ∧
    (∃ (s : State), s.rankValid s.ev.a = false) ∧ (∃ (s : State), s.rankValid s.ev.a = true ∧ s.rankState s.ev.a ≠ 1) ∧
    (∃ (s : State), 3840 ≤ (s.txWin s.ev.a s.ev.b s.ev.c).slots.length ∨ (s.txWin s.ev.a s.ev.b s.ev.c).start + 512 ≤ s.ctl.cycle) ∧
    (∃ (s : State), (s.txWin s.ev.a s.ev.b s.ev.c).slots.length < 3840 ∧ s.ctl.cycle < (s.txWin s.ev.a s.ev.b s.ev.c).start + 512) ∧
    (let oldest := fun (s : State) (w : RxWin) => ∃ v, s.links.rxWins.find? (fun v => v.is w.src w.plane w.cls) = some v ∧ v.id = w.id
     (∃ (s : State) (w : RxWin), s.links.rxWins.find? (fun w => w.id = s.ev.a) = some w ∧ oldest s w ∧ w.tag = some (w.num, tagFor s w)) ∧
     (∃ (s : State) (w : RxWin) (n x : Nat), s.links.rxWins.find? (fun w => w.id = s.ev.a) = some w ∧ oldest s w ∧ w.tag = some (n, x) ∧ (n, x) ≠ (w.num, tagFor s w)) ∧
     (∃ (s : State) (w : RxWin), s.links.rxWins.find? (fun w => w.id = s.ev.a) = some w ∧ ¬oldest s w)) ∧
    (∃ (s : State) (w : RxWin), s.links.rxWins.find? (fun w => w.id = s.ev.a) = some w ∧ w.tag = none ∧ w.startNs + 1000000 ≤ s.ctl.devTime) ∧
    (∃ (s : State) (w : RxWin), s.links.rxWins.find? (fun w => w.id = s.ev.a) = some w ∧ s.ctl.devTime < w.startNs + 1000000) ∧
    (∃ (s x : State) (p : Piece), s.links.parPhase = 3 ∧ s.ev.data.length = 16 * ((parMembers s.links.parity).length - 1) ∧ s.rankState s.rank = 2 ∧
      s.check 256 (s.bufRec s.ev.a).owner .wr ((s.bufRec s.ev.a).base + 16 * s.ev.b) 16 = (x, .ok [p])) := by
  refine ⟨fun e he => ⟨module_ e.1 e.2, by simp [module_, withEv], ?_, rfl⟩, fun b _ => ⟨withEv own 0 b 0, by simp [withEv], rfl⟩, ⟨portLost, by decide, by decide +kernel⟩,
    ⟨own, by decide, by decide +kernel, by unfold goodFlit; decide⟩,
    fun n h => have g := good_flit (n := n) (by simp at h; omega)
      ⟨withEv own 0 0 0 0 (flit n), by simp [withEv], (by decide +kernel : own.portUp 0 = true), g.1, rfl, g.2.1, g.2.2⟩,
    ⟨linked { ports := [{ naks := 8 }] }, by decide, rfl, by decide +kernel, by decide⟩, ⟨own, by decide, by decide⟩, ⟨own, by decide +kernel⟩,
    ⟨linked { ranks := [0x80000000] }, by decide, by decide⟩, ⟨{ own with ctl := { cycle := 512 } }, .inr (by decide)⟩, ⟨own, by decide, by decide⟩,
    ⟨⟨windows [tagged] 0, tagged, rfl, ⟨tagged, rfl, rfl⟩, rfl⟩,
      ⟨windows [{ win0 with tag := some (1, 0) }] 0, _, 1, 0, rfl, ⟨_, rfl, rfl⟩, rfl, by intro h; cases (Prod.mk.inj h).1⟩,
      windows [{ win0 with id := 59 }, win0] 0, win0, rfl, by rintro ⟨v, h, hv⟩; cases h; cases hv⟩,
    ⟨windows [win0] 1000000, win0, rfl, rfl, by decide⟩, ⟨windows [win0] 999999, win0, rfl, by decide⟩, ?_⟩
  · have : ∀ e ∈ [((3, 0), 0), ((0, 7), 0), ((0, 8), 0), ((0, 0), 1), ((1, 0), 0), ((0, 0), 2)], (own.map.units.set 328 e.1).getD (329 - 1) (3, 0) = e.1 := by decide +kernel
    exact this e he
  · refine ⟨rebuilding, rebuilding, onPage (0, 16), rfl, by decide, ?_, (check_page (s := rebuilding) .wr 0 16 rfl (by decide)).1⟩
    have h : rebuilding.rank = 0 := ranked_rank (a := 2) (b := 0) (s := ctlOwn buf0 []) ⟨(rankWord_own2 _).1, (rankWord_own2 _).2.1⟩
    rw [h]
    exact (rankWord_own2 Config.ownPort).2.2

/-- A thread that acquires an object in the sync space of die 1, and the translation of it. -/
def farAcq : Pending := { uid := 4, sb := 0, left := 0, iaddr := 0x1000, todo := .acq 0xC00000001000 3, req := 3 }
def seaLeaf : Leaf := { lg := 21, addr := 2 ^ 40, kind := 2, r := true, w := true, x := false, buf := 0, br := {}, raw := true }
def sea : State := { solo 5 0 (pendingOp farAcq) with mem := { tlb := [{ unit := 0, asid := 5, va := 0xC00000000000, leaf := seaLeaf }] } }
theorem sea_mates : sea.mates (pendingOp farAcq) farAcq = [(pendingOp farAcq, farAcq)] := by
  unfold State.mates
  rw [show (sea.threads.filter fun u => u.fg = (pendingOp farAcq).fg) = [pendingOp farAcq] from rfl, List.mergeSort_singleton]
  decide +kernel
/-- The transaction of its request, and of the answer to it. -/
def seaTx (k : Nat) (src : Nat) : List Byte := txBytes { addr := 2 ^ 56 + 2 ^ 40 + 4096, src := src, tag := 4, part := 0, asid := 5, kind := k, ord := 1, sc := 3 } []
def seaCross (st : Nat) : Cross := { uid := 4, fg := 1, lane := 0, req := 3, iaddr := 0x1000, ea := 0, kind := 5, tag := 4, addr := 2 ^ 56 + 2 ^ 40 + 4096, src := 0, dst := 1, st := st }
def crossed (st : Nat) : State := linked { cross := [seaCross st] }
/-- Module 0 carries a flit towards die 1 that has not been taken, or has. -/
def flit0 : Flit := { seq := 0, fk := 1, bytes := seaTx 5 0, dsts := [1] }
def onWire (f : Flit) (next : Nat := 0) : State := linked { ucie := { unacked := [f], rxNext := next } :: List.replicate 63 {} }
/-- Every module of a group but module 0 has failed. -/
def lastModule (f : Flit) (next : Nat) : State :=
  { onWire f next with map := { own.map with units := ((own.map.units.set 329 (3, 0)).set 330 (3, 0)).set 331 (3, 0) } }
theorem test_meets_FabricEvents_dies :
    (∃ (s : State) (t : Thread) (q : Pending) (a : Ask) (d off : Nat) (x : Cross × List Byte), q.held = false ∧ s.mayPerform t = true ∧ s.todoWaits t q = false ∧
      s.leftBehind t q = false ∧ s.crossOf t.fg t.lane q.uid = none ∧ q.todo.ask = some a ∧ a.rel = none ∧ s.farHome t.fg a.w a.ea a.n = some (d, off) ∧
      s.mates t q = [(t, q)] ∧ s.crossFor t.fg t.lane q.uid q.req q.iaddr false a.ea (d, off) a.tx = x ∧ ∀ e ∈ s.links.cross, e.clash x.1 = false) ∧
    (∃ (s : State) (t : Thread) (q : Pending) (e : Cross), s.crossOf t.fg t.lane q.uid = some e ∧ e.st ≠ 1) ∧
    (∃ (s y : State) (x : Cross × List Byte), s.sendDie x.1.src x.1.dst x.2 = some y) ∧
    (∃ (p : LinkPort) (tx : List Byte), 240 < p.filled + tx.length ∧ p.fill ≠ []) ∧ (∃ (p : LinkPort) (tx : List Byte), p.filled + tx.length < 240) ∧
    (∃ (p : LinkPort) (tx : List Byte), p.filled + tx.length = 240) ∧
    (∃ (s y : State) (k dst : Nat) (tx : List Byte), txBad tx = false ∧ dst ≠ farDie k ∧ s.sendDie (farDie k) dst tx = some y) ∧
    (∃ (s : State) (k dst : Nat) (tx : List Byte), txBad tx = false ∧ dst = farDie k ∧ s.crossBy dst (TxHdr.of tx) = none) ∧
    (∀ n ∈ [0, 0x10], ∃ (s : State) (k dst : Nat) (tx : List Byte) (e : Cross), txBad tx = false ∧ dst = farDie k ∧ s.crossBy dst (TxHdr.of tx) = some e ∧
      (0x10 ≤ (TxHdr.of tx).kind ↔ n = 0x10)) ∧
    (∃ (s : State), (s.map.unit (329 + s.ev.a % 64 / 2)).1 = 3) ∧ (∃ (s : State), (s.map.unit (329 + s.ev.a % 64 / 2)).1 ≠ 3 ∧ s.nextFlit (s.ev.a % 64) = none) ∧
    (∀ c ∈ [0, 1, 2, 3], ∃ (s : State) (f : Flit), (s.map.unit (329 + s.ev.a % 64 / 2)).1 ≠ 3 ∧ s.nextFlit (s.ev.a % 64) = some f ∧ s.ev.c = c) ∧
    (∃ (s : State) (k j : Nat), k < s.links.ucie.length ∧ nextModule s.map.units (k / 2) = some j) ∧
    (∃ (s : State) (k : Nat), let p := (s.ucie k).close s.ctl.devTime
      nextModule s.map.units (k / 2) = none ∧ ∀ f ∈ p.unacked ++ p.queue, (s.setUcie k { p with unacked := [], queue := [] }).accepted k f = true) ∧
    (∃ (s : State), s.ev.b = 0 ∧ s.ev.a < 64) ∧ (∃ (s : State), s.ev.b ≠ 0 ∧ s.ev.a < 16) := by
  have hs {o : Option State} (h : o.isSome = true) : ∃ y, o = some y := Option.isSome_iff_exists.1 h
  obtain ⟨y, hy⟩ := hs (by decide +kernel : (own.sendDie 0 1 (seaTx 5 0)).isSome = true)
  obtain ⟨z, hz⟩ := hs (by decide +kernel : (own.sendDie (farDie 0) 2 (seaTx 5 0)).isSome = true)
  refine ⟨⟨sea, pendingOp farAcq, farAcq, _, 1, 2 ^ 40 + 4096, _, rfl, rfl, by decide +kernel, by decide +kernel, rfl, rfl, rfl, by decide +kernel, sea_mates, rfl, by decide⟩,
    ⟨crossed 0, thr, farAcq, seaCross 0, rfl, by decide⟩, ⟨own, y, (seaCross 0, seaTx 5 0), hy⟩,
    ⟨{ fill := [(1, List.replicate 240 0)] }, [0], by decide +kernel, by decide⟩, ⟨{}, [], by decide⟩, ⟨{}, List.replicate 240 0, by decide +kernel⟩,
    ⟨own, z, 0, 2, seaTx 5 0, by decide +kernel, by decide, hz⟩, ⟨own, 0, 1, seaTx 5 0, by decide +kernel, by decide, by decide +kernel⟩,
    List.forall_mem_cons.2 ⟨⟨crossed 0, 0, 1, seaTx 5 0, seaCross 0, by decide +kernel⟩, List.forall_mem_singleton.2 ⟨crossed 2, 1, 0, seaTx 0x10 1, seaCross 2, by decide +kernel⟩⟩,
    ⟨{ own with map := { own.map with units := own.map.units.set 328 (3, 0) } }, by decide +kernel⟩, ⟨own, by decide +kernel, by decide +kernel⟩,
    fun c _ => ⟨withEv (onWire flit0) 0 0 c, flit0, by simp only [withEv, onWire, linked]; decide +kernel, (by decide +kernel : (onWire flit0).nextFlit 0 = some flit0), rfl⟩,
    ⟨own, 0, 1, by decide, by decide +kernel⟩, ⟨lastModule flit0 1, 0, by decide +kernel⟩, ⟨own, rfl, by decide⟩, withEv own 0 1 0, by decide, by decide⟩
def hostAtom0 : HostAtom :=
  { id := 70, fg := 1, lane := 0, uid := 5, asid := 5, buf := 0, ea := 0, bus := 0, op := 0, at_ := 0, x := 1, y := 0, ord := 0, sc := 0, red := false, vf := 1 }
def hosting (h : HostAtom) (a b : Nat) (t : Nat := 0) : State := { withEv (linked { hostAtoms := [h] }) a b 0 with ctl := { devTime := t } }
/-- A private page, withdrawn while a job of its context still reads a chunk of it. -/
def ats0 : Ats := { id := 80, bus := 0, size := 4096, priv := true, startNs := 0, chunks := [(40, 0, 0)] }
def withdrawing (a : Ats) (t : Nat) : State :=
  { withEv (linked { ats := [a] }) 80 0 0 with eng := { jobs := [{ job0 with state := .running }] }, ctl := { devTime := t } }
def vf1 : Vf := { num := 1 }
def functions (v : Vf) (b c : Nat) (x : DWord) (a : Nat := 0) : State := withEv (linked { vfs := [v], evWait := [(1, [])] }) a b c x
theorem test_meets_HostEvents :
    (∀ b ∈ [0x60008, 0x10, 0x18], ∃ (s : State), s.ev.a = 0 ∧ s.ev.b = b) ∧
    (∀ a ∈ [0, 1], ∃ (s : State) (v : Vf), s.ev.a = a ∧ s.ev.b = 0x62000 ∧ s.vf? (64 * s.ev.a) = some v) ∧
    (∃ (s : State) (q : Queue), s.ev.a = 0 ∧ s.ev.b < 0x18000 ∧ 0x10000 ≤ s.ev.b ∧ s.ev.b % 32 = 8 ∧ s.queue? ((s.ev.b - 0x10000) / 32) = some q) ∧
    (∀ b ∈ [0x400, 0x480, 0x498], ∃ (s : State) (v : Vf), s.ev.a = 2 ∧ s.vf? s.ev.c = some v ∧ v.tenant = true ∧ s.vfOff v = false ∧ s.ev.b = b) ∧
    (∃ (s : State) (v : Vf), s.ev.a = 2 ∧ s.vf? s.ev.c = some v ∧ v.tenant = true ∧ s.vfOff v = true) ∧
    (∀ b ∈ [0, 1, 2, 3], ∃ (s : State) (h : HostAtom), s.links.hostAtoms.find? (fun h => h.id = s.ev.a && h.st = 0) = some h ∧ s.ev.b = b) ∧
    (∀ e ∈ [(2, 0), (2, 1), (3, 0)], ∃ (s : State) (h : HostAtom), s.links.hostAtoms.find? (fun h => h.vf = s.ev.a && (h.st = 2 || h.st = 3) && h.seq = field s.ev.data 0 4) = some h ∧
      h.st = e.1 ∧ field s.ev.data 4 4 = e.2) ∧
    (∀ t ∈ [9999999, 10000000], ∃ (s : State) (h : HostAtom), s.links.hostAtoms.find? (fun h => h.id = s.ev.a && h.st = 2) = some h ∧ h.startNs = 0 ∧ s.ctl.devTime = t) ∧
    (∀ t ∈ [99999, 100000], ∃ (s : State) (a : Ats) (c : Nat × Nat × Nat) (j : Job), s.atsSweep.links.ats.find? (fun a => a.id = s.ev.a) = some a ∧ a.priv = true ∧ a.startNs = 0 ∧
      s.ctl.devTime = t ∧ s.atsSweep.atsLeft a = [c] ∧ s.atsSweep.eng.jobs.find? (fun j => j.id = c.1) = some j) ∧
    (∃ (s : State), s.ev.b = 1) ∧
    (∃ (s x : State) (ps : List Piece), s.ev.b ≠ 1 ∧ s.check 256 s.ev.c .wr (s.ev.a % 2 ^ 48) s.ev.data.length = (x, .ok ps) ∧ (∀ p ∈ ps, p.leaf.kind ≠ 1) ∧ ∀ p ∈ ps, x.pieceHeld p = false) ∧
    (∃ (s : State) (v : Vf), s.vf? s.ev.a = some v ∧ s.health.novig = true) ∧
    (∀ e ∈ [(0, 3), (3, 3), (0, 2)], ∃ (s : State) (v : Vf), s.vf? s.ev.a = some v ∧ s.health.novig = false ∧ v.state = e.1 ∧
      Vf.state { v with entry := s.ev.v &&& 0x000003FF00000003#64 } = e.2 ∧ v.tenant = true ∧ s.ev.b < 4) ∧
    (∀ e ∈ [(false, 0, true), (true, 3, true), (true, 2, true), (true, 2, false)], ∃ (s : State) (w : Nat × List Byte) (v : Vf), s.links.evWait.find? (fun w => w.1 = s.ev.a) = some w ∧
      s.vf? s.ev.a = some v ∧ v.evrEn = e.1 ∧ v.state = e.2.1 ∧ v.evrRoom = e.2.2) := by
  refine ⟨fun b _ => ⟨withEv own 0 b 0, rfl, rfl⟩, fun a h => ⟨withEv (linked { vfs := [{ num := 64 * a }] }) a 0x62000 0, { num := 64 * a }, rfl, rfl, by simp at h; rcases h with rfl | rfl <;> rfl⟩, ⟨{ withEv own 0 0x10008 0 with sched := { queues := [{ num := 0 }] } }, _, rfl, by decide, by decide, by decide, rfl⟩,
    fun b _ => ⟨functions vf1 b 1 0 2, vf1, rfl, rfl, rfl, rfl, rfl⟩,
    ⟨{ functions vf1 0 1 0 2 with health := { novig := true } }, vf1, rfl, rfl, rfl, by decide +kernel⟩, fun b _ => ⟨hosting hostAtom0 70 b, hostAtom0, rfl, rfl⟩, ?_,
    fun t _ => ⟨hosting { hostAtom0 with st := 2 } 70 0 t, _, rfl, rfl, rfl⟩, ?_, ⟨withEv own 0 1 0, rfl⟩, ?_, ⟨{ functions vf1 0 0 0 1 with health := { novig := true } }, vf1, rfl, rfl⟩, ?_, ?_⟩
  · let s (st e : Nat) : State := { hosting { hostAtom0 with st := st } 1 0 with ev := { a := 1, data := toBytes 8 (2 ^ 32 * e) } }
    exact List.forall_mem_cons.2 ⟨⟨s 2 0, _, rfl, rfl, by decide⟩, List.forall_mem_cons.2 ⟨⟨s 2 1, _, rfl, rfl, by decide⟩, List.forall_mem_singleton.2 ⟨s 3 0, _, rfl, rfl, by decide⟩⟩⟩
  · exact List.forall_mem_cons.2 ⟨⟨withdrawing ats0 99999, ats0, (40, 0, 0), _, by decide +kernel, rfl, rfl, rfl, by decide +kernel, rfl⟩,
      List.forall_mem_singleton.2 ⟨withdrawing ats0 100000, ats0, (40, 0, 0), _, by decide +kernel, rfl, rfl, rfl, by decide +kernel, rfl⟩⟩
  · let s : State := { ctlOwn [] [] with ev := { c := 5, data := [1, 2, 3, 4] } }
    exact ⟨s, s, [onPage (0, 4)], by decide, (check_page (s := s) .wr 0 4 rfl (by decide)).1, by simp [onPage, page], by simp [onPage, page, State.pieceHeld, Leaf.parity]⟩
  · let s (o n : Nat) : State := functions { vf1 with entry := BitVec.ofNat 64 o } 0 0 (BitVec.ofNat 64 n) 1
    exact List.forall_mem_cons.2 ⟨⟨s 0 3, _, rfl, rfl, by decide, by decide, rfl, by decide⟩, List.forall_mem_cons.2 ⟨⟨s 3 3, _, rfl, rfl, by decide, by decide, rfl, by decide⟩,
      List.forall_mem_singleton.2 ⟨s 0 2, _, rfl, rfl, by decide, by decide, rfl, by decide⟩⟩⟩
  · let s (e : Bool) (st t : Nat) : State := functions { vf1 with evrEn := e, entry := BitVec.ofNat 64 st, evrTail := t } 0 0 0 1
    exact List.forall_mem_cons.2 ⟨⟨s false 0 0, _, _, rfl, rfl, rfl, by decide, by decide⟩, List.forall_mem_cons.2 ⟨⟨s true 3 0, _, _, rfl, rfl, rfl, by decide, by decide⟩,
      List.forall_mem_cons.2 ⟨⟨s true 2 0, _, _, rfl, rfl, rfl, by decide, by decide⟩, List.forall_mem_singleton.2 ⟨s true 2 16, _, _, rfl, rfl, rfl, by decide, by decide⟩⟩⟩⟩

/-! ### The machine -/

def isNext : Host.Outcome State Fault Refusal → Bool | .next _ => true | _ => false
theorem next_of {o : Host.Outcome State Fault Refusal} (h : isNext o = true) : ∃ t, o = .next t := by cases o <;> first | exact ⟨_, rfl⟩ | cases h
/-- MOV.S of 5 into v3 is the first step after reset. -/
theorem test_step_after_reset : isNext (step (State.reset.withFetchWord 32 587300933)) = true := by decide +kernel
theorem test_meets_MemoryInvariant : ∃ s t : State, Memory.wf s.mem.phys = true ∧ Memory.wf s.mem.host = true ∧ step s = .next t :=
  ⟨_, (next_of test_step_after_reset).choose, by decide +kernel, by decide +kernel, (next_of test_step_after_reset).choose_spec⟩
theorem test_meets_EncodeDecode : (∃ i : Instr, i.wf = true) ∧ ∃ w r i r', decode (w :: r) = .ok (i, r') :=
  ⟨⟨.add fA, by decide⟩, 0xAE818100, [0x80000180], .scan { d := 3, a := 2, fn := 0, ib := 0, ic := 0, gn := 1, gp := 0, b := 0, c := 0, ty := 6, rm := 0, st := 0, u := 0 }, [],
    rfl⟩
/-- The path of context 5 about to issue an instruction of a clause, and what is to act. -/
def addClause : List Word := 0xA0000200 :: encode (.add { fA with ty := 6 })
def issuing (a : Act) (words : List Word) : State := { own with paths := [{ pth with words := words }], agenda := [a] }
/-- The group has given up its slot, and another group of the unit can issue. -/
def yielding : State :=
  let s := issuing (.issue 3) addClause
  { s with yields := [(1, 0)], fgs := [grp, { grp with id := 9 }], threads := [thr, { thr with fg := 9 }]
           paths := [{ pth with words := addClause }, { pth with id := 4, fg := 9, words := addClause }] }
/-- Two paths of one lane group, each about to issue an ADD. -/
def mates : State :=
  { issuing (.pair 3 4) addClause with
    threads := [thr, { thr with lane := 1 }], fgs := [{ grp with n := 2, m := List.replicate 12 3 }]
    paths := [{ pth with words := addClause }, { pth with id := 4, lanes := [1], words := addClause }] }
/-- The same two paths at a SHFL, for which the second waits: the last instruction of its clause, or not. -/
def shflClause (n : Nat) : List Word := (0xA0000000 + BitVec.ofNat 32 (256 * n)) :: encode (.shfl { fA with ty := 6 })
def shflMates (n : Nat) : State :=
  { mates with
    insts := [{ id := 20, fg := 1, pc := 0x1000, lanes := [0, 1], m := List.replicate 12 3, living := [0, 1] }]
    paths := [{ pth with words := shflClause n, inst := some 20 }, { pth with id := 4, lanes := [1], words := shflClause n, inst := some 20, waiting := true }] }
/-- After `i` at `x`, the path `l` can issue in the same cycle and its instruction is performed. -/
def mateOk (x : State) (l : Nat) : Host.Outcome State Fault Refusal → Bool
  | .next a =>
    match a.paths.find? fun q => q.id = l with
    | some q =>
      match (a.withRegs q.fg x).pick l, clauseInstr q.words q.idx with
      | .issue j b, some (i, _) =>
        match exec j b with
        | .next c => decide (q.idx = 1) && decide (i = j) && (c.fg? q.fg).isSome && (a.fg? q.fg).isSome
        | _ => false
      | _, _ => false
    | none => false
  | _ => false
theorem mate_of {x : State} {l : Nat} {o : Host.Outcome State Fault Refusal} (h : mateOk x l o = true) :
    ∃ (a : State) (q : Path) (j : Instr) (m : Nat) (b c : State) (g f : FileGroup), o = .next a ∧ a.paths.find? (fun q => q.id = l) = some q ∧ q.idx = 1 ∧
      (a.withRegs q.fg x).pick l = .issue j b ∧ clauseInstr q.words q.idx = some (j, m) ∧ exec j b = .next c ∧ c.fg? q.fg = some g ∧ a.fg? q.fg = some f := by
  obtain a | _ | _ := o
  · unfold mateOk at h
    dsimp only at h
    split at h
    · rename_i q hq
      split at h
      · rename_i j b i m hp hc
        split at h
        · rename_i c he
          simp only [Bool.and_eq_true, decide_eq_true_eq] at h
          obtain ⟨⟨⟨hi, h1⟩, h2⟩, h3⟩ := h
          obtain ⟨g, hg⟩ := Option.isSome_iff_exists.1 h2
          obtain ⟨f, hf⟩ := Option.isSome_iff_exists.1 h3
          exact ⟨a, q, j, m, b, c, g, f, rfl, hq, hi, hp, h1 ▸ hc, he, hg, hf⟩
        · cases h
      · cases h
    · cases h
  · cases h
  · cases h
theorem chosen_one {s : State} {a : Act} {p : Path} (ha : s.agenda = [a]) (hw : p.words.isEmpty = false) (hp : p.waiting = false)
    (hd : (p.lanes.all fun l => match s.thread? p.fg l with | some t => t.due.isEmpty | none => true) = true)
    (hb : (p.lanes.all fun l => match s.thread? p.fg l with | some t => !(State.toHead { s.tick with agenda := [] } p).boundaryDue t | none => true) = true)
    (hr : s.ready p = true) : Chosen s a [] p := by
  have each {f : Thread → Bool} (h : (p.lanes.all fun l => match s.thread? p.fg l with | some t => f t | none => true) = true) {l : Nat} (hl : l ∈ p.lanes)
      {t : Thread} (ht : s.thread? p.fg l = some t) : f t = true := by
    have h := List.all_eq_true.1 h l hl
    rwa [ht] at h
  exact ⟨ha, (by intro h; rw [h] at hw; cases hw), hp, fun l hl t ht => List.isEmpty_iff.1 (each hd hl ht),
    .inr fun l hl t ht => by simpa using each (f := fun t => !(State.toHead { s.tick with agenda := [] } p).boundaryDue t) hb hl ht, hr⟩
theorem test_meets_StepRuns :
    (∀ y ∈ [false, true], ∃ (s : State) (k : Nat) (r : List Act) (p : Path) (i : Instr) (n : Nat), Chosen s (.issue k) r p ∧
      s.paths.find? (fun p => p.id = k) = some p ∧ clauseInstr p.words p.idx = some (i, n) ∧ s.mustYield p = y) ∧
    (∀ i ∈ [Instr.ld fM, .st fM, .add { fA with ty := 6 }], ∃ (s : State) (k : Nat) (r : List Act) (p : Path) (n : Nat), Chosen s (.defer k) r p ∧
      s.paths.find? (fun p => p.id = k) = some p ∧ clauseInstr p.words p.idx = some (i, n) ∧ s.mustYield p = false) ∧
    (let first := fun (s : State) (l : Nat) (p q0 : Path) (a : State) => ∃ k r i n, Chosen s (.pair k l) r p ∧ s.paths.find? (fun p => p.id = k) = some p ∧
       s.paths.find? (fun q => q.id = l) = some q0 ∧ p.fg = q0.fg ∧ p.lg = q0.lg ∧ p.id ≠ q0.id ∧ p.pc.toNat ≤ q0.pc.toNat ∧ clauseInstr p.words p.idx = some (i, n) ∧ s.mustYield p = false ∧ exec i (chosenAt s r p) = .next a
     (∃ (s : State) (l : Nat) (p q0 : Path) (a : State), first s l p q0 a ∧ a.paths.find? (fun q => q.id = l) = none) ∧
     (∃ (s : State) (l : Nat) (p q0 : Path) (a : State) (q : Path), first s l p q0 a ∧ a.paths.find? (fun q => q.id = l) = some q ∧ q.idx ≠ q0.idx) ∧
     (∃ (s : State) (l : Nat) (p q0 : Path) (a : State) (q : Path) (j : Instr) (m : Nat) (b c : State) (g h : FileGroup), first s l p q0 a ∧
       a.paths.find? (fun q => q.id = l) = some q ∧ q.idx = q0.idx ∧ (a.withRegs q.fg (chosenAt s [] p)).pick l = .issue j b ∧ clauseInstr q.words q.idx = some (j, m) ∧
       exec j b = .next c ∧ c.fg? q.fg = some g ∧ a.fg? q.fg = some h)) ∧
    (let two := fun (s : State) (k l : Nat) (p q : Path) => s.paths.find? (fun p => p.id = k) = some p ∧ s.paths.find? (fun q => q.id = l) = some q ∧ p.id ≠ q.id
     (∃ s k l p q, two s k l p q ∧ (p.fg = q.fg ∧ p.lg = q.lg) ∧ q.pc.toNat < p.pc.toNat) ∧ (∃ s k l p q, two s k l p q ∧ ¬(p.fg = q.fg ∧ p.lg = q.lg))) ∧
    (∃ i : Instr, i.wf = true) ∧
    (∃ (s : State) (nbits w : Nat) (i : Instr), decodeTableWord nbits w = some i ∧ (∀ p ∈ s.paths, p.id ≠ s.uid) ∧ (∀ t ∈ s.threads, t.fg ≠ s.uid) ∧ ∀ y ∈ s.yields, y.1 ≠ s.uid) ∧
    (∃ (s : State) (i : Instr) (a : EvArg) (r : List Act), s.agenda = .ev i a :: r ∧ i.isEvent = true) := by
  have one : Chosen (issuing (.issue 3) addClause) (.issue 3) [] { pth with words := addClause } := chosen_one rfl rfl rfl rfl (by decide +kernel)
    (by decide +kernel : (issuing (.issue 3) addClause).ready { pth with words := addClause } = true)
  refine ⟨List.forall_mem_cons.2 ⟨⟨issuing (.issue 3) addClause, 3, [], _, .add { fA with ty := 6 }, 1, one, rfl, by decide +kernel, by decide +kernel⟩,
      List.forall_mem_singleton.2 ⟨yielding, 3, [], { pth with words := addClause }, .add { fA with ty := 6 }, 1, chosen_one rfl rfl rfl rfl (by decide +kernel) (by decide +kernel), rfl,
        by decide +kernel, by decide +kernel⟩⟩, ?_, ⟨?_, ?_, ?_⟩,
    ⟨⟨{ mates with paths := [{ pth with pc := 0x2000 }, { pth with id := 4 }] }, 3, 4, _, _, ⟨rfl, rfl, by decide⟩, ⟨rfl, rfl⟩, by decide⟩,
      yielding, 3, 4, _, _, ⟨rfl, rfl, by decide⟩, by decide⟩, ⟨.add fA, by decide⟩,
    ⟨State.reset, 32, 587300933, _, (by decide +kernel : decodeTableWord 32 587300933 = some (.movS { d := 3, a := 0, z := 1, i := 5 })), by decide, by decide, by decide⟩,
    { own with agenda := [.ev .moduleReset {}] }, .moduleReset, {}, [], rfl, rfl⟩
  · have hs (ws : List Word) (h : (issuing (.defer 3) ws).ready { pth with words := ws } = true) (hw : ws.isEmpty = false)
        (hb : ([0].all fun l => match (issuing (.defer 3) ws).thread? 1 l with
          | some t => !(State.toHead { (issuing (.defer 3) ws).tick with agenda := [] } { pth with words := ws }).boundaryDue t | none => true) = true) :
        Chosen (issuing (.defer 3) ws) (.defer 3) [] { pth with words := ws } := chosen_one rfl hw rfl rfl hb h
    exact List.forall_mem_cons.2 ⟨⟨issuing (.defer 3) (0xA0000200 :: encode (.ld fM)), 3, [], _, 1, hs _ (by decide +kernel) rfl (by decide +kernel), rfl, by decide +kernel, by decide +kernel⟩,
      List.forall_mem_cons.2 ⟨⟨issuing (.defer 3) (0xA0000200 :: encode (.st fM)), 3, [], _, 1, hs _ (by decide +kernel) rfl (by decide +kernel), rfl, by decide +kernel, by decide +kernel⟩,
        List.forall_mem_singleton.2 ⟨issuing (.defer 3) addClause, 3, [], _, 1, hs _ (by decide +kernel) rfl (by decide +kernel), rfl, by decide +kernel, by decide +kernel⟩⟩⟩
  · obtain ⟨a, h⟩ := next_of (o := exec (.shfl { fA with ty := 6 }) (chosenAt (shflMates 1) [] { pth with words := shflClause 1, inst := some 20 })) (by decide +kernel)
    have hn : (match exec (.shfl { fA with ty := 6 }) (chosenAt (shflMates 1) [] { pth with words := shflClause 1, inst := some 20 }) with
      | .next a => (a.paths.find? fun q => q.id = 4).isNone | _ => false) = true := by decide +kernel
    rw [h] at hn
    exact ⟨shflMates 1, 4, _, _, a, ⟨3, [], _, 1, chosen_one rfl rfl rfl rfl (by decide +kernel) (by decide +kernel), rfl, rfl, rfl, rfl, by decide, by decide,
      by decide +kernel, by decide +kernel, h⟩, Option.isNone_iff_eq_none.1 hn⟩
  · obtain ⟨a, h⟩ := next_of (o := exec (.shfl { fA with ty := 6 }) (chosenAt (shflMates 2) [] { pth with words := shflClause 2, inst := some 20 })) (by decide +kernel)
    have hn : (match exec (.shfl { fA with ty := 6 }) (chosenAt (shflMates 2) [] { pth with words := shflClause 2, inst := some 20 }) with
      | .next a => (match a.paths.find? fun q => q.id = 4 with | some q => decide (q.idx ≠ 1) | none => false) | _ => false) = true := by decide +kernel
    rw [h] at hn
    dsimp only at hn
    split at hn
    · rename_i q hq
      exact ⟨shflMates 2, 4, _, _, a, q, ⟨3, [], _, 1, chosen_one rfl rfl rfl rfl (by decide +kernel) (by decide +kernel), rfl, rfl, rfl, rfl, by decide, by decide,
        by decide +kernel, by decide +kernel, h⟩, hq, of_decide_eq_true hn⟩
    · cases hn
  · obtain ⟨a, q, j, m, b, c, g, f, h, hq, hi, hr⟩ := mate_of (x := chosenAt mates [] { pth with words := addClause }) (l := 4)
      (o := exec (.add { fA with ty := 6 }) (chosenAt mates [] { pth with words := addClause })) (by decide +kernel)
    exact ⟨mates, 4, _, _, a, q, j, m, b, c, g, f, ⟨3, [], _, 1, chosen_one rfl rfl rfl rfl (by decide +kernel) (by decide +kernel), rfl, rfl, rfl, rfl, by decide, by decide,
      by decide +kernel, by decide +kernel, h⟩, hq, hi, hr⟩

end Sys2Proof.Tests
end

section
/-! SUPPORT. The resource map: what a published change does to the rest of the state (spec/01_machine.md R22 to R26). -/
namespace Sys2Proof.Machine

/-! ### The unit entries (R24) -/

theorem closeUnits_length (old us : List (Nat × Nat)) : (closeUnits old us).length = us.length := List.length_mapIdx
/-- Only a slice that takes state 3 anew takes cores with it. -/
theorem closeUnits_self (us : List (Nat × Nat)) : closeUnits us us = us := by
  refine List.mapIdx_eq_iff.2 fun i => ?_
  cases us[i]? with
  | none => rfl
  | some u =>
    refine congrArg some (if_neg ?_).symm
    simp only [Bool.and_eq_true, decide_eq_true_eq]
    exact fun ⟨⟨⟨_, now⟩, old⟩, _⟩ => old now

/-! ### Blocks that stop (R353, R416) -/

/-- A resident block that is meant stops, and with it whatever bears its number. -/
theorem State.stopBlocks_place {s : State} {w : Block → Bool} {b b0 : Block} (hb : b ∈ (s.stopBlocks w).blocks) (h0 : b0 ∈ s.blocks)
    (hid : b0.id = b.id) (hr : b0.place = .resident) (hw : w b0 = true) : b.place = .stopping := by
  obtain ⟨c, _, rfl⟩ := List.mem_map.1 hb
  have named : ((s.blocks.filter fun b => w b && b.place = .resident).map (·.id)).contains b0.id = true := by
    simp only [List.contains_iff_mem, List.mem_map, List.mem_filter]
    exact ⟨b0, ⟨h0, by simp [hw, hr]⟩, rfl⟩
  split
  · rfl
  · rename_i out
    rw [if_neg out] at hid
    exact absurd (hid ▸ named) out

/-! ### Publication (R25, R26, R102) -/

/-- The cores that the unit entries `us` take out of the map. -/
def State.coresLost (s : State) (us : List (Nat × Nat)) : List Nat :=
  (List.range 256).filter fun c => s.map.coreLive c && (us.getD c (0, 0)).1 ≥ 2
/-- What a new version of the map does to a resident context: a milestone, and a grace period that starts anew. -/
def State.atMilestone (s : State) (c : Ctx) : Ctx :=
  if c.state = 1 then
    { c with
      milePending := true
      grace := if c.grace.isSome || !(s.blocks.any fun b => b.asid = c.asid && b.run = 0) then some (s.ctl.cycle + s.ctl.rmapGrace) else none }
  else c
/-- A record as it waits for its ring (R100). -/
def State.stamped (s : State) (r : OprRec) : OprRec := { r with time := s.ctl.devTime, die := if r.core = 0xFFFF then 0 else r.die }
/-- Records to the operator: they wait, and nothing else changes. -/
theorem foldl_record {α : Type} (f : α → OprRec) (l : List α) : ∀ s : State, l.foldl (fun s c => s.record (f c)) s =
    { s with opr := { s.opr with waiting := s.opr.waiting ++ l.map (s.stamped ∘ f) } } := by
  induction l with
  | nil => intro s; simp
  | cons c l ih => intro s; rw [List.foldl_cons, ih]; simp [State.record, State.stamped, Function.comp_def]
/-- A new version of the map, before the operator hears of it and blocks stop. -/
def State.advanced (s : State) (us : List (Nat × Nat)) : State :=
  { s with
    map := { s.map with units := us, version := s.map.version + 1 }
    ctl := { s.ctl with pubTime := some s.ctl.devTime }
    health := { s.health with storedVersion := s.map.version + 1 }
    ctxs := s.ctxs.map s.atMilestone }
/-- The record of a milestone (R100, R102). -/
def mileRecord (c : Ctx) : OprRec := { die := 0, code := 0xB001, asid := c.asid }
/-- A new version, and the operator's records of it. -/
def State.announced (s : State) (us : List (Nat × Nat)) : State :=
  ((s.advanced us).ctxs.filter fun c => c.state = 1).foldl (fun s c => s.record (mileRecord c)) (s.advanced us)
/-- The new map before blocks stop: the first of its tick of the device clock, or a further one of the same version (R25). -/
def State.remapped (s : State) (us : List (Nat × Nat)) : State :=
  if s.ctl.pubTime = some s.ctl.devTime then { s with map := { s.map with units := us } } else s.announced us
/-- A new map; then the blocks of lost cores stop. -/
theorem State.newMap_eq (s : State) (us : List (Nat × Nat)) : s.newMap us =
    if (s.coresLost us).isEmpty then s.remapped us else (s.remapped us).stopBlocks fun b => (s.coresLost us).contains b.core := rfl
theorem State.atMilestone_state (s : State) (c : Ctx) : (s.atMilestone c).state = c.state := by unfold State.atMilestone; split <;> rfl
theorem State.atMilestone_asid (s : State) (c : Ctx) : (s.atMilestone c).asid = c.asid := by unfold State.atMilestone; split <;> rfl
/-- The milestone leaves which contexts are resident, so that each of them has one record. -/
theorem State.announced_eq (s : State) (us : List (Nat × Nat)) : s.announced us =
    { s.advanced us with
      opr := { s.opr with
        waiting := s.opr.waiting ++ (s.ctxs.filter fun c => c.state = 1).map (s.stamped ∘ mileRecord) } } := by
  have resident : ((s.advanced us).ctxs.filter fun c => c.state = 1) = (s.ctxs.filter fun c => c.state = 1).map s.atMilestone := by
    simp [State.advanced, List.filter_map, Function.comp_def, State.atMilestone_state]
  unfold State.announced
  rw [resident, foldl_record, List.map_map]
  simp only [Function.comp_def, mileRecord, State.atMilestone_asid]
  rfl

theorem State.remapped_again {s : State} (us : List (Nat × Nat)) (h : s.ctl.pubTime = some s.ctl.devTime) :
    s.remapped us = { s with map := { s.map with units := us } } := if_pos h
theorem State.remapped_first {s : State} (us : List (Nat × Nat)) (h : s.ctl.pubTime ≠ some s.ctl.devTime) :
    s.remapped us = { s.advanced us with
      opr := { s.opr with
        waiting := s.opr.waiting ++ (s.ctxs.filter fun c => c.state = 1).map (s.stamped ∘ mileRecord) } } := (if_neg h).trans (s.announced_eq us)
theorem State.remapped_units (s : State) (us : List (Nat × Nat)) : (s.remapped us).map.units = us := by
  by_cases h : s.ctl.pubTime = some s.ctl.devTime
  · rw [State.remapped_again us h]
  · rw [State.remapped_first us h]; rfl
theorem State.remapped_blocks (s : State) (us : List (Nat × Nat)) : (s.remapped us).blocks = s.blocks := by
  by_cases h : s.ctl.pubTime = some s.ctl.devTime
  · rw [State.remapped_again us h]
  · rw [State.remapped_first us h]; rfl

/-! ### What a new map leaves -/

theorem State.newMap_fields (s : State) (us : List (Nat × Nat)) :
    (s.newMap us).map = (s.remapped us).map ∧ (s.newMap us).ctxs = (s.remapped us).ctxs ∧
    (s.newMap us).opr = (s.remapped us).opr ∧ (s.newMap us).health = (s.remapped us).health := by
  rw [State.newMap_eq]
  split <;> exact ⟨rfl, rfl, rfl, rfl⟩
/-- A resident block of a core that leaves the map stops. -/
theorem State.newMap_place {s : State} {us : List (Nat × Nat)} {b b0 : Block} (hb : b ∈ (s.newMap us).blocks) (h0 : b0 ∈ s.blocks)
    (hid : b0.id = b.id) (hr : b0.place = .resident) (hc : b0.core ∈ s.coresLost us) : b.place = .stopping := by
  rw [State.newMap_eq, if_neg (by simpa using List.ne_nil_of_mem hc)] at hb
  exact State.stopBlocks_place hb (s.remapped_blocks us ▸ h0) hid hr (List.contains_iff_mem.2 hc)
theorem State.mem_coresLost {s : State} {us : List (Nat × Nat)} {c : Nat} (hc : c < 256) (hl : s.map.coreLive c = true)
    (hg : 2 ≤ (us.getD c (0, 0)).1) : c ∈ s.coresLost us :=
  List.mem_filter.2 ⟨List.mem_range.2 hc, by simp only [hl, Bool.true_and]; exact decide_eq_true hg⟩
theorem State.publish_same {s : State} {us : List (Nat × Nat)} (h : closeUnits s.map.units us = s.map.units) : s.publish us = s := if_pos h
theorem State.publish_new {s : State} {us : List (Nat × Nat)} (h : closeUnits s.map.units us ≠ s.map.units) :
    s.publish us = s.newMap (closeUnits s.map.units us) := if_neg h
theorem State.publish_self (s : State) : s.publish s.map.units = s := State.publish_same (closeUnits_self _)

/-! ### Entries that describe no unit (R22) -/

theorem ResMap.entry_unused (m : ResMap) {k : Nat} (h : 380 ≤ k) : m.entry k = 0 := by
  unfold ResMap.entry
  rw [if_neg (by omega), if_neg (by omega)]

end Sys2Proof.Machine
end

section
/-! SUPPORT. Health: reset, firmware, units that fail, suspicion and poison (spec/20_health.md R409 to R427). -/
namespace Sys2Proof.Machine

/-! ### The bytes that a reset clears (R422, R428) -/

theorem cellGet_absent {l : List Host.Cell} {a : Nat} (h : ∀ c ∈ l, c.1 ≠ a) : cellGet l a = 0 := by
  induction l with
  | nil => rfl
  | cons c r ih =>
    rw [cellGet, if_neg (Ne.symm (h c (.head _))), ih fun d hd => h d (.tail _ hd)]
    exact ite_self 0
/-- Of a canonical memory a filter by address leaves the bytes at the addresses that it keeps. -/
theorem cellGet_filter {l : List Host.Cell} {lo a : Nat} {p : Nat → Bool} (hw : Memory.wfFrom lo l = true) (ha : p a = true) :
    cellGet (l.filter fun c => p c.1) a = cellGet l a := by
  induction l generalizing lo with
  | nil => rfl
  | cons c r ih =>
    obtain ⟨k, v⟩ := c
    simp only [Memory.wfFrom, Bool.and_eq_true] at hw
    obtain ⟨_, hr⟩ := hw
    rw [List.filter_cons]
    by_cases hk : p k = true
    · rw [if_pos hk, cellGet, cellGet, ih hr]
    · have ne : a ≠ k := fun e => hk (e ▸ ha)
      rw [if_neg hk, cellGet, if_neg ne, ih hr]
      split
      · exact cellGet_below hr (by omega)
      · rfl

/-! ### Firmware (R421, R424 to R426) -/

theorem State.accepts_eq (s : State) (img : List Byte) : s.accepts img =
    ((Config.verifies Config.jexxiaKey img || (s.health.buyerKey.any fun k => Config.verifies k img)) && s.health.secCounter ≤ Config.fwSec img) := by
  unfold State.accepts
  cases s.health.buyerKey <;> rfl
theorem State.loadBank_accepted {s : State} (h : s.accepts s.health.bankA = true) : s.loadBank =
    { s with
      map := { s.map with fwLine := Config.fwLine s.health.bankA % 256 }
      health := { s.health with secCounter := Config.fwSec s.health.bankA } } := if_pos h
theorem State.loadBank_refused {s : State} (h : s.accepts s.health.bankA = false) :
    s.loadBank = { s with health := { s.health with novig := true } } := if_neg (by simp [h])
/-- Whether a control core that loads its firmware runs the image of bank A, and not the recovery image. -/
def State.boots (s : State) : Bool := !s.health.novig && s.accepts s.health.bankA
/-- The machine once it has loaded its firmware. -/
def State.booted (s : State) : State :=
  { s with
    map := { s.map with fwLine := if s.boots then Config.fwLine s.health.bankA % 256 else s.map.fwLine }
    health := { s.health with
      secCounter := if s.boots then Config.fwSec s.health.bankA else s.health.secCounter
      novig := !s.boots } }
/-- A machine that already runs the recovery image loads nothing. -/
theorem State.boot_eq (s : State) : (if s.health.novig then s else s.loadBank) = s.booted := by
  unfold State.booted
  cases hn : s.health.novig with
  | true =>
    have no : s.boots = false := by rw [State.boots, hn]; rfl
    have recovery : ({ s.health with novig := true } : Health) = s.health := by rw [← hn]
    simp only [no, if_true, Bool.false_eq_true, if_false, Bool.not_false, recovery]
  | false =>
    rw [if_neg Bool.false_ne_true]
    cases ha : s.accepts s.health.bankA with
    | true =>
      have yes : s.boots = true := by rw [State.boots, hn, ha]; rfl
      rw [State.loadBank_accepted ha, yes]
      simp only [if_true, Bool.not_true, hn]
    | false =>
      have no : s.boots = false := by rw [State.boots, hn, ha]; rfl
      rw [State.loadBank_refused ha, no]
      rfl
theorem State.booted_novig (s : State) : s.booted.health.novig = !s.boots := rfl
theorem State.booted_firmware {s : State} (h : s.boots = true) :
    s.booted.map.fwLine = Config.fwLine s.health.bankA % 256 ∧ s.booted.health.secCounter = Config.fwSec s.health.bankA :=
  ⟨if_pos h, if_pos h⟩
/-- The blocks that are dropped are gone. -/
theorem State.dropBlocks_blocks {s : State} {w : Block → Bool} {b : Block} (hb : b ∈ (s.dropBlocks w).blocks) : w b = false := by
  obtain ⟨hs, hb⟩ := List.mem_filter.1 hb
  rw [Bool.eq_false_iff]
  intro hw
  have named : ((s.blocks.filter w).map (·.id)).contains b.id = true :=
    List.contains_iff_mem.2 (List.mem_map_of_mem (List.mem_filter.2 ⟨hs, hw⟩))
  exact absurd named (by simpa using hb)
theorem State.dropBlocks_boots (s : State) (w : Block → Bool) :
    (s.dropBlocks w).boots = (!s.health.novig && s.accepts s.health.bankA) := rfl
/-- A control core's restart drops its blocks and loads its firmware. -/
theorem State.restartCore_eq (s : State) (die : Nat) : s.restartCore die =
    let x := (s.dropBlocks fun b => b.core = 256 + die).booted
    { x with health := { x.health with restarts := Nat.min 255 (x.health.restarts + 1) } } := by
  rw [← State.boot_eq]
  rfl

/-! ### Reset (R25, R416, R422 to R424, R426) -/

theorem failLane_length (us : List (Nat × Nat)) (core unit lane : Nat) : (failLane us core unit lane).length = us.length := by
  unfold failLane
  simp only [apply_ite List.length, List.length_set, ite_self]
theorem applyTest_length (us : List (Nat × Nat)) (r : List Byte) : (applyTest us r).length = us.length := by
  unfold applyTest
  simp only [apply_ite List.length, List.length_modify, failLane_length, ite_self]
theorem foldl_applyTest_length (tests : List (List Byte)) : ∀ us : List (Nat × Nat), (tests.foldl applyTest us).length = us.length := by
  induction tests with
  | nil => exact fun _ => rfl
  | cons r tests ih => exact fun us => (ih _).trans (applyTest_length us r)
/-- The cores `qs` take state 2, as quarantine has them at a reset. -/
def quarantined (qs : List Nat) (us : List (Nat × Nat)) : List (Nat × Nat) :=
  qs.foldl (fun us c => us.modify c fun u => (2, u.2)) us
theorem modify_quarantine_state (us : List (Nat × Nat)) (q c : Nat) : ((us.modify q fun u => (2, u.2))[c]?).map (·.1) =
    if q = c then us[c]?.map fun _ => 2 else us[c]?.map (·.1) := by
  rw [List.getElem?_modify]
  split <;> cases us[c]? <;> rfl
theorem quarantined_state {qs : List Nat} {c : Nat} : ∀ us : List (Nat × Nat), c < us.length →
    (c ∈ qs ∨ us[c]?.map (·.1) = some 2) → (quarantined qs us)[c]?.map (·.1) = some 2 := by
  induction qs with
  | nil => exact fun us _ h => h.resolve_left (by simp)
  | cons q qs ih =>
    intro us hc h
    refine ih _ (by rwa [List.length_modify]) ?_
    rw [modify_quarantine_state]
    by_cases e : q = c
    · exact .inr (by rw [if_pos e, List.getElem?_eq_getElem hc]; rfl)
    · rw [if_neg e]
      exact h.imp_left fun m => (List.mem_cons.1 m).resolve_left (Ne.symm e)
/-- The unit entries after a self-test (R422 to R424). -/
def testedUnits (tests : List (List Byte)) : List (Nat × Nat) := closeUnits goodUnits (tests.foldl applyTest goodUnits)
theorem testedUnits_length (tests : List (List Byte)) : (testedUnits tests).length = 379 := by
  rw [testedUnits, closeUnits_length, foldl_applyTest_length]
  decide +kernel
/-- Whether a reset keeps the byte at an address: it clears the operator's root entry and the dirty bitmaps (R207, R428). -/
def resetKeeps (a : Nat) : Bool := !((0x4000 ≤ a && a < 0x4010) || (0x400000 ≤ a && a < 0x600000))
theorem resetKeeps_iff (a : Nat) : resetKeeps a = true ↔ (a < 0x4000 ∨ 0x4010 ≤ a) ∧ (a < 0x400000 ∨ 0x600000 ≤ a) := by
  simp only [resetKeeps, Bool.not_eq_true', Bool.or_eq_false_iff, Bool.and_eq_false_iff, decide_eq_false_iff_not]
  omega
/-- A reset machine before its firmware is loaded. -/
def State.rebooted (s : State) (tests : List (List Byte)) (strap : Bool) : State :=
  { State.reset with
    map := { State.reset.map with units := quarantined s.health.quarantine (testedUnits tests), version := s.health.storedVersion + 1 }
    mem := { State.reset.mem with
      phys := s.mem.phys.filter fun c => resetKeeps c.1
      host := s.mem.host, hostBad := s.mem.hostBad, poison := s.mem.poison, scrub := s.mem.scrub }
    health := { s.health with
      shadowLog := [], selfTest := tests.take 256, restarts := 0, decodeEn := true, halfDue := [], sliceErrs := []
      storedVersion := s.health.storedVersion + 1, strap := strap, novig := strap, secretNo := s.fresh }
    ticks := s.ticks, fresh := s.fresh + 1, uid := s.uid, ev := s.ev, agenda := s.agenda }
theorem State.rebooted_boots (s : State) (tests : List (List Byte)) (strap : Bool) :
    (s.rebooted tests strap).boots = (!strap && s.accepts s.health.bankA) := rfl
theorem State.moduleReset_eq (s : State) (tests : List (List Byte)) (strap : Bool) :
    s.moduleReset tests strap = (s.rebooted tests strap).booted := State.boot_eq (s.rebooted tests strap)
theorem State.rebooted_quarantine {s : State} {c : Nat} (tests : List (List Byte)) (strap : Bool) (hc : c ∈ s.health.quarantine)
    (hlt : c < 256) : ((s.rebooted tests strap).map.unit (1 + c)).1 = 2 := by
  have h := quarantined_state (testedUnits tests) (by rw [testedUnits_length]; omega) (.inl hc)
  obtain ⟨u, hu, h2⟩ := Option.map_eq_some_iff.1 h
  unfold ResMap.unit
  rw [Nat.add_sub_cancel_left, List.getD_eq_getElem?_getD]
  exact (congrArg (fun o => (Option.getD o (3, 0)).1) hu).trans h2
theorem State.rebooted_cleared {s : State} {a : Nat} (tests : List (List Byte)) (strap : Bool) (ha : ¬resetKeeps a = true) :
    cellGet (s.rebooted tests strap).mem.phys a = 0 :=
  cellGet_absent fun _ hc e => ha (e ▸ (List.mem_filter.1 hc).2)
theorem State.rebooted_kept {s : State} {a : Nat} (tests : List (List Byte)) (strap : Bool) (hw : Memory.wf s.mem.phys = true)
    (ha : resetKeeps a = true) : cellGet (s.rebooted tests strap).mem.phys a = cellGet s.mem.phys a := cellGet_filter hw ha

/-! ### Service mode (R424 to R426) -/

theorem State.service_novig {s : State} (h : Health → Health) (hn : s.health.novig = true) :
    s.service h = { s with health := { h s.health with secCounter := s.health.secCounter + 1 } } := if_pos hn
theorem State.service_idle {s : State} (h : Health → Health) (hn : s.health.novig = false) : s.service h = s := if_neg (by simp [hn])

/-! ### Units that fail (R206, R415 to R417, R420) -/

/-- The spare of a SIMD unit is steered in. -/
theorem failLane_spare {us : List (Nat × Nat)} {core unit lane : Nat} (hu : (us.getD core (3, 0)).1 < 2) (hl : lane < 33)
    (hb : bits (us.getD core (3, 0)).2 (6 * unit) 6 = 63) :
    failLane us core unit lane = us.set core (1, setBits (us.getD core (3, 0)).2 (6 * unit) 6 lane) := by
  unfold failLane
  dsimp only
  rw [if_neg, if_pos hb]
  simp only [hb, Bool.or_eq_true, decide_eq_true_eq]
  omega
/-- A second lane of a SIMD unit takes its core out of the map. -/
theorem failLane_lost {us : List (Nat × Nat)} {core unit lane : Nat} (hu : (us.getD core (3, 0)).1 < 2)
    (hb : bits (us.getD core (3, 0)).2 (6 * unit) 6 ≠ 63) (hl : bits (us.getD core (3, 0)).2 (6 * unit) 6 ≠ lane) :
    failLane us core unit lane = us.set core (3, (us.getD core (3, 0)).2) := by
  unfold failLane
  dsimp only
  rw [if_neg, if_neg hb]
  simp only [Bool.or_eq_true, decide_eq_true_eq]
  omega
/-- Entry `n + 1` describes position `n` of the units. -/
theorem State.failUnit_entry (s : State) {m n : Nat} (h : m = n + 1) : s.failUnit m = s.publish (s.map.units.modify n fun u => (3, u.2)) := by
  rw [State.failUnit, h, Nat.add_sub_cancel]
theorem State.mem_poisonBlock (s : State) (pa b : Nat) :
    b ∈ (s.poisonBlock pa).mem.poison ↔ b ∈ s.mem.poison ∨ b = pa % 2 ^ 39 / 16 := by
  have e : (s.poisonBlock pa).mem.poison =
      if s.mem.poison.contains (pa % 2 ^ 39 / 16) then s.mem.poison else s.mem.poison ++ [pa % 2 ^ 39 / 16] := rfl
  rw [e]
  split
  · rename_i h
    exact (or_iff_left_of_imp fun h' => h' ▸ List.contains_iff_mem.1 h).symm
  · simp
theorem State.poisonBlock_phys (s : State) (pa : Nat) : (s.poisonBlock pa).mem.phys = s.mem.phys := rfl
theorem State.poisonBlock_waiting (s : State) (pa : Nat) :
    (s.poisonBlock pa).opr.waiting = s.opr.waiting ++ [{ die := 0, code := 0xA004, time := s.ctl.devTime }] := rfl
theorem State.poisonBlock_ev (s : State) (pa : Nat) : (s.poisonBlock pa).ev = s.ev := rfl
/-- A patrol poisons the blocks of its line that it cannot correct; no byte changes (R420). -/
theorem foldl_patrol (l : List Nat) : ∀ s : State,
    let t := l.foldl (fun s k => if bit s.ev.b k then s.poisonBlock (s.ev.a / 128 * 128 + 16 * k) else s) s
    t.mem.phys = s.mem.phys ∧ ∀ b, b ∈ t.mem.poison ↔
      b ∈ s.mem.poison ∨ ∃ k ∈ l, bit s.ev.b k = true ∧ b = (s.ev.a / 128 * 128 + 16 * k) % 2 ^ 39 / 16 := by
  induction l with
  | nil => exact fun s => ⟨rfl, fun b => by simp⟩
  | cons k l ih =>
    intro s
    rw [List.foldl_cons]
    cases hk : bit s.ev.b k with
    | false =>
      obtain ⟨hp, hb⟩ := ih s
      exact ⟨hp, fun b => by simpa [hk] using hb b⟩
    | true =>
      obtain ⟨hp, hb⟩ := ih (s.poisonBlock (s.ev.a / 128 * 128 + 16 * k))
      exact ⟨hp, fun b => by simpa [hk, s.mem_poisonBlock, s.poisonBlock_ev, or_assoc] using hb b⟩

/-! ### Suspicion (R415, R416) -/

theorem State.halve_none {s : State} (h : (s.health.halfDue.filter fun d => d < s.ctl.devTime) = []) : s.halve = s := by
  have keep : (s.health.halfDue.filter fun d => s.ctl.devTime ≤ d) = s.health.halfDue :=
    List.filter_eq_self.2 fun d hd => by simpa using List.filter_eq_nil_iff.1 h d hd
  unfold State.halve
  simp only [h, keep]
  simp
theorem eraseDups_singleton (a : Nat) : [a].eraseDups = [a] := by rw [List.eraseDups_cons]; rfl
theorem eraseDups_of_nodup {l : List Nat} (h : l.Nodup) : l.eraseDups = l := by
  induction l with
  | nil => rfl
  | cons a l ih =>
    obtain ⟨ha, hl⟩ := List.nodup_cons.1 h
    have other : (l.filter fun b => !b == a) = l := List.filter_eq_self.2 fun b hb => by
      simpa using fun e : b = a => ha (e ▸ hb)
    rw [List.eraseDups_cons, other, ih hl]
/-- The scores with that of core `c` raised by `n`. -/
def raised (susp : List Nat) (c n : Nat) : List Nat := susp.modify c fun v => Nat.min (v + n) 65535
/-- Whether core `c` with `n` more reaches the threshold, and is in the map. -/
def State.suspected (s : State) (c n : Nat) : Bool :=
  s.ctl.chkQthr ≤ (raised s.halve.ctl.susp c n).getD c 0 && s.map.coreLive c
/-- One score rises; its core is quarantined once it is suspected. -/
theorem State.suspect_one (s : State) (c n : Nat) : s.suspect [(c, n)] =
    let q := if s.suspected c n then [c] else []
    ({ s.halve with
        ctl := { s.halve.ctl with susp := raised s.halve.ctl.susp c n }
        health := { s.halve.health with quarantine := (s.halve.health.quarantine ++ q).eraseDups } },
      q.foldl (fun us c => us.modify c fun u => (2, u.2)) s.halve.map.units) := by
  unfold State.suspect
  simp only [List.map_cons, List.map_nil, eraseDups_singleton, List.filter_cons, List.filter_nil, List.foldl_cons, List.foldl_nil]
  rfl
theorem State.suspect_below {s : State} {c n : Nat} (h : (raised s.halve.ctl.susp c n).getD c 0 < s.ctl.chkQthr)
    (hq : s.health.quarantine.Nodup) :
    s.suspect [(c, n)] = ({ s.halve with ctl := { s.halve.ctl with susp := raised s.halve.ctl.susp c n } }, s.map.units) := by
  have no : s.suspected c n = false := by
    unfold State.suspected
    rw [decide_eq_false (Nat.not_le.2 h), Bool.false_and]
  have same : (s.halve.health.quarantine ++ []).eraseDups = s.halve.health.quarantine := by
    rw [List.append_nil]
    exact eraseDups_of_nodup hq
  rw [State.suspect_one, no]
  simp only [Bool.false_eq_true, if_false, same, List.foldl_nil]
  rfl
theorem State.suspect_reached {s : State} {c n : Nat} (h : s.ctl.chkQthr ≤ (raised s.halve.ctl.susp c n).getD c 0)
    (hl : s.map.coreLive c = true) :
    s.suspect [(c, n)] = ({ s.halve with
        ctl := { s.halve.ctl with susp := raised s.halve.ctl.susp c n }
        health := { s.halve.health with quarantine := (s.health.quarantine ++ [c]).eraseDups } },
      s.map.units.modify c fun u => (2, u.2)) := by
  have yes : s.suspected c n = true := Bool.and_eq_true_iff.2 ⟨decide_eq_true h, hl⟩
  rw [State.suspect_one, yes]
  rfl

/-! ### The events whose meaning is one choice -/

theorem exec_novigImageUpdate (s : State) : exec .novigImageUpdate s =
    .next (if s.health.novig && s.accepts s.ev.data then
      (s.writeBank s.ev.data).moduleReset (recs16 (Config.selfTest s.fresh).length (Config.selfTest s.fresh)) s.health.strap else s) :=
  (apply_ite Host.Outcome.next ..).symm
theorem exec_buyerKeyAdd (s : State) : exec .buyerKeyAdd s =
    .next (if s.health.buyerKey.isNone && (Config.verifies Config.jexxiaKey s.ev.data || Config.verifies Config.firmwareKey s.ev.data) then
      s.service fun h => { h with buyerKey := some (s.ev.data.take 1952) } else s) := rfl
theorem exec_novigQuarantineClear (s : State) : exec .novigQuarantineClear s = .next (s.service fun h => { h with quarantine := [] }) := rfl
theorem exec_laneFailure (s : State) : exec .laneFailure s =
    .next (if s.ev.a < 256 && s.ev.b < 4 && s.ev.c < 33 then s.publish (failLane s.map.units s.ev.a s.ev.b s.ev.c) else s) := rfl
theorem exec_sliceErrorRateFail (s : State) : exec .sliceErrorRateFail s =
    .next (if s.ev.a < 64 && 16 < s.sliceErrors s.ev.a then s.failUnit (257 + s.ev.a) else s) := rfl
theorem exec_stackLost (s : State) : exec .stackLost s = .next (if s.ev.a < 8 then s.failUnit (321 + s.ev.a) else s) := rfl
theorem exec_coreSelftestFail (s : State) : exec .coreSelftestFail s =
    .next (if s.ev.a < 256 then s.failUnit (1 + s.ev.a) else s) := rfl
theorem exec_pcieLinkChange {s : State} (ha : s.ev.a < 2) (hb : s.ev.b < 32) : exec .pcieLinkChange s =
    let us := s.map.units.set (360 + s.ev.a) (if s.ev.b = 0 then (3, 0) else (0, s.ev.b))
    .next (if s.ev.c = 1 then s.newMap us else s.publish us) := by
  change execPcieLinkChange s = _
  unfold execPcieLinkChange
  dsimp only
  rw [if_pos ha, Nat.mod_eq_of_lt hb]

/-! ### SRAM_UNCORRECTABLE, by the kind of store (R261, R415, R417, R421) -/

theorem exec_sramUncorrectable_core {s : State} (ha : s.ev.a = 0) (hb : s.ev.b < 256) :
    let r := (s.record { die := dieOfCore s.ev.b, code := 0xA003, core := s.ev.b }).suspect [(s.ev.b, 2048)]
    exec .sramUncorrectable s = .next (r.1.publish r.2) := by
  change execSramUncorrectable s = _
  unfold execSramUncorrectable
  simp only [ha, hb, if_true]
theorem exec_sramUncorrectable_slice {s : State} (ha : s.ev.a = 1) :
    exec .sramUncorrectable s = .next (State.record (if 1 ≤ s.ev.c && s.ev.c ≤ 64 then
      { s with health := { s.health with
        sliceErrs := (s.health.sliceErrs.filter fun e => s.ctl.devTime < e.2 + 3600000000000) ++ [(s.ev.c - 1, s.ctl.devTime)] } }
      else s) { die := 0, code := 0xA003 }) := by
  change execSramUncorrectable s = _
  unfold execSramUncorrectable
  simp only [ha]
  rfl
theorem exec_sramUncorrectable_net {s : State} {n : Net} (ha : s.ev.a = 2)
    (hn : (s.sync.nets.filter fun n => !n.dom && n.home = s.ev.b)[s.ev.c]? = some n) :
    exec .sramUncorrectable s = .next ((s.record { die := 0, code := 0xA003 }).loseNet n 0x5002) := by
  change execSramUncorrectable s = _
  unfold execSramUncorrectable
  simp only [ha, hn]
  rfl
theorem exec_sramUncorrectable_control {s : State} (ha : s.ev.a = 3) :
    exec .sramUncorrectable s = .next ((s.record { die := 0, code := 0xA003 }).restartCore (s.ev.b % 4)) := by
  change execSramUncorrectable s = _
  unfold execSramUncorrectable
  simp only [ha]
  rfl

end Sys2Proof.Machine
end

section
/-! What is claimed of the resource map, of reset and of health (spec/01_machine.md, spec/20_health.md). -/
namespace Sys2Proof.Machine
open Sys2Proof.Claim

/-- Settles O49: a publication is nothing, or a new map whose fields are those of `State.remapped`. -/
theorem mapChanges : Obligations.MapChanges := by
  intro s us
  dsimp only
  refine ⟨State.publish_same, fun h => ?_, fun h first => ?_, fun h again => ?_⟩ <;> rw [State.publish_new h] <;>
    obtain ⟨hm, hc, ho, hh⟩ := s.newMap_fields (closeUnits s.map.units us)
  · exact ⟨by rw [hm, s.remapped_units], fun b hb b0 h0 hid _ hr hlt hl hg => State.newMap_place hb h0 hid hr (State.mem_coresLost hlt hl hg)⟩
  · rw [State.remapped_first _ first] at hm hc ho hh
    refine ⟨hm, by rw [hh]; rfl, fun c hcs hst => ⟨s.atMilestone c, ?_, s.atMilestone_asid c, ?_, ?_, ?_⟩, by rw [ho]; rfl⟩
    · rw [hc]; exact List.mem_map_of_mem hcs
    · simp [State.atMilestone, hst]
    · rw [s.atMilestone_state, hst]
    · simp [State.atMilestone, hst]
  · rw [State.remapped_again _ again] at hm hc ho
    exact ⟨hm, hc, ho⟩

/-- Settles O56: the reset state's own fields, evaluated; beyond entry 379 by `ResMap.entry_unused`, and the tables entry by entry. -/
theorem resetState : Obligations.ResetState := by
  have queues : ∀ q ∈ ({} : SchedSys).queues, q.en = false := by
    simp only [List.mem_map]
    rintro q ⟨k, _, rfl⟩
    rfl
  have slots : ∀ e ∈ State.reset.sched.slots, e = {} := fun _ => List.eq_of_mem_replicate
  have parts : ∀ e ∈ State.reset.sched.parts, e = {} := fun _ => List.eq_of_mem_replicate
  have vfs : ∀ v ∈ ({} : Links).vfs, v.pxEn = false ∧ v.evrEn = false := by
    simp only [List.mem_append, List.mem_map]
    rintro v (⟨k, _, rfl⟩ | ⟨k, _, rfl⟩) <;> exact ⟨rfl, rfl⟩
  obtain ⟨phys, host⟩ := State.reset_memWf
  refine ⟨rfl, rfl, rfl, rfl, rfl, rfl, rfl, rfl, rfl, rfl, rfl, rfl, ?_, ?_, ?_, fun _ => ResMap.entry_unused _,
    rfl, rfl, rfl, rfl, rfl, rfl, queues, fun e he => ?_, fun e he => ?_, fun _ => List.eq_of_mem_replicate, rfl, vfs, rfl, rfl, phys, host⟩
  · decide +kernel
  · decide +kernel
  · decide +kernel
  · rw [slots e he]; exact ⟨rfl, rfl, rfl, rfl⟩
  · rw [parts e he]; exact ⟨rfl, rfl, rfl, rfl⟩

/-- Settles O50, kind of event by kind: a reset and a restart are a machine that then loads its firmware (`State.boot_eq`); units
that fail publish their entries; one score rises (`State.suspect_one`); blocks are poisoned (`State.mem_poisonBlock`). -/
theorem healthEvents : Obligations.HealthEvents := by
  refine ⟨fun s => ?reset, fun s hn => ?service, fun s hn => ?idle, fun s ha hb => ?core, fun s => ?store, fun s n ha hn => ?net,
    fun s => ?stack, fun s => ?patrol, fun s ha hb hc hu => ?lane, fun s => ?units, fun s => ?halving, fun s => ?restart⟩
  case reset =>
    refine ⟨s.moduleReset (recs16 s.ev.data.length s.ev.data) (s.ev.a = 1), rfl, ?_⟩
    generalize recs16 s.ev.data.length s.ev.data = tests
    have boots (h : s.ev.a ≠ 1) (ha : s.accepts s.health.bankA = true) : (s.rebooted tests (s.ev.a = 1)).boots = true := by
      rw [State.rebooted_boots, decide_eq_false h, ha]
      rfl
    rw [State.moduleReset_eq]
    refine ⟨rfl, rfl, rfl, rfl, rfl, rfl, rfl, rfl, rfl, rfl, rfl, rfl, rfl, rfl, rfl, rfl, rfl, rfl,
      fun c => State.rebooted_quarantine tests (s.ev.a = 1), rfl, ?_, fun h ha => State.booted_firmware (boots h ha), rfl, rfl,
      fun a h1 h2 => State.rebooted_cleared tests (s.ev.a = 1) ?_, fun a h1 h2 => State.rebooted_cleared tests (s.ev.a = 1) ?_,
      fun hw a h1 h2 => State.rebooted_kept tests (s.ev.a = 1) hw ((resetKeeps_iff a).2 ⟨h1, h2⟩)⟩
    · rw [State.booted_novig, State.rebooted_boots, Bool.not_and, Bool.not_not]
    · rw [resetKeeps_iff]; omega
    · rw [resetKeeps_iff]; omega
  case service =>
    refine ⟨s.accepts_eq _, rfl, (exec_novigImageUpdate s).trans ?_, (exec_novigQuarantineClear s).trans ?_,
      fun hk => (exec_buyerKeyAdd s).trans ?_, fun hk => (exec_buyerKeyAdd s).trans ?_⟩
    · rw [hn, Bool.true_and]
    · rw [State.service_novig _ hn]
    · rw [hk, Option.isNone_none, Bool.true_and, State.service_novig _ hn]
    · rw [Option.isNone_eq_false_iff.2 (Option.isSome_iff_ne_none.2 hk), Bool.false_and, if_neg Bool.false_ne_true]
  case idle =>
    refine ⟨(exec_novigImageUpdate s).trans ?_, (exec_novigQuarantineClear s).trans ?_, (exec_buyerKeyAdd s).trans ?_⟩
    · rw [hn, Bool.false_and, if_neg Bool.false_ne_true]
    · rw [State.service_idle _ hn]
    · rw [State.service_idle _ hn, ite_self]
  case core =>
    let x := s.record { die := dieOfCore s.ev.b, code := 0xA003, core := s.ev.b }
    refine ⟨fun h hq => (exec_sramUncorrectable_core ha hb).trans ?_, fun h hl => (exec_sramUncorrectable_core ha hb).trans ?_⟩
    · have below := State.suspect_below (s := x) h hq
      rw [below]
      exact congrArg Host.Outcome.next (State.publish_self _)
    · have reached := State.suspect_reached (s := x) h hl
      rw [reached]
      rfl
  case store =>
    refine ⟨fun ha hc => (exec_sramUncorrectable_slice ha).trans ?_, fun ha h1 h2 => (exec_sramUncorrectable_slice ha).trans ?_,
      exec_sramUncorrectable_control⟩
    · rw [if_neg (by simp; omega)]
    · rw [if_pos (by simp; omega)]
      rfl
  case net => exact exec_sramUncorrectable_net ha hn
  case stack =>
    refine ⟨s.poisonBlock s.ev.a, rfl, s.poisonBlock_phys _, (s.mem_poisonBlock _ _).2 (.inr rfl), fun b hb => ?_, s.poisonBlock_waiting _⟩
    rw [s.mem_poisonBlock]
    exact or_iff_left hb
  case patrol =>
    obtain ⟨hp, hb⟩ := foldl_patrol (List.range 8) s
    exact ⟨_, rfl, hp, fun b => by simpa [bit] using hb b⟩
  case lane =>
    have named : (decide (s.ev.a < 256) && decide (s.ev.b < 4) && decide (s.ev.c < 33)) = true := by simp [ha, hb, hc]
    refine ⟨fun h => (exec_laneFailure s).trans ?_, fun h hl => (exec_laneFailure s).trans ?_⟩
    · rw [if_pos named, failLane_spare hu hc h]
    · rw [if_pos named, failLane_lost hu h hl]
  case units =>
    refine ⟨fun ha h => (exec_sliceErrorRateFail s).trans ?_, fun h => (exec_sliceErrorRateFail s).trans ?_,
      fun ha => (exec_stackLost s).trans ?_, fun ha => (exec_coreSelftestFail s).trans ?_, fun ha hb =>
        ⟨fun hc => (exec_pcieLinkChange ha hb).trans ?_, fun hc => (exec_pcieLinkChange ha hb).trans ?_⟩⟩
    · rw [if_pos (by simp [ha, h]), s.failUnit_entry (n := 256 + s.ev.a) (by omega)]
    · rw [if_neg (by simp [Nat.not_lt.2 h])]
    · rw [if_pos ha, s.failUnit_entry (n := 320 + s.ev.a) (by omega)]
    · rw [if_pos ha, s.failUnit_entry (n := s.ev.a) (by omega)]
    · exact congrArg Host.Outcome.next (if_neg hc)
    · exact congrArg Host.Outcome.next (if_pos hc)
  case halving => exact ⟨rfl, State.halve_none, fun _ => rfl⟩
  case restart =>
    refine ⟨s.restartCore (s.ev.a % 4), rfl, ?_⟩
    rw [State.restartCore_eq]
    refine ⟨rfl, fun b hb => of_decide_eq_false (State.dropBlocks_blocks hb), ?_, fun h => State.booted_firmware ?_⟩
    · exact (State.booted_novig _).trans (by rw [State.dropBlocks_boots, Bool.not_and, Bool.not_not])
    · simpa [State.booted_novig] using h

end Sys2Proof.Machine
end

section
/-! SUPPORT. The decoder and the encoder row by row: what an instruction's words decode to, and what a decoder's answer encodes to
(spec/03_encoding.md R56, R64, R69, R71 to R75). -/
namespace Sys2Proof
open Machine

/-! ### The two steps of the decoder -/

theorem decode_two {i : Instr} {w x : Word} {op : BitVec 8} (r : List Word) (ho : wordOp w = op.toNat) (ha : allocated op.toNat = true)
    (he : wordE w = true) (hd : decode2 w x = some i) : decode ([w, x] ++ r) = .ok (i, r) := by
  simp [decode, ho, ha, he, hd]
theorem decode_one {i : Instr} {w : Word} {op : BitVec 8} (r : List Word) (ho : wordOp w = op.toNat) (ha : allocated op.toNat = true)
    (he : wordE w = false) (hd : decode1 w = some i) : decode ([w] ++ r) = .ok (i, r) := by
  simp [decode, ho, ha, he, hd]
/-- What a decoder reads it reads from one word with E = 0 or from two of which the first has E = 1. -/
theorem decode_ok {w : Word} {r r' : List Word} {i : Instr} (h : decode (w :: r) = .ok (i, r')) :
    (wordE w = false ∧ decode1 w = some i ∧ r = r') ∨ ∃ x, wordE w = true ∧ decode2 w x = some i ∧ r = x :: r' := by
  rw [decode.eq_def] at h
  dsimp only at h
  split at h
  case isFalse => cases h
  split at h
  case isFalse he =>
    split at h
    case h_1 hd =>
      cases h
      exact .inl ⟨eq_false_of_ne_true he, hd, rfl⟩
    case h_2 => cases h
  case isTrue he =>
    split at h
    case h_1 => cases h
    case h_2 x _ =>
      split at h
      case h_1 hd =>
        cases h
        exact .inr ⟨x, he, hd, rfl⟩
      case h_2 => cases h

@[simp] theorem FmtI.imm_of (w x : Word) : (FmtI.ofWords w x).imm = x := rfl

/-! ### FN in its place (R64, R65) -/

theorem FmtZ.word0_fn (f : FmtZ) (op : BitVec 8) : (f.word0 op).extractLsb' 0 7 = f.fn := congrArg FmtZ.fn (f.of_words op)
theorem FmtA.word0_fn (f : FmtA) (op : BitVec 8) : (f.word0 op).extractLsb' 2 5 = f.fn := congrArg FmtA.fn (f.of_words op)
theorem FmtL.word1_fn (f : FmtL) : (f.word1.extractLsb' 0 8).toNat = FmtL.fn f := by
  have tail : f.word1.extractLsb' 0 12 = f.tail := congrArg FmtL.tail (f.of_words 0)
  rw [FmtL.fn, bits, ← tail, field_toNat, field_toNat, Nat.shiftRight_zero, pow_zero, Nat.div_one,
    Nat.mod_mod_of_dvd _ (by decide : 2 ^ 8 ∣ 2 ^ 12)]

/-! ### What the static check says of FN -/

theorem checkInstr_coded {V : Nat} {ts : List Nat} {last : Bool} {i : Instr} {a : Nat} (h : checkInstr V ts last i a = none) :
    (shape i).bad0 = false ∧ (shape i).bad1 = false := by
  unfold checkInstr at h
  dsimp only at h
  split at h
  case h_5 h0 _ h1 => exact ⟨h0, h1⟩
  all_goals cases h
theorem Instr.wf_coded {i : Instr} (h : i.wf = true) : (shape i).bad0 = false ∧ (shape i).bad1 = false := by
  have check : (staticCheck i).isNone = true := (Bool.and_eq_true_iff.1 h).2
  exact checkInstr_coded (Option.isNone_iff_eq_none.1 check)

theorem shZ_fn {f : FmtZ} {d a : Role} {n : Nat} {cr imm : Bool} (h : (shZ f d a [n] cr imm).bad0 = false) : f.fn.toNat = n := by
  simpa [shZ] using h
theorem shE_fn {f : FmtL} {d a b c : Role} {n : Nat} (h : (shE f d a b c [n]).bad1 = false) : FmtL.fn f = n := by
  have h := (Bool.and_eq_true_iff.1 (Bool.not_eq_false' _ ▸ h)).2
  simpa using h
theorem shBar_fn {f : FmtA} {d b : Role} {fnOk ib : Bool} {us : List Nat} (h : (shBar f d b fnOk ib us).bad0 = false) : fnOk = true := by
  simp only [shBar, shA, Bool.or_eq_false_iff, Bool.not_eq_false'] at h
  exact h.1.1

/-! ### From an instruction to its words and back -/

/-- By row: OP names the format, and where several rows share an OP, the FN that the check demands tells them apart. -/
theorem decode_encode {i : Instr} (h : i.wf = true) (r : List Word) : decode (encode i ++ r) = .ok (i, r) := by
  obtain ⟨c0, c1⟩ := Instr.wf_coded h
  cases i with
  | addS f | subS f | mulS f | minS f | maxS f | andS f | orS f | xorS f | andnS f | shlS f | shrS f | sarS f | rolS f | movS f | braShort f
    | callShort f | retShort f | exitShort f | nopShort f =>
    exact decode_one r (f.word_op _) rfl (f.word_e _) (by rw [decode1, f.word_op, f.of_words]; rfl)
  | trap f | crd f | cwr f | mapack f | maprd f | cntrd f | cntcfg f | moncfg f | monrd f | evpost f | yieldC f =>
    exact decode_two r (f.word0_op _) rfl (f.word0_e _) (by rw [decode2, decode2Sys, f.word0_op, f.of_words]; rfl)
  | add f | addc f | sub f | subb f | sadd f | ssub f | mul f | mulh f | mad f | div f | rem f | dot4 f | min f | max f | abs f | neg f | and f | or f
    | xor f | andn f | not f | shl f | shr f | sar f | rol f | bfx f | bfi f | popc f | clz f | ctz f | brev f | prmt f | sel f | setp f | pand f
    | por f | pxor f | pnot f | mov f | movi f | lea f | cvti f =>
    exact decode_two r (f.word0_op _) rfl (f.word0_e _) (by rw [decode2, decode2Int, f.word0_op, f.of_words]; rfl)
  | bra f | brc f | brx f | call f | ret f | exit f | nop f | join f | leave f | waitm f | mask f | elect f | vote f | shfl f | scan f | lred f
    | matchL f | sleep f =>
    exact decode_two r (f.word0_op _) rfl (f.word0_e _) (by rw [decode2, decode2Ctl, f.word0_op, f.of_words]; rfl)
  | fadd f | fsub f | fmul f | ffma f | fmin f | fmax f | fcmp f | fclass f | fcvt f | frnd f | fscl f | frcp f | frsq f | fsqrt f | fex2 f | flg2 f
    | fsin f | fcos f | ftanh f | fsigm f | flagrd f | flagclr f | hadd2 f | hmul2 f | hfma2 f | pack8 f | unpack8 f =>
    exact decode_two r (f.word0_op _) rfl (f.word0_e _) (by rw [decode2, decode2Fp, f.word0_op, f.of_words]; rfl)
  | ld f | st f | lds f | sts f | prf f | mprobe f | dirtysw f | fence f | acq f | rel f | bind f | unbind f | atom f | atomSp f | red f | redSp f
    | take f | tknew f | tksave f | tkload f | barinit f | expect f | barwait f | bartest f =>
    exact decode_two r (f.word0_op _) rfl (f.word0_e _) (by rw [decode2, decode2Mem, f.word0_op, f.of_words]; rfl)
  | nlaunch f | nwait f | nquery f | preempt f | cpb f | cpt f | cpl f | cpa f | cpcan f | tdef f | tseal f | tdrop f | tquery f | gang f | oclaim f
    | orel f | mma f | mmag f | mmas f | accz f =>
    exact decode_two r (f.word0_op _) rfl (f.word0_e _) (by rw [decode2, decode2Eng, f.word0_op, f.of_words]; rfl)
  | tret f | tretRec f | kdrop f | kdropErase f | rankmapGet f | rankmapSet f | planemapMap f | planemapShare f | planemapGet f | planemapRetrain f
    | paritycfgSet f | paritycfgRebuild f | paritycfgGet f =>
    exact decode_two r (f.word0_op _) rfl (f.word0_e _) (by rw [decode2, decode2Sys, f.word0_op, f.of_words, FmtZ.word0_fn, shZ_fn c0]; rfl)
  | ctxsaveSeal f | ctxsaveReset f | ctxloadImage f | ctxloadNew f | ctxloadResume f | kwrapGive f | kwrapTake f | kwrapEscrow f | kwrapImport f
    | attestCtx f | attestModule f | scrubVirt f | scrubPhys f =>
    exact decode_two r (f.word0_op _) rfl (f.word0_e _) (by rw [decode2, decode2Sys, f.word0_op, f.of_words, FmtL.word1_fn, shE_fn c1]; rfl)
  | tkdrainClose f | tkdrainOpen f | tkdrainFree f =>
    exact decode_two r (f.word0_op _) rfl (f.word0_e _) (by rw [decode2, decode2Mem, f.word0_op, f.of_words, FmtL.word1_fn, shE_fn c1]; rfl)
  | placeRsv f | placeFree f | placeClose f | placeOpen f | slicesetAssign f | slicesetTarget f | slicesetMove f | slicesetPool f =>
    exact decode_two r (f.word0_op _) rfl (f.word0_e _) (by rw [decode2, decode2Eng, f.word0_op, f.of_words, FmtL.word1_fn, shE_fn c1]; rfl)
  | arriveClu f | arriveDom f =>
    have fn := of_decide_eq_true (shBar_fn c0)
    exact decode_two r (f.word0_op _) rfl (f.word0_e _) (by rw [decode2, decode2Mem, f.word0_op, f.of_words, FmtA.word0_fn, fn]; rfl)
  | arrive f =>
    have fn := of_decide_eq_true (shBar_fn c0)
    obtain fn | fn : f.fn.toNat = 0 ∨ f.fn.toNat = 1 := by omega
    all_goals exact decode_two r (f.word0_op _) rfl (f.word0_e _) (by rw [decode2, decode2Mem, f.word0_op, f.of_words, FmtA.word0_fn, fn]; rfl)
  | _ => exact absurd h (by decide)

/-! ### From words to an instruction and back: an arm of the decoder reads the fields of the format that its row encodes by -/

theorem encode_of_decode1 {w : Word} {i : Instr} (he : wordE w = false) (h : decode1 w = some i) : encode i = [w] := by
  unfold decode1 at h
  split at h
  all_goals cases h
  all_goals simp [encode, *, FmtS.word_of, FmtB1.word_of]
theorem encode_of_decode2Sys {w x : Word} {i : Instr} (he : wordE w = true) (h : decode2Sys w x = some i) : encode i = [w, x] := by
  unfold decode2Sys at h
  repeat' split at h
  all_goals cases h
  all_goals simp [encode, *, FmtZ.word0_of, FmtL.word0_of]
theorem encode_of_decode2Int {w x : Word} {i : Instr} (he : wordE w = true) (h : decode2Int w x = some i) : encode i = [w, x] := by
  unfold decode2Int at h
  split at h
  all_goals cases h
  all_goals simp [encode, *, FmtA.word0_of, FmtL.word0_of, FmtI.word0_of]
theorem encode_of_decode2Ctl {w x : Word} {i : Instr} (he : wordE w = true) (h : decode2Ctl w x = some i) : encode i = [w, x] := by
  unfold decode2Ctl at h
  split at h
  all_goals cases h
  all_goals simp [encode, *, FmtB2.word0_of, FmtA.word0_of]
theorem encode_of_decode2Fp {w x : Word} {i : Instr} (he : wordE w = true) (h : decode2Fp w x = some i) : encode i = [w, x] := by
  unfold decode2Fp at h
  split at h
  all_goals cases h
  all_goals simp [encode, *, FmtA.word0_of, FmtL.word0_of]
theorem encode_of_decode2Mem {w x : Word} {i : Instr} (he : wordE w = true) (h : decode2Mem w x = some i) : encode i = [w, x] := by
  unfold decode2Mem at h
  repeat' split at h
  all_goals cases h
  all_goals simp [encode, *, FmtM.word0_of, FmtL.word0_of, FmtA.word0_of]
theorem encode_of_decode2Eng {w x : Word} {i : Instr} (he : wordE w = true) (h : decode2Eng w x = some i) : encode i = [w, x] := by
  unfold decode2Eng at h
  repeat' split at h
  all_goals cases h
  all_goals simp [encode, *, FmtL.word0_of, FmtA.word0_of]
theorem encode_of_decode2 {w x : Word} {i : Instr} (he : wordE w = true) (h : decode2 w x = some i) : encode i = [w, x] := by
  unfold decode2 at h
  dsimp only at h
  split at h
  · exact encode_of_decode2Sys he h
  split at h
  · exact encode_of_decode2Int he h
  split at h
  · exact encode_of_decode2Ctl he h
  split at h
  · exact encode_of_decode2Fp he h
  split at h
  · exact encode_of_decode2Mem he h
  · exact encode_of_decode2Eng he h
theorem encode_of_decode {w : Word} {r r' : List Word} {i : Instr} (h : decode (w :: r) = .ok (i, r')) : encode i ++ r' = w :: r := by
  obtain ⟨he, hd, rfl⟩ | ⟨x, he, hd, rfl⟩ := decode_ok h
  · rw [encode_of_decode1 he hd]; rfl
  · rw [encode_of_decode2 he hd]; rfl
/-- Words that a well-formed instruction encodes to decode to it. -/
theorem decode_words {i : Instr} {ws : List Word} (hw : i.wf = true) (he : encode i = ws) : decode ws = .ok (i, []) := by
  rw [← he, ← List.append_nil (encode i)]
  exact decode_encode hw []

end Sys2Proof
end

section
/-! SUPPORT. A meaning of which only what it does to the executing threads matters; and the branches (spec/06_control.md R151). -/
namespace Sys2Proof.Machine
open Sys2Proof.Claim

/-! ### Issuing sees a meaning only in the threads that execute -/

/-- A lane whose thread has `f` and `f'` do the same is issued alike. -/
theorem issueLane_congr {s : State} {r : Rights} {g : Guard} {p : Path} {f f' : State → Thread → Res} {kept : List Nat} {l : Nat}
    (h : ∀ t, s.thread? p.fg l = some t → g.on t = true → f (s.begun p t) (moved p t) = f' (s.begun p t) (moved p t)) :
    issueLane r g p f (s, kept) l = issueLane r g p f' (s, kept) l := by
  unfold issueLane
  cases ht : s.thread? p.fg l with
  | none => simp only [ht]
  | some t =>
    have on : g.on { t with pc := p.pc, idx := p.idx } = g.on t := Guard.on_core g rfl
    simp only [ht, on]
    by_cases hg : g.on t = true
    · have same := h t ht hg
      simp only [State.begun, moved] at same
      rw [same]
    · rw [if_neg hg, if_neg hg]
/-- Along the lanes of a path each thread is still as the path found it, where `f'` changes its own thread alone. -/
theorem issueLanes_congr {s : State} {p : Path} {r : Rights} {g : Guard} {f f' : State → Thread → Res} {R : Thread → Thread → Prop}
    (hr : r.ok (authOf (s.asidOf p.fg)) = true) (hf : Does s f' R) (hl : Local R)
    (h : ∀ s1, s1.rest = s.rest → ∀ t ∈ s.active p g, f s1 (moved p t) = f' s1 (moved p t)) (ls : List Nat) :
    ∀ (s1 : State) (kept : List Nat), ls.Nodup → (∀ l ∈ ls, l ∈ p.lanes) → s1.rest = s.rest →
      (∀ l ∈ ls, s1.thread? p.fg l = s.thread? p.fg l) →
      ls.foldl (issueLane r g p f) (s1, kept) = ls.foldl (issueLane r g p f') (s1, kept) := by
  induction ls with
  | nil => intros; rfl
  | cons l ls ih =>
    intro s1 kept hn hm h1 hs
    obtain ⟨new, hn⟩ := List.nodup_cons.1 hn
    obtain ⟨ml, hm⟩ := List.forall_mem_cons.1 hm
    obtain ⟨sl, hs⟩ := List.forall_mem_cons.1 hs
    have same : issueLane r g p f (s1, kept) l = issueLane r g p f' (s1, kept) l :=
      issueLane_congr fun t ht on => h (s1.begun p t) h1 t (List.mem_filter.2 ⟨List.mem_filterMap.2 ⟨l, ml, sl ▸ ht⟩, on⟩)
    rw [List.foldl_cons, List.foldl_cons, same]
    cases ht : s1.thread? p.fg l with
    | none =>
      have skip : issueLane r g p f' (s1, kept) l = (s1, kept) := by unfold issueLane; simp only [ht]
      rw [skip]
      exact ih s1 kept hn hm h1 hs
    | some t =>
      obtain ⟨s2, step, h2, far, _⟩ := issueLane_does (g := g) (kept := kept) hr hf hl h1 ht
      rw [step]
      exact ih s2 _ hn hm h2 fun k hk => (far _ _ (.inr fun e => new (e ▸ hk))).trans (hs k hk)
/-- A meaning that does in each executing thread what `f'` does is issued as `f'` is. -/
theorem issueEach_congr {s : State} {p : Path} {r : Rights} {g : Guard} {f f' : Path → State → Thread → Res}
    {R : Thread → Thread → Prop} (hi : Issues s p r) (hf : Does s (f' p) R) (hl : Local R)
    (h : ∀ s1, s1.rest = s.rest → ∀ t ∈ s.active p g, f p s1 (moved p t) = f' p s1 (moved p t)) :
    issueEach s r g f = issueEach s r g f' := by
  obtain ⟨head, once, rights, _⟩ := hi
  unfold issueEach
  cases hp : s.paths with
  | nil => rfl
  | cons q qs =>
    obtain rfl : q = p := by simpa [hp] using head
    dsimp only
    rw [issueLanes_congr rights hf hl h q.lanes s [] once (fun _ => id) rfl fun _ _ => rfl]

/-! ### The branches -/

theorem Thread.put_mid {t u : Thread} (c : Nat) (ws : List Word) (h : t.mid = u.mid) : (t.put c ws).mid = (u.put c ws).mid := by
  simp only [Thread.mid, Thread.mk.injEq] at h
  unfold Thread.put
  split
  · simp only [Thread.mid, h]
  · split <;> simp only [Thread.mid, h]

/-- A branch is issued per thread (R151). -/
theorem exec_branch {i : Instr} {g : Guard} {link : Option Nat} {tgt : Path → State → Thread → DWord}
    (h : branch i = some (g, link, tgt)) (s : State) : exec i s = .next (branchEach s g link tgt) := by
  cases i with
  | braShort f | bra f | callShort f | call f | brx f | retShort f | ret f => cases h; rfl
  | _ => cases h
/-- The target of a branch is an operand. -/
theorem branch_reads {i : Instr} {g : Guard} {link : Option Nat} {tgt : Path → State → Thread → DWord}
    (h : branch i = some (g, link, tgt)) (s : State) (p : Path) : Reads s (tgt p) := by
  cases i with
  | braShort f | bra f | callShort f | call f => cases h; exact reads_const s _
  | brx f | ret f | retShort f => cases h; exact (reads_regL s _ 2).map (BitVec.ofNat 64)
  | _ => cases h

/-- What a branch to `a` makes of its thread: the link written, and the next clause named. -/
def Thread.branched (link : Option Nat) (a : DWord) (t : Thread) : Thread :=
  { (match link with | some x => t.put x (natWords t.npc.toNat 2) | none => t : Thread) with npc := a }
theorem Thread.branched_key (link : Option Nat) (a : DWord) (t : Thread) : (t.branched link a).fg = t.fg ∧ (t.branched link a).lane = t.lane := by
  cases link <;> simp [Thread.branched]
theorem Thread.branched_quiet (link : Option Nat) (a : DWord) {t : Thread} (h : t.quiet) : (t.branched link a).quiet := by
  cases link with
  | none => exact h
  | some x => exact Thread.put_quiet (t := t) x _ h
theorem Thread.branched_mid (link : Option Nat) (a : DWord) {t u : Thread} (h : t.mid = u.mid) :
    (t.branched link a).mid = (u.branched link a).mid := by
  have npc : t.npc = u.npc := (congrArg Thread.npc h : t.mid.npc = u.mid.npc)
  cases link with
  | none => exact congrArg (fun v : Thread => { v with npc := a }) h
  | some x =>
    have regs := Thread.put_mid x (natWords t.npc.toNat 2) h
    unfold Thread.branched
    rw [← npc]
    exact congrArg (fun v : Thread => { v with npc := a }) regs
/-- A branch whose target is a multiple of 4 makes that of its thread; any other traps. -/
theorem branchEach_eq (s : State) (g : Guard) (link : Option Nat) (tgt : Path → State → Thread → DWord) :
    branchEach s g link tgt = issueEach s rightsAll g fun p s t =>
      if (tgt p s t).toNat % 4 ≠ 0 then .trap 0x100B s.noAddr else .ok (s.setThread (t.branched link (tgt p s t))) := rfl

/-- With every target a multiple of 4, a branch as the last instruction of its clause ends it at its target. -/
theorem branchEach_ends {s : State} {p : Path} {g : Guard} {link : Option Nat} {tgt : Path → State → Thread → DWord}
    (hi : Issues s p rightsAll) (hp : p.last) (hr : Reads s (tgt p)) (ha : ∀ t ∈ s.active p g, (tgt p s t).toNat % 4 = 0) :
    (branchEach s g link tgt).rest = s.rest ∧
    Threads s (branchEach s g link tgt) p fun t t' => ∃ t1, t1.mid = (if g.on t then t.branched link (tgt p s t) else t).mid ∧ Ended t1 t' := by
  have keep (t : Thread) := t.branched_key link (tgt p s t)
  have quiet (t : Thread) (q : t.quiet) := Thread.branched_quiet link (tgt p s t) q
  have mid (t u : Thread) (h : t.mid = u.mid) : (t.branched link (tgt p s t)).mid = (u.branched link (tgt p s u)).mid := by
    rw [hr.core t u (Thread.core_mid h)]
    exact Thread.branched_mid link _ h
  let f : Path → State → Thread → Res := fun _ s1 t => .ok (s1.setThread (t.branched link (tgt p s t)))
  have same : branchEach s g link tgt = issueEach s rightsAll g f := by
    rw [branchEach_eq]
    refine issueEach_congr (R := fun t v => v.core = (t.branched link (tgt p s t)).core) hi (does_turn (fun _ _ _ => rfl) keep)
      ⟨?_, ?_⟩ fun s1 h1 t ht => ?_
    · exact fun t _ hv q => Thread.quiet_core hv (quiet t q)
    · exact fun t u v w hv htu hvw => by rw [← Thread.core_mid hvw, hv, Thread.core_mid (mid t u htu)]
    · have reads : tgt p s1 (moved p t) = tgt p s t := by rw [hr.rest s1 _ h1, hr.core _ t (moved_core p t)]
      have at_ : tgt p s (moved p t) = tgt p s t := hr.core _ t (moved_core p t)
      rw [reads, if_neg (not_not.2 (ha t ht)), ← at_]
  rw [same]
  exact issueEach_ends hi hp (fun _ _ _ => rfl) keep quiet mid
theorem branchEach_traps {s : State} {p : Path} {g : Guard} {link : Option Nat} {tgt : Path → State → Thread → DWord} {t : Thread}
    (h : Alone s p rightsAll g t) (hr : Reads s (tgt p)) (ha : (tgt p s t).toNat % 4 ≠ 0) :
    branchEach s g link tgt = (s.takeTrap { t with pc := p.pc, idx := p.idx } 0x100B s.noAddr p.iaddr true).advance p [] := by
  rw [branchEach_eq]
  refine issueEach_traps h ?_
  rw [hr.at p t, if_pos ha, begun_noAddr]

end Sys2Proof.Machine
end

section
/-! SUPPORT. The events of the issue stage: what falls due at a clause boundary, the fetch of a clause, the age rule
(spec/03_encoding.md R61, R62, R76, R77; spec/06_control.md R141, R142, R146). -/
namespace Sys2Proof.Machine
open Sys2Proof.Claim

/-! ### At a clause boundary (R62) -/

/-- A thread that is at no boundary, whose block is away, or whose stopping block drains, takes nothing. -/
theorem State.boundaryEvent_idle {s : State} {fg l : Nat} {t : Thread} {b : Block} (ht : s.thread? fg l = some t)
    (hb : s.blockOf fg = some b) (h : s.atBoundary t = false ∨ b.there = false ∨ (b.place = .stopping ∧ t.stopDue = false)) :
    s.boundaryEvent fg l = s := by
  have key : t.fg = fg := (thread?_key ht).1
  have idle : (!s.atBoundary t || !(((s.blockOf fg).map Block.there).getD false) || s.draining t) = true := by
    obtain h | h | ⟨h1, h2⟩ := h
    · simp [h]
    · simp [hb, h]
    · simp [State.draining, key, hb, h1, h2]
  unfold State.boundaryEvent
  simp only [ht, idle, if_true]

section
variable {s : State} {fg l : Nat} {t : Thread} {b : Block} (ht : s.thread? fg l = some t) (ha : s.atBoundary t = true)
  (hb : s.blockOf fg = some b) (hm : b.there = true) (hs : b.place = .stopping → t.stopDue = true)
include ht ha hb hm hs

theorem State.boundary_open : (!s.atBoundary t || !(((s.blockOf fg).map Block.there).getD false) || s.draining t) = false := by
  have key : t.fg = fg := (thread?_key ht).1
  have runs : s.draining t = false := by
    unfold State.draining
    rw [key, hb]
    by_cases h : b.place = .stopping <;> simp [h, hs]
  simp [ha, hb, hm, runs]
theorem State.boundaryEvent_error {d : Due} {r : List Due} (hd : t.due = d :: r) :
    s.boundaryEvent fg l =
      ((s.pullLane fg l).setThread { t.atRest s.ticks with due := r }).takeTrap { t.atRest s.ticks with due := r } d.code d.addr d.iaddr false := by
  unfold State.boundaryEvent
  simp only [ht, State.boundary_open ht ha hb hm hs, hd]
  rfl
theorem State.boundaryEvent_stop (hd : t.due = []) (h : t.stopDue = true) (hc : t.trap.inH = false ∨ t.trap.crit = false) :
    s.boundaryEvent fg l = (s.pullLane fg l).setThread { t.atRest s.ticks with stopDue := false } := by
  have free : (t.trap.inH && t.trap.crit) = false := Bool.and_eq_false_iff.2 hc
  unfold State.boundaryEvent
  simp only [ht, State.boundary_open ht ha hb hm hs, hd, h, free]
  rfl
/-- The trap-critical region puts the stop off (R98). -/
theorem State.boundaryEvent_critical (hd : t.due = []) (h : t.stopDue = true) (hi : t.trap.inH = true) (hc : t.trap.crit = true) :
    s.boundaryEvent fg l = s := by
  unfold State.boundaryEvent
  simp only [ht, State.boundary_open ht ha hb hm hs, hd, h, hi, hc]
  rfl
/-- The grace period starts; with no handler the milestone stays due. -/
theorem State.boundaryEvent_milestone {c : Ctx} (hd : t.due = []) (h : t.stopDue = false) (hc : s.milestoneDue t = some c) :
    s.boundaryEvent fg l =
      let x := s.modCtx c.asid fun c => { c with grace := some (c.grace.getD (s.ctl.cycle + s.ctl.rmapGrace)) }
      let u := { t.atRest s.ticks with trap := { (t.atRest s.ticks).trap with mileSeen := s.map.version } }
      if c.trapVec = 0 then x
      else ((x.pullLane fg l).setThread u).takeTrap u 0xB001 (BitVec.ofNat 64 s.map.version) x.noAddr false := by
  unfold State.boundaryEvent
  simp only [ht, State.boundary_open ht ha hb hm hs, hd, h, hc]
  rfl
end

theorem State.milestoneDue_some {s : State} {t : Thread} {b : Block} {c : Ctx} (hi : t.trap.inH = false) (hb : s.blockOf t.fg = some b)
    (hr : b.run = 0) (hv : t.trap.mileSeen < s.map.version) (hc : s.ctx? b.asid = some c) (hp : c.milePending = true) (hs : c.state = 1) :
    s.milestoneDue t = some c := by
  simp [State.milestoneDue, hi, hb, hr, hv, hc, hp, hs]

/-! ### The fill by age (R142) -/

/-- The file groups of a SIMD unit. -/
def State.onUnit (s : State) (core unit : Nat) : FileGroup → Bool := fun g => g.unit = unit && s.coreOf g.id = core
/-- The state once what falls due at the boundaries of the unit's threads is taken. -/
def State.unitEvents (s : State) (core unit : Nat) : State := (s.fgs.filter (s.onUnit core unit)).foldl (fun x g => x.boundaryEvents g.id) s
/-- The pool address of the unit whose thread has waited longest, in a file group with room. -/
def State.oldest (s : State) (core unit : Nat) : Option (Nat × PoolKey) :=
  oldestKey ((s.fgs.filter fun g => s.onUnit core unit g && (s.room g).isSome).flatMap fun g => s.poolOf g.id)

theorem State.ageFill_early {s : State} {core unit : Nat} (h : s.ageDue core unit = false) : s.ageFill core unit = s := by
  simp [State.ageFill, h]
theorem State.ageFill_empty {s : State} {core unit : Nat} (h : s.ageDue core unit = true)
    (ho : (s.unitEvents core unit).oldest core unit = none) : s.ageFill core unit = s.unitEvents core unit := by
  unfold State.ageFill
  rw [h, Bool.not_true, if_neg Bool.false_ne_true]
  dsimp only
  split
  case h_1 => rfl
  case h_2 found => cases ho.symm.trans found
theorem State.ageFill_takes {s : State} {core unit fg lg : Nat} {k : PoolKey} {g : FileGroup} {free : List Nat} (h : s.ageDue core unit = true)
    (ho : (s.unitEvents core unit).oldest core unit = some (fg, k)) (hg : (s.unitEvents core unit).fg? fg = some g)
    (hr : (s.unitEvents core unit).room g = some (lg, free)) :
    s.ageFill core unit =
      let x := (s.unitEvents core unit).takePath g k lg free
      { x with fills := (x.fills.filter fun e => !(e.1 = core && e.2.1 = unit)) ++ [(core, unit, x.ctl.cycle)] } := by
  unfold State.ageFill
  rw [h, Bool.not_true, if_neg Bool.false_ne_true]
  dsimp only
  split
  case h_1 none => cases ho.symm.trans none
  case h_2 found =>
    cases ho.symm.trans found
    split
    case h_1 none => cases hg.symm.trans none
    case h_2 found =>
      cases hg.symm.trans found
      split
      case h_1 none => cases hr.symm.trans none
      case h_2 found => cases hr.symm.trans found; rfl

/-! ### The fetch of a clause (R61, R76, R77, R146) -/

section
variable {s : State} {p0 : Path} (h0 : s.paths.find? (fun q => q.id = s.ev.a) = some p0) (w0 : p0.words = [])
include h0 w0

/-- The path has gone with what its threads took at the boundary. -/
theorem exec_clauseFetch_gone (hg : (s.pathEvents p0).paths.find? (fun q => q.id = (s.pathEvents p0).ev.a) = none) :
    exec .clauseFetch s = .next (s.pathEvents p0) := by
  change execClauseFetch s = _
  unfold execClauseFetch
  simp only [h0, w0, List.isEmpty_nil, if_true, hg]

variable {p : Path} (hp : (s.pathEvents p0).paths.find? (fun q => q.id = (s.pathEvents p0).ev.a) = some p) (w : p.words = [])
include hp w

theorem exec_clauseFetch_fault {x : State} {c a : Nat} (hf : (s.pathEvents p0).fetchClause p = (x, .error (.fault c a))) :
    exec .clauseFetch s = .next (x.faultPath p c (BitVec.ofNat 64 a) p.pc) := by
  change execClauseFetch s = _
  unfold execClauseFetch
  simp only [h0, w0, List.isEmpty_nil, if_true, hp, w, hf]
  rfl
theorem exec_clauseFetch_stall {x : State} {ls : List (Nat × Nat)} (hf : (s.pathEvents p0).fetchClause p = (x, .error (.stall ls))) :
    exec .clauseFetch s =
      let a := x.ask (x.asidOf p.fg) p.fg (p.lanes.headD 0) p.pc p.asked ls
      .next (a.1.setPath { p with asked := a.2 }) := by
  change execClauseFetch s = _
  unfold execClauseFetch
  simp only [h0, w0, List.isEmpty_nil, if_true, hp, w, hf]
  rfl
variable {x : State} {ws : List Word} (hf : (s.pathEvents p0).fetchClause p = (x, .ok ws)) {g : FileGroup} (hg : x.fg? p.fg = some g)
include hf hg

theorem exec_clauseFetch_refused {c : CheckFail} (hc : checkClause g.nregs ws = some c) :
    exec .clauseFetch s = .next (x.faultPath p c.code (p.pc + BitVec.ofNat 64 (4 * c.fword)) (p.pc + BitVec.ofNat 64 (4 * c.iword))) := by
  change execClauseFetch s = _
  unfold execClauseFetch
  simp only [h0, w0, List.isEmpty_nil, if_true, hp, w, hf, hg, Option.map_some, Option.getD_some, hc]
  rfl
/-- Outside a rendezvous the path's threads stand at the clause. -/
theorem exec_clauseFetch_enters (hc : checkClause g.nregs ws = none) (hr : clauseRdv ws = []) :
    exec .clauseFetch s = .next (State.setPath
      { x with threads := x.threads.map fun u => if u.fg = p.fg ∧ u.lane ∈ p.lanes then entered ws p.pc u.status u else u }
      { p with words := ws }) := by
  change execClauseFetch s = _
  unfold execClauseFetch
  simp only [h0, w0, List.isEmpty_nil, if_true, hp, w, hf, hg, Option.map_some, Option.getD_some, hc, hr]
  simp [entered]
/-- The threads of a rendezvous clause are held at its header. -/
theorem exec_clauseFetch_holds (hc : checkClause g.nregs ws = none) (hr : clauseRdv ws ≠ []) :
    exec .clauseFetch s = .next (State.dropPath { x with threads := onPath x p (entered ws p.pc .heldRdv) } p.id) := by
  have rdv : (clauseRdv ws).isEmpty = false := List.isEmpty_eq_false_iff.2 hr
  change execClauseFetch s = _
  unfold execClauseFetch
  simp only [h0, w0, List.isEmpty_nil, if_true, hp, w, hf, hg, Option.map_some, Option.getD_some, hc, rdv]
  simp [entered, onPath]
end

end Sys2Proof.Machine
end

section
/-! SUPPORT. Commits, error completions, and what memory does by itself (spec/03_encoding.md R80 to R84; spec/07_float.md R174;
spec/08_memory.md R196 to R200; spec/09_ordering.md R220). -/
namespace Sys2Proof.Machine
open Sys2Proof.Claim

/-! ### The next operation to end (R83, R84) -/

/-- The operation that comes next in the commit order is the one that is found. -/
theorem firstEnd_of_nextEnd {l : List Pending} {may : Pending → Bool} {q : Pending} (h : NextEnd l may q) : firstEnd may l = some q := by
  obtain ⟨a, b, rfl, hq, ha⟩ := h
  induction a generalizing may with
  | nil => simp [firstEnd, hq]
  | cons x a ih =>
    obtain ⟨⟨no, order⟩, ha⟩ := List.forall_mem_cons.1 ha
    rw [List.cons_append, firstEnd, no, if_neg Bool.false_ne_true]
    cases hx : x.dst.isEmpty with
    | true => exact ih hq ha
    | false =>
      -- `x` has a destination, so `q` has none, and only such operations still may end
      have free : q.dst = [] := order.resolve_right fun e => by simp [e] at hx
      exact ih (by simp [free, hq]) fun y hy => ⟨by simp [(ha y hy).1], .inl free⟩

theorem State.afterPend_thread {s : State} {t : Thread} (hw : t.win = false) : s.afterPend t = s.settleAll := by
  simp [State.afterPend, hw]

section
variable {s : State} {t : Thread} {q : Pending} (ht : s.thread? s.ev.a s.ev.b = some t) (hw : t.win = false)
include ht hw

theorem exec_longLatencyCommit_next (hc : s.ev.c = 0)
    (hq : NextEnd (s.ending t) (fun p => p.commits && !s.atSea t.fg t.lane p.uid) q) :
    exec .longLatencyCommit s = .next (s.setThread (t.commit q)).settleAll := by
  change execLongLatencyCommit s = _
  unfold execLongLatencyCommit
  simp only [ht, hc, if_true, hw, Bool.false_eq_true, if_false, firstEnd_of_nextEnd hq, State.afterPend_thread hw]
theorem exec_errorCompletion_next {e : Nat × DWord} (he : q.err = some e)
    (hq : NextEnd (s.ending t) (fun p => p.err.isSome && !s.atSea t.fg t.lane p.uid) q) :
    exec .errorCompletion s =
      .next (s.setThread { t.complete q with due := t.due ++ [{ code := e.1, addr := e.2, iaddr := q.iaddr }] }).settleAll := by
  change execErrorCompletion s = _
  unfold execErrorCompletion
  simp only [ht, hw, Bool.false_eq_true, if_false, firstEnd_of_nextEnd hq, Option.bind_some, he, Option.map_some, State.afterPend_thread hw]
theorem exec_longLatencyCommit_performs (hc : s.ev.c = q.uid + 1) (hq : q ∈ t.allPend) (one : ∀ x ∈ t.allPend, x.uid = q.uid → x = q) :
    exec .longLatencyCommit s = .next (s.perform t q s.ev.v.toNat).settleAll := by
  have found : t.allPend.find? (fun p => p.uid + 1 = s.ev.c) = some q := by
    cases h : t.allPend.find? (fun p => p.uid + 1 = s.ev.c) with
    | none => simpa [hc] using List.find?_eq_none.1 h q hq
    | some x =>
      have uid : x.uid + 1 = s.ev.c := by simpa using List.find?_some h
      rw [one x (List.mem_of_find?_eq_some h) (by omega)]
  change execLongLatencyCommit s = _
  unfold execLongLatencyCommit
  have later : s.ev.c ≠ 0 := by omega
  simp only [ht, later, if_false, found, State.afterPend_thread hw]
end

/-! ### Memory's own events (R196 to R200, R220) -/

/-- What a translation caches (R200). -/
theorem State.putTlb_tlb (s : State) (e : Tlb) (cap : Nat) :
    ∃ x, s.putTlb e cap = { s with mem := { s.mem with tlb := x } } ∧ e ∈ x := ⟨_, rfl, by simp⟩
/-- A translation changes no more than the TLBs, and its core then has what it found. -/
theorem State.translate_tlb (s : State) (core asid va : Nat) :
    ∃ x, (s.translate core asid va).1 = { s with mem := { s.mem with tlb := x } } ∧
      ∀ l, (s.translate core asid va).2 = .ok l → l.raw = false → ∃ e ∈ x, e.unit = core ∧ e.asid = asid ∧ e.leaf = l := by
  unfold State.translate
  split
  case h_1 e he =>
    have hit := List.find?_some he
    simp only [Tlb.hit, Bool.and_eq_true, decide_eq_true_eq] at hit
    refine ⟨s.mem.tlb, rfl, fun l hl _ => ⟨e, List.mem_of_find?_eq_some he, hit.1.1, hit.1.2, ?_⟩⟩
    cases hl; rfl
  case h_2 =>
    dsimp only
    split
    case h_1 e _ =>
      cases hr : e.leaf.raw with
      | true => exact ⟨s.mem.tlb, rfl, fun l hl no => by cases hl; simp [hr] at no⟩
      | false =>
        obtain ⟨x, hx, hm⟩ := s.putTlb_tlb { unit := core, asid := asid, va := va / 2 ^ e.leaf.lg * 2 ^ e.leaf.lg, leaf := e.leaf } 512
        refine ⟨x, hx, fun l hl _ => ⟨_, hm, rfl, rfl, ?_⟩⟩
        cases hl; rfl
    case h_2 =>
      split
      case h_1 l _ =>
        cases hr : l.raw with
        | true => exact ⟨s.mem.tlb, by simp, fun k hk no => by cases hk; simp [hr] at no⟩
        | false =>
          obtain ⟨y, hy, _⟩ := s.putTlb_tlb { unit := 1000 + dieOfCore core, asid := asid, va := va / 2 ^ l.lg * 2 ^ l.lg, leaf := l } 32768
          obtain ⟨x, hx, hm⟩ := ({ s with mem := { s.mem with tlb := y } } : State).putTlb_tlb
            { unit := core, asid := asid, va := va / 2 ^ l.lg * 2 ^ l.lg, leaf := l } 512
          refine ⟨x, by simp [hy, hx], fun k hk _ => ⟨_, hm, rfl, rfl, ?_⟩⟩
          cases hk; rfl
      case h_2 => exact ⟨s.mem.tlb, rfl, fun l hl => by cases hl⟩

theorem exec_bankQueueWrite {s : State} {b : Block} {q : BankStore} (hb : s.block? s.ev.a = some b)
    (hq : b.bankQ.find? (fun q => q.bank = s.ev.b) = some q) :
    exec .bankQueueWrite s = .next (s.setBlock { b with scratch := patch b.scratch q.off q.bytes, bankQ := b.bankQ.erase q }) := by
  change execBankQueueWrite s = _
  unfold execBankQueueWrite
  simp only [hb, Block.drainBank, hq]
theorem exec_cacheWriteBack_l1 {s : State} {x : Line} (ha : s.ev.a = 0)
    (hx : s.mem.l1.find? (fun y => y.unit = s.ev.b && y.pa = s.ev.v.toNat && y.leaf.buf = s.ev.c) = some x) :
    exec .cacheWriteBack s =
      let z := s.wbL1Line x
      .next { z with mem := { z.mem with l1 := z.mem.l1.filter fun y => !y.is x.unit x.pa x.asid x.leaf.buf } } := by
  change execCacheWriteBack s = _
  unfold execCacheWriteBack
  simp only [ha, if_true, hx]
theorem exec_cacheWriteBack_slice {s : State} {x : Line} (ha : s.ev.a ≠ 0)
    (hx : s.mem.slice.find? (fun y => y.unit = s.ev.b && y.pa = s.ev.v.toNat && y.leaf.buf = s.ev.c) = some x) :
    exec .cacheWriteBack s =
      let z := s.wbSliceLine x
      .next (if s.lineHeld x then s
        else { z with mem := { z.mem with slice := z.mem.slice.filter fun y => !y.is x.unit x.pa x.asid x.leaf.buf } }) := by
  change execCacheWriteBack s = _
  unfold execCacheWriteBack
  simp only [ha, if_false, hx]
  cases s.lineHeld x <;> rfl

end Sys2Proof.Machine
end

section
/-! SUPPORT. A state in which two paths bear one identity (spec/03_encoding.md R63). -/
namespace Sys2Proof.Machine
open Sys2Proof.Claim

/-- An ADD of two registers, the first of two instructions of its clause. -/
def twinClause : List Word :=
  0xA0000200 :: encode (.add { d := 4, a := 2, fn := 0, ib := 0, ic := 0, gn := 0, gp := 7, b := 6, c := 0, ty := 6, rm := 0, st := 0, u := 0 })
def twinPath (fg : Nat) : Path := { id := 3, fg := fg, lanes := [0], pc := 0x1000, words := twinClause }
def twinThread (fg : Nat) : Thread := { fg := fg, lane := 0, status := .issuing, pc := 0x1000, npc := 0x100C, v := List.replicate 32 0 }
def twinGroup (id : Nat) : FileGroup := { id := id, blk := 2, num := 0, unit := 0, n := 1, nregs := 32, m := List.replicate 12 1 }
/-- Two lane groups of one SIMD unit, each ready to issue, on two paths that bear the same identity; the first has given up its slot. -/
def twins : State :=
  { State.reset with
    threads := [twinThread 1, twinThread 9], fgs := [twinGroup 1, twinGroup 9], paths := [twinPath 1, twinPath 9]
    blocks := [{ id := 2, node := 0, num := 0, clu := 0, core := 0, asid := 5, regs := 32 }]
    yields := [(1, 0)], agenda := [.issue 3], uid := 10 }
/-- The issue slots given up, after an outcome. -/
def yieldsOf : Host.Outcome State Fault Refusal → List (Nat × Nat)
  | .next s => s.yields
  | _ => []

theorem twins_chosen : Chosen twins (.issue 3) [] (twinPath 1) := by
  have own (l : Nat) (hl : l ∈ (twinPath 1).lanes) (t : Thread) (ht : twins.thread? (twinPath 1).fg l = some t) : t = twinThread 1 := by
    obtain rfl : l = 0 := List.mem_singleton.1 hl
    exact (Option.some.inj ht).symm
  refine ⟨rfl, by decide, rfl, fun l hl t ht => by rw [own l hl t ht]; rfl, .inr fun l hl t ht => ?_, by decide +kernel⟩
  rw [own l hl t ht]
  decide +kernel
/-- The second lane group is ready, so the first must let it issue. -/
theorem twins_mustYield : twins.mustYield (twinPath 1) = true := by decide +kernel
/-- The first issues all the same: its unit's slots are given up no longer. -/
theorem twins_issues : yieldsOf (step twins) = [] := by decide +kernel
/-- Had nothing issued, its slot would still be given up. -/
theorem twins_kept : yieldsOf (stepEnd twins (.next (State.toHead { twins.tick with agenda := [] } (twinPath 1)))) = [(1, 0)] := by decide +kernel

end Sys2Proof.Machine
end

section
/-! What is claimed of the encoding, of branches, and of clauses, commits and steps (spec/03_encoding.md; spec/06_control.md R151). -/
namespace Sys2Proof.Machine
open Sys2Proof.Claim

/-- Settles O58: row by row, by the words of each format as numbers. -/
theorem encodeDecode : Obligations.EncodeDecode :=
  ⟨fun _ r hw => decode_encode hw r, fun _ _ _ _ => encode_of_decode⟩

/-- Settles O11: where every target is a multiple of 4 a branch is issued like a meaning that cannot trap (`issueEach_congr`). -/
theorem branches : Obligations.Branches := by
  refine ⟨fun i g link tgt s p hb hi ha hp => ?_, fun i g link tgt s p t hb h ha => ?_⟩
  · exact ⟨_, exec_branch hb s, branchEach_ends hi hp (branch_reads hb s p) ha⟩
  · exact (exec_branch hb s).trans (congrArg Host.Outcome.next (branchEach_traps h (branch_reads hb s p) ha))

theorem clauseFetchEvent_met : clauseFetchEvent := by
  rintro s p0 e p x h0 w0 rfl
  refine ⟨exec_clauseFetch_gone h0 w0, fun hp w => ⟨fun ws hf ⟨g, hg, hc⟩ same => ?_, fun ws g c hf hg => exec_clauseFetch_refused h0 w0 hp w hf hg,
    fun c a hf => exec_clauseFetch_fault h0 w0 hp w hf, fun ls hf => exec_clauseFetch_stall h0 w0 hp w hf⟩⟩
  have hg : x.fg? p.fg = some g := by rw [← hg, State.fg?, State.fg?, same]
  exact ⟨fun hr => ⟨_, exec_clauseFetch_enters h0 w0 hp w hf hg hc hr, rfl, rfl⟩,
    fun hr => ⟨_, exec_clauseFetch_holds h0 w0 hp w hf hg hc hr, rfl, rfl⟩⟩
theorem boundaryEvents_met : boundaryEvents := by
  refine ⟨fun s g hg => ?_, fun s fg l t b ht hb h => State.boundaryEvent_idle ht hb h, fun s fg l t b ht ha hb hm hs => ?_,
    fun s h => ⟨fun ho => ?_, fun g fg k lg free ho hg hr => ?_⟩, fun s h => ?_⟩
  · change execClauseBoundary s = _
    unfold execClauseBoundary
    simp only [hg]
    rfl
  · refine ⟨fun d r => State.boundaryEvent_error ht ha hb hm hs, State.boundaryEvent_stop ht ha hb hm hs,
      State.boundaryEvent_critical ht ha hb hm hs, fun c hd h hi hr hv hc hp hst hid ht' => ?_⟩
    have due : s.milestoneDue t = some c := State.milestoneDue_some hi ht' hr hv hc hp hst
    have taken := State.boundaryEvent_milestone ht ha hb hm hs hd h due
    exact ⟨fun h0 => taken.trans (if_pos h0), fun h0 => taken.trans (if_neg h0)⟩
  · exact congrArg Host.Outcome.next (State.ageFill_empty h ho)
  · exact congrArg Host.Outcome.next (State.ageFill_takes h ho hg hr)
  · exact congrArg Host.Outcome.next (State.ageFill_early h)
/-- Settles O44, outcome of the fetch by outcome, and event due at a boundary by event. -/
theorem clauseEvents : Obligations.ClauseEvents := ⟨clauseFetchEvent_met, boundaryEvents_met⟩

theorem commitEvents_met : commitEvents := by
  refine ⟨fun s t q ht hw hc hq => exec_longLatencyCommit_next ht hw hc hq, fun s t q e ht hw he hq => exec_errorCompletion_next ht hw he hq,
    fun s t q ht hw hc hq one => exec_longLatencyCommit_performs ht hw hc hq one⟩
theorem memoryEvents_met : memoryEvents := by
  refine ⟨fun s b q hb hq => exec_bankQueueWrite hb hq,
    fun s x => ⟨fun ha hx => exec_cacheWriteBack_l1 ha hx, fun ha hx => ⟨fun h => ?_, fun h => ?_⟩⟩, fun s => ?_⟩
  · exact (exec_cacheWriteBack_slice ha hx).trans (congrArg Host.Outcome.next (if_neg (by simp [h])))
  · exact (exec_cacheWriteBack_slice ha hx).trans (congrArg Host.Outcome.next (if_pos h))
  · obtain ⟨x, hx, found⟩ := s.translate_tlb s.ev.a s.ev.b (s.ev.v.toNat % 2 ^ 48)
    exact ⟨x, hx, congrArg Host.Outcome.next hx, found⟩
/-- Settles O45: the commit order finds the operation that `NextEnd` names (`firstEnd_of_nextEnd`); a translation changes the TLBs
alone (`State.translate_tlb`). -/
theorem commitAndMemoryEvents : Obligations.CommitAndMemoryEvents := ⟨commitEvents_met, memoryEvents_met⟩

/-- Refutes O59, in its clause on a path whose lane group gave up its slot while another is ready: nothing there says that paths bear
different identities. In `twins` both bear 3; the choice of the first takes the second off the list of paths (`State.toHead`), so that
no other lane group is ready any more, and the ADD issues and the slot is given up no longer. -/
theorem not_stepRuns : ¬ Obligations.StepRuns := by
  rintro ⟨issue, _⟩
  have found : twins.paths.find? (fun p => p.id = 3) = some (twinPath 1) := rfl
  have claimed := (issue twins 3 [] (twinPath 1) _ 1 twins_chosen found (by rfl)).2 twins_mustYield
  have slots := congrArg yieldsOf claimed
  rw [twins_issues, twins_kept] at slots
  cases slots

/-- Settles O60: each instruction is well-formed and encodes to the words, so they decode to it (`decode_words`). -/
theorem decodedWords : Obligations.DecodedWords := by
  refine ⟨?_, ?_, ?_, ?_, ?_, ?_, ?_, ?_, ?_, ?_, ?_, ?_, ?_, ?_, ?_⟩
  all_goals exact decode_words (by decide) (by decide)

end Sys2Proof.Machine
end

section
/-! SUPPORT. An instruction outside its rights row (spec/04_system.md R89): however it is issued, a path of one thread traps. -/
namespace Sys2Proof.Machine
open Sys2Proof.Claim

/-- The path that issues has one thread, in a context that the row of rights excludes. -/
structure Excluded (s : State) (p : Path) (r : Rights) (t : Thread) : Prop where
  head  : s.paths.head? = some p
  lanes : p.lanes = [t.lane]
  found : s.thread? p.fg t.lane = some t
  out   : r.ok (authOf (s.asidOf p.fg)) = false

/-- The 0x4001 trap of that thread, of which the path is left. -/
def State.rightsTrap (s : State) (p : Path) (t : Thread) : State :=
  (s.takeTrap { t with pc := p.pc, idx := p.idx } 0x4001 s.noAddr p.iaddr true).advance p []

section
variable {s : State} {p : Path} {r : Rights} {t : Thread} (h : Excluded s p r t)
include h

theorem Excluded.paths : ∃ rest, s.paths = p :: rest := List.head?_eq_some_iff.1 h.head

theorem Excluded.issueLane (g : Guard) (f : State → Thread → Res) :
    issueLane r g p f (s, []) t.lane = (s.takeTrap { t with pc := p.pc, idx := p.idx } 0x4001 s.noAddr p.iaddr true, []) := by
  unfold Machine.issueLane
  simp only [h.found, h.out, Bool.not_false, if_true]

theorem Excluded.issueEach (g : Guard) (f : Path → State → Thread → Res) : issueEach s r g f = s.rightsTrap p t := by
  obtain ⟨rest, hp⟩ := h.paths
  unfold Machine.issueEach
  simp only [hp, h.lanes, List.foldl_cons, List.foldl_nil, h.issueLane]
  rfl

theorem Excluded.issueOnce (g : Guard) (f : Path → State → List Thread → OnceRes) : issueOnce s r g f = s.rightsTrap p t := by
  obtain ⟨rest, hp⟩ := h.paths
  unfold Machine.issueOnce
  simp only [hp, h.lanes, h.out, List.foldl_cons, List.foldl_nil, h.issueLane, Bool.not_false, Bool.true_or, if_true]
  rfl

/-- No operand is asked for. -/
theorem Excluded.issueOps (g : Guard) (f : Path → State → Thread → Res) : issueOps s r g f = s.rightsTrap p t := by
  obtain ⟨rest, hp⟩ := h.paths
  have quiet : opAsks s r g p (f p) = [] := by
    unfold opAsks
    simp [h.out]
  unfold Machine.issueOps
  simp only [hp, quiet]
  exact h.issueEach g f

end

/-! ### The instructions of one authority -/

section
variable {s : State} {p : Path} {t : Thread}

/-- An instruction of copy is first checked for its rights, before the producer and the window. -/
theorem Excluded.issueCopy (h : Excluded s p rightsOwn t) (f : FmtL) (perPath : Bool) (bad : State → Thread → Bool)
    (go : Path → State → List Thread → State) : issueCopy s f perPath bad go = s.rightsTrap p t := by
  obtain ⟨rest, hp⟩ := h.paths
  unfold Machine.issueCopy
  simp only [hp, h.out, Bool.not_false, if_true]
  exact h.issueEach f.guard _
theorem Excluded.issueShared (h : Excluded s p rightsOwn t) (f : FmtL) (todo : State → Thread → List (Nat × Nat) → Todo) :
    issueShared s f todo = s.rightsTrap p t := by
  obtain ⟨rest, hp⟩ := h.paths
  unfold Machine.issueShared
  simp only [hp, h.out, Bool.not_false, if_true]
  exact h.issueEach f.guard _
theorem Excluded.issueMatrix (h : Excluded s p rightsOwn t) (f : FmtL) (op : Nat) : issueMatrix s f op = s.rightsTrap p t := by
  obtain ⟨rest, hp⟩ := h.paths
  unfold Machine.issueMatrix
  simp only [hp, h.out, Bool.not_false, if_true]
  exact h.issueEach f.guard _
theorem Excluded.cpcan (h : Excluded s p rightsOwn t) (f : FmtL) : exec (.cpcan f) s = .next (s.rightsTrap p t) := by
  obtain ⟨rest, hp⟩ := h.paths
  refine congrArg Host.Outcome.next ?_
  simp only [hp, h.out, Bool.not_false, if_true]
  exact h.issueEach f.guard _
theorem Excluded.oclaim (h : Excluded s p rightsOwn t) (f : FmtL) : exec (.oclaim f) s = .next (s.rightsTrap p t) := by
  obtain ⟨rest, hp⟩ := h.paths
  refine congrArg Host.Outcome.next ?_
  simp only [hp, h.out, Bool.not_false, if_true]
  exact h.issueEach f.guard _
/-- A plane that is not drained stalls only a thread of the operator. -/
theorem Excluded.planemapMap (h : Excluded s p rightsOpr t) (f : FmtZ) : exec (.planemapMap f) s = .next (s.rightsTrap p t) := by
  obtain ⟨rest, hp⟩ := h.paths
  change execPlanemapMap f s = _
  unfold execPlanemapMap
  have none : ((s.executing p f.guard).any fun _ => false) = false := by simp
  simp only [hp, h.out, Bool.false_and, none, Bool.false_eq_true, if_false]
  exact congrArg Host.Outcome.next (h.issueEach f.guard _)

theorem Excluded.exec_owners {i : Instr} (hi : ownersOnly i = true) (h : Excluded s p rightsOwn t) :
    exec i s = .next (s.rightsTrap p t) := by
  cases i with
  | tret f | mapack f | kdrop f | nlaunch f | nwait f | bind f | unbind f | tdrop f | tquery f =>
    exact congrArg Host.Outcome.next (h.issueEach f.guard _)
  | kwrapGive f | kwrapTake f | attestCtx f | scrubVirt f => exact congrArg Host.Outcome.next (h.issueOps f.guard _)
  | gang f | orel f => exact congrArg Host.Outcome.next (h.issueOnce f.guard _)
  | tdef f | tseal f => exact congrArg Host.Outcome.next (h.issueShared f _)
  | cpb f | cpt f | cpl f | cpa f => exact congrArg Host.Outcome.next (h.issueCopy f _ _ _)
  | mma f | mmag f | mmas f | accz f => exact congrArg Host.Outcome.next (h.issueMatrix f _)
  | cpcan f => exact h.cpcan f
  | oclaim f => exact h.oclaim f
  | _ => cases hi
theorem Excluded.exec_operators {i : Instr} (hi : operatorsOnly i = true) (h : Excluded s p rightsOpr t) :
    exec i s = .next (s.rightsTrap p t) := by
  cases i with
  | tretRec f | ctxsaveSeal f | ctxsaveReset f | rankmapSet f | planemapShare f | planemapRetrain f | paritycfgSet f | paritycfgRebuild f
  | paritycfgGet f | placeRsv f | placeFree f | placeClose f | placeOpen f | preempt f | slicesetAssign f | slicesetTarget f
  | slicesetMove f | slicesetPool f | dirtysw f => exact congrArg Host.Outcome.next (h.issueEach f.guard _)
  | ctxloadImage f | ctxloadNew f | ctxloadResume f | kwrapEscrow f | kdropErase f | attestModule f | scrubPhys f =>
    exact congrArg Host.Outcome.next (h.issueOps f.guard _)
  | planemapMap f => exact h.planemapMap f
  | _ => cases hi
theorem Excluded.exec_auditors {i : Instr} (hi : auditorsOnly i = true) (h : Excluded s p rightsAud t) :
    exec i s = .next (s.rightsTrap p t) := by
  cases i with
  | cntrd f | cntcfg f | moncfg f | monrd f => exact congrArg Host.Outcome.next (h.issueEach f.guard _)
  | _ => cases hi

/-- Any other row admits the operator and the owners. -/
theorem rowOf_shared {i : Instr} {a : Auth} (ho : ownersOnly i = false) (hp : operatorsOnly i = false) (hu : auditorsOnly i = false)
    (ha : a ≠ .auditor) : (rowOf i).ok a = true := by
  unfold rowOf
  simp only [ho, hp, hu, Bool.false_eq_true, if_false]
  cases a with
  | auditor => exact absurd rfl ha
  | operator | owner => split <;> rfl

end
end Sys2Proof.Machine
end

section
/-! SUPPORT. Traps: which operation takes a fault, and what each leaves (spec/04_system.md R96, R97, R100). -/
namespace Sys2Proof.Machine
open Sys2Proof.Claim

/-! ### Owner traps (R96, R97) -/

section
variable {s : State} {t : Thread} {code : Nat} {addr iaddr : DWord} {mid : Bool}

/-- A fault of no operator code, in a thread of no window, is the owner's (R96). -/
theorem State.takeTrap_own (hw : t.win = false) (hc : code ≠ 0xA001) (ho : oprCode code = false) :
    s.takeTrap t code addr iaddr mid = s.takeOwn t code addr iaddr mid := by
  unfold State.takeTrap
  rw [hw, if_neg Bool.false_ne_true, if_neg hc, ho, if_neg Bool.false_ne_true]

/-- The thread at the entry of its handler. -/
def Thread.atEntry (t : Thread) (vec : DWord) (code : Nat) (addr iaddr : DWord) (mid : Bool) : Thread :=
  t.enter vec code addr iaddr (resumeWord t.pc (if mid then t.idx else 0)) mid
/-- In a thread of the operator a fault enters OPR_VEC, unless it is a double fault or OPR_VEC is 0 (assumption log 9). -/
theorem State.takeOwn_operator (ha : s.asidOf t.fg = oprAsid) : s.takeOwn t code addr iaddr mid =
    if t.trap.inH || s.ctl.oprVec.getD (dieOfCore (s.coreOf t.fg)) 0 = 0 then s.restartCore (dieOfCore (s.coreOf t.fg))
    else s.setThread (t.atEntry (s.ctl.oprVec.getD (dieOfCore (s.coreOf t.fg)) 0) code addr iaddr mid) := by
  unfold State.takeOwn
  rw [if_pos ha]
  rfl

variable {c : Ctx} {b : Block} (ha : s.asidOf t.fg ≠ oprAsid) (hc : s.ctx? (s.asidOf t.fg) = some c) (hb : s.blockOf t.fg = some b)
  (hr : b.run = 0)
include ha hc hb hr

/-- What an owner trap does in a thread of a block that is no re-run. -/
theorem State.takeOwn_owner : s.takeOwn t code addr iaddr mid =
    if t.trap.inH then s.endContext (s.asidOf t.fg) 0xB020 code
    else if c.trapVec = 0 then if code = 0xB001 then s else s.endContext (s.asidOf t.fg) 0xB021 0
    else
      let x := (s.setThread (t.atEntry c.trapVec code addr iaddr mid)).countFault b.node
      if code = 0xB001 then x.countEv (s.asidOf t.fg) 7 1 else x := by
  unfold State.takeOwn
  simp only [if_neg ha, hc, hb]
  rw [if_neg (not_not.2 hr)]
  rfl

/-- Entry writes the thread, and beside it counts the trap in the node and in the event counters. -/
theorem State.takeOwn_enters (hi : t.trap.inH = false) (hv : c.trapVec ≠ 0) : ∃ pool cnt, s.takeOwn t code addr iaddr mid =
    { s.setThread (t.atEntry c.trapVec code addr iaddr mid) with
      sched := { s.sched with pool := pool }, ctl := { s.ctl with cntVal := cnt } } := by
  rw [State.takeOwn_owner ha hc hb hr, hi, if_neg Bool.false_ne_true, if_neg hv]
  dsimp only
  split <;> exact ⟨_, _, rfl⟩

end

/-! ### Operator traps (R100) -/

/-- The record of an operator trap of one thread, as its store holds it. -/
def State.holdRecord (s : State) (core asid code n page : Nat) : OprRec :=
  { die := if recCore core = 0xFFFF then 0 else dieOfCore core, code := code, asid := if asid < 1024 then asid else 0xFFFF
    core := recCore core, hold := n, time := s.ctl.devTime, threads := 1, page := page }
/-- Where no hold of this step stands, an operator trap makes a hold and a record of its own. -/
theorem State.takeOpr_alone {s : State} (hn : ∀ h ∈ s.opr.held, h.tick ≠ s.ticks) (t : Thread) (code page : Nat) :
    s.takeOpr t code page 0xFF 0xFF =
      ({ s with opr := { s.opr with
          held := s.opr.held ++ [{ hold := s.opr.pickHold, code := code, asid := s.asidOf t.fg, tick := s.ticks, pc := t.pc
                                   threads := [(t.fg, t.lane)] }]
          nextHold := (s.opr.pickHold + 1) % 65535
          waiting := s.opr.waiting ++ [s.holdRecord (s.coreOf t.fg) (s.asidOf t.fg) code s.opr.pickHold page] } } : State).setThread
        { t with status := .oprHeld s.opr.pickHold } := by
  have alone : s.opr.held.find? (fun h => h.tick = s.ticks && h.code = code && h.asid = s.asidOf t.fg && h.pc = t.pc) = none := by
    refine List.find?_eq_none.2 fun h hh => ?_
    simp [hn h hh]
  unfold State.takeOpr State.holdFor
  rw [alone]
  rfl
/-- A fault of an operator code, but for a vector shadow mismatch, is the operator's (R96). -/
theorem State.takeTrap_operator {s : State} {t : Thread} {code : Nat} (hw : t.win = false) (hc : code ≠ 0xA001) (ho : oprCode code = true)
    (addr iaddr : DWord) (mid : Bool) : s.takeTrap t code addr iaddr mid =
      s.takeOpr t code (if code = 0x3010 || code = 0x3020 then addr.toNat / 65536 * 65536 else 0) 0xFF 0xFF := by
  unfold State.takeTrap
  rw [hw, if_neg Bool.false_ne_true, if_neg hc, ho, if_pos rfl]

end Sys2Proof.Machine
end

section
/-! SUPPORT. TRET: what returns a thread from its handler, and where it goes (spec/04_system.md R93, R99, R106). -/
namespace Sys2Proof.Machine
open Sys2Proof.Claim

/-! ### The thread that comes to its TRET -/

@[simp] theorem moved_inH (p : Path) (t : Thread) : (moved p t).trap.inH = t.trap.inH := by
  unfold moved Thread.passed; dsimp only; split <;> rfl
@[simp] theorem moved_record (p : Path) (t : Thread) : (moved p t).trap.record = t.trap.record := by
  unfold moved Thread.passed; dsimp only; split <;> rfl
@[simp] theorem moved_resume (p : Path) (t : Thread) : (moved p t).trap.resume = t.trap.resume := by
  unfold moved Thread.passed; dsimp only; split <;> rfl
@[simp] theorem moved_entryResume (p : Path) (t : Thread) : (moved p t).trap.entryResume = t.trap.entryResume := by
  unfold moved Thread.passed; dsimp only; split <;> rfl

/-! ### FLT_RESUME (R93) -/

/-- The index is the top four bits. -/
theorem resume_index (r : DWord) : r >>> 60 = 0 ↔ r.toNat / 2 ^ 60 = 0 := by
  rw [BitVec.toNat_eq, BitVec.toNat_ushiftRight, Nat.shiftRight_eq_div_pow]
  rfl
/-- The clause address is bits [56:2]. -/
theorem resume_clause (r : DWord) : r &&& 0x01FFFFFFFFFFFFFC#64 = BitVec.ofNat 64 (r.toNat % 2 ^ 57 / 4 * 4) := by
  have mask : ∀ i < 64, (0x01FFFFFFFFFFFFFC#64).getLsbD i = (decide (2 ≤ i) && decide (i < 57)) := by decide
  refine BitVec.eq_of_getLsbD_eq fun i hi => ?_
  rw [BitVec.getLsbD_and, mask i hi, BitVec.getLsbD_ofNat, show 4 = 2 ^ 2 from rfl, Nat.testBit_mul_two_pow, Nat.testBit_div_two_pow,
    Nat.testBit_mod_two_pow, ← BitVec.getLsbD.eq_1]
  by_cases h : 2 ≤ i
  · rw [Nat.sub_add_cancel h]
    simp [hi, h, Bool.and_comm]
  · simp [h]

/-! ### What TRET makes of its thread (R99) -/

/-- Operations whose windows are over. -/
def closed (l : List Pending) : List Pending := l.map fun q => { q with left := 0 }
/-- TRAP_STATE out of the handler. -/
def TrapRegs.out (r : TrapRegs) : TrapRegs := { r with inH := false, crit := false, count := 0, record := none }
/-- Back where it was, with what entry saved. -/
def Thread.back (t : Thread) (r : TrapRecord) : Thread :=
  { t with trap := t.trap.out, ret := some r, pend := r.pend ++ closed t.pend, sb := List.zipWith (· + ·) r.sb t.sb, due := r.due ++ t.due }
/-- On at the clause that a moved FLT_RESUME names. -/
def Thread.backTo (t : Thread) (r : TrapRecord) : Thread :=
  { t with
    trap := t.trap.out, npc := BitVec.ofNat 64 (t.trap.resume.toNat % 2 ^ 57 / 4 * 4), after := .pooled
    pend := closed r.pend ++ closed t.pend, sb := List.zipWith (· + ·) r.sb t.sb, due := r.due ++ t.due }

theorem Thread.tret_outside {t : Thread} (h : t.trap.inH = false ∨ t.trap.record = none) : t.tret = .trap 0x4005 := by
  unfold Thread.tret
  obtain h | h := h
  · rw [h]
  · rw [h]
    cases t.trap.inH <;> rfl

section
variable {t : Thread} {r : TrapRecord} (hi : t.trap.inH = true) (hr : t.trap.record = some r)
include hi hr

theorem Thread.tret_back (h : t.trap.resume = t.trap.entryResume) : t.tret = .ok (t.back r) := by
  unfold Thread.tret
  rw [hi, hr]
  exact if_pos h
theorem Thread.tret_index (h : t.trap.resume ≠ t.trap.entryResume) (hx : t.trap.resume.toNat / 2 ^ 60 ≠ 0) : t.tret = .trap 0x4008 := by
  unfold Thread.tret
  rw [hi, hr]
  exact (if_neg h).trans (if_pos (mt (resume_index _).1 hx))
theorem Thread.tret_backTo (h : t.trap.resume ≠ t.trap.entryResume) (hx : t.trap.resume.toNat / 2 ^ 60 = 0) : t.tret = .ok (t.backTo r) := by
  unfold Thread.tret
  rw [hi, hr]
  refine (if_neg h).trans ((if_neg (not_not.2 ((resume_index _).2 hx))).trans ?_)
  rw [resume_clause]
  rfl

end

/-- At the boundary a thread that has returned stands as the record says (R99). -/
theorem State.endThread_returned {s : State} {fg l : Nat} {t : Thread} {r : TrapRecord} (ht : s.thread? fg l = some t)
    (hr : t.ret = some r) (hd : t.trapDue = none) : ∃ u, (s.endThread fg l).thread? fg l = some u ∧
      u.pc = r.pc ∧ u.idx = r.idx ∧ u.t = r.t ∧ u.status = r.status ∧ u.inst = r.inst ∧ u.words = r.words ∧ u.pend = t.pend ∧ u.v = t.v := by
  obtain ⟨kf, kl⟩ := thread?_key ht
  unfold State.endThread
  simp only [ht, hr, hd]
  generalize hs : (if t.hIssue = true then s else s.retireClause fg) = x
  have found : x.thread? fg l = some t := by
    rw [← hs]
    split
    · exact ht
    · exact (State.thread?_retireClause s fg fg l).trans ht
  exact ⟨_, State.thread?_setThread_mk x _ fg l kf kl ⟨t, found⟩, rfl, rfl, rfl, rfl, rfl, rfl, rfl, rfl⟩

/-! ### TRET issued -/

section
variable {s : State} {p : Path} {t : Thread} {f : FmtZ} (h : Alone s p rightsOwn f.guard t)
include h

theorem tret_traps {c : Nat} (ht : (moved p t).tret = .trap c) : Traps (.tret f) s p t c s.noAddr :=
  traps_each rfl h (by rw [ht]; rfl)
/-- A thread that goes back to its fault point leaves its grouping with the others as it is. -/
theorem tret_done_back {r : TrapRecord} (ht : (moved p t).tret = .ok ((moved p t).back r)) :
    Done (.tret f) s p t ((s.begun p t).setThread ((moved p t).back r)) :=
  done_each rfl h (by rw [ht]; dsimp only [Thread.back]; split <;> simp_all)
/-- One that goes elsewhere leaves it. -/
theorem tret_done_backTo {r : TrapRecord} (hr : t.trap.record = some r) (hn : t.ret = none)
    (ht : (moved p t).tret = .ok ((moved p t).backTo r)) :
    Done (.tret f) s p t (((s.begun p t).setThread ((moved p t).backTo r)).leaveInst r.inst [t.lane]) :=
  done_each rfl h (by
    have nowhere : ((moved p t).backTo r).ret = none := hn
    simp only [ht, moved_record, hr, nowhere, moved_lane])

end
end Sys2Proof.Machine
end

section
/-! SUPPORT. Where an instruction's effect begins, and its authority; control registers: which context an access means, and what CRD and
CWR answer (spec/04_system.md R87, R92, R107). -/
namespace Sys2Proof.Machine
open Sys2Proof.Claim

/-! ### The state in which an instruction's effect begins -/

@[simp] theorem begun_map (s : State) (p : Path) (t : Thread) : (s.begun p t).map = s.map := rfl
@[simp] theorem begun_mem (s : State) (p : Path) (t : Thread) : (s.begun p t).mem = s.mem := rfl
@[simp] theorem begun_hasSlots (s : State) (p : Path) (t : Thread) (k : Nat) : (s.begun p t).hasSlots k = s.hasSlots k := rfl
@[simp] theorem begun_bufRec (s : State) (p : Path) (t : Thread) (k : Nat) : (s.begun p t).bufRec k = s.bufRec k := rfl

/-! ### The authority of its path (R87, R89) -/

/-- Who issues where only the operator may. -/
theorem Alone.operator {s : State} {p : Path} {g : Guard} {t : Thread} (h : Alone s p rightsOpr g t) : s.asidOf p.fg = oprAsid := by
  have ok := h.issues.rights
  unfold authOf at ok
  by_contra other
  rw [if_neg other] at ok
  split at ok <;> cases ok

/-- What the operator alone, or the owners alone, may issue, both may where the row has both. -/
theorem Alone.shared {s : State} {p : Path} {r : Rights} {g : Guard} {t : Thread} (h : Alone s p r g t) (hr : r.aud = false) :
    Alone s p rightsAll g t := by
  refine h.rights ?_
  have ok := h.issues.rights
  cases ha : authOf (s.asidOf p.fg) with
  | operator | owner => rfl
  | auditor =>
    rw [ha] at ok
    exact absurd ok (by simp [Rights.ok, hr])
/-- The row of a register that the auditor may read too. -/
theorem Alone.every {s : State} {p : Path} {g : Guard} {t : Thread} (h : Alone s p rightsAll g t) : Alone s p rightsEvery g t :=
  h.rights (by cases authOf (s.asidOf p.fg) <;> rfl)
theorem Alone.no_auditor {s : State} {p : Path} {g : Guard} {t : Thread} (h : Alone s p rightsAll g t) : authOf (s.asidOf p.fg) ≠ .auditor := by
  intro ha
  have ok := h.issues.rights
  rw [ha] at ok
  cases ok
theorem begun_noSide {s : State} {p : Path} {r : Rights} {g : Guard} {t : Thread} (h : Alone s p r g t) (hs : s.sideless p.fg = true) :
    (s.begun p t).sideless (moved p t).fg = true := by
  rw [moved_fg, h.fg]
  exact hs

/-! ### The context that an access means (R107) -/

theorem State.crCtx_none {s : State} {t : Thread} {cr i need : Nat} {given : Option Nat} (h : ∀ row, crRow cr = some row → row.n ≤ i) :
    s.crCtx t cr i need given = .error 0x4004 := by
  unfold State.crCtx
  cases hr : crRow cr with
  | none => rfl
  | some row => exact if_pos (h row hr)

section
variable {s : State} {t : Thread} {cr i need : Nat} {row : CrRow} (hr : crRow cr = some row) (hi : i < row.n)
include hr hi

theorem State.crCtx_rights {given : Option Nat} (h : row.may (authOf (s.asidOf t.fg)) < need) : s.crCtx t cr i need given = .error 0x4002 := by
  unfold State.crCtx
  simp only [hr]
  rw [if_neg (Nat.not_le.2 hi), if_pos h]
/-- An owner means its own context. -/
theorem State.crCtx_owner (ha : authOf (s.asidOf t.fg) = .owner) (h : need ≤ row.own) :
    s.crCtx t cr i need none = .ok (s.ctx? (s.asidOf t.fg)) := by
  unfold State.crCtx
  simp only [hr, ha]
  exact (if_neg (Nat.not_le.2 hi)).trans (if_neg (Nat.not_lt.2 h))
/-- The operator means no context, but in C scope. -/
theorem State.crCtx_operator (ha : authOf (s.asidOf t.fg) = .operator) (h : need ≤ row.opr) (hs : row.scope ≠ .c) :
    s.crCtx t cr i need none = .ok none := by
  unfold State.crCtx
  simp only [hr, ha]
  refine (if_neg (Nat.not_le.2 hi)).trans ((if_neg (Nat.not_lt.2 h)).trans ?_)
  cases hc : row.scope with
  | c => exact absurd hc hs
  | m | d | k | t => rfl
/-- There it must name one. -/
theorem State.crCtx_named {k : Nat} {c : Ctx} (ha : authOf (s.asidOf t.fg) = .operator) (h : need ≤ row.opr) (hs : row.scope = .c)
    (hc : s.ctx? k = some c) : s.crCtx t cr i need (some k) = .ok (some c) := by
  unfold State.crCtx
  simp only [hr, ha, hs, hc]
  exact (if_neg (Nat.not_le.2 hi)).trans (if_neg (Nat.not_lt.2 h))

end

/-! ### CRD and CWR issued -/

section
variable {s : State} {p : Path} {t : Thread} {f : FmtZ} (h : Alone s p rightsAll f.guard t)
include h

/-- The context that operand A names: none for %zero (R107). -/
theorem crd_eq {x : Except Nat (Option Ctx)} (hx : (s.begun p t).crCtx (moved p t) f.cr.toNat f.imm.toNat 1
      (if f.a.toNat = 248 then none else some (regL s t f.a.toNat 1)) = x) :
    match x with
    | .error c => Traps (.crd f) s p t c s.noAddr
    | .ok c => Done (.crd f) s p t (wrote (s.begun p t) t f.d (natWords ((s.begun p t).crRead (moved p t) (c.getD { asid := 0 })
        (dieOfCore (s.coreOf p.fg)) f.cr.toNat f.imm.toNat) (crRegs f.cr.toNat))) := by
  cases x with
  | error c =>
    refine traps_z (x := s.begun p t) rfl h.every ?_
    simp only [regL_at, hx]
  | ok c =>
    refine done_z rfl h.every ?_
    simp only [regL_at, hx, moved_fg, h.fg, begun_coreOf]
theorem cwr_eq {x : Except Nat (Option Ctx)} (hx : (s.begun p t).crCtx (moved p t) f.cr.toNat f.imm.toNat 2 none = x) :
    match x with
    | .error c => Traps (.cwr f) s p t c s.noAddr
    | .ok _ =>
      let die := dieOfCore (s.coreOf p.fg)
      let b := (s.begun p t).crWrite (moved p t) (s.asidOf p.fg) die f.cr.toNat (regL s t f.a.toNat (crRegs f.cr.toNat))
      let u := (b.thread? p.fg t.lane).getD (moved p t)
      Done (.cwr f) s p t (wrote b t f.d (natWords (b.crRead u ((b.ctx? (s.asidOf p.fg)).getD { asid := 0 }) die f.cr.toNat f.imm.toNat)
        (crRegs f.cr.toNat))) := by
  cases x with
  | error c =>
    refine traps_z (x := s.begun p t) rfl h ?_
    simp only [hx]
  | ok c =>
    refine done_z rfl h ?_
    simp only [hx, regL_at, moved_fg, moved_lane, h.fg, begun_coreOf, begun_asidOf]

end
end Sys2Proof.Machine
end

section
/-! SUPPORT. Counters, monitors and event posts (spec/04_system.md R116, R118, R119; spec/17_links.md R393). -/
namespace Sys2Proof.Machine
open Sys2Proof.Claim

/-! ### Counters (R116) -/

/-- An event adds to the counters configured for it, and they saturate. -/
theorem State.countEv_counter (s : State) (asid ev n : Nat) {k : Nat} (hk : k < s.ctl.cntVal.length) :
    (s.countEv asid ev n).ctl.cntVal.getD k 0 =
      let c := (s.ctl.cntCfg.getD k 0).toNat
      let v := s.ctl.cntVal.getD k 0
      if bit c 31 && bits c 0 16 = ev && (bit c 30 || bits c 32 10 = asid) then Nat.min (v + n) (2 ^ 64 - 1) else v := by
  simp only [State.countEv, List.getD_eq_getElem?_getD, List.getElem?_mapIdx, List.getElem?_eq_getElem hk, Option.map_some, Option.getD_some]

section
variable {s : State} {p : Path} {t : Thread} {f : FmtZ} (h : Alone s p rightsAud f.guard t)
include h

theorem cntrd_done (hk : regL s t f.a.toNat 1 + f.imm.toNat ≤ 63) :
    Done (.cntrd f) s p t (wrote (s.begun p t) t f.d (natWords (s.ctl.cntVal.getD (regL s t f.a.toNat 1 + f.imm.toNat) 0) 2)) :=
  done_z rfl h (by simp only [regL_at]; rw [if_neg (Nat.not_lt.2 hk)]; rfl)
theorem cntrd_traps (hk : 63 < regL s t f.a.toNat 1 + f.imm.toNat) : Traps (.cntrd f) s p t 0x4004 s.noAddr :=
  traps_z (x := s.begun p t) rfl h (by simp only [regL_at]; rw [if_pos hk])
theorem cntcfg_traps (hk : 63 < f.imm.toNat) : Traps (.cntcfg f) s p t 0x4004 s.noAddr :=
  traps_z (x := s.begun p t) rfl h (if_pos hk)

/-! ### Monitors (R118) -/

theorem moncfg_traps (hk : 255 < f.imm.toNat) : Traps (.moncfg f) s p t 0x4004 s.noAddr := traps_each rfl h (if_pos hk)
theorem monrd_traps (hk : 255 < regL s t f.a.toNat 1 ∨ 18 < f.imm.toNat) : Traps (.monrd f) s p t 0x4004 s.noAddr :=
  traps_z (x := s.begun p t) rfl h (by simp only [regL_at]; rw [if_pos (by simpa using hk)])

end

theorem Mon.item_bin (m : Mon) (k : Nat) : m.item (3 + k) = m.bins.getD k 0 := by
  rw [Nat.add_comm]
  rfl
/-- A sample is counted in its bin alone. -/
theorem Mon.take_bin (m : Mon) (v : Nat) {k : Nat} (hk : k < m.bins.length) :
    (m.take v).item (3 + k) = m.item (3 + k) + if k = m.bin v then 1 else 0 := by
  simp only [Mon.item_bin, Mon.take, List.getD_eq_getElem?_getD, List.getElem?_modify, List.getElem?_eq_getElem hk, Option.map_some,
    Option.map_eq_map, Option.getD_some]
  by_cases h : k = m.bin v
  · rw [if_pos h, if_pos h.symm]
  · rw [if_neg h, if_neg (Ne.symm h)]
    rfl

/-! ### Event posts (R119, R393) -/

section
variable (s : State) {v : Vf} (bs : List Byte)

theorem State.post_disabled (h : v.evrEn = false) : s.post (some v) bs = (s, 2) := by
  unfold State.post
  simp only [h, Bool.not_false, if_true]
theorem State.post_discarded (he : v.evrEn = true) (hn : v.num % 64 ≠ 0) (hs : v.state = 3) :
    s.post (some v) bs = (s.setVf (v.discard 1), 0) := by
  unfold State.post
  simp [he, hn, hs]
theorem State.post_open (he : v.evrEn = true) (h : v.num % 64 = 0 ∨ v.state ≠ 3) :
    s.post (some v) bs = if v.evrRoom then (s.writeEvent v bs, 0) else (s, 1) := by
  have up : (decide (v.num % 64 ≠ 0) && decide (v.state = 3)) = false := by
    obtain h | h := h <;> simp [h]
  unfold State.post
  simp only [he, up, Bool.not_true, Bool.false_eq_true, if_false]
  cases v.evrRoom <;> rfl

end
end Sys2Proof.Machine
end

section
/-! SUPPORT. Sealing, ending and loading contexts (spec/04_system.md R109, R110). -/
namespace Sys2Proof.Machine
open Sys2Proof.Claim

section
variable {s : State} {p : Path} {t : Thread} {f : FmtL} (h : Alone s p rightsOpr f.guard t)
include h

/-! ### CTXSAVE (R109) -/

/-- A context that is neither running nor paused is not sealed. -/
theorem ctxsaveSeal_refused (hc : ∀ c, s.ctx? (regL s t f.a.toNat 1) = some c → c.state ≠ 1 ∧ c.state ≠ 3) :
    Done (.ctxsaveSeal f) s p t (status2 (s.begun p t) p t f 0xB011) := by
  refine done_each rfl h ?_
  simp only [regL_at, begun_ctx]
  cases hx : s.ctx? (regL s t f.a.toNat 1) with
  | none => rfl
  | some c =>
    obtain ⟨running, paused⟩ := hc c hx
    simp only [running, paused]
    rfl
/-- The seal waits for its context to stop, and is finished at once where it has. -/
theorem ctxsaveSeal_begins {c : Ctx} {x : State} {ps : List Piece} (hc : s.ctx? (regL s t f.a.toNat 1) = some c) (hs : c.state = 1 ∨ c.state = 3)
    (hx : (s.begun p t).check (s.coreOf p.fg) (s.asidOf p.fg) .wr (regL s t f.b.toNat 2) ((s.begun p t).sealLen (regL s t f.a.toNat 1)) =
      (x, .ok ps)) :
    let q := (x.stopBlocks fun b => b.asid = regL s t f.a.toNat 1).pendU (moved p t) { fmtLPend f p 2 with todo := .wait }
    Done (.ctxsaveSeal f) s p t (State.settleAll { q.2 with sched := { q.2.sched with seals := q.2.sched.seals ++
      [{ fg := p.fg, lane := t.lane, uid := q.1, asid := regL s t f.a.toNat 1, addr := regL s t f.b.toNat 2 }] } }) := by
  have ok : (decide (c.state = 1) || decide (c.state = 3)) = true := by simpa using hs
  refine done_each rfl h ?_
  simp only [regL_at, begun_ctx, hc, ok, moved_fg, moved_lane, h.fg, begun_coreOf, begun_asidOf, hx]
  rfl
theorem ctxsaveReset_ends {c : Ctx} (hc : s.ctx? (regL s t f.a.toNat 1) = some c) (h0 : c.state ≠ 0) (h5 : c.state ≠ 5) :
    let q := ((s.begun p t).endContext (regL s t f.a.toNat 1) 0xB022 0).pendU (moved p t) { fmtLPend f p 2 with todo := .wait }
    Done (.ctxsaveReset f) s p t (q.2.modCtx (regL s t f.a.toNat 1) fun c => { c with endWait := c.endWait ++ [q.1] }) := by
  have live : (decide (c.state ≠ 0) && decide (c.state ≠ 5)) = true := by simp [h0, h5]
  refine done_each rfl h ?_
  simp only [regL_at, begun_ctx, hc, live]
  rfl

/-! ### CTXLOAD (R110) -/

/-- What CTXLOAD.image answers once its context may take one and the image has been read, in the order of the checks. -/
theorem ctxloadImage_answers {c : Ctx} {x y z : State} {hd img : List Byte} {st : Nat} (hc : s.ctx? (regL s t f.a.toNat 1) = some c)
    (hs : c.state = 2 ∨ c.state = 4) (slots : s.hasSlots (regL s t f.a.toNat 1) = true)
    (hx : (s.begun p t).opRead (moved p t) p.iaddr (regL s t f.b.toNat 2) 64 = (x, .ok hd))
    (hy : x.opRead (moved p t) p.iaddr (regL s t f.b.toNat 2) (Nat.min (field hd 32 8) (2 ^ 39)) = (y, .ok img))
    (hz : (match openImage c.key img with
      | none => (y, Except.ok [0xB012])
      | some text =>
        if field hd 8 2 ≠ regL s t f.a.toNat 1 then (y, .ok [0xB012])
        else if field hd 16 8 ≠ c.saveSeq then (y, .ok [0xB013])
        else (y.restore c text, .ok [0]) : State × Except OpStop (List Nat)) = (z, .ok [st])) :
    Done (.ctxloadImage f) s p t (arrives z p t f 1 [st]) := by
  have may : (decide (c.state ≠ 2) && decide (c.state ≠ 4)) = false := by
    obtain hs | hs := hs <;> simp [hs]
  refine done_long rfl h ?_ rfl
  simp only [regL_at, begun_ctx, hc, may, begun_hasSlots, slots, hx, hy]
  exact hz
theorem ctxloadNew_refused {c : Ctx} (hc : s.ctx? (regL s t f.a.toNat 1) = some c) :
    Done (.ctxloadNew f) s p t (arrives (s.begun p t) p t f 1 [0xB011]) := by
  refine done_long rfl h ?_ rfl
  simp only [regL_at, begun_ctx, hc, Option.isSome_some, Bool.or_true, if_true]
theorem ctxloadNew_creates {x : State} {r : List Byte} (ha : regL s t f.a.toNat 1 ≤ 1023) (hc : s.ctx? (regL s t f.a.toNat 1) = none)
    (hx : (s.begun p t).opRead (moved p t) p.iaddr (regL s t f.b.toNat 2) 1280 = (x, .ok r)) :
    Done (.ctxloadNew f) s p t (arrives { x with fresh := x.fresh + 1, ctxs := x.ctxs ++
      [{ asid := regL s t f.a.toNat 1, state := 1, meas := shakeB r 64, rmapAck := x.map.version, recKey := r.take 1184
         key := Config.freshKey x.fresh % 2 ^ 256, part := field r 1184 2 }] } p t f 1 [0]) := by
  have free : (decide (1023 < regL s t f.a.toNat 1) || (s.ctx? (regL s t f.a.toNat 1)).isSome) = false := by simpa [hc] using ha
  refine done_long rfl h ?_ rfl
  simp only [regL_at, begun_ctx, free, hx]
  rfl
theorem ctxloadResume_runs {c : Ctx} (hc : s.ctx? (regL s t f.a.toNat 1) = some c) (hs : c.state = 3)
    (slots : s.hasSlots (regL s t f.a.toNat 1) = true) :
    Done (.ctxloadResume f) s p t (arrives (((s.begun p t).unseen (regL s t f.a.toNat 1) true).modCtx (regL s t f.a.toNat 1) fun c =>
      { c with state := 1, milePending := true, grace := none }) p t f 1 [0]) := by
  refine done_long rfl h ?_ rfl
  simp only [regL_at, begun_ctx, hc, hs, begun_hasSlots, slots]
  rfl
theorem ctxloadResume_slotless {c : Ctx} (hc : s.ctx? (regL s t f.a.toNat 1) = some c) (hs : c.state = 3)
    (slots : s.hasSlots (regL s t f.a.toNat 1) = false) :
    Done (.ctxloadResume f) s p t (arrives (s.begun p t) p t f 1 [0xB010]) := by
  refine done_long rfl h ?_ rfl
  simp only [regL_at, begun_ctx, hc, hs, begun_hasSlots, slots]
  rfl

end

/-! ### The blocks that this module sealed stand again (R110) -/

theorem State.ctx?_modCtx {s : State} {asid : Nat} {f : Ctx → Ctx} (hf : ∀ c, (f c).asid = c.asid) :
    (s.modCtx asid f).ctx? asid = (s.ctx? asid).map f := by
  unfold State.ctx? State.modCtx
  rw [find_map_key _ _ _ fun c => by split <;> simp [hf]]
  refine Option.map_congr fun c hc => ?_
  have named : c.asid = asid := by simpa using List.find?_some hc
  exact if_pos named
@[simp] theorem State.unseen_blocks (s : State) (asid : Nat) (due : Bool) : (s.unseen asid due).blocks = s.blocks := by
  unfold State.unseen; split <;> rfl
@[simp] theorem State.unseen_ctxs (s : State) (asid : Nat) (due : Bool) : (s.unseen asid due).ctxs = s.ctxs := by
  unfold State.unseen; split <;> rfl

/-- A block of the context that stands sealed. -/
def Block.unsealed (asid stop : Nat) (b : Block) : Block :=
  if b.asid = asid ∧ b.place = Place.sealed then { b with place := .stopped, stopSeq := stop } else b
/-- The context of a restored image. -/
def Ctx.restored (due : Bool) (c : Ctx) : Ctx := { c with state := 1, escrow := none, grace := none, milePending := due }

/-- The blocks that this module sealed of a context stand again, stopped. -/
def State.unseal (a : State) (asid : Nat) : State :=
  { a with blocks := a.blocks.map (Block.unsealed asid a.sched.stopSeq), sched := { a.sched with stopSeq := a.sched.stopSeq + 1 } }
/-- The context of an image goes on, with a milestone where VERSION has moved since. -/
def State.goOn (a : State) (c : Ctx) : State :=
  (a.modCtx c.asid (Ctx.restored (c.rmapAck ≠ a.map.version))).unseen c.asid (c.rmapAck ≠ a.map.version)

theorem State.ctx?_goOn {a : State} {c d : Ctx} (hd : a.ctx? c.asid = some d) :
    (a.goOn c).ctx? c.asid = some (d.restored (c.rmapAck ≠ a.map.version)) := by
  have changed := State.ctx?_modCtx (s := a) (asid := c.asid) (f := Ctx.restored (c.rmapAck ≠ a.map.version)) fun _ => rfl
  rw [hd] at changed
  unfold State.goOn State.ctx?
  rw [State.unseen_ctxs]
  exact changed

section
variable {a : State} {c : Ctx} {text : List Byte} {i : SealedImage}
  (hi : a.images.find? (fun i => i.asid = c.asid && i.seq = c.saveSeq && i.text = text) = some i)
include hi

/-- An image that this module sealed is found by its plaintext; its function may raise the MSI-X that travelled in it. -/
theorem State.restore_sealed : a.restore c text =
    match (if i.msix then ((a.unseal c.asid).goOn c).vfFor c.asid else none) with
    | some v => ((a.unseal c.asid).goOn c).setVf v.raise
    | none => (a.unseal c.asid).goOn c := by
  unfold State.restore
  simp only [hi]
  rfl
theorem State.restore_blocks : (a.restore c text).blocks = a.blocks.map (Block.unsealed c.asid a.sched.stopSeq) := by
  have blocks : ((a.unseal c.asid).goOn c).blocks = a.blocks.map (Block.unsealed c.asid a.sched.stopSeq) := State.unseen_blocks _ _ _
  rw [State.restore_sealed hi]
  split <;> exact blocks
theorem State.restore_ctx {d : Ctx} (hd : a.ctx? c.asid = some d) :
    (a.restore c text).ctx? c.asid = some (d.restored (c.rmapAck ≠ a.map.version)) := by
  have ctx : ((a.unseal c.asid).goOn c).ctx? c.asid = some (d.restored (c.rmapAck ≠ a.map.version)) :=
    State.ctx?_goOn (a := a.unseal c.asid) hd
  rw [State.restore_sealed hi]
  split <;> exact ctx

end
end Sys2Proof.Machine
end

section
/-! SUPPORT. System instructions with operands in memory (spec/04_system.md R104): attestation and scrubbing (R113, R115). -/
namespace Sys2Proof.Machine
open Sys2Proof.Claim

/-! ### What a meaning with operands in memory does in a path of one thread (R104) -/

section
variable {i : Instr} {s : State} {p : Path} {r : Rights} {t : Thread}

theorem done_ops {g : Guard} {f : Path → State → Thread → Res} {x : State} (he : exec i s = .next (issueOps s r g f))
    (h : Alone s p r g t) (hf : f p (s.begun p t) (moved p t) = .ok x) : Done i s p t x :=
  done_each (he.trans (congrArg _ (issueOps_alone h fun _ => by rw [hf]; exact nofun))) h hf
theorem traps_ops {g : Guard} {f : Path → State → Thread → Res} {c : Nat} {a : DWord} (he : exec i s = .next (issueOps s r g f))
    (h : Alone s p r g t) (hf : f p (s.begun p t) (moved p t) = .trap c a) : Traps i s p t c a :=
  traps_each (he.trans (congrArg _ (issueOps_alone h fun _ => by rw [hf]; exact nofun))) h hf

variable {f : FmtL} {n : Nat} {go : Path → State → Thread → State × Except OpStop (List Nat)} {x : State}
  (he : exec i s = .next (issueLong s f r n go)) (h : Alone s p r f.guard t)
include he h

/-- An operand that cannot be read or written traps with a class 0x3 code. -/
theorem traps_long {c e : Nat} (hg : go p (s.begun p t) (moved p t) = (x, .error (.fault c e))) : Traps i s p t c (BitVec.ofNat 64 e) :=
  traps_ops he h (by simp only [hg]; rfl)
/-- Any other code is the instruction's status. -/
theorem done_status {c : Nat} (hn : n = 1) (hg : go p (s.begun p t) (moved p t) = (x, .error (.status c))) :
    Done i s p t (arrives (s.begun p t) p t f 1 [c]) := by
  subst hn
  refine done_ops he h ?_
  simp only [hg, OpStop.res, arrives, moved_fg, moved_lane, begun_found h]
  rfl

end

/-! ### Attestation (R113) -/

section
variable {i : Instr} {s : State} {p : Path} {r : Rights} {t : Thread} {f : FmtL} {kind : Nat} {x : State}
  (he : exec i s = .next (issueAttest s f r kind)) (h : Alone s p r f.guard t)
include he h

theorem attest_reports {y : State} {nonce : List Byte} (hx : (s.begun p t).opRead (moved p t) p.iaddr (regL s t f.b.toNat 2) 32 = (x, .ok nonce))
    (hy : x.opWrite (moved p t) (regL s t f.a.toNat 2) (x.report kind (if kind = 1 then s.asidOf p.fg else 0xFFFF) nonce
      (if kind = 1 then ((s.ctx? (s.asidOf p.fg)).map (·.meas)).getD [] else [])) = (y, .ok ())) :
    Done i s p t (arrives y p t f 1 [0]) := by
  refine done_long he h ?_ rfl
  simp only [regL_at, hx, moved_fg, h.fg, begun_asidOf, begun_ctx, hy]
theorem attest_traps {c e : Nat} (hx : (s.begun p t).opRead (moved p t) p.iaddr (regL s t f.b.toNat 2) 32 = (x, .error (.fault c e))) :
    Traps i s p t c (BitVec.ofNat 64 e) :=
  traps_long (x := x) he h (by simp only [regL_at, hx])
theorem attest_status {c : Nat} (hx : (s.begun p t).opRead (moved p t) p.iaddr (regL s t f.b.toNat 2) 32 = (x, .error (.status c))) :
    Done i s p t (arrives (s.begun p t) p t f 1 [c]) :=
  done_status (x := x) he h rfl (by simp only [regL_at, hx])

end

/-! ### Scrubbing (R115) -/

/-- A page of a run of another kind than device memory; one that is not mapped writable. -/
def pageElsewhere (e : Nat × Except Nat Leaf) : Bool := match e.2 with | .ok l => l.kind ≠ 0 | .error _ => false
def pageUnwritable (e : Nat × Except Nat Leaf) : Bool := match e.2 with | .ok l => !l.w | .error _ => true
/-- Its fault. -/
def pageFault (e : Nat × Except Nat Leaf) : Option (Nat × Nat) :=
  match e.2 with
  | .error _ => some (0x3002, e.1)
  | .ok l => if l.w then none else some (0x3002, e.1)
/-- A page of a run set scrub-pending. -/
def State.scrubPage (s : State) (e : Nat × Except Nat Leaf) : State :=
  match e.2 with
  | .ok l => s.setScrub ((l.addr + e.1 % 2 ^ 48 % 2 ^ l.lg) / 65536)
  | .error _ => s
/-- What SCRUB.virt answers of the pages of its range. -/
def scrubRun (r : State × List (Nat × Except Nat Leaf)) : State × Except OpStop (List Nat) :=
  if r.2.any pageElsewhere then (r.1, .ok [1])
  else
    match r.2.findSome? pageFault with
    | some e => (r.1, .error (.fault e.1 e.2))
    | none => (r.2.foldl State.scrubPage r.1, .ok [0])
/-- What SCRUB.virt answers. -/
def scrubVirt (f : FmtL) (s : State) (t : Thread) : State × Except OpStop (List Nat) :=
  if regL s t f.b.toNat 1 = 0 || 65536 < regL s t f.b.toNat 1 || regL s t f.a.toNat 2 % 65536 ≠ 0 then (s, .ok [1])
  else scrubRun (s.leavesOf t (regL s t f.b.toNat 1) (regL s t f.a.toNat 2))
theorem exec_scrubVirt (f : FmtL) (s : State) : exec (.scrubVirt f) s = .next (issueLong s f rightsOwn 1 fun _ => scrubVirt f) := rfl

theorem pageFault_eq (e : Nat × Except Nat Leaf) : pageFault e = if pageUnwritable e then some (0x3002, e.1) else none := by
  obtain ⟨va, _ | l⟩ := e
  · rfl
  · change (if l.w then none else some (0x3002, va)) = if !l.w then some (0x3002, va) else none
    cases l.w <;> rfl
theorem findSome_pageFault (l : List (Nat × Except Nat Leaf)) :
    l.findSome? pageFault = (l.find? pageUnwritable).map fun e => (0x3002, e.1) := by
  induction l with
  | nil => rfl
  | cons e l ih =>
    rw [List.findSome?_cons, List.find?_cons, pageFault_eq]
    cases pageUnwritable e with
    | true => rfl
    | false => exact ih
theorem pageElsewhere_iff {r : State × List (Nat × Except Nat Leaf)} :
    r.2.any pageElsewhere = true ↔ ∃ e ∈ r.2, ∃ l : Leaf, e.2 = .ok l ∧ l.kind ≠ 0 := by
  rw [List.any_eq_true]
  refine exists_congr fun e => and_congr_right fun _ => ?_
  obtain ⟨va, _ | l⟩ := e <;> simp [pageElsewhere]

section
variable {r : State × List (Nat × Except Nat Leaf)}

theorem scrubRun_elsewhere (h : ∃ e ∈ r.2, ∃ l : Leaf, e.2 = .ok l ∧ l.kind ≠ 0) : scrubRun r = (r.1, .ok [1]) :=
  if_pos (pageElsewhere_iff.2 h)

variable (h : ¬∃ e ∈ r.2, ∃ l : Leaf, e.2 = .ok l ∧ l.kind ≠ 0)
include h

theorem scrubRun_faults {e : Nat × Except Nat Leaf} (he : r.2.find? pageUnwritable = some e) : scrubRun r = (r.1, .error (.fault 0x3002 e.1)) := by
  refine (if_neg (mt pageElsewhere_iff.1 h)).trans ?_
  rw [findSome_pageFault, he]
  rfl
theorem scrubRun_scrubs {ls : List (Nat × Leaf)} (hl : r.2 = ls.map fun e => (e.1, Except.ok e.2)) (hw : ∀ e ∈ ls, e.2.w = true) :
    scrubRun r = (ls.foldl (fun s e => s.setScrub ((e.2.addr + e.1 % 2 ^ 48 % 2 ^ e.2.lg) / 65536)) r.1, .ok [0]) := by
  have writable : r.2.find? pageUnwritable = none := by
    rw [hl]
    simpa [pageUnwritable] using hw
  refine (if_neg (mt pageElsewhere_iff.1 h)).trans ?_
  rw [findSome_pageFault, writable, hl, List.foldl_map]
  rfl

end

/-- A page is scrub-pending once it is set so. -/
theorem State.scrubPending_setScrub (s : State) (pa : Nat) : (s.setScrub (pa / 65536)).scrubPending pa = true := by
  unfold State.scrubPending State.setScrub
  dsimp only
  split
  · assumption
  · simp
/-- It reads as zeros at its controller (R205). -/
theorem State.ctlRead_setScrub (s : State) {pa : Nat} (hp : s.poisoned pa = false) (asid : Nat) (l : Leaf) (va : Nat) :
    (s.setScrub (pa / 65536)).ctlRead asid l va pa = some (List.replicate 16 0) := by
  have sound : (s.setScrub (pa / 65536)).poisoned pa = false := hp
  unfold State.ctlRead
  rw [sound, if_neg Bool.false_ne_true, State.scrubPending_setScrub, if_pos rfl]

section
variable {s : State} {p : Path} {t : Thread} {f : FmtL}

theorem scrubVirt_malformed
    (hr : ¬(0 < regL s t f.b.toNat 1 ∧ regL s t f.b.toNat 1 ≤ 65536 ∧ regL s t f.a.toNat 2 % 65536 = 0)) :
    scrubVirt f (s.begun p t) (moved p t) = (s.begun p t, .ok [1]) := by
  unfold scrubVirt
  simp only [regL_at]
  exact if_pos (by simp; omega)
/-- A well-formed range answers what its pages say. -/
theorem scrubVirt_run (hr : 0 < regL s t f.b.toNat 1 ∧ regL s t f.b.toNat 1 ≤ 65536 ∧ regL s t f.a.toNat 2 % 65536 = 0) :
    scrubVirt f (s.begun p t) (moved p t) =
      scrubRun ((s.begun p t).leavesOf (moved p t) (regL s t f.b.toNat 1) (regL s t f.a.toNat 2)) := by
  unfold scrubVirt
  simp only [regL_at]
  exact if_neg (by simp; omega)

theorem scrubPhys_malformed (h : Alone s p rightsOpr f.guard t)
    (hr : ¬(0 < regL s t f.b.toNat 1 ∧ regL s t f.b.toNat 1 ≤ 65536 ∧ regL s t f.a.toNat 2 + regL s t f.b.toNat 1 ≤ 2 ^ 23)) :
    Done (.scrubPhys f) s p t (arrives (s.begun p t) p t f 1 [1]) := by
  refine done_long rfl h ?_ rfl
  simp only [regL_at]
  rw [if_pos (by simp; omega)]
/-- A well-formed range of which live contexts map a page, or none. -/
theorem scrubPhys_answers (h : Alone s p rightsOpr f.guard t)
    (hr : 0 < regL s t f.b.toNat 1 ∧ regL s t f.b.toNat 1 ≤ 65536 ∧ regL s t f.a.toNat 2 + regL s t f.b.toNat 1 ≤ 2 ^ 23)
    {x : State} {st : Nat}
    (hx : (if ((List.range (regL s t f.b.toNat 1)).map (regL s t f.a.toNat 2 + ·)).any (inPages (s.livePages 0xFFFFFFFF)) then
        (s.begun p t, Except.ok [0x4007])
      else (((List.range (regL s t f.b.toNat 1)).map (regL s t f.a.toNat 2 + ·)).foldl State.setScrub (s.begun p t), .ok [0]) :
        State × Except OpStop (List Nat)) = (x, .ok [st])) :
    Done (.scrubPhys f) s p t (arrives x p t f 1 [st]) := by
  refine done_long rfl h ?_ rfl
  simp only [regL_at]
  rw [if_neg (by simp; omega)]
  exact hx

end
end Sys2Proof.Machine
end

section
/-! SUPPORT. Key wrapping, escrow and key drops (spec/04_system.md R111, R112). -/
namespace Sys2Proof.Machine
open Sys2Proof.Claim

/-! ### KWRAP.give and .take (R111) -/

/-- A page of a buffer, as KWRAP.give looks for its key. -/
def State.bufLeaf (s : State) (buf : Nat) : Leaf :=
  { lg := 16, addr := 0, kind := 0, r := true, w := true, x := false, buf := buf, br := s.bufRec buf }
/-- The blob of a wrapped key (assumption log 12). -/
def giveBlob (buf dest : Nat) (c : Ctx) (key : Nat) : List Byte :=
  padTo 128 (toBytes 2 buf ++ toBytes 2 dest ++ toBytes 4 0 ++ c.meas.take 8 ++ (keyWrap (wrapKey c) (natBytes 64 key)).map (BitVec.ofNat 8))
/-- A state that has a key taken from a blob, in a slot of its own. -/
def State.takeKey (x : State) (asid k key : Nat) (blob : List Byte) : State :=
  { x with mem := { x.mem with keySlots := x.mem.keySlots ++ [{ num := k, key := key, owner := asid, buf := some (field blob 0 2) }] } }

/-- What KWRAP.take makes of a blob, given what its wrapped key opens to and which slot is free. -/
def State.takeBlob (x : State) (p : Path) (t : Thread) (f : FmtL) (asid : Nat) (c : Ctx) (blob : List Byte) (opened : Option (List Nat))
    (slot : Option Nat) : State :=
  match opened with
  | some key =>
    if field blob 2 2 = asid ∧ slice blob 8 8 = c.meas.take 8 then
      match slot with
      | some k => ends (x.takeKey asid k (bytesNat key) blob) p t f 2 [0, k]
      | none => status2 x p t f 0x4007
    else status2 x p t f 0xB012
  | none => status2 x p t f 0xB012

section
variable {s : State} {p : Path} {t : Thread} {f : FmtL} {x : State} (h : Alone s p rightsOwn f.guard t)
include h

theorem kwrapGive_wraps {c : Ctx} {key : Nat} (hs : s.sideless p.fg = false) (hb : regL s t f.a.toNat 1 ≤ 65535)
    (hv : (s.bufRec (regL s t f.a.toNat 1)).ok = true) (ho : (s.bufRec (regL s t f.a.toNat 1)).owner = s.asidOf p.fg)
    (hc : s.ctx? (regL s t f.c.toNat 1) = some c)
    (hk : ((s.begun p t).ensureKey (s.asidOf p.fg) (s.bufLeaf (regL s t f.a.toNat 1))).keyOf (s.asidOf p.fg)
      (s.bufLeaf (regL s t f.a.toNat 1)) = some key)
    (hx : ((s.begun p t).ensureKey (s.asidOf p.fg) (s.bufLeaf (regL s t f.a.toNat 1))).opWrite (moved p t) (regL s t f.b.toNat 2)
      (giveBlob (regL s t f.a.toNat 1) (regL s t f.c.toNat 1) c key) = (x, .ok ())) :
    Done (.kwrapGive f) s p t (status2 x p t f 0) := by
  have mine : (decide (65535 < regL s t f.a.toNat 1) || !(s.bufRec (regL s t f.a.toNat 1)).ok ||
      decide ((s.bufRec (regL s t f.a.toNat 1)).owner ≠ s.asidOf p.fg)) = false := by simp [hv, ho, Nat.not_lt.2 hb]
  unfold State.bufLeaf at hk hx
  unfold giveBlob at hx
  refine done_ops rfl h ?_
  simp only [regL_at, moved_fg, h.fg, begun_sideless, hs, begun_bufRec, begun_asidOf, mine, begun_ctx, hc, hk, hx,
    Bool.false_eq_true, if_false]
  rfl
theorem kwrapGive_sideless (hs : s.sideless p.fg = true) : Traps (.kwrapGive f) s p t 0x4001 s.noAddr :=
  traps_ops rfl h (if_pos (begun_noSide h hs))

theorem kwrapTake_done {c : Ctx} {blob : List Byte} (hs : s.sideless p.fg = false)
    (hx : (s.begun p t).opRead (moved p t) p.iaddr (regL s t f.b.toNat 2) 128 = (x, .ok blob)) (hc : s.ctx? (s.asidOf p.fg) = some c) :
    Done (.kwrapTake f) s p t (x.takeBlob p t f (s.asidOf p.fg) c blob (keyUnwrap (wrapKey c) ((slice blob 16 72).map (·.toNat)))
      x.freeSlot) := by
  refine done_ops rfl h ?_
  -- of an unknown function nothing is computed; `id` keeps it unknown where the kernel checks the steps
  generalize keyUnwrap = unwrap
  revert unwrap
  refine id fun unwrap => ?_
  simp only [regL_at, moved_fg, h.fg, begun_sideless, hs, begun_asidOf, begun_ctx, hc, hx, Bool.false_eq_true, if_false]
  cases unwrap (wrapKey c) ((slice blob 16 72).map (·.toNat)) with
  | none => rfl
  | some key =>
    unfold State.takeBlob
    dsimp only
    by_cases mine : field blob 2 2 = s.asidOf p.fg ∧ slice blob 8 8 = c.meas.take 8
    · rw [if_pos mine, if_neg (by simp [mine])]
      cases x.freeSlot <;> rfl
    · rw [if_neg mine, if_pos (by simpa [or_iff_not_imp_left] using mine)]
      rfl
theorem kwrapTake_sideless (hs : s.sideless p.fg = true) : Traps (.kwrapTake f) s p t 0x4001 s.noAddr :=
  traps_ops rfl h (if_pos (begun_noSide h hs))

end

/-! ### KWRAP.escrow (R111) -/

/-- The blob of an escrow: sealed to the module of the report, and to the owner's recovery key. -/
def State.escrowBlob (x : State) (c : Ctx) (rep : List Byte) : List Byte :=
  blobOf (Config.encapsulate (slice rep 256 1184) x.fresh (x.escrowed c).bytes) (Config.encapsulate c.recKey (x.fresh + 1) (x.escrowed c).bytes)

section
variable {s : State} {p : Path} {t : Thread} {f : FmtL} (h : Alone s p rightsOpr f.guard t) {c : Ctx} {x : State} {rep : List Byte}
  (hc : s.ctx? (regL s t f.a.toNat 1) = some c) (hs : c.state = 2)
  (hx : (s.begun p t).opRead (moved p t) p.iaddr (regL s t f.b.toNat 2) 10240 = (x, .ok rep))
include h hc hs hx

/-- A report of another kind than a module's, or one that is not verified, is refused. -/
theorem kwrapEscrow_refused (hr : field rep 8 2 ≠ 2 ∨ x.reportOk rep (slice rep 16 32) = false) :
    Done (.kwrapEscrow f) s p t (arrives x p t f 2 [0xB014, x.anyWord]) := by
  have bad : (decide (field rep 8 2 ≠ 2) || !x.reportOk rep (slice rep 16 32)) = true := by simpa using hr
  have sealed : ¬c.state ≠ 2 := not_not.2 hs
  refine congrArg Host.Outcome.next (issueLong_done (ws := [0xB014]) h ?_)
  simp only [regL_at, begun_ctx, hc, sealed, if_false, hx, bad, if_true]
theorem kwrapEscrow_escrows {y : State} (hr : field rep 8 2 = 2) (ok : x.reportOk rep (slice rep 16 32) = true)
    (hy : x.opWrite (moved p t) (regL s t f.c.toNat 2) (x.escrowBlob c rep) = (y, .ok ())) :
    Done (.kwrapEscrow f) s p t (arrives ({ y with fresh := y.fresh + 2 }.modCtx (regL s t f.a.toNat 1) fun d =>
      { d with state := 4, escrow := some { dest := slice rep 1440 1952, hash := shakeB (x.escrowBlob c rep) 48 } }) p t f 2
        [0, (x.escrowBlob c rep).length]) := by
  have good : (decide (field rep 8 2 ≠ 2) || !x.reportOk rep (slice rep 16 32)) = false := by simp [hr, ok]
  have sealed : ¬c.state ≠ 2 := not_not.2 hs
  have blob : blobOf (Config.encapsulate (slice rep 256 1184) x.fresh (x.escrowed c).bytes)
      (Config.encapsulate c.recKey (x.fresh + 1) (x.escrowed c).bytes) = x.escrowBlob c rep := rfl
  refine done_long rfl h ?_ rfl
  simp only [regL_at, begun_ctx, hc, sealed, if_false, hx, good, Bool.false_eq_true, blob, hy]

end

/-! ### KWRAP.import (R111) -/

/-- The receipt of an import: the bytes that it signs, and their signature. -/
def importReceipt (e : Escrowed) (blob : List Byte) : List Byte :=
  receiptBody e.asid e.seq (shakeB blob 48) ++ padTo 3309 (Config.sign (receiptBody e.asid e.seq (shakeB blob 48)))

section
variable {s : State} {p : Path} {t : Thread} {f : FmtL} (h : Alone s p rightsAll f.guard t)
include h

theorem kwrapImport_taken (hs : s.sideless p.fg = false) (ho : s.asidOf p.fg = oprAsid)
    (ha : 1023 < regL s t f.a.toNat 1 ∨ ∃ c, s.ctx? (regL s t f.a.toNat 1) = some c) :
    Done (.kwrapImport f) s p t (status2 (s.begun p t) p t f 0xB011) := by
  have taken : (decide (s.asidOf p.fg = oprAsid) && (decide (1023 < regL s t f.a.toNat 1) || (s.ctx? (regL s t f.a.toNat 1)).isSome)) = true := by
    simpa [ho, Option.isSome_iff_exists] using ha
  refine done_ops rfl h ?_
  simp only [regL_at, moved_fg, h.fg, begun_sideless, hs, begun_asidOf, begun_ctx, taken, Bool.false_eq_true, if_false, if_true]
  rfl

/-- The blob of an import, read in two steps, by an owner or for an ASID that is free. -/
structure Imports (s : State) (p : Path) (t : Thread) (f : FmtL) (y : State) (blob : List Byte) : Prop where
  side : s.sideless p.fg = false
  free : s.asidOf p.fg = oprAsid → regL s t f.a.toNat 1 ≤ 1023 ∧ s.ctx? (regL s t f.a.toNat 1) = none
  read : ∃ x hd, (s.begun p t).opRead (moved p t) p.iaddr (regL s t f.b.toNat 2) 16 = (x, .ok hd) ∧
    x.opRead (moved p t) p.iaddr (regL s t f.b.toNat 2) (blobLen hd) = (y, .ok blob)

/-- What KWRAP.import does of the blob that it has read. -/
def importBlob (own asid : Nat) (p : Path) (t : Thread) (f : FmtL) (dst : Nat) (y : State) (blob : List Byte) : Res :=
  match blobOpen blob with
  | none => .ok (status2 y p t f 0xB012)
  | some e =>
    if own ≠ oprAsid then .ok (status2 (y.installSlots own e.slots true) p t f 0)
    else
      match y.opWrite (moved p t) dst (importReceipt e blob) with
      | (_, .error e) => e.res fun c => .ok (status2 y p t f c)
      | (z, .ok _) => .ok (status2 (State.installSlots { z with ctxs := z.ctxs ++ [importedCtx asid z.map.version e] } asid e.slots false) p t f 0)

variable {y : State} {blob : List Byte} (hi : Imports s p t f y blob)
include hi

theorem kwrapImport_done {z : State}
    (hz : importBlob (s.asidOf p.fg) (regL s t f.a.toNat 1) p t f (regL s t f.c.toNat 2) y blob = .ok z) : Done (.kwrapImport f) s p t z := by
  obtain ⟨side, free, x, hd, hx, hy⟩ := hi
  have may : (decide (s.asidOf p.fg = oprAsid) && (decide (1023 < regL s t f.a.toNat 1) || (s.ctx? (regL s t f.a.toNat 1)).isSome)) = false := by
    by_cases ho : s.asidOf p.fg = oprAsid
    · simp [free ho, Nat.not_lt.2 (free ho).1]
    · simp [ho]
  refine done_ops rfl h ?_
  simp only [regL_at, moved_fg, h.fg, begun_sideless, side, begun_asidOf, begun_ctx, may, Bool.false_eq_true, if_false, hx, hy]
  refine Eq.trans ?_ hz
  unfold importBlob importReceipt
  cases blobOpen blob with
  | none => rfl
  | some e =>
    refine ite_congr rfl (fun _ => rfl) fun _ => ?_
    generalize y.opWrite (moved p t) (regL s t f.c.toNat 2) _ = written
    obtain ⟨z, _ | _⟩ := written <;> rfl
theorem kwrapImport_closed (ho : blobOpen blob = none) : Done (.kwrapImport f) s p t (status2 y p t f 0xB012) :=
  kwrapImport_done h hi (by unfold importBlob; rw [ho])
theorem kwrapImport_owner {e : Escrowed} (ho : blobOpen blob = some e) (ha : s.asidOf p.fg ≠ oprAsid) :
    Done (.kwrapImport f) s p t (status2 (y.installSlots (s.asidOf p.fg) e.slots true) p t f 0) :=
  kwrapImport_done h hi (by unfold importBlob; rw [ho]; exact if_pos ha)
theorem kwrapImport_operator {e : Escrowed} {z : State} (ho : blobOpen blob = some e) (ha : s.asidOf p.fg = oprAsid)
    (hz : y.opWrite (moved p t) (regL s t f.c.toNat 2) (importReceipt e blob) = (z, .ok ())) :
    Done (.kwrapImport f) s p t (status2 (State.installSlots { z with ctxs := z.ctxs ++ [importedCtx (regL s t f.a.toNat 1) z.map.version e] }
      (regL s t f.a.toNat 1) e.slots false) p t f 0) :=
  kwrapImport_done h hi (by unfold importBlob; simp only [ho, hz]; exact if_neg (not_not.2 ha))

end
theorem kwrapImport_sideless {s : State} {p : Path} {t : Thread} {f : FmtL} (h : Alone s p rightsAll f.guard t) (hs : s.sideless p.fg = true) :
    Traps (.kwrapImport f) s p t 0x4001 s.noAddr :=
  traps_ops rfl h (if_pos (begun_noSide h hs))

/-! ### KDROP (R112) -/

/-- The state with key slot `k` dropped. -/
def State.dropKey (a : State) (k asid : Nat) : State :=
  { a with mem := { a.mem with keySlots := a.mem.keySlots.map fun y =>
    if y.num = k then { num := k, key := 0, owner := asid, dropped := true, buf := y.buf } else y } }

section
variable {s : State} {p : Path} {t : Thread} {f : FmtZ} (h : Alone s p rightsOwn f.guard t)
include h

theorem kdrop_sideless (hs : s.sideless p.fg = true) : Traps (.kdrop f) s p t 0x4001 s.noAddr :=
  traps_each rfl h (if_pos (begun_noSide h hs))

variable {x : KeySlot} (hs : s.sideless p.fg = false) (hk : regL s t f.a.toNat 1 ≤ 4095)
  (hx : s.mem.keySlots.find? (fun y => y.num = regL s t f.a.toNat 1) = some x)
include hs hk hx

theorem kdrop_drops (ho : x.owner = s.asidOf p.fg) (hd : x.dropped = false) :
    Done (.kdrop f) s p t (wrote ((s.begun p t).dropKey (regL s t f.a.toNat 1) (s.asidOf p.fg)) t f.d [0]) := by
  have mine : (decide (x.owner ≠ s.asidOf p.fg) || x.dropped) = false := by simp [ho, hd]
  refine done_each rfl h ?_
  simp only [regL_at, moved_fg, h.fg, begun_sideless, hs, begun_asidOf, Nat.not_lt.2 hk, begun_mem, hx, mine, Bool.false_eq_true, if_false]
  rw [← h.fg]
  rfl
theorem kdrop_refused (ho : x.owner ≠ s.asidOf p.fg ∨ x.dropped = true) :
    Done (.kdrop f) s p t (wrote (s.begun p t) t f.d [0x4007]) := by
  have other : (decide (x.owner ≠ s.asidOf p.fg) || x.dropped) = true := by simpa using ho
  refine done_each rfl h ?_
  simp only [regL_at, moved_fg, h.fg, begun_sideless, hs, begun_asidOf, Nat.not_lt.2 hk, begun_mem, hx, other, Bool.false_eq_true, if_false, if_true]
  rw [← h.fg]
  rfl

end
theorem kdropErase_answers {s : State} {p : Path} {t : Thread} {f : FmtZ} {c : Ctx} {e : Escrow} {x : State} {r : List Byte}
    (h : Alone s p rightsOpr f.guard t) (hc : s.ctx? f.imm.toNat = some c) (h4 : c.state = 4) (he : c.escrow = some e)
    (hx : (s.begun p t).opRead (moved p t) p.iaddr (regL s t f.a.toNat 2) 3373 = (x, .ok r)) :
    Done (.kdropErase f) s p t (if Config.verifies e.dest r && r.take 64 = receiptBody f.imm.toNat c.saveSeq e.hash then
      wrote (x.endContext f.imm.toNat 0 0) t f.d [0] else wrote x t f.d [0xB014]) := by
  refine done_ops rfl h ?_
  simp only [regL_at, begun_ctx, hc, h4, he, hx, if_true]
  split <;> rfl

end Sys2Proof.Machine
end

section
/-! What is claimed of rights, traps, control registers, contexts, keys, attestation, scrubbing and counters (spec/04_system.md). -/
namespace Sys2Proof.Machine
open Sys2Proof.Claim

/-- Settles O28, by the authority whose instruction it is: the rows of the others exclude nobody but the auditor. -/
theorem rightsRows : Obligations.RightsRows := by
  intro i s p t _ head lanes found ha hr
  have excluded {r : Rights} (e : rowOf i = r) : Excluded s p r t := ⟨head, lanes, found, e ▸ hr⟩
  cases ho : ownersOnly i with
  | true => exact (excluded (by simp [rowOf, ho])).exec_owners ho
  | false =>
    cases hp : operatorsOnly i with
    | true => exact (excluded (by simp [rowOf, ho, hp])).exec_operators hp
    | false =>
      cases hu : auditorsOnly i with
      | true => exact (excluded (by simp [rowOf, ho, hp, hu, rightsAud])).exec_auditors hu
      | false => exact absurd (rowOf_shared ho hp hu ha) (by simp [hr])

/-- Settles O29: entry is a write of the thread (`State.takeOwn_enters`); a handler and a missing vector end the context. -/
theorem ownerTrapEntry : Obligations.OwnerTrapEntry := by
  intro s t code addr iaddr mid t0 c b hw hc ho found ha hx hb hr
  dsimp only
  rw [State.takeTrap_own hw hc ho]
  refine ⟨fun hi hv => ?_, fun hi => ?_, fun hi hv => ?_⟩
  · obtain ⟨pool, cnt, entered⟩ := State.takeOwn_enters (code := code) (addr := addr) (iaddr := iaddr) (mid := mid) ha hx hb hr hi hv
    rw [entered]
    have at_ := State.thread?_setThread_mk s (t.atEntry c.trapVec code addr iaddr mid) t.fg t.lane rfl rfl ⟨t0, found⟩
    exact ⟨⟨_, at_, rfl, rfl, rfl, rfl, rfl, rfl, rfl, rfl, rfl⟩, fun fg l h => State.thread?_setThread_ne s _ fg l h,
      rfl, rfl, rfl, rfl, rfl, rfl, rfl⟩
  · rw [State.takeOwn_owner ha hx hb hr, if_pos hi]
  · rw [State.takeOwn_owner ha hx hb hr, hi, if_neg Bool.false_ne_true, if_pos hv]

/-- Settles O30: the hold of a fault is new (`State.takeOpr_alone`), and the operator's own fault is taken as an owner's is. -/
theorem operatorTraps : Obligations.OperatorTraps := by
  refine ⟨fun s t code addr iaddr mid t0 hw hc ho found alone => ?_, fun s t code addr iaddr mid hw hc ho ha => ?_⟩
  · dsimp only
    rw [State.takeTrap_operator hw hc ho, State.takeOpr_alone alone]
    exact ⟨State.thread?_setThread_mk _ _ _ _ rfl rfl ⟨t0, found⟩, fun fg l h => State.thread?_setThread_ne _ _ fg l h,
      rfl, rfl, rfl, rfl, rfl⟩
  · exact (State.takeTrap_own hw hc ho).trans (State.takeOwn_operator ha)

/-- Settles O31: TRET by the record and FLT_RESUME (`Thread.tret_back`, `Thread.tret_backTo`), and where its thread then stands
(`State.endThread_returned`). -/
theorem trapInstructions : Obligations.TrapInstructions := by
  refine ⟨fun f s p t h => ⟨done_each rfl h ?_, done_each rfl h rfl⟩, fun f s p t h => ⟨fun ho => ?_, fun r hi hr => ⟨fun same => ?_,
    fun other hx => ?_, fun other hx hn => ?_⟩⟩, fun s fg l t r ht hr hd => State.endThread_returned ht hr hd,
    fun f s p t h => ⟨fun x hx => done_z rfl h ?_, fun hn => done_z rfl h ?_⟩⟩
  · rw [regL_at]
  · exact tret_traps h (Thread.tret_outside (by simpa using ho))
  · exact tret_done_back h (Thread.tret_back (by simpa using hi) (by simpa using hr) (by simpa using same))
  · exact tret_traps h (Thread.tret_index (by simpa using hi) (by simpa using hr) (by simpa using other) (by simpa using hx))
  · have := tret_done_backTo h hr hn (Thread.tret_backTo (by simpa using hi) (by simpa using hr) (by simpa using other) (by simpa using hx))
    unfold Thread.backTo at this
    rwa [moved_resume] at this
  · rw [regL_at]
    have named : (s.begun p t).opr.held.find? (fun h => h.hold = bits (regL s t f.a.toNat 1) 0 16) = some x := hx
    rw [named]
    rfl
  · rw [regL_at]
    have none : (s.begun p t).opr.held.find? (fun h => h.hold = bits (regL s t f.a.toNat 1) 0 16) = none :=
      List.find?_eq_none.2 fun h hh => mt of_decide_eq_true (hn h hh)
    rw [none]
    rfl

/-- Settles O32: CRD and CWR answer by the context that the access means (`crd_eq`, `cwr_eq`), the map as it stands. -/
theorem controlRegisters : Obligations.ControlRegisters := by
  refine ⟨fun f s p t row h hr hi => ?_, fun f s p t h none => ⟨crd_eq h (State.crCtx_none none), cwr_eq h (State.crCtx_none none)⟩,
    fun f s p t h => ⟨fun hk => ?_, fun hk => ?_⟩, fun f s p t h => ⟨fun hv => ?_, fun hv => ?_⟩⟩
  · have asid : (s.begun p t).asidOf (moved p t).fg = s.asidOf p.fg := by rw [moved_fg, h.fg, begun_asidOf]
    refine ⟨fun c ha hc hm hz => ?_, fun ha hm hs hz => ?_, fun c ha hm hs hz hc => ?_, fun hm => ?_, fun hm => ?_, fun hm hs => ?_⟩
    · exact crd_eq h (x := .ok (some c)) (by rw [if_pos hz, State.crCtx_owner hr hi (asid.symm ▸ ha) hm, asid, begun_ctx, hc])
    · exact crd_eq h (x := .ok none) (by rw [if_pos hz, State.crCtx_operator hr hi (asid.symm ▸ ha) hm hs])
    · exact crd_eq h (x := .ok (some c)) (by rw [if_neg hz, State.crCtx_named (s := s.begun p t) hr hi (asid.symm ▸ ha) hm hs hc])
    · exact crd_eq h (x := .error 0x4002) (State.crCtx_rights hr hi (by rw [asid, hm]; exact Nat.one_pos))
    · exact cwr_eq h (x := .error 0x4002) (State.crCtx_rights hr hi (by rwa [asid]))
    · cases ha : authOf (s.asidOf p.fg) with
      | auditor => exact absurd ha h.no_auditor
      | owner => exact cwr_eq h (State.crCtx_owner hr hi (asid.symm ▸ ha) (by rw [ha] at hm; exact hm.ge))
      | operator =>
        have scope : row.scope ≠ .c := hs.resolve_left (by simp [ha])
        exact cwr_eq h (State.crCtx_operator hr hi (asid.symm ▸ ha) (by rw [ha] at hm; exact hm.ge) scope)
  · exact done_z rfl h.every (by simp only [regL_at]; rw [if_neg (by omega)]; rfl)
  · exact traps_z rfl h.every (by simp only [regL_at]; rw [if_pos hk])
  · refine done_z rfl h ?_
    simp only [regL_at, moved_fg, h.fg, begun_asidOf, begun_map]
    rw [if_pos hv, hv]
    rfl
  · refine done_z rfl h ?_
    simp only [regL_at, begun_map]
    rw [if_neg hv]
    rfl

theorem counterResults_met : counterResults := by
  refine ⟨fun f s p t h => ⟨cntrd_done h, cntrd_traps h, fun hk => ?_, cntcfg_traps h⟩,
    fun s asid ev n k _ hv => ⟨fun counts => ?_, fun no => ?_⟩⟩
  · exact done_z rfl h (by simp only [regL_at]; rw [if_neg (Nat.not_lt.2 hk)]; rfl)
  · exact (s.countEv_counter asid ev n hv).trans ((if_pos (by simpa [and_assoc] using counts)).trans (Nat.min_comm _ _))
  · exact (s.countEv_counter asid ev n hv).trans (if_neg (by simpa [and_assoc] using no))
theorem monitorResults_met : monitorResults := by
  refine ⟨fun f s p t h => ⟨fun hk => done_each rfl h ?_, moncfg_traps h, fun hn hk => done_z rfl h ?_, monrd_traps h⟩, fun m v hb =>
    ⟨rfl, rfl, rfl, fun k hk => m.take_bin v (hb ▸ hk)⟩⟩
  · simp only [regL_at]
    rw [if_neg (Nat.not_lt.2 hk)]
  · simp only [regL_at]
    rw [if_neg (by simp; omega)]
    rfl
theorem postResults_met : postResults := by
  refine ⟨fun f s p t h => ⟨fun hs => done_each rfl h ?_, fun hs => traps_each rfl h (if_pos (begun_noSide h hs))⟩,
    fun _ _ => rfl, fun s v bs =>
    ⟨s.post_disabled bs, s.post_discarded bs, s.post_open bs⟩⟩
  rw [← h.fg] at hs ⊢
  simp only [moved_fg, begun_sideless, hs, regL_at]
  rfl
/-- Settles O36: the counters by `State.countEv_counter`, the bins of a monitor by `Mon.take_bin`, a post by the state of its ring. -/
theorem countersAndEvents : Obligations.CountersAndEvents := ⟨counterResults_met, monitorResults_met, postResults_met⟩

/-- Settles O33, form by form; the checks of CTXLOAD.image in their order (`ctxloadImage_answers`), what a sealed image restores by
`State.restore_sealed`. -/
theorem contextImages : Obligations.ContextImages := by
  intro f s p t h
  refine ⟨fun c x ps => ctxsaveSeal_begins h, ctxsaveSeal_refused h, fun c => ctxsaveReset_ends h,
    fun c x hd y img hc hs slots hx hy => ?_, fun c text i d hi hd => ⟨State.restore_blocks hi, State.restore_ctx hi hd⟩,
    fun x r => ctxloadNew_creates h, fun ⟨c, hc⟩ => ctxloadNew_refused h hc, fun c => ctxloadResume_runs h, fun c => ctxloadResume_slotless h⟩
  have answers {z : State} {st : Nat} := ctxloadImage_answers (z := z) (st := st) h hc hs slots hx hy
  refine ⟨fun closed => answers (by rw [closed]), fun text opened =>
    ⟨fun ha => answers ?_, fun ha hq => answers ?_, fun ha hq => answers ?_⟩⟩ <;> rw [opened]
  · exact if_pos ha
  · exact (if_neg (not_not.2 ha)).trans (if_pos hq)
  · exact (if_neg (not_not.2 ha)).trans (if_neg (not_not.2 hq))

theorem attestResults_met : attestResults := by
  intro f s p t
  refine ⟨fun nonce x hx => ⟨fun c y h hc hy => ?_, fun y h hy => ?_⟩,
    fun x c e hx => ⟨fun h => ?_, fun h => ?_⟩, fun x c hx => ⟨fun h => ?_, fun h => ?_⟩⟩
  · exact attest_reports (kind := 1) rfl h hx (by rw [hc]; exact hy)
  · exact attest_reports (kind := 2) rfl h hx hy
  · exact attest_traps (kind := 1) rfl h hx
  · exact attest_traps (kind := 2) rfl h hx
  · exact attest_status (kind := 1) rfl h hx
  · exact attest_status (kind := 2) rfl h hx
theorem scrubResults_met : scrubResults := by
  refine ⟨fun f s p t h => ⟨fun bad => ?_, fun good other => ?_, fun e good none bad => ?_, fun ls good none hl hw => ?_⟩,
    fun f s p t h => ⟨scrubPhys_malformed h, fun good live => ?_, fun good free => ?_⟩⟩
  · exact done_long (exec_scrubVirt f s) h (scrubVirt_malformed bad) rfl
  · exact done_long (exec_scrubVirt f s) h ((scrubVirt_run good).trans (scrubRun_elsewhere other)) rfl
  · exact traps_long (exec_scrubVirt f s) h ((scrubVirt_run good).trans (scrubRun_faults none bad))
  · exact done_long (exec_scrubVirt f s) h ((scrubVirt_run good).trans (scrubRun_scrubs none hl hw)) rfl
  · exact scrubPhys_answers h good (if_pos (List.any_eq_true.2 live))
  · exact scrubPhys_answers h good (if_neg (by simpa using free))
theorem scrubbedReads_met : scrubbedReads := by
  intro s pa hp
  refine ⟨fun asid l va => State.ctlRead_setScrub s hp asid l va, fun y hy => ?_⟩
  obtain hy | hy := List.mem_append.1 hy <;> exact of_decide_eq_true (List.mem_filter.1 hy).2
/-- Settles O35: SCRUB.virt by the pages of its range (`scrubRun`), and a scrub-pending page by what its controller reads. -/
theorem reportsAndScrubs : Obligations.ReportsAndScrubs := ⟨attestResults_met, scrubResults_met, scrubbedReads_met⟩

/-- Settles O34, instruction by instruction: a blob taken by what its wrapped key opens to, an import by what its blob opens to. -/
theorem keyInstructions : Obligations.KeyInstructions := by
  refine ⟨fun f s p t h hs => ⟨fun c key x hb hv ho hc hk hx => kwrapGive_wraps h hs hb hv ho hc hk hx,
      fun c blob x hx hc => ?take, fun hd x blob y hx hy ha => ?owner⟩,
    fun f s p t h => ⟨fun c rep x hc h2 hx => ⟨fun hr => kwrapEscrow_refused h hc h2 hx (.inl hr), fun hr => ?escrow⟩,
      fun hs ha => kwrapImport_taken (h.shared rfl) hs h.operator ha, fun hd x blob y hs ha hc hx hy => ?operator⟩,
    fun f s p t x h hs hk hx => ⟨kdrop_drops h hs hk hx, kdrop_refused h hs hk hx⟩,
    fun f s p t c e x r h hc h4 he hx => kdropErase_answers h hc h4 he hx,
    fun s p t hs f g => ⟨fun h => ⟨kwrapGive_sideless h hs, kwrapTake_sideless h hs⟩, fun h => kwrapImport_sideless h hs,
      fun h => kdrop_sideless h hs⟩⟩
  case take =>
    have taken := kwrapTake_done h hs hx hc
    revert taken
    generalize keyUnwrap (wrapKey c) ((slice blob 16 72).map (·.toNat)) = opened
    generalize x.freeSlot = slot
    revert opened slot
    refine id fun opened slot => ?_
    cases opened with
    | none => exact id
    | some key => cases slot <;> exact id
  case owner =>
    have imports : Imports s p t f y blob := ⟨hs, fun e => absurd e ha, x, hd, hx, hy⟩
    cases ho : blobOpen blob with
    | none => exact kwrapImport_closed (h.shared rfl) imports ho
    | some e => exact kwrapImport_owner (h.shared rfl) imports ho ha
  case escrow =>
    cases ok : x.reportOk rep (slice rep 16 32) with
    | true => exact fun y hy => kwrapEscrow_escrows h hc h2 hx hr ok hy
    | false => exact kwrapEscrow_refused h hc h2 hx (.inr ok)
  case operator =>
    have imports : Imports s p t f y blob := ⟨hs, fun _ => ⟨ha, hc⟩, x, hd, hx, hy⟩
    cases ho : blobOpen blob with
    | none => exact kwrapImport_closed (h.shared rfl) imports ho
    | some e => exact fun z hz => kwrapImport_operator (h.shared rfl) imports ho h.operator hz

end Sys2Proof.Machine
end

section
/-! SUPPORT. Patterns as residues: `wrap`, `sext` and `valOf` modulo 2^w, and what WriteD sees of a result (spec/05_integer.md R121). -/
namespace Sys2Proof.Machine

/-! ### Residues modulo 2^w -/

theorem wrap_cast (w : Nat) (r : Int) : (wrap w r : Int) = r % 2 ^ w :=
  Int.toNat_of_nonneg (Int.emod_nonneg r (by positivity))
theorem wrap_lt (w : Nat) (r : Int) : wrap w r < 2 ^ w := by
  have := Int.emod_lt_of_pos r (show (0 : Int) < 2 ^ w by positivity)
  rw [← wrap_cast] at this
  exact_mod_cast this
theorem wrap_modEq (w : Nat) (r : Int) : (wrap w r : Int) ≡ r [ZMOD 2 ^ w] := by
  rw [wrap_cast]
  exact Int.mod_modEq r _
theorem wrap_congr {w : Nat} {a b : Int} (h : a ≡ b [ZMOD 2 ^ w]) : wrap w a = wrap w b := congrArg Int.toNat h
theorem natMod_modEq (w x : Nat) : ((x % 2 ^ w : Nat) : Int) ≡ x [ZMOD 2 ^ w] := by
  push_cast
  exact Int.mod_modEq x _
theorem wrap_natCast (w x : Nat) : wrap w x = x % 2 ^ w := by
  have := wrap_cast w x
  exact_mod_cast this
/-- The word that holds a result modulo 2^w. -/
theorem ofNat_wrap (w : Nat) (r : Int) : BitVec.ofNat w (wrap w r) = BitVec.ofInt w r := by
  apply BitVec.eq_of_toNat_eq
  rw [BitVec.toNat_ofNat, Nat.mod_eq_of_lt (wrap_lt w r), BitVec.toNat_ofInt]
  simp [wrap]

theorem sext_modEq (w x : Nat) : sext w x ≡ x [ZMOD 2 ^ w] := by
  unfold sext
  dsimp only
  split
  · exact natMod_modEq w x
  · exact (Int.modEq_sub_modulus_iff.2 (natMod_modEq w x).symm).symm
theorem sext_mod (w x : Nat) : sext w (x % 2 ^ w) = sext w x := by simp [sext]
/-- The value of a pattern of `w` bits is its two's complement. -/
theorem sext_toNat {w : Nat} (b : BitVec w) : sext w b.toNat = b.toInt := by
  rw [BitVec.toInt_eq_toNat_cond]
  simp [sext, Nat.mod_eq_of_lt b.isLt]
theorem valOf_modEq (x ty : Nat) : valOf x ty ≡ x [ZMOD 2 ^ tyWidth ty] := by
  unfold valOf
  dsimp only
  split
  · exact sext_modEq _ x
  · exact natMod_modEq _ x

/-! ### What WriteD sees of a result -/

theorem writeD_congr {x y ty : Nat} (h : x ≡ y [MOD 2 ^ tyWidth ty]) : writeD x ty = writeD y ty := by
  unfold writeD
  split
  case isTrue wide =>
    have w64 : tyWidth ty = 64 := by
      obtain rfl | rfl : ty = 3 ∨ ty = 7 := by simpa [is64] using wide
      all_goals rfl
    rw [w64] at h
    rw [show x % 2 ^ 64 = y % 2 ^ 64 from h]
  case isFalse =>
    dsimp only
    rw [← sext_mod _ x, ← sext_mod _ y, show x % 2 ^ tyWidth ty = y % 2 ^ tyWidth ty from h]
/-- A pattern with the residue of `r` is written as r mod 2^w is. -/
theorem writeD_wrap {x ty : Nat} {r : Int} (h : (x : Int) ≡ r [ZMOD 2 ^ tyWidth ty]) :
    writeD x ty = writeD (wrap (tyWidth ty) r) ty := by
  apply writeD_congr
  have := h.trans (wrap_modEq _ r).symm
  exact_mod_cast this

end Sys2Proof.Machine
end

section
/-! SUPPORT. A number from its bits, and the bits of the numbers that the integer instructions compute (R129, R136, R137). -/
namespace Sys2Proof.Machine
open Sys2Proof.Claim

/-! ### A number from its bits -/

theorem bits_eq_div (x lo w : Nat) : bits x lo w = x / 2 ^ lo % 2 ^ w := by rw [bits, Nat.shiftRight_eq_div_pow]
theorem testBit_above {x w j : Nat} (hx : x < 2 ^ w) (hj : w ≤ j) : x.testBit j = false :=
  Nat.testBit_lt_two_pow (hx.trans_le (Nat.pow_le_pow_right two_pos hj))

theorem ofBits_succ (n : Nat) (b : Nat → Bool) : ofBits (n + 1) b = 2 ^ n * (b n).toNat + ofBits n b := by
  simp only [ofBits, List.range_succ, List.map_append, List.sum_append, List.map_cons, List.map_nil, List.sum_singleton]
  cases b n <;> simp [Nat.add_comm]
theorem ofBits_lt (n : Nat) (b : Nat → Bool) : ofBits n b < 2 ^ n := by
  induction n with
  | zero => exact Nat.one_pos
  | succ n ih =>
    rw [ofBits_succ, Nat.pow_succ]
    cases b n <;> simp <;> omega
theorem testBit_ofBits (n : Nat) (b : Nat → Bool) (j : Nat) : (ofBits n b).testBit j = (decide (j < n) && b j) := by
  induction n with
  | zero => simp [ofBits]
  | succ n ih =>
    rw [ofBits_succ, Nat.testBit_two_pow_mul_add _ (ofBits_lt n b), ih]
    rcases Nat.lt_trichotomy j n with below | rfl | above
    · simp [below, below.trans (Nat.lt_succ_self n)]
    · cases b j <;> simp
    · obtain ⟨k, rfl⟩ := Nat.exists_eq_add_of_lt above
      have high : ¬n + k + 1 < n := by omega
      cases b n <;> simp [high, show n + k + 1 - n = k + 1 by omega, Nat.testBit_succ]
/-- A number below 2^n whose bits are `b` is what `b` makes. -/
theorem eq_ofBits {n x : Nat} {b : Nat → Bool} (hx : x < 2 ^ n) (h : ∀ j < n, x.testBit j = b j) : x = ofBits n b := by
  apply Nat.eq_of_testBit_eq
  intro j
  rw [testBit_ofBits]
  by_cases hj : j < n
  · rw [h j hj, decide_eq_true hj, Bool.true_and]
  · rw [decide_eq_false hj, Bool.false_and]
    exact testBit_above hx (not_lt.1 hj)
theorem ofBits_congr {n : Nat} {b b' : Nat → Bool} (h : ∀ j < n, b j = b' j) : ofBits n b = ofBits n b' :=
  eq_ofBits (ofBits_lt n b) fun j hj => by rw [testBit_ofBits, decide_eq_true hj, Bool.true_and, h j hj]
theorem ofBits_add (m n : Nat) (b : Nat → Bool) : ofBits (m + n) b = ofBits m b + ofBits n (fun i => b (m + i)) * 2 ^ m := by
  induction n with
  | zero => simp [ofBits]
  | succ n ih =>
    rw [← Nat.add_assoc, ofBits_succ, ofBits_succ, ih, Nat.pow_add]
    ring

/-! ### Complement, reversal and counts (R129) -/

theorem rNot_eq {ty x : Nat} (hx : x < 2 ^ tyWidth ty) : rNot ty x = ofBits (tyWidth ty) fun i => !x.testBit i := by
  have lt : rNot ty x < 2 ^ tyWidth ty := by unfold rNot; omega
  refine eq_ofBits lt fun j hj => ?_
  have shape : rNot ty x = 2 ^ tyWidth ty - (x + 1) := by unfold rNot; omega
  rw [shape, Nat.testBit_two_pow_sub_succ hx, decide_eq_true hj, Bool.true_and]

theorem revBits_lt (w : Nat) : ∀ x, revBits w x < 2 ^ w := by
  induction w with
  | zero => exact fun _ => Nat.one_pos
  | succ w ih =>
    intro x
    have := ih (x / 2)
    unfold revBits b2n
    rw [Nat.pow_succ]
    split <;> omega
theorem testBit_revBits (w : Nat) : ∀ x, ∀ j < w, (revBits w x).testBit j = x.testBit (w - 1 - j) := by
  induction w with
  | zero => exact fun _ _ hj => absurd hj (Nat.not_lt_zero _)
  | succ w ih =>
    intro x j hj
    have shape : revBits (w + 1) x = 2 ^ w * (x.testBit 0).toNat + revBits w (x / 2) := by
      rw [revBits, b2n, bit]
      cases x.testBit 0 <;> simp
    rw [shape, Nat.testBit_two_pow_mul_add _ (revBits_lt w _)]
    split
    case isTrue below => rw [ih _ j below, Nat.testBit_div_two]; congr 1; omega
    case isFalse =>
      obtain rfl : j = w := by omega
      cases h : x.testBit 0 <;> simp [h]
theorem rBrev_eq (ty x : Nat) : rBrev ty x = ofBits (tyWidth ty) fun i => x.testBit (tyWidth ty - 1 - i) :=
  eq_ofBits (revBits_lt _ x) (testBit_revBits _ x)

/-- The bits of `x` above bit 0 are those of its half. -/
theorem testBit_comp_succ (x : Nat) : x.testBit ∘ Nat.succ = (x / 2).testBit := by
  funext i
  exact Nat.testBit_succ x i
theorem popc_eq (w : Nat) : ∀ x, popc w x = ((List.range w).filter x.testBit).length := by
  induction w with
  | zero => exact fun _ => rfl
  | succ w ih =>
    intro x
    rw [List.range_succ_eq_map, List.filter_cons, List.filter_map, testBit_comp_succ]
    unfold popc b2n bit
    rw [ih]
    split <;> simp [Nat.add_comm]
theorem ctz_eq (w : Nat) : ∀ x, ctz w x = ((List.range w).find? x.testBit).getD w := by
  induction w with
  | zero => exact fun _ => rfl
  | succ w ih =>
    intro x
    rw [List.range_succ_eq_map, List.find?_cons, List.find?_map, testBit_comp_succ]
    unfold ctz bit
    rw [ih]
    cases x.testBit 0
    · cases (List.range w).find? (x / 2).testBit <;> simp [Nat.add_comm]
    · rfl
theorem clz_eq (w : Nat) {x : Nat} (hx : x < 2 ^ w) : clz w x = if x = 0 then w else w - 1 - Nat.log2 x := by
  induction w with
  | zero => simp [clz]
  | succ w ih =>
    unfold clz bit
    by_cases below : x < 2 ^ w
    · rw [Nat.testBit_lt_two_pow below, ih below]
      by_cases zero : x = 0
      · simp [zero, Nat.add_comm]
      · have := (Nat.log2_lt zero).2 below
        simp only [zero, if_false, Bool.false_eq_true]
        omega
    · have top : x.testBit w = true := Nat.testBit_of_two_pow_le_and_two_pow_add_one_gt (not_lt.1 below) hx
      have nonzero : x ≠ 0 := fun e => below (e ▸ by positivity)
      have := (Nat.le_log2 nonzero).2 (not_lt.1 below)
      rw [if_pos top, if_neg nonzero]
      omega

/-! ### Bit fields (R136) -/

theorem natMin_eq (m n : Nat) : Nat.min m n = min m n := rfl
/-- The bits of a shifted two's complement: the pattern's own, then its sign. -/
theorem testBit_wrap_sext {w x l j : Nat} (m : Nat) (hx : x < 2 ^ w) (hl : l ≤ w) (hj : j < l) :
    (wrap l (sext w x / 2 ^ m)).testBit j = if m + j < w then x.testBit (m + j) else x.testBit (w - 1) := by
  let v := BitVec.ofNat w x
  have pattern : v.toNat = x := Nat.mod_eq_of_lt hx
  have shifted : sext w x / 2 ^ m = (v.sshiftRight m).toInt := by
    rw [BitVec.toInt_sshiftRight, Int.shiftRight_eq_div_pow, ← sext_toNat, pattern]
    norm_cast
  have low : wrap l (v.sshiftRight m).toInt = (v.sshiftRight m).toNat % 2 ^ l := by
    rw [← wrap_natCast, ← sext_toNat]
    exact wrap_congr ((sext_modEq w _).of_dvd (pow_dvd_pow 2 hl))
  have hw : j < w := hj.trans_le hl
  rw [shifted, low, Nat.testBit_mod_two_pow, decide_eq_true hj, Bool.true_and]
  change (v.sshiftRight m).getLsbD j = _
  rw [BitVec.getLsbD_sshiftRight, BitVec.msb_eq_getLsbD_last]
  simp only [BitVec.getLsbD, pattern, not_le.2 hw, decide_false, Bool.not_false, Bool.true_and]
theorem testBit_wrap_natDiv {w x l j : Nat} (m : Nat) (hx : x < 2 ^ w) (hj : j < l) :
    (wrap l ((x : Int) / 2 ^ m)).testBit j = if m + j < w then x.testBit (m + j) else false := by
  have shifted : (x : Int) / 2 ^ m = ((x / 2 ^ m : Nat) : Int) := by norm_cast
  rw [shifted, wrap_natCast, Nat.testBit_mod_two_pow, decide_eq_true hj, Bool.true_and, Nat.testBit_div_two_pow, Nat.add_comm j]
  split
  case isTrue => rfl
  case isFalse h => exact testBit_above hx (not_lt.1 h)
/-- Bit `j` of a value shifted right: the pattern's own, then its sign, or 0 for an unsigned type. -/
theorem testBit_wrap_shifted {ty x l j : Nat} (m : Nat) (hx : x < 2 ^ tyWidth ty) (hl : l ≤ tyWidth ty) (hj : j < l) :
    (wrap l ((if tySigned ty then sext (tyWidth ty) x else (x : Int)) / 2 ^ m)).testBit j =
      if m + j < tyWidth ty then x.testBit (m + j) else tySigned ty && x.testBit (tyWidth ty - 1) := by
  cases tySigned ty
  · exact testBit_wrap_natDiv m hx hj
  · exact testBit_wrap_sext m hx hl hj
/-- The field of BFX, taken as the model does from a value shifted right: no shift by more than w + 1 shows in it. -/
theorem wrap_field {ty x l : Nat} (pos : Nat) (hx : x < 2 ^ tyWidth ty) (hl : l ≤ tyWidth ty) :
    wrap l ((if tySigned ty then sext (tyWidth ty) x else (x : Int)) / 2 ^ Nat.min pos (tyWidth ty + 1)) =
      ofBits l fun i => if pos + i < tyWidth ty then x.testBit (pos + i) else tySigned ty && x.testBit (tyWidth ty - 1) := by
  refine eq_ofBits (wrap_lt l _) fun j hj => ?_
  rw [testBit_wrap_shifted _ hx hl hj, natMin_eq]
  by_cases inside : pos + j < tyWidth ty
  · rw [Nat.min_eq_left (by omega)]
  · rw [if_neg inside, if_neg (by omega)]
theorem rBfx_modEq {ty x : Nat} (pos len : Nat) (hx : x < 2 ^ tyWidth ty) :
    (rBfx ty x pos len : Int) ≡ bfx ty x pos len [ZMOD 2 ^ tyWidth ty] := by
  unfold rBfx bfx
  dsimp only
  rw [← wrap_field pos hx (Nat.min_le_right len _)]
  split
  · exact .rfl
  · split
    · exact wrap_modEq _ _
    · exact .rfl

theorem setBits_eq (n lo w v : Nat) :
    setBits n lo w v = 2 ^ (lo + w) * (n / 2 ^ (lo + w)) + (2 ^ lo * (v % 2 ^ w) + n % 2 ^ lo) := by
  have inner : n / 2 ^ lo = 2 ^ w * (n / 2 ^ (lo + w)) + bits n lo w := by
    rw [bits_eq_div, Nat.pow_add, ← Nat.div_div_eq_div_mul]
    exact (Nat.div_add_mod _ _).symm
  have whole : n = 2 ^ (lo + w) * (n / 2 ^ (lo + w)) + (bits n lo w * 2 ^ lo + n % 2 ^ lo) :=
    calc n = 2 ^ lo * (n / 2 ^ lo) + n % 2 ^ lo := (Nat.div_add_mod _ _).symm
      _ = 2 ^ lo * (2 ^ w * (n / 2 ^ (lo + w)) + bits n lo w) + n % 2 ^ lo := by rw [inner]
      _ = 2 ^ (lo + w) * (n / 2 ^ (lo + w)) + (bits n lo w * 2 ^ lo + n % 2 ^ lo) := by ring
  unfold setBits
  rw [Nat.mul_comm (2 ^ lo)]
  omega
theorem testBit_setBits (n lo w v j : Nat) : (setBits n lo w v).testBit j =
    if lo ≤ j ∧ j < lo + w then v.testBit (j - lo) else n.testBit j := by
  have low : n % 2 ^ lo < 2 ^ lo := Nat.mod_lt _ (by positivity)
  have field : 2 ^ lo * (v % 2 ^ w) + n % 2 ^ lo < 2 ^ (lo + w) := by
    have := Nat.mul_le_mul_left (2 ^ lo) (Nat.succ_le_of_lt (Nat.mod_lt v (show 0 < 2 ^ w by positivity)))
    rw [Nat.pow_add]
    rw [Nat.mul_succ] at this
    omega
  rw [setBits_eq, Nat.testBit_two_pow_mul_add _ field, Nat.testBit_two_pow_mul_add _ low]
  rcases lt_or_ge j lo with below | from_
  · rw [if_pos (by omega), if_pos below, if_neg (by omega), Nat.testBit_mod_two_pow, decide_eq_true below, Bool.true_and]
  · rcases lt_or_ge j (lo + w) with inside | above
    · rw [if_pos inside, if_neg (by omega), if_pos ⟨from_, inside⟩, Nat.testBit_mod_two_pow, decide_eq_true (by omega), Bool.true_and]
    · rw [if_neg (by omega), if_neg (by omega), Nat.testBit_div_two_pow, Nat.sub_add_cancel above]
theorem rBfi_eq {ty base : Nat} (x pos len : Nat) (hb : base < 2 ^ tyWidth ty) : rBfi ty base x pos len = bfi ty base x pos len := by
  unfold rBfi bfi
  dsimp only
  simp only [natMin_eq]
  split
  case isTrue past => exact eq_ofBits hb fun j hj => by rw [if_neg (by omega)]
  case isFalse =>
    refine eq_ofBits (Nat.lt_pow_two_of_testBit _ fun j hj => ?_) fun j hj => ?_
    · rw [testBit_setBits, if_neg (by omega), testBit_above hb hj]
    · rw [testBit_setBits]
      exact if_congr (by omega) rfl rfl

/-! ### Bytes (R137) -/

/-- Byte `n` of the eight, or its sign eight times. -/
theorem prmtByte_eq (e8 n : Nat) :
    prmtByte e8 n = ofBits 8 fun k => (e8 / 2 ^ (8 * (n % 8)) % 256).testBit (if 8 ≤ n then 7 else k) := by
  have byte : bits e8 (8 * (n % 8)) 8 = e8 / 2 ^ (8 * (n % 8)) % 256 := bits_eq_div _ _ _
  unfold prmtByte bit
  dsimp only
  rw [byte]
  split
  · cases (e8 / 2 ^ (8 * (n % 8)) % 256).testBit 7 <;> rfl
  · exact eq_ofBits (Nat.mod_lt _ (by decide)) fun _ _ => rfl
theorem ofBits_bytes (b : Nat → Bool) : ofBits 32 b = ofBits 8 (fun k => b (8 * 0 + k)) * 2 ^ (8 * 0)
    + ofBits 8 (fun k => b (8 * 1 + k)) * 2 ^ (8 * 1) + ofBits 8 (fun k => b (8 * 2 + k)) * 2 ^ (8 * 2)
    + ofBits 8 (fun k => b (8 * 3 + k)) * 2 ^ (8 * 3) := by
  rw [ofBits_add 24 8, ofBits_add 16 8, ofBits_add 8 8]
  simp

/-- Bit `j` of what PRMT assembles. -/
def prmtBit (a b c j : Nat) : Bool :=
  ((a + 2 ^ 32 * b) / 2 ^ (8 * (c / 2 ^ (4 * (j / 8)) % 16 % 8)) % 256).testBit (if 8 ≤ c / 2 ^ (4 * (j / 8)) % 16 then 7 else j % 8)
theorem prmtByte_bits (a b c i : Nat) : prmtByte (a + 2 ^ 32 * b) (bits c (4 * i) 4) = ofBits 8 fun k => prmtBit a b c (8 * i + k) := by
  have nibble : bits c (4 * i) 4 = c / 2 ^ (4 * i) % 16 := bits_eq_div _ _ _
  rw [prmtByte_eq, nibble]
  refine ofBits_congr fun k hk => ?_
  have byte : (8 * i + k) / 8 = i := by omega
  have at_ : (8 * i + k) % 8 = k := by omega
  rw [prmtBit, byte, at_]
theorem rPrmt_eq (a b c : Nat) : rPrmt a b c = prmt a b c := by
  have bytes : prmt a b c = ofBits 32 (prmtBit a b c) := rfl
  rw [bytes, ofBits_bytes]
  simp only [← prmtByte_bits]
  rfl

end Sys2Proof.Machine
end

section
/-! SUPPORT. What the integer instructions compute and how they are issued (spec/05_integer.md R128 to R135). -/
namespace Sys2Proof.Machine
open Sys2Proof.Claim

/-- What a format A instruction writes, in other words. -/
theorem writes_of_eq {i : Instr} {f : FmtA} {ws ws' : State → Thread → List Word} (h : Writes i f ws) (e : ∀ s t, ws s t = ws' s t) :
    Writes i f ws' := by
  obtain rfl : ws = ws' := funext fun s => funext (e s)
  exact h

/-! ### Operands and immediates -/

theorem srcA_lt (s : State) (t : Thread) (f : FmtA) (ty : Nat) : srcA s t f ty < 2 ^ tyWidth ty := Nat.mod_lt _ (by positivity)
theorem srcB_lt (s : State) (t : Thread) (f : FmtA) (ty : Nat) : srcB s t f ty < 2 ^ tyWidth ty := Nat.mod_lt _ (by positivity)
theorem srcC_lt (s : State) (t : Thread) (f : FmtA) (ty : Nat) : srcC s t f ty < 2 ^ tyWidth ty := Nat.mod_lt _ (by positivity)
theorem srcD_lt (s : State) (t : Thread) (f : FmtA) (ty : Nat) : srcD s t f ty < 2 ^ tyWidth ty := Nat.mod_lt _ (by positivity)

/-- The immediate of format S (R71). -/
theorem immS_eq (f : FmtS) : immS f = f.imm := by
  unfold immS FmtS.imm
  rw [sext_toNat]
theorem tyWidth_ofFmtS (f : FmtS) : tyWidth f.ty = 32 := by unfold FmtS.ty; split <;> rfl
theorem imm_lt_ofFmtS (f : FmtS) : f.imm < 2 ^ tyWidth f.ty := by
  rw [tyWidth_ofFmtS]
  unfold FmtS.imm
  split
  · exact f.i.isLt.trans (by decide)
  · exact wrap_lt 32 _

/-! ### Two-source instructions (R128) -/

/-- The pattern that the model computes for a two-source operation: from A, and from B or the count `n`. -/
def twoPattern (k : Two) (ty x y n : Nat) : Nat :=
  match k with
  | .add => rAdd ty x y | .sub => rSub ty x y | .sadd => rSadd ty x y | .ssub => rSsub ty x y
  | .mul => rMul ty x y | .mulh => rMulh ty x y | .min => rMin ty x y | .max => rMax ty x y
  | .and => rAnd ty x y | .or => rOr ty x y | .xor => rXor ty x y | .andn => rAndn ty x y
  | .shl => rShl ty x n | .shr => rShr ty x n | .sar => rSar ty x n | .rol => rRol ty x n

theorem exec_twoA {i : Instr} {k : Two} {f : FmtA} (h : twoA i = some (k, f)) (s : State) :
    exec i s = .next (intA s f fun s t => writeD (twoPattern k f.ty.toNat
      (srcA s t f f.ty.toNat) (srcB s t f f.ty.toNat) (srcB s t f 6)) f.ty.toNat) := by
  cases i with
  | add f | sub f | sadd f | ssub f | mul f | mulh f | min f | max f | and f | or f | xor f | andn f
  | shl f | shr f | sar f | rol f => cases h; rfl
  | _ => cases h
theorem exec_twoS {i : Instr} {k : Two} {f : FmtS} (h : twoS i = some (k, f)) (s : State) :
    exec i s = .next (issueEach s rightsAll {} fun _ s t => .ok (s.setThread (t.put f.d.toNat
      (writeD (twoPattern k f.ty (regL s t f.a.toNat 1) f.imm f.imm) f.ty)))) := by
  cases i with
  | addS f | subS f | mulS f | minS f | maxS f | andS f | orS f | xorS f | andnS f
  | shlS f | shrS f | sarS f | rolS f => cases h; rfl
  | _ => cases h

theorem rSub_modEq {ty y : Nat} (x : Nat) (hy : y < 2 ^ tyWidth ty) :
    (rSub ty x y : Int) ≡ valOf x ty - valOf y ty [ZMOD 2 ^ tyWidth ty] := by
  have difference : ((x + 2 ^ tyWidth ty - y : Nat) : Int) = (x : Int) - y + 2 ^ tyWidth ty := by
    rw [Nat.cast_sub (by omega)]; push_cast; ring
  calc (rSub ty x y : Int) ≡ ((x + 2 ^ tyWidth ty - y : Nat) : Int) [ZMOD 2 ^ tyWidth ty] := natMod_modEq _ _
    _ ≡ (x : Int) - y [ZMOD 2 ^ tyWidth ty] := by rw [difference]; exact Int.add_modEq_right
    _ ≡ valOf x ty - valOf y ty [ZMOD 2 ^ tyWidth ty] := ((valOf_modEq x ty).sub (valOf_modEq y ty)).symm

/-- The pattern has the residue of r (R128). -/
theorem twoPattern_modEq (k : Two) {ty y : Nat} (x n : Nat) (hy : y < 2 ^ tyWidth ty) :
    (twoPattern k ty x y n : Int) ≡ k.r ty x y n [ZMOD 2 ^ tyWidth ty] := by
  have vx := (valOf_modEq x ty).symm
  have vy := (valOf_modEq y ty).symm
  cases k with
  | add => exact (natMod_modEq _ _).trans (by push_cast; exact vx.add vy)
  | sub => exact rSub_modEq x hy
  | mul => exact (natMod_modEq _ _).trans (by push_cast; exact vx.mul vy)
  | sadd | ssub | mulh | sar => exact wrap_modEq _ _
  | min | max =>
    simp only [twoPattern, rMin, rMax, Two.r]
    split
    all_goals assumption
  | and | or | xor | andn => exact .rfl
  | shl =>
    simp only [twoPattern, rShl, Two.r]
    split
    · exact .rfl
    · exact (natMod_modEq _ _).trans (by push_cast; exact vx.mul_right _)
  | shr =>
    simp only [twoPattern, rShr, Two.r]
    split <;> exact .rfl
  | rol => exact (natMod_modEq _ _).trans (by simp only [Two.r]; push_cast; exact (Int.mod_modEq _ _).symm.add_right _)

/-! ### One-source instructions, moves, MAD and DOT4 (R129 to R131) -/

/-- A one-source instruction computes a pattern with the residue that R129 gives. -/
theorem exec_one {i : Instr} {r : Nat → Nat → Int} {f : FmtA} (h : one i = (some r, some f)) :
    ∃ op : Nat → Nat → Nat, (∀ s, exec i s = .next (intA1 s f op)) ∧
      ∀ ty, ∀ x < 2 ^ tyWidth ty, (op ty x : Int) ≡ r ty x [ZMOD 2 ^ tyWidth ty] := by
  cases i with
  | abs g => cases h; exact ⟨rAbs, fun _ => rfl, fun _ _ _ => wrap_modEq _ _⟩
  | neg g => cases h; exact ⟨rNeg, fun _ => rfl, fun _ _ _ => wrap_modEq _ _⟩
  | not g => cases h; exact ⟨rNot, fun _ => rfl, fun _ x hx => by rw [rNot_eq hx]⟩
  | brev g => cases h; exact ⟨rBrev, fun _ => rfl, fun _ x _ => by rw [rBrev_eq]⟩
  | _ => cases h
theorem exec_counts {i : Instr} {c : Nat → Nat → Nat} {f : FmtA} (h : counts i = some (c, f)) :
    ∃ op : Nat → Nat → Nat, (∀ s, exec i s = .next (intCnt s f op)) ∧ ∀ w, ∀ x < 2 ^ w, op w x = c w x := by
  cases i with
  | popc g => cases h; exact ⟨popc, fun _ => rfl, fun w x _ => popc_eq w x⟩
  | clz g => cases h; exact ⟨clz, fun _ => rfl, fun w x hx => clz_eq w hx⟩
  | ctz g => cases h; exact ⟨ctz, fun _ => rfl, fun w x _ => ctz_eq w x⟩
  | _ => cases h

/-- The words that MOVI writes (R130). -/
theorem moviVal_words (f : FmtI) : writeD (moviVal f) f.ty.toNat =
    if f.ty.toNat = 3 then natWords (wrap 64 f.imm.toInt) 2 else writeD f.imm.toNat f.ty.toNat := by
  unfold moviVal
  split
  case isTrue s64 =>
    rw [s64, sext_toNat]
    exact congrArg (natWords · 2) (Nat.mod_eq_of_lt (wrap_lt 64 _))
  case isFalse => rfl
/-- A meaning that writes uniform registers once for its path (R122). -/
theorem issueOnce_putFg {s : State} {p : Path} {t : Thread} {c : Nat} {ws : List Word} {f : Path → State → List Thread → OnceRes}
    (hi : Issues s p rightsAll) (ht : (s.active p {}).head? = some t)
    (hf : ∀ s1 ts, f p s1 (t :: ts) = .ok (s1.setFg ((s1.fgOf t).put c ws))) :
    (issueOnce s rightsAll {} f).rest = (s.setFg ((s.fgOf t).put c ws)).rest ∧ Threads s (issueOnce s rightsAll {} f) p keeps := by
  obtain ⟨ts, act⟩ := List.head?_eq_some_iff.1 ht
  refine issueOnce_does hi (by simp [act]) fun s1 h1 => ⟨s1.setFg ((s1.fgOf t).put c ws), act ▸ hf s1 ts, rfl, ?_⟩
  rw [State.rest_setFg, State.rest_setFg, State.fgOf_congr h1, h1]

/-- DOT4 adds the four products to c modulo 2^32 (R131). -/
theorem rDot4_word (ty a b c : Nat) : BitVec.ofNat 32 (rDot4 ty a b c) =
    BitVec.ofInt 32 (((List.range 4).map fun i => valOf (a / 2 ^ (8 * i) % 256) ty * valOf (b / 2 ^ (8 * i) % 256) ty).foldl (· + ·)
      (valOf c 2)) := by
  have byte (x i : Nat) : bits x (8 * i) 8 = x / 2 ^ (8 * i) % 256 := bits_eq_div _ _ _
  unfold rDot4
  rw [ofNat_wrap]
  simp only [byte]
  rfl

/-! ### Carry chains and division (R132, R133) -/

/-- A per-thread instruction that writes registers and a predicate of its thread. -/
theorem issueEach_putPred {s : State} {p : Path} {r : Rights} {g : Guard} {d k : Nat} {res : State → Thread → List Word × Bool}
    {f : Path → State → Thread → Res} (hi : Issues s p r) (hr : Reads s res)
    (hf : ∀ s1 t, f p s1 t = .ok (s1.setThread ((t.put d (res s1 t).1).setPred k (res s1 t).2))) :
    (issueEach s r g f).rest = s.rest ∧
    Threads s (issueEach s r g f) p (turns g fun t => (t.put d (res s t).1).setPred k (res s t).2) :=
  issueEach_turns hi (fun s1 t h => by rw [hf, hr.rest s1 t h]) (fun t => ⟨by simp, by simp⟩)
    (fun t q => Thread.setPred_quiet _ _ (Thread.put_quiet _ _ q))
    (fun t u h => by rw [hr.core t u h]; exact Thread.setPred_core _ _ (Thread.put_core _ _ h))
/-- ADDC or SUBB, whose result is the pattern and the carry that `op` makes of the operands and of the carry in. -/
theorem intCarry_runs {i : Instr} {f : FmtA} {s : State} {p : Path} {op : Nat → Nat → Nat → Nat → Nat × Bool}
    (he : exec i s = .next (intCarry s f op)) (hi : Issues s p rightsAll) :
    Runs i s p s (turns f.guard fun t =>
      let out := op f.ty.toNat (srcA s t f f.ty.toNat) (srcB s t f f.ty.toNat) (if f.fn = 1#5 then 0 else b2n (t.pred f.c.toNat))
      (t.put f.d.toNat (writeD out.1 f.ty.toNat)).setPred f.c.toNat out.2) := by
  have reads : Reads s fun s t =>
      let out := op f.ty.toNat (srcA s t f f.ty.toNat) (srcB s t f f.ty.toNat) (if f.fn = 1#5 then 0 else b2n (t.pred f.c.toNat))
      (writeD out.1 f.ty.toNat, out.2) :=
    (reads_srcA s f _).map3 (reads_srcB s f _) (reads_pred s f.c.toNat) fun x y c =>
      (writeD (op f.ty.toNat x y (if f.fn = 1#5 then 0 else b2n c)).1 f.ty.toNat,
        (op f.ty.toNat x y (if f.fn = 1#5 then 0 else b2n c)).2)
  exact ⟨_, he, issueEach_putPred hi reads fun _ _ => rfl⟩

/-- The difference modulo 2^w, and the borrow (R132). -/
theorem rSubb_eq {ty x y cin : Nat} (hy : y < 2 ^ tyWidth ty) (hc : cin ≤ 1) :
    rSubb ty x y cin = (wrap (tyWidth ty) ((x : Int) - y - cin), decide ((x : Int) - y - cin < 0)) := by
  have difference : ((x + 2 ^ tyWidth ty * 2 - y - cin : Nat) : Int) = (x : Int) - y - cin + 2 ^ tyWidth ty * 2 := by
    have : 1 ≤ 2 ^ tyWidth ty := Nat.one_le_two_pow
    rw [Nat.cast_sub (by omega), Nat.cast_sub (by omega)]; push_cast; ring
  refine Prod.ext ?_ (decide_eq_decide.2 (by omega))
  change (x + 2 ^ tyWidth ty * 2 - y - cin) % 2 ^ tyWidth ty = _
  rw [← wrap_natCast, difference]
  exact wrap_congr Int.modEq_add_fac_self
theorem carryIn_le (fn : BitVec 5) (c : Bool) : (if fn = 1#5 then 0 else b2n c) ≤ 1 := by
  split
  · exact Nat.zero_le 1
  · cases c <;> decide

theorem rDivRem_zero {ty y : Nat} (x : Nat) (h : valOf y ty = 0) : rDivRem ty x y = none := if_pos h
theorem rDivRem_nonzero {ty y : Nat} (x : Nat) (h : valOf y ty ≠ 0) : rDivRem ty x y =
    some (wrap (tyWidth ty) ((valOf x ty).tdiv (valOf y ty)), wrap (tyWidth ty) ((valOf x ty).tmod (valOf y ty))) := if_neg h
/-- What DIV and REM leave pending: the error of a zero divisor, or the pattern of `r` (R133). -/
theorem intDiv_runs {i : Instr} {f : FmtL} {s : State} {p : Path} {pick : Nat × Nat → Nat} {r : Int → Int → Int}
    (he : exec i s = .next (intDiv s f pick)) (hi : Issues s p rightsAll)
    (hp : ∀ w (a b : Int), pick (wrap w (a.tdiv b), wrap w (a.tmod b)) = wrap w (r a b)) :
    Runs i s p s (pends f.guard fun t =>
      let ty := FmtL.ty f
      let x := valOf (regL s t f.a.toNat (tyRegs ty) % 2 ^ tyWidth ty) ty
      let y := valOf (regU s t (FmtL.u f = 1) f.b.toNat (tyRegs ty) % 2 ^ tyWidth ty) ty
      let o : Pending := { uid := 0, sb := f.sb.toNat, left := f.la.toNat, iaddr := p.iaddr, dst := dstRegs f.d.toNat (tyRegs ty) }
      if y = 0 then { o with err := some (0x2001, 0) } else { o with val := some (writeD (wrap (tyWidth ty) (r x y)) ty) }) := by
  refine ⟨_, he, issueEach_pends hi ?_ ?_⟩
  · intro s1 t h
    rw [(reads_regL s _ _).rest s1 t h, (reads_regU s _ _ _).rest s1 t h]
    dsimp only
    by_cases zero : valOf (regU s t (FmtL.u f = 1) f.b.toNat (tyRegs (FmtL.ty f)) % 2 ^ tyWidth (FmtL.ty f)) (FmtL.ty f) = 0
    · rw [rDivRem_zero _ zero, if_pos zero]
    · rw [rDivRem_nonzero _ zero, if_neg zero]
      dsimp only
      rw [hp]
  · intro t u h
    dsimp only
    rw [(reads_regL s _ _).core t u h, (reads_regU s _ _ _).core t u h]

/-! ### Compares, selection and predicates (R134, R135) -/

theorem compareI_iff (c : Nat) (a b : Int) : compareI c a b = true ↔ cmpInt c a b := by
  unfold compareI cmpInt
  split <;> simp
theorem combine_eq (k : Nat) (r q : Bool) : combine k r q = combined k r q := by
  unfold combine combined
  split
  case h_3 not_and not_or => rw [if_neg not_and, if_neg not_or]
  all_goals simp
theorem exec_predOp {i : Instr} {o : Bool → Bool → Bool} {f : FmtA} (h : predOp i = some (o, f)) (s : State) :
    exec i s = .next (intPred s f o) := by
  cases i with
  | pand g | por g | pxor g | pnot g => cases h; rfl
  | _ => cases h

end Sys2Proof.Machine
end

section
/-! What is claimed of the integer, address and predicate instructions (spec/05_integer.md). -/
namespace Sys2Proof.Machine
open Sys2Proof.Claim

/-- Settles O1: the pattern that the model computes has the residue of r (`twoPattern_modEq`), and WriteD sees no more of it. -/
theorem twoSourceResults : Obligations.TwoSourceResults := by
  refine ⟨fun i k f h _ => ?_, fun i k f h s p hi => ⟨_, exec_twoS h s, ?_⟩⟩
  · exact writes_of_eq (intA_writes (exec_twoA h) fun s => (reads_srcA s f _).map3 (reads_srcB s f _) (reads_srcB s f 6)
      fun x y n => writeD (twoPattern k f.ty.toNat x y n) f.ty.toNat)
      fun s t => writeD_wrap (twoPattern_modEq k _ _ (srcB_lt s t f _))
  · have result (t : Thread) : writeD (twoPattern k f.ty (regL s t f.a.toNat 1) f.imm f.imm) f.ty
        = writeD (wrap 32 (k.r (tyS f) (regL s t f.a.toNat 1) (immS f) (immS f))) (tyS f) := by
      rw [writeD_wrap (twoPattern_modEq k _ _ (imm_lt_ofFmtS f)), tyWidth_ofFmtS, immS_eq]
      rfl
    simp only [← result]
    exact issueEach_put hi ((reads_regL s _ 1).map fun x => writeD (twoPattern k f.ty x f.imm f.imm) f.ty)

theorem oneSourceResults_met : oneSourceResults := by
  refine ⟨fun i r f h _ => ?_, fun i c f h _ => ?_⟩
  · obtain ⟨op, runs, same⟩ := exec_one h
    exact writes_of_eq (intA_writes runs fun s => (reads_srcA s f _).map fun x => writeD (op f.ty.toNat x) f.ty.toNat)
      fun s t => writeD_wrap (same _ _ (srcA_lt s t f _))
  · obtain ⟨op, runs, same⟩ := exec_counts h
    exact writes_of_eq (intA_writes runs fun s => (reads_srcA s f _).map fun x => [BitVec.ofNat 32 (op (tyWidth f.ty.toNat) x)])
      fun s t => by rw [same _ _ (srcA_lt s t f _)]
theorem moveResults_met : moveResults := by
  refine ⟨fun f => ?mov, fun f s p hi => ?movS, fun f s p hi => ?movi⟩
  case mov => exact intA_writes (fun _ => rfl) fun s => (reads_srcB s f _).map fun x => writeD x f.ty.toNat
  case movS =>
    rw [immS_eq]
    exact ⟨_, rfl, issueEach_put hi (reads_const s _)⟩
  case movi =>
    rw [← moviVal_words]
    dsimp only
    split
    case isTrue hu =>
      intro t ht
      refine ⟨_, rfl, ?_⟩
      rw [if_pos hu]
      exact issueOnce_putFg hi ht fun _ _ => rfl
    case isFalse hu =>
      refine ⟨_, rfl, ?_⟩
      rw [if_neg hu]
      exact issueEach_put hi (reads_const s _)
theorem madAndDot4_met : madAndDot4 := by
  refine ⟨fun f => ?mad, fun f => ?dot4⟩
  case mad =>
    exact intA_writes (fun _ => rfl) fun s => (reads_srcA s f _).map3 (reads_srcB s f _) (reads_srcC s f _)
      fun x y z => writeD (rMad f.ty.toNat x y z) f.ty.toNat
  case dot4 =>
    have reads (s : State) := (reads_srcA s f 6).map3 (reads_srcB s f 6) (reads_srcC s f 6)
      fun a b c => [BitVec.ofNat 32 (rDot4 f.ty.toNat a b c)]
    exact writes_of_eq (intA_writes (fun _ => rfl) reads) fun s t => congrArg (fun w => [w]) (rDot4_word _ _ _ _)
/-- Settles O2, by the bits of each pattern and by what each count is. -/
theorem oneSourceMoveMad : Obligations.OneSourceMoveMad := ⟨oneSourceResults_met, moveResults_met, madAndDot4_met⟩

theorem carryChains_met : carryChains := by
  refine fun f s p _ hi => ⟨intCarry_runs (op := rAddc) rfl hi, ?_⟩
  have borrow (t : Thread) : rSubb f.ty.toNat (srcA s t f f.ty.toNat) (srcB s t f f.ty.toNat)
      (if f.fn = 1#5 then 0 else b2n (t.pred f.c.toNat)) = _ := rSubb_eq (srcB_lt s t f _) (carryIn_le _ _)
  have runs := intCarry_runs (i := .subb f) (op := rSubb) rfl hi
  simp only [borrow] at runs
  exact runs
theorem divideResults_met : divideResults := fun _ _ _ _ hi =>
  ⟨intDiv_runs rfl hi fun _ _ _ => rfl, intDiv_runs rfl hi fun _ _ _ => rfl⟩
/-- Settles O3: a borrow is a difference below 0, and a zero divisor is what DIV and REM ask about first. -/
theorem carriesAndDivision : Obligations.CarriesAndDivision := ⟨carryChains_met, divideResults_met⟩

/-- Settles O4: the comparison and the combine that the model reads from FN are those of the rules. -/
theorem comparesAndPredicates : Obligations.ComparesAndPredicates := by
  refine ⟨fun f s p hi r hr => ?setp, fun f => ?sel, fun i o f s p h hi => ⟨_, exec_predOp h s, ?pred⟩⟩
  case setp =>
    have compared (t : Thread) : r t =
        compareI (bits f.fn.toNat 0 3) (valOf (srcA s t f f.ty.toNat) f.ty.toNat) (valOf (srcB s t f f.ty.toNat) f.ty.toNat) :=
      Bool.eq_iff_iff.2 ((hr t).trans (compareI_iff _ _ _).symm)
    have field : bits f.fn.toNat 3 2 = f.fn.toNat / 8 := by
      rw [bits_eq_div]
      have := f.fn.isLt
      omega
    simp only [compared, ← field, ← combine_eq]
    exact ⟨_, rfl, issueEach_pred hi ((reads_srcA s f _).map3 (reads_srcB s f _) (reads_pred s f.c.toNat) fun x y q =>
      combine (bits f.fn.toNat 3 2) (compareI (bits f.fn.toNat 0 3) (valOf x f.ty.toNat) (valOf y f.ty.toNat)) q)⟩
  case sel =>
    exact intA_writes (fun _ => rfl) fun s => (reads_pred s f.c.toNat).map3 (reads_srcA s f _) (reads_srcB s f _)
      fun q x y => writeD (if q then x else y) f.ty.toNat
  case pred => exact issueEach_pred hi ((reads_pred s _).map2 (reads_pred s _) o)

theorem fieldsAndBytes_met : fieldsAndBytes := by
  refine ⟨fun f _ => ?bfx, fun f _ => ?bfi, fun f => ?prmt⟩
  case bfx =>
    have reads (s : State) := (reads_srcA s f f.ty.toNat).map3 (reads_srcB s f 6) (reads_srcC s f 6)
      fun x pos len => writeD (rBfx f.ty.toNat x pos len) f.ty.toNat
    exact writes_of_eq (intA_writes (fun _ => rfl) reads) fun s t => writeD_wrap (rBfx_modEq _ _ (srcA_lt s t f _))
  case bfi =>
    have reads (s : State) := (reads_srcD s f f.ty.toNat).map4 (reads_srcA s f f.ty.toNat) (reads_srcB s f 6) (reads_srcC s f 6)
      fun base x pos len => writeD (rBfi f.ty.toNat base x pos len) f.ty.toNat
    exact writes_of_eq (intA_writes (fun _ => rfl) reads) fun s t => by rw [rBfi_eq _ _ _ (srcD_lt s t f _)]
  case prmt =>
    have reads (s : State) := (reads_srcA s f 6).map3 (reads_srcB s f 6) (reads_srcC s f 6)
      fun a b c => [BitVec.ofNat 32 (rPrmt a b c)]
    exact writes_of_eq (intA_writes (fun _ => rfl) reads) fun s t => by rw [rPrmt_eq]
theorem addressesAndConversions_met : addressesAndConversions := by
  refine ⟨fun f _ => ?lea, fun f _ => ?cvti⟩
  case lea =>
    have word {x : Nat} (h : x < 2 ^ tyWidth 6) : x % 2 ^ 32 = x := Nat.mod_eq_of_lt h
    have reads (s : State) := (reads_srcA s f 7).map3 (reads_srcB s f 6) (reads_srcC s f 6)
      fun a b c => natWords (rLea f.ty.toNat a b (bits f.fn.toNat 0 3) c) 2
    refine writes_of_eq (intA_writes (fun _ => rfl) reads) fun s t => ?_
    unfold rLea
    dsimp only
    rw [word (srcB_lt s t f 6), word (srcC_lt s t f 6)]
    rfl
  case cvti =>
    have reads (s : State) := (reads_srcA s f (f.fn.toNat % 8)).map
      fun x => writeD (rCvti f.ty.toNat (f.fn.toNat % 8) x (f.st = 1#2)) f.ty.toNat
    refine writes_of_eq (intA_writes (fun _ => rfl) reads) fun s t => ?_
    unfold rCvti
    simp only [decide_eq_true_eq]
    rfl
/-- Settles O5, bit by bit, and for LEA and CVTI by the operands being below 2^32 already. -/
theorem fieldsAndAddresses : Obligations.FieldsAndAddresses := ⟨fieldsAndBytes_met, addressesAndConversions_met⟩

end Sys2Proof.Machine
end

section
/-! SUPPORT. Instructions that hold their thread, that do nothing, and that end it (spec/06_control.md R145, R153, R154). -/
namespace Sys2Proof.Machine
open Sys2Proof.Claim

/-! ### Holds (R145, R154) -/

theorem exec_holds {i : Instr} {f : FmtA} {st : Path → State → Thread → Status} (h : holds i = some (f, st)) (s : State) :
    exec i s = .next (holdEach s f.guard st) := by
  cases i with
  | join f | waitm f | sleep f => cases h; rfl
  | _ => cases h
theorem reads_cycle (s : State) : Reads s fun s _ => s.ctl.cycle :=
  ⟨fun s1 _ h => (congrArg (fun x : State => x.ctl.cycle) h : s1.rest.ctl.cycle = s.rest.ctl.cycle), fun _ _ _ => rfl⟩
/-- The state in which a hold leaves its thread is an operand. -/
theorem holds_reads {i : Instr} {f : FmtA} {st : Path → State → Thread → Status} (h : holds i = some (f, st)) (s : State) (p : Path) :
    Reads s (st p) := by
  cases i with
  | join f | waitm f => cases h; exact reads_const s _
  | sleep f =>
    cases h
    exact (reads_cycle s).map2 (reads_srcB s f 6) fun c n => Status.sleeping (c + Nat.min (Nat.max n 1) (2 ^ 24))
  | _ => cases h
theorem holdEach_ends {s : State} {p : Path} {g : Guard} {st : Path → State → Thread → Status} (hi : Issues s p rightsAll)
    (hp : p.last) (hr : Reads s (st p)) :
    (holdEach s g st).rest = s.rest ∧
    Threads s (holdEach s g st) p fun t t' => ∃ t1, t1.mid = (if g.on t then { t with after := st p s t } else t).mid ∧ Ended t1 t' := by
  refine issueEach_ends (h := fun t => { t with after := st p s t }) hi hp ?_ (fun _ => ⟨rfl, rfl⟩) (fun _ q => q) ?_
  · intro s1 t h1
    rw [hr.rest s1 t h1]
  · intro t u h
    rw [hr.core t u (Thread.core_mid h)]
    exact congrArg (fun v : Thread => { v with after := st p s u }) h

/-! ### A meaning that does nothing (R154) -/

theorem does_nothing (s : State) : Does s (fun s _ => .ok s) fun t v => v.mid = t.mid :=
  fun s1 t h1 ht => ⟨s1, rfl, h1, fun _ _ _ => rfl, t, ht, rfl⟩
theorem local_mid : Local fun t v => v.mid = t.mid :=
  ⟨fun _ _ h q => Thread.quiet_core (Thread.core_mid h) q, fun _ _ _ _ h1 h2 h3 => h3.symm.trans (h1.trans h2)⟩
theorem guarded_mid {g : Guard} {t v : Thread} (h : guarded g (fun t v => v.mid = t.mid) t v) : v.mid = t.mid := by
  unfold guarded at h
  split at h <;> exact h
theorem issueEach_keeps {s : State} {p : Path} {r : Rights} {g : Guard} (hi : Issues s p r) :
    (issueEach s r g fun _ s _ => .ok s).rest = s.rest ∧ Threads s (issueEach s r g fun _ s _ => .ok s) p keeps := by
  obtain ⟨rest, far, near⟩ := issueEach_all (g := g) (f := fun _ s _ => .ok s) hi (does_nothing s) local_mid
  refine ⟨rest, far, fun l hl t ht => ?_⟩
  obtain ⟨t', found, t1, passed, ended⟩ := near l hl t ht
  exact ⟨t', found, (core_of_end ended).trans (Thread.core_mid (guarded_mid passed))⟩

/-! ### EXIT (R153) -/

theorem exec_exit {i : Instr} {g : Guard} (h : exit? i = some g) (s : State) : exec i s = .next (issueExit s g) := by
  cases i with
  | exitShort f | exit f => cases h; rfl
  | _ => cases h
theorem issueExit_alone {s : State} {p : Path} {g : Guard} {t : Thread} (h : Alone s p rightsAll g t) :
    issueExit s g = if t.sb.any (· ≠ 0) then s else
      (((((s.begun p t).setThread { moved p t with status := .exited, after := .exited }).retire p.fg t.trap.inH).advance p
        [t.lane]).exited p.fg) := by
  obtain ⟨qs, hp⟩ := List.head?_eq_some_iff.1 h.issues.head
  have act : s.executing p g = [t] := active_alone h
  have issued := issueEach_alone (f := fun _ s t => .ok (s.setThread { t with status := .exited, after := .exited })) h rfl
  unfold issueExit
  simp only [hp, act, issued, List.any_cons, List.any_nil, Bool.or_false, List.isEmpty_cons, Bool.false_eq_true, if_false]

end Sys2Proof.Machine
end

section
/-! SUPPORT. What a cross-lane instruction does: the threads that execute it, a path that holds the whole of its rendezvous or waits
for it, and the combination of all its threads (spec/06_control.md R146, R158). -/
namespace Sys2Proof.Machine
open Sys2Proof.Claim

/-! ### Lists of threads that differ only in where these stand -/

theorem Thread.core_core (t : Thread) : t.core.core = t.core := by
  simp only [Thread.core, List.map_map]
  rfl
theorem lane_of_core {t u : Thread} (h : t.core = u.core) : t.lane = u.lane := (congrArg Thread.lane h : t.core.lane = u.core.lane)

section
variable {l l' : List Thread} (h : l.map Thread.core = l'.map Thread.core)
include h
theorem map_of_cores {β : Type} {k : Thread → β} (hk : ∀ t u, t.core = u.core → k t = k u) : l.map k = l'.map k := by
  have through (m : List Thread) : m.map k = (m.map Thread.core).map k := by
    rw [List.map_map]
    exact List.map_congr_left fun t _ => hk t t.core t.core_core.symm
  rw [through l, through l', h]
theorem filter_of_cores {q : Thread → Bool} (hq : ∀ t u, t.core = u.core → q t = q u) :
    (l.filter q).map Thread.core = (l'.filter q).map Thread.core := by
  have through (m : List Thread) : (m.filter q).map Thread.core = (m.map Thread.core).filter q := by
    rw [List.filter_map]
    exact congrArg (List.map Thread.core) (List.filter_congr fun t _ => hq t t.core t.core_core.symm)
  rw [through l, through l', h]
theorem any_of_cores {q : Thread → Bool} (hq : ∀ t u, t.core = u.core → q t = q u) : l.any q = l'.any q := by
  have through (m : List Thread) : m.any q = (m.map q).any id := by rw [List.any_map]; rfl
  rw [through l, through l', map_of_cores h hq]
theorem find_of_cores {β : Type} {q : Thread → Bool} {k : Thread → β} (hq : ∀ t u, t.core = u.core → q t = q u)
    (hk : ∀ t u, t.core = u.core → k t = k u) : (l.find? q).map k = (l'.find? q).map k := by
  rw [← List.head?_filter, ← List.head?_filter, ← List.head?_map, ← List.head?_map, map_of_cores (filter_of_cores h hq) hk]
end

/-! ### The executing threads (R158) -/

theorem mem_executing {s : State} {p : Path} {g : Guard} {t : Thread} (ht : t ∈ executing s p g) :
    t.lane ∈ p.lanes ∧ s.thread? p.fg t.lane = some t ∧ g.on t = true := by
  obtain ⟨found, on⟩ := List.mem_filter.1 ht
  obtain ⟨l, hl, ht⟩ := List.mem_filterMap.1 found
  obtain ⟨-, rfl⟩ := thread?_key ht
  exact ⟨by simpa using (List.mem_filter.1 hl).2, ht, on⟩
theorem mem_executing_of {s : State} {p : Path} {g : Guard} {l : Nat} {t : Thread} (hb : l < 128) (hl : l ∈ p.lanes)
    (ht : s.thread? p.fg l = some t) (on : g.on t = true) : t ∈ executing s p g :=
  List.mem_filter.2 ⟨List.mem_filterMap.2 ⟨l, List.mem_filter.2 ⟨List.mem_range.2 hb, by simpa using hl⟩, ht⟩, on⟩
theorem executing_lt (s : State) (p : Path) (g : Guard) : (executing s p g).Pairwise fun t u => t.lane < u.lane := by
  refine List.Pairwise.filter _ (List.Pairwise.filterMap _ ?_ (List.Pairwise.filter _ List.pairwise_lt_range))
  intro l k hlk t ht u hu
  obtain ⟨-, rfl⟩ := thread?_key ht
  obtain ⟨-, rfl⟩ := thread?_key hu
  exact hlk
theorem activeIn_lt (s : State) (p : Path) (g : Guard) (i : Inst) (k : Nat) :
    (activeIn s p g i k).Pairwise fun t u => t.lane < u.lane := (executing_lt s p g).filter _

/-- `s1` differs from `s` in threads, paths, identities and counter values only, and in the threads of `p` only in where they stand. -/
structure Alike (s s1 : State) (p : Path) : Prop where
  rest : s1.rest = s.rest
  core : ∀ l ∈ p.lanes, (s1.thread? p.fg l).map Thread.core = (s.thread? p.fg l).map Thread.core

section
variable {s s1 : State} {p : Path} (h : Alike s s1 p) (g : Guard) (i : Inst) (k : Nat)
include h
theorem Alike.executing_cores : (executing s1 p g).map Thread.core = (executing s p g).map Thread.core := by
  refine filter_of_cores ?_ fun t u => Guard.on_core g
  rw [List.map_filterMap, List.map_filterMap]
  exact List.filterMap_congr fun l hl => h.core l (by simpa using (List.mem_filter.1 hl).2)
theorem Alike.activeIn_cores : (activeIn s1 p g i k).map Thread.core = (activeIn s p g i k).map Thread.core :=
  filter_of_cores (h.executing_cores g) fun t u e => by rw [← t.core_lane, e, u.core_lane]
theorem Alike.map_eq {β : Type} {src : Thread → β} (hs : ∀ t u, t.core = u.core → src t = src u) :
    (activeIn s1 p g i k).map src = (activeIn s p g i k).map src := map_of_cores (h.activeIn_cores g i k) hs
theorem Alike.votes_eq {src : Thread → Bool} (hs : ∀ t u, t.core = u.core → src t = src u) :
    votes (activeIn s1 p g i k) src = votes (activeIn s p g i k) src :=
  funext fun l => any_of_cores (h.activeIn_cores g i k) fun t u e => by rw [lane_of_core e, hs t u e]
theorem Alike.rankIn_eq (l : Nat) : rankIn (activeIn s1 p g i k) l = rankIn (activeIn s p g i k) l := by
  have same := congrArg List.length
    (filter_of_cores (h.activeIn_cores g i k) (q := fun u => u.lane < l) fun t u e => by rw [lane_of_core e])
  simpa [rankIn] using same
end

/-! ### The rendezvous of a path (R146) -/

/-- The path as it stands at a cross-lane instruction. -/
def Path.waits (p : Path) : Path := { p with waiting := true }

section
variable {s : State} {p : Path} {i : Inst} (hi : p.inst = some i.id) (found : s.inst? i.id = some i)
include hi found
theorem instOf_found : (s.setPath p.waits).instOf p = i := by
  have found : (s.setPath p.waits).inst? i.id = some i := found
  unfold State.instOf
  simp only [hi, Option.bind_some, found]
theorem instPaths_found : (s.setPath p.waits).instPaths p =
    (s.setPath p.waits).paths.filter fun q => q.inst = some i.id && q.waiting && q.idx = p.idx := by
  have found : (s.setPath p.waits).inst? i.id = some i := found
  unfold State.instPaths
  simp only [hi, Option.bind_some, found]
/-- A path waits while some thread of its rendezvous stands at no cross-lane instruction, on it or on a path that waits. -/
theorem issueCross_waits {qs : List Path} (hp : s.paths = p :: qs)
    (away : ∃ l ∈ i.lanes, ∀ q ∈ s.paths, (q.id = p.id ∨ q.waiting) → q.inst = some i.id → l ∉ q.lanes)
    (g : Guard) (f : State → Inst → List Thread → State) : issueCross s g f = (s.setPath p.waits).joinWaiting p := by
  obtain ⟨l, hl, away⟩ := away
  have absent : l ∉ ((s.setPath p.waits).instPaths p).flatMap (·.lanes) := by
    rw [instPaths_found hi found]
    intro here
    obtain ⟨q', hq', here⟩ := List.mem_flatMap.1 here
    obtain ⟨hq', stands⟩ := List.mem_filter.1 hq'
    obtain ⟨q, hq, rfl⟩ := List.mem_map.1 hq'
    by_cases same : q.id = p.waits.id
    · rw [if_pos same] at here
      exact away p (by simp [hp]) (.inl rfl) hi here
    · rw [if_neg same] at here stands
      obtain ⟨⟨own, waits⟩, -⟩ : (q.inst = some i.id ∧ q.waiting = true) ∧ q.idx = p.idx := by simpa using stands
      exact away q hq (.inr waits) own here
  have missing : ¬ (i.lanes.all fun l => (((s.setPath p.waits).instPaths p).flatMap (·.lanes)).contains l) = true := fun all =>
    absent (by simpa using List.all_eq_true.1 all l hl)
  unfold issueCross
  simp only [hp, show ({ p with waiting := true } : Path) = p.waits from rfl]
  rw [instOf_found hi found, if_neg missing]
end

section
variable {s : State} {p : Path} {i : Inst} (hw : Whole s p i)
include hw
theorem setPath_whole {qs : List Path} (hp : s.paths = p :: qs) : (s.setPath p.waits).paths = p.waits :: qs := by
  have others : qs.map (fun q => if q.id = p.waits.id then p.waits else q) = qs :=
    (List.map_congr_left fun q hq => if_neg (hw.others q (by rw [hp]; exact hq)).2).trans (List.map_id qs)
  change s.paths.map (fun q => if q.id = p.waits.id then p.waits else q) = _
  rw [hp, List.map_cons, others, if_pos (show p.id = p.waits.id from rfl)]
theorem instPaths_whole {qs : List Path} (hp : s.paths = p :: qs) : (s.setPath p.waits).instPaths p = [p.waits] := by
  have others : qs.filter (fun q => q.inst = some i.id && q.waiting && q.idx = p.idx) = [] :=
    List.filter_eq_nil_iff.2 fun q hq => by simp [(hw.others q (by rw [hp]; exact hq)).1]
  rw [instPaths_found hw.inst hw.found, setPath_whole hw hp, List.filter_cons, others]
  simp [Path.waits, hw.inst]
/-- Where the path holds all of them, its threads pass the instruction and combine. -/
theorem issueCross_whole {g : Guard} {f : State → Inst → List Thread → State} {qs : List Path} (hp : s.paths = p :: qs)
    {s1 : State} {kept : List Nat}
    (hs : p.lanes.foldl (issueLane rightsAll g p.waits fun s _ => .ok s) (s.setPath p.waits, []) = (s1, kept)) :
    issueCross s g f = (f s1 i (executing s1 p g)).advance p.waits kept := by
  have here : [p.waits].flatMap (·.lanes) = p.lanes := List.append_nil _
  have all : (p.lanes.all fun l => p.lanes.contains l) = true := List.all_eq_true.2 fun l hl => by simpa using hl
  unfold issueCross
  simp only [hp]
  simp only [show ({ p with waiting := true } : Path) = p.waits from rfl, instOf_found hw.inst hw.found, instPaths_whole hw hp, here,
    hw.lanes, all, if_true, List.foldl_cons, List.foldl_nil, List.nil_append, show p.waits.lanes = p.lanes from rfl, hs]
  rfl
end

/-! ### A meaning that changes the threads that execute -/

/-- `s2` is `s1` with the executing threads `on` of `p` as `R` says, and the rest of the state as that of `x`. -/
structure Combines (x s1 s2 : State) (p : Path) (on : List Thread) (R : Thread → Thread → Prop) : Prop where
  rest : s2.rest = x.rest
  others : ∀ fg l, (∀ t ∈ on, fg ≠ p.fg ∨ l ≠ t.lane) → s2.thread? fg l = s1.thread? fg l
  each : ∀ t ∈ on, ∃ v, s2.thread? p.fg t.lane = some v ∧ R t v

theorem Combines.imp {x s1 s2 y : State} {p : Path} {on : List Thread} {R R' : Thread → Thread → Prop} (h : Combines y s1 s2 p on R)
    (rest : y.rest = x.rest) (hR : ∀ t ∈ on, ∀ v, R t v → R' t v) : Combines x s1 s2 p on R' :=
  ⟨h.rest.trans rest, h.others, fun t ht => let ⟨v, found, made⟩ := h.each t ht; ⟨v, found, hR t ht v made⟩⟩
theorem Combines.threads {x s1 s2 : State} {p : Path} {g : Guard} {R : Thread → Thread → Prop} (hb : ∀ l ∈ p.lanes, l < 128)
    (h : Combines x s1 s2 p (executing s1 p g) R) :
    (∀ fg l, (fg ≠ p.fg ∨ l ∉ p.lanes ∨ s1.thread? fg l = none) → s2.thread? fg l = s1.thread? fg l) ∧
    ∀ l ∈ p.lanes, ∀ t, s1.thread? p.fg l = some t → ∃ v, s2.thread? p.fg l = some v ∧ guarded g R t v := by
  refine ⟨fun fg l out => h.others fg l fun t ht => ?_, fun l hl t ht => ?_⟩
  · obtain ⟨ml, found, -⟩ := mem_executing ht
    by_contra same
    obtain ⟨rfl, rfl⟩ : fg = p.fg ∧ l = t.lane := by simpa using same
    simp [ml, found] at out
  · by_cases on : g.on t = true
    · obtain ⟨-, rfl⟩ := thread?_key ht
      obtain ⟨v, found, made⟩ := h.each t (mem_executing_of (hb _ hl) hl ht on)
      exact ⟨v, found, by rwa [guarded, if_pos on]⟩
    · refine ⟨t, (h.others p.fg l fun u hu => .inr ?_).trans ht, by rw [guarded, if_neg on]⟩
      rintro rfl
      obtain ⟨-, found, onu⟩ := mem_executing hu
      rw [Option.some.inj (ht.symm.trans found)] at on
      exact on onu
/-- Threads that change are among some that would: the others of these stay. -/
theorem Combines.among {x s1 s2 : State} {p : Path} {on l : List Thread} {H : Thread → Thread} (sub : ∀ t ∈ l, t ∈ on)
    (found : ∀ t ∈ on, s1.thread? p.fg t.lane = some t) (h : Combines x s1 s2 p l fun t v => v = H t) :
    Combines x s1 s2 p on fun t v => v = if l.any (fun u => u.lane = t.lane) then H t else t := by
  refine ⟨h.rest, fun fg k out => h.others fg k fun t ht => out t (sub t ht), fun t ht => ?_⟩
  by_cases here : t ∈ l
  · rw [if_pos (List.any_eq_true.2 ⟨t, here, by simp⟩)]
    exact h.each t here
  · have other (u : Thread) (hu : u ∈ l) : t.lane ≠ u.lane := fun e =>
      here (Option.some.inj ((found u (sub u hu)).symm.trans (e ▸ found t ht)) ▸ hu)
    have none : ¬ l.any (fun u => u.lane = t.lane) = true := fun any => by
      obtain ⟨u, hu, e⟩ := List.any_eq_true.1 any
      exact other u hu (of_decide_eq_true e).symm
    rw [if_neg none]
    exact ⟨t, (h.others p.fg t.lane fun u hu => .inr (other u hu)).trans (found t ht), rfl⟩
/-- Threads of `p` in ascending lanes, each changed in its turn. -/
theorem foldl_modThread {p : Path} {h : Thread → Thread → Thread} (hk : ∀ t u, (h t u).fg = u.fg ∧ (h t u).lane = u.lane)
    (l : List Thread) : ∀ s : State, l.Pairwise (fun t u => t.lane < u.lane) → (∀ t ∈ l, s.thread? p.fg t.lane = some t) →
      Combines s s (l.foldl (fun s t => s.modThread t.fg t.lane (h t)) s) p l fun t v => v = h t t := by
  induction l with
  | nil => exact fun s _ _ => ⟨rfl, fun _ _ _ => rfl, by simp⟩
  | cons a r ih =>
    intro s sorted found
    obtain ⟨above, sorted⟩ := List.pairwise_cons.1 sorted
    obtain ⟨fa, fr⟩ := List.forall_mem_cons.1 found
    obtain ⟨ka, -⟩ := thread?_key fa
    have kept (t : Thread) (ht : t ∈ r) : (s.modThread a.fg a.lane (h a)).thread? p.fg t.lane = some t :=
      (State.thread?_modThread_ne s a.fg a.lane p.fg t.lane _ (hk a) (.inr (above t ht).ne')).trans (fr t ht)
    obtain ⟨rest, others, each⟩ := ih _ sorted kept
    refine ⟨rest, fun fg k out => ?_, fun t ht => ?_⟩
    · obtain ⟨oa, out⟩ := List.forall_mem_cons.1 out
      exact (others fg k out).trans (State.thread?_modThread_ne s a.fg a.lane fg k _ (hk a) (ka ▸ oa))
    · rcases List.mem_cons.1 ht with rfl | ht
      · refine ⟨_, (others p.fg t.lane fun u hu => .inr (above u hu).ne).trans ?_, rfl⟩
        rw [← ka, State.thread?_modThread_eq s t.fg t.lane _ (hk t), ka, fa]
        rfl
      · exact each t ht
theorem foldl_executing {h : Thread → Thread → Thread} (hk : ∀ t u, (h t u).fg = u.fg ∧ (h t u).lane = u.lane) (s : State) (p : Path)
    (g : Guard) : Combines s s ((executing s p g).foldl (fun s t => s.modThread t.fg t.lane (h t)) s) p (executing s p g)
      fun t v => v = h t t :=
  foldl_modThread hk _ s (executing_lt s p g) fun _ ht => (mem_executing ht).2.1

/-! ### A cross-lane instruction of a path that holds its whole rendezvous -/

/-- What it does, where its meaning makes of each executing thread what `R` says. -/
theorem issueCross_all {s x : State} {p : Path} {i : Inst} {g : Guard} {f : State → Inst → List Thread → State}
    {R : Thread → Thread → Prop} (hi : Issues s p rightsAll) (hw : Whole s p i) (hl : Local R)
    (hf : ∀ s1, Alike s s1 p → Combines x s1 (f s1 i (executing s1 p g)) p (executing s1 p g) R) :
    (issueCross s g f).rest = x.rest ∧
    Threads s (issueCross s g f) p fun t t' => ∃ t1, guarded g R t t1 ∧ (p.last → Ended t1 t') ∧ (¬p.last → t' = t1) := by
  obtain ⟨head, once, rights, quiet⟩ := hi
  obtain ⟨qs, hp⟩ := List.head?_eq_some_iff.1 head
  obtain ⟨s1, kept, passed, rest1, ⟨keptOnce, keptOn, keptAll⟩, far1, gone1, near1⟩ :=
    issueLanes_does (s := s) (g := g) (p := p.waits) rights (does_nothing s) local_mid p.lanes (s.setPath p.waits) [] once rfl quiet
  have alike : Alike s s1 p := by
    refine ⟨rest1, fun l hl => ?_⟩
    cases ht : s.thread? p.fg l with
    | none => exact congrArg (Option.map Thread.core) (gone1 l hl ht)
    | some t =>
      obtain ⟨t1, found, same, -⟩ := near1 l hl t ht
      exact (congrArg (Option.map Thread.core) found).trans (congrArg some (Thread.core_mid (guarded_mid same)))
  have combined := hf s1 alike
  obtain ⟨far2, near2⟩ := combined.threads hw.bound
  have each (l : Nat) (ml : l ∈ p.lanes) (t : Thread) (ht : s.thread? p.fg l = some t) :
      ∃ v, (f s1 i (executing s1 p g)).thread? p.fg l = some v ∧ guarded g R t v ∧ v.quiet := by
    obtain ⟨t1, found, same, quiet1⟩ := near1 l ml t ht
    obtain ⟨v, made, turned⟩ := near2 l ml t1 found
    have mid := guarded_mid same
    refine ⟨v, made, ?_⟩
    unfold guarded at turned ⊢
    rw [Guard.on_core g (Thread.core_mid mid)] at turned
    split
    case isTrue on =>
      rw [if_pos on] at turned
      exact ⟨hl.mid _ _ _ _ turned mid rfl, hl.quiet _ _ turned quiet1⟩
    case isFalse off =>
      rw [if_neg off] at turned
      exact ⟨turned.trans mid, Thread.quiet_core (Thread.core_mid turned) quiet1⟩
  have keptQuiet (l : Nat) (hk : l ∈ kept) (v : Thread) (hv : (f s1 i (executing s1 p g)).thread? p.waits.fg l = some v) : v.quiet := by
    cases ht : s.thread? p.fg l with
    | none =>
      have gone : s1.thread? p.fg l = none := gone1 l (keptOn l hk) ht
      cases hv.symm.trans ((far2 p.fg l (.inr (.inr gone))).trans gone)
    | some t =>
      obtain ⟨v', made, -, quiet⟩ := each l (keptOn l hk) t ht
      rwa [Option.some.inj (hv.symm.trans made)]
  obtain ⟨rest3, far3, near3⟩ := (f s1 i (executing s1 p g)).advance_spec p.waits kept keptOnce keptQuiet
  rw [issueCross_whole hw hp passed, List.nil_append]
  refine ⟨rest3.trans combined.rest, fun fg l h => ?_, fun l ml t ht => ?_⟩
  · rw [far3 fg l (h.imp_right fun no hk => no (keptOn l hk)), far2 fg l (h.imp_right .inl)]
    exact far1 fg l h
  · obtain ⟨v, made, turned, -⟩ := each l ml t ht
    obtain ⟨t', found, ended⟩ := near3 l (keptAll l ml t ht) v made
    exact ⟨t', found, v, turned, ended⟩

/-- A change of a thread that leaves nothing for the end of its clause and does not see where it stands. -/
structure Turn (H : Thread → Thread) : Prop where
  quiet : ∀ t, t.quiet → (H t).quiet
  core : ∀ t u, t.core = u.core → (H t).core = (H u).core

theorem Turn.keep : Turn fun t => t := ⟨fun _ q => q, fun _ _ h => h⟩
theorem Turn.setPred (d : Nat) (b : Bool) : Turn fun t => t.setPred d b :=
  ⟨fun _ => Thread.setPred_quiet d b, fun _ _ => Thread.setPred_core d b⟩
theorem Turn.put (d : Nat) {ws : Thread → List Word} (hws : ∀ t u, t.core = u.core → ws t = ws u) : Turn fun t => t.put d (ws t) :=
  ⟨fun _ => Thread.put_quiet d _, fun t u h => by rw [hws t u h]; exact Thread.put_core d _ h⟩
theorem Turn.raise {H : Thread → Thread} (hH : Turn H) {n : Thread → Nat} (hn : ∀ t u, t.core = u.core → n t = n u) :
    Turn fun t => (H t).raise (n t) :=
  ⟨fun t q => Thread.raise_quiet (t := H t) _ (hH.quiet t q), fun t u h => by rw [hn t u h]; exact Thread.raise_core _ (hH.core t u h)⟩
theorem Turn.ite {A B : Thread → Thread} {c : Thread → Prop} [DecidablePred c] (hc : ∀ t u, t.core = u.core → (c t ↔ c u)) (hA : Turn A)
    (hB : Turn B) : Turn fun t => if c t then A t else B t := by
  refine ⟨fun t q => ?_, fun t u h => ?_⟩
  · split
    · exact hA.quiet t q
    · exact hB.quiet t q
  · simp only [hc t u h]
    split
    · exact hA.core t u h
    · exact hB.core t u h
theorem Turn.local_core {H : Thread → Thread} (hH : Turn H) : Local fun t v => v.core = (H t).core :=
  ⟨fun t _ hv q => Thread.quiet_core hv (hH.quiet t q),
   fun t u v w hv htu hvw => by rw [← Thread.core_mid hvw, hv, hH.core t u (Thread.core_mid htu)]⟩

section
variable {s x : State} {p : Path} {i : Inst} {g : Guard} {f : State → Inst → List Thread → State} (hi : Issues s p rightsAll)
  (hw : Whole s p i)
include hi hw
theorem issueCross_turns {H : Thread → Thread} (hH : Turn H)
    (hf : ∀ s1, Alike s s1 p → Combines x s1 (f s1 i (executing s1 p g)) p (executing s1 p g) fun t v => v = H t) :
    (issueCross s g f).rest = x.rest ∧ Threads s (issueCross s g f) p (turns g H) := by
  obtain ⟨rest, far, near⟩ := issueCross_all (g := g) (f := f) (x := x) hi hw hH.local_core fun s1 h1 =>
    (hf s1 h1).imp rfl fun _ _ _ made => congrArg Thread.core made
  refine ⟨rest, far, fun l hl t ht => ?_⟩
  obtain ⟨t', found, t1, turned, ended⟩ := near l hl t ht
  refine ⟨t', found, (core_of_end ended).trans ?_⟩
  unfold guarded at turned
  split
  case isTrue on => rwa [if_pos on] at turned
  case isFalse off =>
    rw [if_neg off] at turned
    exact Thread.core_mid turned
/-- A meaning that changes each executing thread in its turn. -/
theorem issueCross_each {H : Thread → Thread} (h : State → Thread → Thread → Thread) (hH : Turn H)
    (hk : ∀ s1 t u, (h s1 t u).fg = u.fg ∧ (h s1 t u).lane = u.lane) (hh : ∀ s1, Alike s s1 p → ∀ t, h s1 t t = H t)
    (hf : ∀ s1, f s1 i (executing s1 p g) = (executing s1 p g).foldl (fun x t => x.modThread t.fg t.lane (h s1 t)) s1) :
    (issueCross s g f).rest = s.rest ∧ Threads s (issueCross s g f) p (turns g H) := by
  refine issueCross_turns hi hw hH fun s1 alike => ?_
  rw [hf s1]
  exact (foldl_executing (hk s1) s1 p g).imp alike.rest fun t _ _ made => made.trans (hh s1 alike t)
/-- A meaning that writes its file group. -/
theorem issueCross_setFg {fg : FileGroup} (hf : ∀ s1, Alike s s1 p → f s1 i (executing s1 p g) = s1.setFg fg) :
    (issueCross s g f).rest = (s.setFg fg).rest ∧ Threads s (issueCross s g f) p keeps := by
  obtain ⟨rest, far, near⟩ := issueCross_turns (g := g) (f := f) (x := s.setFg fg) hi hw Turn.keep fun s1 h1 => by
    rw [hf s1 h1]
    exact ⟨by rw [State.rest_setFg, State.rest_setFg, h1.rest], fun _ _ _ => rfl, fun t ht => ⟨t, (mem_executing ht).2.1, rfl⟩⟩
  refine ⟨rest, far, fun l hl t ht => ?_⟩
  obtain ⟨t', found, kept⟩ := near l hl t ht
  exact ⟨t', found, kept.trans (by rw [ite_self])⟩
end

end Sys2Proof.Machine
end

section
/-! SUPPORT. What each cross-lane instruction makes of its threads (spec/06_control.md R152, R158 to R162). -/
namespace Sys2Proof.Machine
open Sys2Proof.Claim

/-! ### BRC (R152) -/

/-- A thread that takes a branch by consensus to `a`, or does not. -/
def Thread.consented (t : Thread) (taken : Bool) (a : DWord) : Thread := if taken then { t with npc := a } else t
theorem Thread.consented_mid {t u : Thread} (taken : Bool) (a : DWord) (h : t.mid = u.mid) :
    (t.consented taken a).mid = (u.consented taken a).mid := by
  cases taken with
  | false => exact h
  | true => exact congrArg (fun v : Thread => { v with npc := a }) h
theorem Thread.consented_quiet {t : Thread} (taken : Bool) (a : DWord) (q : t.quiet) : (t.consented taken a).quiet := by
  cases taken <;> exact q
theorem Thread.local_consented (taken : Bool) (a : DWord) : Local fun t v => v.mid = (t.consented taken a).mid :=
  ⟨fun _ _ hv q => Thread.quiet_core (Thread.core_mid hv) (Thread.consented_quiet taken a q),
   fun _ _ _ _ hv htu hvw => by rw [← hvw, hv, Thread.consented_mid taken a htu]⟩

theorem issueCross_consents {s : State} {p : Path} {i : Inst} {g : Guard} {f : State → Inst → List Thread → State} {taken : Bool}
    {a : DWord} (hi : Issues s p rightsAll) (hw : Whole s p i) (hp : p.last)
    (hf : ∀ s1, Alike s s1 p → f s1 i (executing s1 p g) =
      if taken then (executing s1 p g).foldl (fun x t => x.modThread t.fg t.lane fun t => { t with npc := a }) s1 else s1) :
    (issueCross s g f).rest = s.rest ∧ Threads s (issueCross s g f) p fun t t' =>
      ∃ t1, t1.mid = (if g.on t then t.consented taken a else t).mid ∧ Ended t1 t' := by
  obtain ⟨rest, far, near⟩ := issueCross_all (g := g) (f := f) (x := s) hi hw (Thread.local_consented taken a) fun s1 h1 => by
    rw [hf s1 h1]
    cases taken with
    | false => exact ⟨h1.rest, fun _ _ _ => rfl, fun t ht => ⟨t, (mem_executing ht).2.1, rfl⟩⟩
    | true =>
      exact (foldl_executing (h := fun _ u => { u with npc := a }) (fun _ _ => ⟨rfl, rfl⟩) s1 p g).imp h1.rest
        fun _ _ _ made => congrArg Thread.mid made
  refine ⟨rest, far, fun l hl t ht => ?_⟩
  obtain ⟨t', found, t1, turned, ended, -⟩ := near l hl t ht
  refine ⟨t', found, t1, ?_, ended hp⟩
  unfold guarded at turned
  split
  case isTrue on => rwa [if_pos on] at turned
  case isFalse off => rwa [if_neg off] at turned

/-! ### VOTE (R159) -/

theorem voteSrc_core (f : FmtA) (t u : Thread) (h : t.core = u.core) : voteSrc f t = voteSrc f u := by
  have flags : t.flags = u.flags := (reads_flags State.reset).core t u h
  have pred : t.pred f.a.toNat = u.pred f.a.toNat := (reads_pred State.reset _).core t u h
  unfold voteSrc Thread.flAny
  rw [flags, pred]

section
variable {s : State} {p : Path} {i : Inst} (hi : Issues s p rightsAll) (hw : Whole s p i) (f : FmtA)
include hi hw
/-- The forms of VOTE that write a predicate. -/
theorem issueCross_vote (c : (Nat → Bool) → Bool) {F : State → Inst → List Thread → State}
    (hF : ∀ s1, F s1 i (executing s1 p f.guard) = (executing s1 p f.guard).foldl (fun x t => x.modThread t.fg t.lane fun u =>
      u.setPred f.d.toNat (c (votes (activeIn s1 p f.guard i f.c.toNat) (voteSrc f)))) s1) :
    (issueCross s f.guard F).rest = s.rest ∧ Threads s (issueCross s f.guard F) p (turns f.guard fun t =>
      t.setPred f.d.toNat (c (votes (activeIn s p f.guard i f.c.toNat) (voteSrc f)))) := by
  refine issueCross_each hi hw _ (Turn.setPred _ _) (fun _ _ _ => ⟨Thread.setPred_fg _ _ _, Thread.setPred_lane _ _ _⟩) ?_ hF
  intro s1 h1 t
  rw [h1.votes_eq _ _ _ (voteSrc_core f)]
/-- VOTE.ballot. -/
theorem vote_ballot_runs {g : FileGroup} (hfn : f.fn = 3#5) (hg : s.fg? p.fg = some g) (on : executing s p f.guard ≠ []) :
    let vote := votes (activeIn s p f.guard i f.c.toNat) (voteSrc f)
    Runs (.vote f) s p (s.setFg { g with m := g.m.set f.d.toNat (lanesMask ((named i f.c.toNat).filter vote)) }) keeps := by
  intro vote
  refine ⟨_, rfl, issueCross_setFg hi hw fun s1 h1 => ?_⟩
  have found : s1.fg? i.fg = some g := by
    rw [hw.fg, ← hg, State.fg?, State.fg?, ← State.rest_fgs s1, h1.rest, State.rest_fgs]
  have on1 : executing s1 p f.guard ≠ [] := fun none =>
    on (List.map_eq_nil_iff.1 ((h1.executing_cores _).symm.trans (by rw [none]; rfl)))
  obtain ⟨u, us, on1⟩ := List.exists_cons_of_ne_nil on1
  have same : votes (activeIn s1 p f.guard i f.c.toNat) (voteSrc f) = vote := h1.votes_eq _ _ _ (voteSrc_core f)
  rw [← same, hfn]
  unfold activeIn
  rw [on1, found]
  rfl
/-- VOTE.fl. -/
theorem vote_flags_runs (hfn : f.fn = 4#5) : Runs (.vote f) s p s (turns f.guard fun t =>
    t.raise ((activeIn s p f.guard i f.c.toNat).foldl (fun a u => a ||| u.flags) 0)) := by
  refine ⟨_, rfl, issueCross_each hi hw (fun s1 _ u => u.raise ((activeIn s1 p f.guard i f.c.toNat).foldl (fun a t => a ||| t.flags) 0))
    (Turn.keep.raise fun _ _ _ => rfl) (fun _ _ _ => ⟨rfl, rfl⟩) (fun s1 h1 t => ?_) fun s1 => by rw [hfn]; rfl⟩
  rw [← List.foldl_map, h1.map_eq _ _ _ (reads_flags s).core, List.foldl_map]
end

/-! ### SHFL (R160) -/

/-- The value that SHFL gives thread `t`: its own source past the ends, else that of the active thread it names, if there is one. -/
def shflValue (s : State) (f : FmtA) (act : List Thread) (t : Thread) : Option Nat :=
  let j := shflLane f.fn.toNat t.lane (srcB s t f 6)
  if j < 0 || 127 < j then some (srcA s t f f.ty.toNat)
  else (act.find? fun u => (u.lane : Int) = j).map fun u => srcA s u f f.ty.toNat
/-- What SHFL makes of its thread with that value. -/
def Thread.shuffled (t : Thread) (f : FmtA) : Option Nat → Thread
  | some x => t.put f.d.toNat (writeD x f.ty.toNat)
  | none => (t.put f.d.toNat (writeD 0 f.ty.toNat)).raise flNV

theorem shflLane_eq (fn : BitVec 5) (l n : Nat) : shflLane fn.toNat l n =
    if fn = 0#5 then (n : Int) else if fn = 1#5 then (l : Int) - n else if fn = 2#5 then (l : Int) + n
    else ((l ^^^ (n % 128) : Nat) : Int) := by
  have eq (k : BitVec 5) : fn = k ↔ fn.toNat = k.toNat := BitVec.toNat_inj.symm
  simp only [eq]
  unfold shflLane
  split <;> simp_all
theorem shflValue_alike {s s1 : State} {p : Path} (h : Alike s s1 p) (f : FmtA) (g : Guard) (i : Inst) (t : Thread) :
    shflValue s1 f (activeIn s1 p g i f.c.toNat) t = shflValue s f (activeIn s p g i f.c.toNat) t := by
  unfold shflValue
  simp only [(reads_srcA s f _).rest s1 _ h.rest, (reads_srcB s f _).rest s1 _ h.rest]
  rw [find_of_cores (h.activeIn_cores g i _) (fun t u e => by rw [lane_of_core e]) (reads_srcA s f _).core]
theorem shflValue_core (s : State) (f : FmtA) (act : List Thread) (t u : Thread) (h : t.core = u.core) :
    shflValue s f act t = shflValue s f act u := by
  unfold shflValue
  rw [lane_of_core h, (reads_srcA s f _).core t u h, (reads_srcB s f _).core t u h]
theorem Turn.shuffled (f : FmtA) {v : Thread → Option Nat} (hv : ∀ t u, t.core = u.core → v t = v u) :
    Turn fun t => t.shuffled f (v t) := by
  refine ⟨fun t q => ?_, fun t u h => ?_⟩
  · cases v t with
    | none => exact Thread.raise_quiet _ (Thread.put_quiet _ _ q)
    | some x => exact Thread.put_quiet _ _ q
  · rw [hv t u h]
    cases v u with
    | none => exact Thread.raise_core _ (Thread.put_core _ _ h)
    | some x => exact Thread.put_core _ _ h
theorem Thread.shuffled_key (f : FmtA) (x : Option Nat) (t : Thread) : (t.shuffled f x).fg = t.fg ∧ (t.shuffled f x).lane = t.lane := by
  cases x <;> simp [Thread.shuffled]
/-- The rule's own words for it. -/
theorem shuffled_eq (s : State) (f : FmtA) (act : List Thread) (t : Thread) : t.shuffled f (shflValue s f act t) =
    (let n : Nat := srcB s t f 6
     let j : Int := if f.fn = 0#5 then n else if f.fn = 1#5 then t.lane - n else if f.fn = 2#5 then t.lane + n
       else (t.lane ^^^ (n % 128) : Nat)
     if j < 0 ∨ 127 < j then t.put f.d.toNat (writeD (srcA s t f f.ty.toNat) f.ty.toNat)
     else match act.find? fun u => (u.lane : Int) = j with
       | some u => t.put f.d.toNat (writeD (srcA s u f f.ty.toNat) f.ty.toNat)
       | none => (t.put f.d.toNat (writeD 0 f.ty.toNat)).raise 16) := by
  unfold shflValue
  rw [shflLane_eq]
  dsimp only
  generalize (if f.fn = 0#5 then (srcB s t f 6 : Int) else _) = j
  by_cases out : j < 0 ∨ 127 < j
  · rw [if_pos out, if_pos (by simpa using out)]
    rfl
  · rw [if_neg out, if_neg (by simpa using out)]
    cases act.find? fun u => (u.lane : Int) = j <;> rfl

theorem shfl_runs {s : State} {p : Path} {i : Inst} (hi : Issues s p rightsAll) (hw : Whole s p i) (f : FmtA) :
    Runs (.shfl f) s p s (turns f.guard fun t => t.shuffled f (shflValue s f (activeIn s p f.guard i f.c.toNat) t)) := by
  refine ⟨_, rfl, issueCross_each hi hw (fun s1 t u => u.shuffled f (shflValue s1 f (activeIn s1 p f.guard i f.c.toNat) t))
    (Turn.shuffled f (shflValue_core s f _)) (fun _ _ _ => Thread.shuffled_key _ _ _) (fun s1 h1 t => ?_) fun s1 => ?_⟩
  · rw [shflValue_alike h1]
  · refine List.foldl_ext _ _ _ fun x t _ => ?_
    unfold shflValue
    dsimp only
    split
    case isTrue => rfl
    case isFalse =>
      change (match (activeIn s1 p f.guard i f.c.toNat).find? _ with | some _ => _ | none => _) = _
      cases (activeIn s1 p f.guard i f.c.toNat).find? fun u => (u.lane : Int) = shflLane f.fn.toNat t.lane (srcB s1 t f 6) <;> rfl

/-! ### SCAN and LRED (R161) -/

/-- The combination so far, if any, with more sources in order. -/
def combineOn (op ty : Nat) : Option (Nat × Nat) → List Nat → Nat × Nat
  | none, xs => combineAll op ty xs
  | some a, xs => xs.foldl (fun a y => ((scanOp op ty a.1 y).1, a.2 ||| (scanOp op ty a.1 y).2)) a

theorem scanRun_eq (op ty : Nat) (xs : List Nat) : ∀ acc : Option (Nat × Nat), scanRun op ty acc xs =
    ((List.range xs.length).map fun k => (combineOn op ty acc (xs.take k), combineOn op ty acc (xs.take (k + 1))),
     combineOn op ty acc xs) := by
  induction xs with
  | nil => intro acc; cases acc <;> rfl
  | cons x xs ih =>
    intro acc
    cases acc <;>
    · unfold scanRun
      simp only [ih, List.length_cons, List.range_succ_eq_map, List.map_cons, List.map_map]
      rfl
theorem rankIn_getElem {act : List Thread} (sorted : act.Pairwise fun t u => t.lane < u.lane) :
    ∀ (k : Nat) (hk : k < act.length), rankIn act act[k].lane = k := by
  induction act with
  | nil => intro k hk; cases hk
  | cons a r ih =>
    obtain ⟨above, sorted⟩ := List.pairwise_cons.1 sorted
    intro k hk
    cases k with
    | zero =>
      have none : r.filter (fun u => decide (u.lane < a.lane)) = [] :=
        List.filter_eq_nil_iff.2 fun u hu => by simpa using (above u hu).le
      simp [rankIn, none]
    | succ k =>
      have hk : k < r.length := Nat.lt_of_succ_lt_succ hk
      have below : a.lane < r[k].lane := above _ (List.getElem_mem hk)
      have rest := ih sorted k hk
      unfold rankIn at rest ⊢
      simp [below, rest]
/-- Each active thread beside the combinations of the sources before it and up to it. -/
theorem zip_scanRun {act : List Thread} (sorted : act.Pairwise fun t u => t.lane < u.lane) (op ty : Nat) (src : Thread → Nat) :
    act.zip (scanRun op ty none (act.map src)).1 = act.map fun t =>
      (t, combineAll op ty ((act.map src).take (rankIn act t.lane)), combineAll op ty ((act.map src).take (rankIn act t.lane + 1))) := by
  rw [scanRun_eq]
  refine List.ext_getElem (by simp) fun k h1 h2 => ?_
  have hk : k < act.length := by simpa using h2
  simp [rankIn_getElem sorted k hk, combineOn]

/-- The combination that SCAN gives thread `t`, and that LRED gives every thread. -/
def scanValue (s : State) (f : FmtA) (act : List Thread) (t : Thread) : Nat × Nat :=
  combineAll (f.fn.toNat % 8) f.ty.toNat
    ((act.map fun u => srcA s u f f.ty.toNat).take (rankIn act t.lane + if f.fn.toNat / 8 % 2 = 1 then 0 else 1))
def lredValue (s : State) (f : FmtA) (act : List Thread) : Nat × Nat :=
  combineAll (f.fn.toNat % 8) f.ty.toNat (act.map fun u => srcA s u f f.ty.toNat)
/-- A combination written with its flags. -/
def Thread.combined (t : Thread) (f : FmtA) (v : Nat × Nat) : Thread := (t.put f.d.toNat (writeX v.1 f.ty.toNat)).raise v.2

theorem Thread.combined_key (t : Thread) (f : FmtA) (v : Nat × Nat) : (t.combined f v).fg = t.fg ∧ (t.combined f v).lane = t.lane :=
  ⟨Thread.put_fg t _ _, Thread.put_lane t _ _⟩
theorem Turn.combined (f : FmtA) {v : Thread → Nat × Nat} (hv : ∀ t u, t.core = u.core → v t = v u) :
    Turn fun t => t.combined f (v t) :=
  (Turn.put _ fun t u h => by rw [hv t u h]).raise fun t u h => by rw [hv t u h]
theorem Alike.srcA_map {s s1 : State} {p : Path} (h : Alike s s1 p) (g : Guard) (i : Inst) (k : Nat) (f : FmtA) (ty : Nat) :
    ((activeIn s1 p g i k).map fun u => srcA s1 u f ty) = (activeIn s p g i k).map fun u => srcA s u f ty := by
  simp only [(reads_srcA s f ty).rest s1 _ h.rest]
  exact h.map_eq g i k (reads_srcA s f ty).core
/-- SCAN's pass over the active threads gives each its value. -/
theorem foldl_scan {act : List Thread} (sorted : act.Pairwise fun t u => t.lane < u.lane) (s : State) (f : FmtA) (x : State) :
    (act.zip (scanRun (bits f.fn.toNat 0 3) f.ty.toNat none (act.map fun t => srcA s t f f.ty.toNat)).1).foldl
        (fun x e =>
          let v := if bit f.fn.toNat 3 then e.2.1 else e.2.2
          x.modThread e.1.fg e.1.lane fun u => (u.put f.d.toNat (writeX v.1 f.ty.toNat)).raise v.2) x =
      act.foldl (fun x t => x.modThread t.fg t.lane fun u => u.combined f (scanValue s f act t)) x := by
  have excl : bit f.fn.toNat 3 = decide (f.fn.toNat / 8 % 2 = 1) := Nat.testBit_eq_decide_div_mod_eq
  rw [zip_scanRun sorted, List.foldl_map, excl]
  refine List.foldl_ext _ _ _ fun x t _ => ?_
  unfold scanValue
  by_cases h : f.fn.toNat / 8 % 2 = 1
  · simp only [h]; rfl
  · simp only [h]; rfl

section
variable {s : State} {p : Path} {i : Inst} (hi : Issues s p rightsAll) (hw : Whole s p i) (f : FmtA)
include hi hw
theorem scan_runs : Runs (.scan f) s p s (turns f.guard fun t =>
    if (activeIn s p f.guard i f.c.toNat).any fun u => u.lane = t.lane then t.combined f (scanValue s f (activeIn s p f.guard i f.c.toNat) t)
    else t) := by
  refine ⟨_, rfl, issueCross_turns hi hw ?_ fun s1 h1 => ?_⟩
  · refine Turn.ite (fun t u h => by rw [lane_of_core h]) (Turn.combined f fun t u h => ?_) Turn.keep
    unfold scanValue
    rw [lane_of_core h]
  · have on (t : Thread) (ht : t ∈ executing s1 p f.guard) := (mem_executing ht).2.1
    have sub (t : Thread) (ht : t ∈ activeIn s1 p f.guard i f.c.toNat) : t ∈ executing s1 p f.guard := (List.mem_filter.1 ht).1
    have sorted := activeIn_lt s1 p f.guard i f.c.toNat
    have each := (foldl_modThread (h := fun t u => u.combined f (scanValue s1 f (activeIn s1 p f.guard i f.c.toNat) t))
      (fun _ u => u.combined_key f _) _ s1 sorted fun t ht => on t (sub t ht)).among sub on
    rw [← foldl_scan sorted] at each
    refine each.imp h1.rest fun t _ _ made => ?_
    have value : scanValue s1 f (activeIn s1 p f.guard i f.c.toNat) t = scanValue s f (activeIn s p f.guard i f.c.toNat) t := by
      unfold scanValue
      rw [h1.srcA_map, h1.rankIn_eq]
    rw [made, value, any_of_cores (h1.activeIn_cores _ _ _) fun u w e => by rw [lane_of_core e]]
theorem lred_runs : Runs (.lred f) s p s (turns f.guard fun t => t.combined f (lredValue s f (activeIn s p f.guard i f.c.toNat))) := by
  refine ⟨_, rfl, issueCross_each hi hw (fun s1 _ u => u.combined f (lredValue s1 f (activeIn s1 p f.guard i f.c.toNat)))
    (Turn.combined f fun _ _ _ => rfl) (fun _ _ u => u.combined_key f _) (fun s1 h1 t => ?_) fun s1 => ?_⟩
  · unfold lredValue
    rw [h1.srcA_map]
  · dsimp only
    rw [scanRun_eq]
    rfl
end

/-! ### MATCH (R162) -/

/-- The lanes of thread `t` and of the active threads with its value. -/
def matchLanes (s : State) (f : FmtA) (act : List Thread) (t : Thread) : List Nat :=
  t.lane :: (act.filter fun u => u.lane ≠ t.lane ∧ srcA s u f f.ty.toNat = srcA s t f f.ty.toNat).map (·.lane)
/-- What MATCH answers: the lowest of them, or their number. -/
def matchWord (f : FmtA) (g : List Nat) : Word := BitVec.ofNat 32 (if f.fn = 0#5 then g.min?.getD 0 else g.length)

theorem matchLanes_alike {s s1 : State} {p : Path} (h : Alike s s1 p) (f : FmtA) (g : Guard) (i : Inst) (t : Thread) :
    matchLanes s1 f (activeIn s1 p g i f.c.toNat) t = matchLanes s f (activeIn s p g i f.c.toNat) t := by
  unfold matchLanes
  simp only [(reads_srcA s f _).rest s1 _ h.rest]
  rw [map_of_cores (filter_of_cores (h.activeIn_cores _ _ _) fun u v e => by rw [lane_of_core e, (reads_srcA s f _).core u v e])
    fun _ _ => lane_of_core]
theorem match_runs {s : State} {p : Path} {i : Inst} (hi : Issues s p rightsAll) (hw : Whole s p i) (f : FmtA) :
    Runs (.matchL f) s p s (turns f.guard fun t =>
      t.put f.d.toNat [matchWord f (matchLanes s f (activeIn s p f.guard i f.c.toNat) t)]) := by
  refine ⟨_, rfl, issueCross_each hi hw
    (fun s1 t u => u.put f.d.toNat [matchWord f (matchLanes s1 f (activeIn s1 p f.guard i f.c.toNat) t)])
    (Turn.put _ fun t u h => ?_) (fun _ _ _ => ⟨Thread.put_fg _ _ _, Thread.put_lane _ _ _⟩) (fun s1 h1 t => ?_) fun s1 => ?_⟩
  · unfold matchLanes
    rw [lane_of_core h, (reads_srcA s f _).core t u h]
  · rw [matchLanes_alike h1]
  · refine List.foldl_ext _ _ _ fun x t _ => ?_
    unfold matchLanes
    simp only [Bool.decide_and]
    rfl

end Sys2Proof.Machine
end

section
/-! SUPPORT. A state in which two entries stand for one thread (spec/06_control.md R156). -/
namespace Sys2Proof.Machine
open Sys2Proof.Claim

/-- MASK.living of m4. -/
def maskLiving : FmtA := { d := 4, a := 0, fn := 8, ib := 0, ic := 0, gn := 0, gp := 7, b := 0, c := 0, ty := 0, rm := 0, st := 0, u := 0 }
def exitedThread : Thread := { fg := 1, lane := 0, status := .exited, pc := 0x1000, npc := 0x100C, v := List.replicate 32 0 }
def doubledPath : Path := { id := 3, fg := 1, lanes := [0], pc := 0x1000 }
def doubledGroup : FileGroup := { id := 1, blk := 2, num := 0, unit := 0, n := 1, nregs := 32, m := List.replicate 12 0 }
/-- Two entries for lane 0 of one file group: the path finds one that has exited, and behind it stands one that lives. -/
def doubled : State :=
  { State.reset with
    threads := [exitedThread, { exitedThread with status := .issuing }], paths := [doubledPath], fgs := [doubledGroup], uid := 10 }
/-- The masks of the file groups after an outcome. -/
def masksOf : Host.Outcome State Fault Refusal → List (List Lanes)
  | .next s => s.fgs.map (·.m)
  | _ => []

theorem doubled_issues : Issues doubled doubledPath rightsAll := by
  refine ⟨rfl, by decide, rfl, fun l hl t ht => ?_⟩
  obtain rfl : l = 0 := List.mem_singleton.1 hl
  obtain rfl : exitedThread = t := Option.some.inj ht
  exact ⟨rfl, rfl⟩
/-- Before MASK lane 0 lives, by the entry behind. -/
theorem doubled_living : lanesMask ((doubled.living doubledGroup.id).map (·.lane)) = 1 := by decide +kernel
/-- The passing of MASK writes both entries as the first, so that MASK finds no living thread. -/
theorem doubled_masks : masksOf (exec (.mask maskLiving) doubled) = [List.replicate 12 0] := by decide +kernel

end Sys2Proof.Machine
end

section
/-! What is claimed of holds, masks, cross-lane instructions and exits (spec/06_control.md R145, R146, R152 to R162). -/
namespace Sys2Proof.Machine
open Sys2Proof.Claim

/-- Settles O12: the state in which a hold leaves its thread is an operand, and NOP's meaning is the state as it is. -/
theorem holdsAndSleeps : Obligations.HoldsAndSleeps :=
  ⟨fun _ _ _ s p h hi hp => ⟨_, exec_holds h s, holdEach_ends hi hp (holds_reads h s p)⟩,
   fun _ _ _ hi => ⟨_, rfl, issueEach_keeps hi⟩, fun _ _ _ hi => ⟨_, rfl, issueEach_keeps hi⟩⟩

/-- Refutes O13, in its clause on MASK.living: nothing there says that a thread has one entry in the list of threads. In `doubled` lane 0
has two, of which the path finds the first, that has exited, while the second lives. The clause reads the living threads before the
instruction and names lane 0; the passing of MASK writes both entries as the first, and the model's mask is empty. -/
theorem not_masksAndElection : ¬ Obligations.MasksAndElection := by
  rintro ⟨⟨-, once⟩, -⟩
  obtain ⟨-, -, -, -, -, -, living⟩ := once maskLiving doubled doubledPath doubledGroup doubled_issues rfl (by decide +kernel)
  obtain ⟨s', next, rest, -⟩ := living rfl
  have claimed : s'.fgs.map (·.m) = [(List.replicate 12 0).set 4 (lanesMask ((doubled.living doubledGroup.id).map (·.lane)))] :=
    congrArg (fun x : State => x.fgs.map (·.m)) rest
  have found := doubled_masks
  rw [next] at found
  rw [doubled_living] at claimed
  exact absurd (claimed.symm.trans found) (by decide)

/-- Settles O14: a path that holds its whole rendezvous combines all its threads at once (`issueCross_all`), and each result sees no more
of them than the instruction's passing leaves. -/
theorem crossLaneResults : Obligations.CrossLaneResults := by
  intro f s p i hi hw on act vote src
  have shfl := shfl_runs hi hw f
  simp only [shuffled_eq] at shfl
  refine ⟨fun fn => ⟨_, rfl, ?any⟩, fun fn => ⟨_, rfl, ?all⟩, fun fn => ⟨_, rfl, ?uni⟩, fun g fn hg => vote_ballot_runs hi hw f fn hg,
    vote_flags_runs hi hw f, shfl, scan_runs hi hw f, lred_runs hi hw f, match_runs hi hw f⟩
  case any => exact issueCross_vote hi hw f (fun c => (named i f.c.toNat).any c) fun s1 => by rw [fn]; rfl
  case all => exact issueCross_vote hi hw f (fun c => (named i f.c.toNat).all c) fun s1 => by rw [fn]; rfl
  case uni =>
    exact issueCross_vote hi hw f (fun c => (named i f.c.toNat).all c || !(named i f.c.toNat).any c) fun s1 => by rw [fn]; rfl

theorem branchConsensus_met : branchConsensus := by
  intro f s p i hi hw vote taken hp
  refine ⟨_, rfl, issueCross_consents (taken := taken) hi hw hp fun s1 h1 => ?_⟩
  have same : vote = votes (activeIn s1 p {} i f.x.toNat) f.guard.on := (h1.votes_eq _ _ _ fun _ _ => Guard.on_core f.guard).symm
  unfold taken
  rw [same]
  rfl
theorem crossLaneWaits_met : crossLaneWaits := by
  intro i s p inst cross head hi found away
  obtain ⟨qs, hp⟩ := List.head?_eq_some_iff.1 head
  cases i with
  | vote f | shfl f | scan f | lred f | matchL f | brc f => exact congrArg Host.Outcome.next (issueCross_waits hi found hp away _ _)
  | _ => exact cross.elim
/-- Settles O15: the condition of BRC is one for all threads that execute it; and a lane that stands on no waiting path keeps its
rendezvous from being complete. -/
theorem branchConsensusAndWaits : Obligations.BranchConsensusAndWaits := ⟨branchConsensus_met, crossLaneWaits_met⟩

/-- Settles O43: the scoreboards of the one thread decide whether EXIT issues. -/
theorem exits : Obligations.Exits := by
  refine fun i g s p t hi h => ⟨fun counts => ?_, fun clear => ?_⟩
  · have counts : t.sb.any (· ≠ 0) = true := by simpa using counts
    rw [exec_exit hi, issueExit_alone h, if_pos counts]
  · have clear : ¬ t.sb.any (· ≠ 0) = true := by simpa using clear
    rw [exec_exit hi, issueExit_alone h, if_neg clear]

end Sys2Proof.Machine
end

section
/-! SUPPORT. Round on a quotient by a power of two (spec/07_float.md R170). -/
namespace Sys2Proof.Machine

/-! ### The quotient n / d rounded to an integer -/

/-- n / d rounded to an integer in the direction of `rm`, and whether that was inexact: what `roundShift` computes where its shift
is not cut short. -/
def roundQuot (n d : Int) (rm : Nat) : Int × Bool :=
  if n % d = 0 then (n / d, false)
  else
    let up : Bool :=
      match rm with
      | 0 => 2 * (n % d) > d || (2 * (n % d) = d && n / d % 2 = 1)
      | 1 => n < 0
      | 2 => true
      | _ => false
    (if up then n / d + 1 else n / d, true)

theorem roundQuot_exact {n d : Int} (rm : Nat) (h : n % d = 0) : roundQuot n d rm = (n / d, false) := if_pos h
theorem roundQuot_inexact {n d : Int} (rm : Nat) (h : n % d ≠ 0) : (roundQuot n d rm).2 = true := by
  simp only [roundQuot, if_neg h]

theorem roundQuot_flag (n d : Int) (rm : Nat) : (roundQuot n d rm).2 = true ↔ (roundQuot n d rm).1 * d ≠ n := by
  by_cases exact : n % d = 0
  · simp [roundQuot_exact rm exact, Int.ediv_mul_cancel (Int.dvd_of_emod_eq_zero exact)]
  · exact iff_of_true (roundQuot_inexact rm exact) fun h => exact (by rw [← h]; exact Int.mul_emod_left _ d)

/-- Under .rn the nearest integer, at a tie the even one. -/
theorem roundQuot_nearest {n d : Int} (hd : 0 < d) :
    2 * (n - (roundQuot n d 0).1 * d).natAbs ≤ d.toNat ∧
    (2 * (n - (roundQuot n d 0).1 * d).natAbs = d.toNat → (roundQuot n d 0).1 % 2 = 0) := by
  have split : n - n / d * d = n % d := by have := Int.emod_add_ediv_mul n d; omega
  have next : n - (n / d + 1) * d = n % d - d := by rw [add_mul]; omega
  have low := Int.emod_nonneg n hd.ne'
  have high := Int.emod_lt_of_pos n hd
  by_cases exact : n % d = 0
  · rw [roundQuot_exact 0 exact, split, exact]
    omega
  · simp only [roundQuot, if_neg exact]
    split
    case isTrue up =>
      rw [next]
      simp only [gt_iff_lt, Bool.or_eq_true, decide_eq_true_eq, Bool.and_eq_true] at up
      omega
    case isFalse down =>
      rw [split]
      simp only [gt_iff_lt, Bool.or_eq_true, decide_eq_true_eq, Bool.and_eq_true] at down
      omega
theorem roundQuot_truncated {n d : Int} (hd : 0 < d) : (roundQuot n d 1).1 = n.tdiv d := by
  rw [Int.tdiv_eq_ediv, Int.sign_eq_one_of_pos hd]
  by_cases exact : n % d = 0
  · rw [roundQuot_exact 1 exact, if_pos (.inr (Int.dvd_of_emod_eq_zero exact)), add_zero]
  · have : ¬d ∣ n := fun h => exact (Int.emod_eq_zero_of_dvd h)
    simp only [roundQuot, if_neg exact, this, or_false, decide_eq_true_eq]
    split <;> split <;> omega
theorem roundQuot_least {n d : Int} (hd : 0 < d) : (roundQuot n d 2).1 * d ≥ n ∧ ((roundQuot n d 2).1 - 1) * d < n := by
  have split := Int.emod_add_ediv_mul n d
  have low := Int.emod_nonneg n hd.ne'
  have high := Int.emod_lt_of_pos n hd
  by_cases exact : n % d = 0
  · rw [roundQuot_exact 2 exact, sub_mul]
    dsimp only
    omega
  · simp only [roundQuot, if_neg exact, if_true, add_sub_cancel_right, add_mul]
    omega
theorem roundQuot_greatest {n d : Int} (hd : 0 < d) : (roundQuot n d 3).1 * d ≤ n ∧ ((roundQuot n d 3).1 + 1) * d > n := by
  have floor : (roundQuot n d 3).1 = n / d := by unfold roundQuot; split <;> rfl
  have split := Int.emod_add_ediv_mul n d
  have low := Int.emod_nonneg n hd.ne'
  have high := Int.emod_lt_of_pos n hd
  rw [floor, add_mul]
  omega

/-! ### The shift that is cut short -/

/-- A quotient below one half in size rounds to a neighbour of 0 that its sign and the direction alone determine. -/
theorem roundQuot_small {n d : Int} (rm : Nat) (hn : n ≠ 0) (hd : 2 * |n| < d) :
    roundQuot n d rm = (if n < 0 then (if rm ≤ 2 then 0 else -1) else if rm = 2 then 1 else 0, true) := by
  rcases lt_or_gt_of_ne hn with neg | pos
  · rw [abs_of_neg neg] at hd
    obtain ⟨quot, rem⟩ : n / d = -1 ∧ n % d = n + d := (Int.ediv_emod_unique (by omega)).2 (by omega)
    have inexact : n + d ≠ 0 := by omega
    unfold roundQuot
    rw [quot, rem, if_neg inexact, if_pos neg]
    match rm with
    | 0 =>
      have up : 2 * (n + d) > d := by omega
      simp [up]
    | 1 => simp [neg]
    | 2 => rfl
    | k + 3 => simp
  · rw [abs_of_pos pos] at hd
    obtain ⟨quot, rem⟩ : n / d = 0 ∧ n % d = n := (Int.ediv_emod_unique (by omega)).2 (by omega)
    unfold roundQuot
    rw [quot, rem, if_neg hn, if_neg pos.not_gt]
    match rm with
    | 0 =>
      have down : ¬ 2 * n > d ∧ ¬ 2 * n = d := by omega
      simp [down]
    | 1 => simp [pos.le]
    | 2 => rfl
    | k + 3 => simp

theorem abs_lt_two_pow_ilog2 (n : Int) : |n| < 2 ^ (ilog2 n + 1) := by
  rw [Int.abs_eq_natAbs]
  exact_mod_cast Nat.lt_log2_self
theorem two_pow_ilog2_le {n : Int} (hn : n ≠ 0) : 2 ^ ilog2 n ≤ |n| := by
  rw [Int.abs_eq_natAbs]
  exact_mod_cast Nat.log2_self_le (Int.natAbs_ne_zero.2 hn)

/-- Where `roundShift` cuts its shift short the quotient is below one half in size, so that it makes no difference. -/
theorem roundShift_eq {n : Int} (k rm : Nat) (hn : n ≠ 0) : roundShift n k rm = roundQuot n (2 ^ k) rm := by
  change roundQuot n (2 ^ Nat.min k (ilog2 n + 3)) rm = _
  have small {j : Nat} (h : ilog2 n + 3 ≤ j) : 2 * |n| < 2 ^ j := by
    have := abs_lt_two_pow_ilog2 n
    have := abs_nonneg n
    have : (2 : Int) ^ (ilog2 n + 3) ≤ 2 ^ j := pow_le_pow_right₀ (by norm_num) h
    simp only [pow_succ] at *
    omega
  rcases le_total k (ilog2 n + 3) with kept | cut
  · rw [show Nat.min k (ilog2 n + 3) = k from min_eq_left kept]
  · rw [show Nat.min k (ilog2 n + 3) = ilog2 n + 3 from min_eq_right cut,
      roundQuot_small rm hn (small le_rfl), roundQuot_small rm hn (small cut)]

/-! ### Round -/

/-- The exponent of the last place of m × 2^e in the format (R170). -/
def Fmt.lastPlace (F : Fmt) (m e : Int) : Int := max ((ilog2 m : Int) + e) F.emin - F.p + 1

theorem roundTo_exact {F : Fmt} {m e : Int} (rm : Nat) (h : F.lastPlace m e ≤ e) :
    roundTo F rm m e = (m * 2 ^ (e - F.lastPlace m e).toNat, F.lastPlace m e, false) := if_pos h
theorem roundTo_quotient {F : Fmt} {m e : Int} (rm : Nat) (hm : m ≠ 0) (h : e < F.lastPlace m e) :
    roundTo F rm m e = ((roundQuot m (2 ^ (F.lastPlace m e - e).toNat) rm).1, F.lastPlace m e,
      (roundQuot m (2 ^ (F.lastPlace m e - e).toNat) rm).2) := by
  rw [← roundShift_eq _ _ hm]
  exact if_neg (not_le.2 h)

end Sys2Proof.Machine
end

section
/-! SUPPORT. What the floating-point instructions read, and how they are issued (spec/07_float.md R164, R175, R177). -/
namespace Sys2Proof.Machine
open Sys2Proof.Claim

/-! ### Operands -/

theorem reads_fcodeA (s : State) (f : FmtA) (w : Nat) : Reads s fun s t => fcodeA s t f w :=
  (reads_reg s false f.a.toNat 1).map (· % 2 ^ w)
theorem reads_fcodeB (s : State) (f : FmtA) (w : Nat) : Reads s fun s t => fcodeB s t f w :=
  (reads_reg s (f.u = 1#2) f.b.toNat 1).map (· % 2 ^ w)
theorem reads_fcodeC (s : State) (f : FmtA) (w : Nat) : Reads s fun s t => fcodeC s t f w :=
  (reads_reg s false f.c.toNat 1).map (· % 2 ^ w)
theorem reads_fcodeBI (s : State) (f : FmtA) : Reads s fun s t => fcodeBI s t f :=
  (reads_fcodeB s f (fmtOf f.ty.toNat).size).map fun x =>
    if f.ib = 1#1 then (fit (fmtOf f.ty.toNat) 0 0 (fimm f.b.toNat).1).1 else x
theorem reads_fopA (s : State) (f : FmtA) : Reads s fun s t => fopA s t f := (reads_fcodeA s f _).map (fmtOf f.ty.toNat).value
theorem reads_fopB (s : State) (f : FmtA) : Reads s fun s t => fopB s t f :=
  (reads_fcodeB s f _).map fun x => if f.ib = 1#1 then fimm f.b.toNat else (fmtOf f.ty.toNat).value x
theorem reads_fopC (s : State) (f : FmtA) : Reads s fun s t => fopC s t f :=
  (reads_fcodeC s f _).map fun x => if f.ic = 1#1 then fimm f.c.toNat else (fmtOf f.ty.toNat).value x
theorem reads_sclOf (s : State) (f : FmtA) : Reads s fun s t => sclOf s t f :=
  (reads_srcB s f 6).map fun x => if f.fn = 1#5 then some (x % 256) else none

/-! ### Results written with their flags -/

theorem vecFault_none {s : State} (h : s.health.vecFaults = []) (p : Path) (t : Thread) : s.vecFault p t = none := by
  simp [State.vecFault, h]
/-- A result of format A, on a part without faults where the shadow unit checks it (R175). -/
theorem fpA_putRaise {s : State} {p : Path} {f : FmtA} {halves : Nat} {res : State → Thread → Nat × Nat}
    (hi : Issues s p rightsAll) (fault : halves = 0 ∨ s.health.vecFaults = []) (hr : Reads s res) :
    (fpA s f halves res).rest = s.rest ∧ Threads s (fpA s f halves res) p
      (turns f.guard fun t => (t.put f.d.toNat [BitVec.ofNat 32 (res s t).1]).raise (res s t).2) := by
  refine issueEach_putRaise (res := fun s t => ([BitVec.ofNat 32 (res s t).1], (res s t).2)) hi
    (hr.map fun r => ([BitVec.ofNat 32 r.1], r.2)) fun s1 t h1 => ?_
  have unchecked : (if halves = 0 then none else s1.vecFault p t) = none := by
    rcases fault with none | clear
    · exact if_pos none
    · have same : s1.health = s.health := (congrArg State.health h1 : s1.rest.health = s.rest.health)
      rw [vecFault_none (same ▸ clear), ite_self]
  dsimp only
  rw [unchecked]
  rfl

/-- A checked instruction computes its code and flags in the lane that the shadow unit checks. -/
theorem exec_floatOp {i : Instr} {f : FmtA} {r : State → Thread → Nat × Nat} (h : floatOp i = some (f, r)) :
    ∃ halves, ∀ s, exec i s = .next (fpA s f halves r) := by
  cases i with
  | fadd _ | fsub _ | fmul _ | ffma _ | hadd2 _ | hmul2 _ | hfma2 _ => cases h; exact ⟨_, fun _ => rfl⟩
  | _ => cases h
theorem reads_floatOp {i : Instr} {f : FmtA} {r : State → Thread → Nat × Nat} (h : floatOp i = some (f, r)) (s : State) :
    Reads s r := by
  cases i with
  | fadd _ =>
    cases h
    exact (reads_fopA s f).map2 (reads_fopB s f) (rFadd (fmtOf f.ty.toNat) f.rm.toNat f.st.toNat)
  | fsub _ =>
    cases h
    exact (reads_fopA s f).map2 (reads_fopB s f) (rFsub (fmtOf f.ty.toNat) f.rm.toNat f.st.toNat)
  | fmul _ =>
    cases h
    exact (reads_fopA s f).map2 (reads_fopB s f) (rFmul (fmtOf f.ty.toNat) f.rm.toNat f.st.toNat)
  | ffma _ =>
    cases h
    exact (reads_fopA s f).map3 (reads_fopB s f) (reads_fopC s f) (rFfma (fmtOf f.ty.toNat) f.rm.toNat f.st.toNat)
  | hadd2 _ =>
    cases h
    exact (reads_fcodeA s f 32).map2 (reads_fcodeB s f 32) fun a b => rHalves (fmtOf f.ty.toNat) _ a b 0
  | hmul2 _ =>
    cases h
    exact (reads_fcodeA s f 32).map2 (reads_fcodeB s f 32) fun a b => rHalves (fmtOf f.ty.toNat) _ a b 0
  | hfma2 _ =>
    cases h
    exact (reads_fcodeA s f 32).map3 (reads_fcodeB s f 32) (reads_fcodeC s f 32) (rHalves (fmtOf f.ty.toNat) _)
  | _ => cases h

/-! ### The other instructions (R180 to R185, R188, R190, R191) -/

/-- `i` writes words and raises flags in each thread whose guard is true. -/
def Raises (i : Instr) (f : FmtA) (r : State → Thread → List Word × Nat) : Prop :=
  ∀ s p, Issues s p rightsAll → Runs i s p s (turns f.guard fun t => (t.put f.d.toNat (r s t).1).raise (r s t).2)

theorem raises_fpA {i : Instr} {f : FmtA} {res : State → Thread → Nat × Nat} (he : ∀ s, exec i s = .next (fpA s f 0 res))
    (hr : ∀ s, Reads s res) : Raises i f fun s t => floatOther.word (res s t) :=
  fun s _ hi => ⟨_, he s, fpA_putRaise hi (.inl rfl) (hr s)⟩
theorem raises_each {i : Instr} {f : FmtA} {r : State → Thread → List Word × Nat}
    (he : ∀ s, exec i s = .next (issueEach s rightsAll f.guard fun _ s t =>
      .ok (s.setThread ((t.put f.d.toNat (r s t).1).raise (r s t).2)))) (hr : ∀ s, Reads s r) : Raises i f r :=
  fun s _ hi => ⟨_, he s, issueEach_putRaise hi (hr s) fun _ _ _ => rfl⟩
theorem raise_zero (t : Thread) : t.raise 0 = t := by simp [Thread.raise]

/-- What FCVT makes of the registers that it reads (R184). -/
def rFcvt (f : FmtA) (reg : Nat) : List Word × Nat :=
  let raw := reg % 2 ^ tyWidth f.c.toNat
  let x : FOp := if f.c.toNat < 8 then (FV.ofDyadic (valOf raw f.c.toNat) 0, false) else (fmtOf f.c.toNat).value raw
  if f.ty.toNat < 8 then (writeD (rFcvtInt f.ty.toNat f.rm.toNat x).1 f.ty.toNat, (rFcvtInt f.ty.toNat f.rm.toNat x).2)
  else floatOther.word (deliver (fmtOf f.ty.toNat) f.rm.toNat f.st.toNat [x] (x.1, 0))

theorem exec_fcvt {f : FmtA} (s : State) : exec (.fcvt f) s = .next (issueEach s rightsAll f.guard fun _ s t =>
    let r := rFcvt f (regL s t f.a.toNat (tyRegs f.c.toNat))
    .ok (s.setThread ((t.put f.d.toNat r.1).raise r.2))) := by
  change execFcvt f s = _
  unfold execFcvt rFcvt
  by_cases int : f.ty.toNat < 8
  · simp only [if_pos int]
    rfl
  · simp only [if_neg int]
    rfl

theorem raises_floatOther {i : Instr} {f : FmtA} {r : State → Thread → List Word × Nat} (h : floatOther i = some (f, r)) :
    Raises i f r := by
  cases i with
  | fmin _ | fmax _ =>
    cases h
    exact raises_fpA (fun _ => rfl) fun s => (reads_fcodeA s f _).map2 (reads_fcodeBI s f) (rFminmax (fmtOf f.ty.toNat) _)
  | fclass _ =>
    cases h
    exact raises_fpA (fun _ => rfl) fun s => (reads_fcodeA s f _).map fun a => (rFclass (fmtOf f.ty.toNat) a, 0)
  | frnd _ =>
    cases h
    exact raises_fpA (fun _ => rfl) fun s => (reads_fcodeA s f _).map (rFrnd (fmtOf f.ty.toNat) f.rm.toNat)
  | fcvt _ =>
    cases h
    exact raises_each exec_fcvt fun s => (reads_regL s f.a.toNat (tyRegs f.c.toNat)).map (rFcvt f)
  | fscl _ =>
    cases h
    exact raises_fpA (fun _ => rfl) fun s => (reads_fopA s f).map2 (reads_fcodeB s f 32) fun x b =>
      rFscl (fmtOf f.ty.toNat) f.rm.toNat f.st.toNat x (if f.ib = 1#1 then (f.b.toNat : Int) else sext 32 b)
  | flagrd _ =>
    cases h
    refine raises_each (fun s => ?_) fun s => (reads_flags s).map fun n => ([BitVec.ofNat 32 n], 0)
    simp only [raise_zero]
    rfl
  | pack8 _ =>
    cases h
    exact raises_fpA (fun _ => rfl) fun s => (reads_regL s f.a.toNat 4).map2 (reads_sclOf s f) fun a scl =>
      rPack8 (fmtOf f.ty.toNat) f.rm.toNat f.st.toNat ((List.range 4).map fun i => bits a (32 * i) 32) scl
  | unpack8 _ =>
    cases h
    exact raises_each (fun _ => rfl) fun s => (reads_fcodeA s f 32).map2 (reads_sclOf s f) fun a scl =>
      let r := (List.range 4).map fun i => rUnpack8 (fmtOf f.ty.toNat) f.rm.toNat f.st.toNat (bits a (8 * i) 8) scl
      (r.map fun x => BitVec.ofNat 32 x.1, r.foldl (fun a x => a ||| x.2) 0)
  | _ => cases h

/-! ### FCMP and FLAGCLR (R181, R188) -/

theorem fcmp_runs (f : FmtA) {s : State} {p : Path} (hi : Issues s p rightsAll) :
    let r := fun t => rFcmp (f.fn.toNat % 8) (fopA s t f) (fopB s t f)
    Runs (.fcmp f) s p s (turns f.guard fun t =>
      (t.setPred f.d.toNat (combined (f.fn.toNat / 8) (r t).1 (t.pred f.c.toNat))).raise (r t).2) := by
  have field : bits f.fn.toNat 3 2 = f.fn.toNat / 8 := by
    rw [bits_eq_div]
    have := f.fn.isLt
    omega
  have reads : Reads s fun s t => rFcmp (f.fn.toNat % 8) (fopA s t f) (fopB s t f) :=
    (reads_fopA s f).map2 (reads_fopB s f) (rFcmp (f.fn.toNat % 8))
  intro r
  simp only [← field, ← combine_eq]
  refine ⟨_, rfl, issueEach_turns hi (fun s1 t h => ?_) (fun t => ⟨by simp, by simp⟩)
    (fun t q => Thread.raise_quiet _ (Thread.setPred_quiet _ _ q)) fun t u h => ?_⟩
  · rw [show r t = _ from (reads.rest s1 t h).symm]
    rfl
  · rw [show r t = r u from reads.core t u h, (reads_pred s f.c.toNat).core t u h]
    exact Thread.raise_core _ (Thread.setPred_core _ _ h)

theorem Thread.clearFlags_core {t u : Thread} (m : Nat) (h : t.core = u.core) : (t.clearFlags m).core = (u.clearFlags m).core := by
  simp only [Thread.core, Thread.mk.injEq] at h
  simp only [Thread.clearFlags, Thread.core, h]
theorem flagclr_runs (f : FmtA) {s : State} {p : Path} (hi : Issues s p rightsAll) :
    Runs (.flagclr f) s p s (turns f.guard fun t => t.clearFlags (srcB s t f 6)) :=
  ⟨_, rfl, issueEach_turns hi (fun s1 t h => by rw [(reads_srcB s f 6).rest s1 t h]) (fun _ => ⟨rfl, rfl⟩) (fun _ q => q)
    fun t u h => by rw [(reads_srcB s f 6).core t u h]; exact Thread.clearFlags_core _ h⟩

/-! ### The table of FCMP (R181) -/

theorem snanNV_pair (x y : FOp) : snanNV [x, y] = if x.2 || y.2 then flNV else 0 := by simp [snanNV]
theorem flag_or (n : Nat) (p q : Bool) : ((if p then n else 0) ||| if q then n else 0) = if p || q then n else 0 := by
  cases p <;> cases q <;> simp
theorem rFcmp_unordered {c : Nat} (x y : FOp) (hc : c < 8) (un : x.1.isNan || y.1.isNan) :
    rFcmp c x y = (c == 1 || c == 6, if x.2 || y.2 || (2 ≤ c && c ≤ 5) then 16 else 0) := by
  unfold rFcmp
  dsimp only
  rw [un, snanNV_pair, Bool.true_and, flag_or]
  refine Prod.ext ?_ rfl
  interval_cases c <;> rfl

/-- Two values with one exponent compare as their significands do. -/
theorem fvCmp_fin (m n e : Int) : fvCmp (.fin m e) (.fin n e) = if m < n then -1 else if m = n then 0 else 1 := by
  have difference : (dyAdd m e (-n) e).1 = m - n := by simp [dyAdd, sub_eq_add_neg]
  change (if (dyAdd m e (-n) e).1 < 0 then -1 else if (dyAdd m e (-n) e).1 = 0 then 0 else 1) = _
  simp only [difference, sub_neg, sub_eq_zero]
theorem rFcmp_ordered {c : Nat} (m n e : Int) (hc : c < 8) :
    (rFcmp c (.fin m e, false) (.fin n e, false)).1 = true ↔
      (c = 0 ∧ m = n) ∨ (c = 1 ∧ m ≠ n) ∨ (c = 2 ∧ m < n) ∨ (c = 3 ∧ m ≤ n) ∨ (c = 4 ∧ m > n) ∨ (c = 5 ∧ m ≥ n) ∨ c = 7 := by
  have sign := fvCmp_fin m n e
  unfold rFcmp
  dsimp only
  generalize fvCmp (.fin m e) (.fin n e) = k at sign ⊢
  interval_cases c
  all_goals
    simp only [FV.isNan, Bool.or_self, Bool.not_false, Bool.true_and, Bool.false_or, decide_eq_true_eq]
    grind
theorem rFcmp_quiet (c : Nat) (m n e : Int) : (rFcmp c (.fin m e, false) (.fin n e, false)).2 = 0 := by
  simp [rFcmp, snanNV, FV.isNan]

end Sys2Proof.Machine
end

section
/-! SUPPORT. The special functions (spec/07_float.md R186, R187). -/
namespace Sys2Proof.Machine
open Sys2Proof.Claim

/-! ### Results pending -/

theorem exec_floatSpecial {i : Instr} {f : FmtL} {r : Nat → Nat × Nat} (h : floatSpecial i = some (f, r)) (s : State) :
    exec i s = .next (fpL s f r) := by
  cases i with
  | frcp _ | fsqrt _ | frsq _ | fex2 _ | flg2 _ | fsin _ | fcos _ | ftanh _ | fsigm _ => cases h; rfl
  | _ => cases h
theorem fpL_pends {s : State} {p : Path} (f : FmtL) (r : Nat → Nat × Nat) (hi : Issues s p rightsAll) :
    (fpL s f r).rest = s.rest ∧ Threads s (fpL s f r) p (pends f.guard fun t =>
      { uid := 0, sb := f.sb.toNat, left := f.la.toNat, iaddr := p.iaddr, dst := [f.d.toNat]
        val := some [BitVec.ofNat 32 (r (regL s t f.a.toNat 1)).1], flags := (r (regL s t f.a.toNat 1)).2 }) := by
  have reads := reads_regL s f.a.toNat 1
  refine issueEach_pends hi (fun s1 t h => ?_) fun t u h => ?_
  · rw [reads.rest s1 t h]
    rfl
  · rw [reads.core t u h]

/-! ### NaN operands (R187) -/

theorem frcp_nan {a : Nat} {b : Bool} (h : (fmtOf 8).value a = (.nan, b)) (rm : Nat) : frcp rm a = (0x7FC00000, if b then 16 else 0) := by
  simp only [frcp, h]
  rfl
theorem fsqrt_nan {a : Nat} {b : Bool} (h : (fmtOf 8).value a = (.nan, b)) (rm : Nat) : fsqrt rm a = (0x7FC00000, if b then 16 else 0) := by
  simp only [fsqrt, h]
  rfl
theorem specialFn_nan {a : Nat} {b : Bool} (h : (fmtOf 8).value a = (.nan, b)) (op : Nat) :
    specialFn op a = (0x7FC00000, if b then 16 else 0) := by
  simp only [specialFn, h]
  rfl

/-! ### Finite operands -/

theorem ofDyadic_eq_fin {m e m' e' : Int} {z : Bool} (h : FV.ofDyadic m e z = .fin m' e') : m' ≠ 0 ∧ e' = e := by
  unfold FV.ofDyadic at h
  split at h
  · cases h
  · cases h
    exact ⟨‹_›, rfl⟩

/-- A finite ordinary .f32 code is not zero, and its exponent is that of its last place (R163). -/
theorem f32_ordinary_fin {c : Nat} {m e : Int} (h : (fmtOf 8).ordinary c = .fin m e) : m ≠ 0 ∧ -149 ≤ e ∧ e ≤ 105 := by
  have field : bits c 23 8 < 2 ^ 8 := Nat.mod_lt _ (by norm_num)
  change (if ((bits c 23 8 : Nat) : Int) = 0 then
      FV.ofDyadic (if bit c 31 then -(bits c 0 23 : Nat) else (bits c 0 23 : Nat)) (-149) (bit c 31)
    else .fin (if bit c 31 then -((bits c 0 23 : Nat) + 2 ^ 23) else (bits c 0 23 : Nat) + 2 ^ 23)
      ((bits c 23 8 : Nat) - 127 - ((24 : Nat) - 1))) = _ at h
  by_cases subnormal : ((bits c 23 8 : Nat) : Int) = 0
  · rw [if_pos subnormal] at h
    obtain ⟨nonzero, rfl⟩ := ofDyadic_eq_fin h
    exact ⟨nonzero, by norm_num, by norm_num⟩
  · rw [if_neg subnormal, FV.fin.injEq] at h
    obtain ⟨rfl, rfl⟩ := h
    refine ⟨?_, by omega, by omega⟩
    split <;> omega
theorem f32_fin {a : Nat} {m e : Int} {b : Bool} (h : (fmtOf 8).value a = (.fin m e, b)) : m ≠ 0 ∧ -149 ≤ e ∧ e ≤ 105 := by
  change (if bits (a % 2 ^ 32) 23 8 = 255 then
      (if bits (a % 2 ^ 32) 0 23 = 0 then (FV.inf (bit (a % 2 ^ 32) 31), false) else (.nan, !bit (a % 2 ^ 32) 22))
    else ((fmtOf 8).ordinary (a % 2 ^ 32), false)) = _ at h
  split at h
  case isTrue special => split at h <;> cases h
  case isFalse ordinary => exact f32_ordinary_fin (congrArg Prod.fst h)

/-- The result and the flags of a special function that is not exact (R187). -/
def inexactSpecial (op a : Nat) (m e : Int) : Nat × Nat :=
  (specialFinite op a m e, 1 + if bits (specialFinite op a m e) 23 8 = 0 then 2 else 0)

theorem inexactSpecial_eq (op a : Nat) (m e : Int) :
    inexactSpecial op a m e = (specialFinite op a m e, specialFlags (specialFinite op a m e)) := by
  unfold inexactSpecial specialFlags
  split <;> rfl

section
variable {a : Nat} {m e : Int} {b : Bool} (h : (fmtOf 8).value a = (.fin m e, b))
include h

theorem frcp_fin (rm : Nat) : frcp rm a = fit (fmtOf 8) rm 0 (fvRecip m e) := by
  simp only [frcp, h]
theorem fsqrt_fin (rm : Nat) : fsqrt rm a = if m < 0 then (0x7FC00000, 16) else fit (fmtOf 8) rm 0 (fvSqrt m.natAbs e) := by
  simp only [fsqrt, h]
  rfl
theorem frsq_fin : specialFn 0 a = if m < 0 then (0x7FC00000, 16) else inexactSpecial 0 a m e := by
  simp only [specialFn, h, inexactSpecial_eq]
  rfl
theorem fex2_int {n : Int} (hn : asInt m e = some n) : specialFn 1 a =
    if 128 ≤ n then (0x7F800000, 5) else if n ≤ -150 then (0, 3) else ((fit (fmtOf 8) 0 0 (.fin 1 n)).1, 0) := by
  simp only [specialFn, h, hn]
  rfl
theorem fex2_fraction (hn : asInt m e = none) : specialFn 1 a =
    if 7 ≤ (ilog2 m : Int) + e ∧ 0 < m then (0x7F800000, 5)
    else if m < 0 ∧ toFx m e < -(150 * 2 ^ fx) then (0, 3) else inexactSpecial 1 a m e := by
  simp only [specialFn, h, hn, inexactSpecial_eq, Bool.and_eq_true, decide_eq_true_eq]
  rfl
theorem flg2_fin : specialFn 2 a =
    if m < 0 then (0x7FC00000, 16)
    else if m = 2 ^ ilog2 m then ((fit (fmtOf 8) 0 0 (FV.ofDyadic ((ilog2 m : Int) + e) 0)).1, 0)
    else inexactSpecial 2 a m e := by
  simp only [specialFn, h, inexactSpecial_eq]
  rfl
theorem specialFn_inexact (op : Nat) (hop : 3 ≤ op) : specialFn op a = inexactSpecial op a m e := by
  simp only [specialFn, h, inexactSpecial_eq]
  match op with
  | k + 3 => rfl
end

/-! ### Operands that are integers -/

/-- m × 2^e is the integer `n`. -/
def DyadicInt (m e n : Int) : Prop := if e < 0 then m = n * 2 ^ (-e).toNat else n = m * 2 ^ e.toNat

theorem asInt_of_dyadicInt {m e n : Int} (he : e < 200) (hn : DyadicInt m e n) : asInt m e = some n := by
  unfold DyadicInt at hn
  unfold asInt
  by_cases neg : e < 0
  · rw [if_pos neg] at hn
    have pow : (2 : Int) ^ (-e).toNat ≠ 0 := by positivity
    rw [if_neg (not_le.2 neg), hn, if_pos (Int.mul_emod_left _ _), Int.mul_ediv_cancel _ pow]
  · rw [if_neg neg] at hn
    rw [if_pos (not_lt.1 neg), if_pos he, hn]
theorem dyadicInt_of_asInt {m e n : Int} (hn : asInt m e = some n) : DyadicInt m e n := by
  unfold asInt at hn
  unfold DyadicInt
  by_cases neg : e < 0
  · rw [if_neg (not_le.2 neg), Option.ite_none_right_eq_some] at hn
    obtain ⟨whole, quot⟩ := hn
    cases quot
    rw [if_pos neg, Int.ediv_mul_cancel (Int.dvd_of_emod_eq_zero whole)]
  · rw [if_pos (not_lt.1 neg), Option.ite_none_right_eq_some] at hn
    rw [if_neg neg]
    exact (Option.some.inj hn.2).symm
theorem asInt_eq_none {m e : Int} (hn : ∀ n, ¬DyadicInt m e n) : asInt m e = none := by
  cases h : asInt m e with
  | none => rfl
  | some n => exact absurd (dyadicInt_of_asInt h) (hn n)
/-- An operand that is no integer has a fraction. -/
theorem neg_of_not_dyadicInt {m e : Int} (hn : ∀ n, ¬DyadicInt m e n) : e < 0 := by
  by_contra whole
  exact hn (m * 2 ^ e.toNat) (by rw [DyadicInt, if_neg whole])

/-- An integer operand of 2^7 and above. -/
theorem dyadicInt_large {m e n : Int} (hn : DyadicInt m e n) (pos : 0 < m) (large : 7 ≤ (ilog2 m : Int) + e) : 128 ≤ n := by
  have low : 2 ^ ilog2 m ≤ m := by simpa [abs_of_pos pos] using two_pow_ilog2_le pos.ne'
  unfold DyadicInt at hn
  split at hn
  case isTrue neg =>
    have : (2 : Int) ^ 7 * 2 ^ (-e).toNat ≤ n * 2 ^ (-e).toNat := by
      rw [← pow_add, ← hn]
      exact (pow_le_pow_right₀ (by norm_num) (by omega)).trans low
    exact le_of_mul_le_mul_right this (by positivity)
  case isFalse whole =>
    calc (128 : Int) = 2 ^ 7 := by norm_num
      _ ≤ 2 ^ (ilog2 m + e.toNat) := pow_le_pow_right₀ (by norm_num) (by omega)
      _ = 2 ^ ilog2 m * 2 ^ e.toNat := pow_add _ _ _
      _ ≤ n := by rw [hn]; exact mul_le_mul_of_nonneg_right low (by positivity)

/-- An operand with a fraction against an integer bound, in fixed point. -/
theorem toFx_lt_iff {m e : Int} (k : Int) (low : -149 ≤ e) (neg : e < 0) : toFx m e < k * 2 ^ fx ↔ m < k * 2 ^ (-e).toNat := by
  have whole : 0 ≤ e + fx := by unfold fx; omega
  have scale : (2 : Int) ^ fx = 2 ^ (-e).toNat * 2 ^ (e + fx).toNat := by rw [← pow_add]; congr 1; unfold fx at *; omega
  unfold toFx
  rw [if_pos whole, scale, ← mul_assoc]
  exact mul_lt_mul_iff_left₀ (by positivity)

/-! ### Powers of two as codes -/

theorem ilog2_two_pow (k : Nat) : ilog2 (2 ^ k) = k := by
  have : ((2 : Int) ^ k).natAbs = 2 ^ k := by rw [Int.natAbs_pow]; rfl
  rw [ilog2, this, Nat.log2_two_pow]

theorem f32_lastPlace_one (n : Int) : (fmtOf 8).lastPlace 1 n = max n (-126) - 23 := by
  have : ilog2 1 = 0 := ilog2_two_pow 0
  simp only [Fmt.lastPlace, this, Fmt.emin, fmtOf]
  omega
/-- A positive value with no place beyond the last of .f32 is delivered as it is, with no flag (R171). -/
theorem f32_fit_exact {m e : Int} {c : Nat} (rm st : Nat) (pos : 0 < m) (exact : (fmtOf 8).lastPlace m e ≤ e)
    (hc : (fmtOf 8).pack (m * 2 ^ (e - (fmtOf 8).lastPlace m e).toNat).natAbs ((fmtOf 8).lastPlace m e) = some c) :
    fit (fmtOf 8) rm st (.fin m e) = (c, 0) := by
  have nonzero : m * 2 ^ (e - (fmtOf 8).lastPlace m e).toNat ≠ 0 := mul_ne_zero pos.ne' (by positivity)
  unfold fit
  dsimp only
  rw [roundTo_exact rm exact]
  simp only [if_neg nonzero, hc, decide_eq_false pos.not_gt, if_neg pos.not_gt]
  rfl
/-- A significand in the binade of `u` takes the exponent field u + 150, and a lesser one the field 0 (R163). -/
theorem f32_pack_normal {u : Int} (low : -149 ≤ u) (high : u ≤ 104) :
    (fmtOf 8).pack (2 ^ 23) u = some ((u + 150).toNat * 2 ^ 23) := by
  have kept : 2 ^ 23 ≠ 2 ^ (fmtOf 8).p := by decide
  have normal : ¬ 2 ^ 23 < 2 ^ ((fmtOf 8).p - 1) := by decide
  have mag : (u + (fmtOf 8).p - 1 + (fmtOf 8).bias) * 2 ^ ((fmtOf 8).p - 1) + (((2 ^ 23 : Nat) : Int) - 2 ^ ((fmtOf 8).p - 1))
      = (u + 150) * 2 ^ 23 := by
    change (u + 24 - 1 + 127) * 8388608 + (8388608 - 8388608) = (u + 150) * 8388608
    omega
  have fits : ¬ (u + 150) * 2 ^ 23 > ((fmtOf 8).maxCode false : Int) := by
    rw [show (fmtOf 8).maxCode false = 255 * 2 ^ 23 - 1 from rfl]
    omega
  unfold Fmt.pack
  simp only [if_neg kept, if_neg normal, mag, if_neg fits]
  congr 1
  omega
theorem f32_pack_subnormal {k : Nat} (u : Int) (hk : k < 2 ^ 23) : (fmtOf 8).pack k u = some k := by
  have kept : k ≠ 2 ^ (fmtOf 8).p := (hk.trans (by decide)).ne
  have subnormal : k < 2 ^ ((fmtOf 8).p - 1) := hk
  have fits : ¬ (k : Int) > ((fmtOf 8).maxCode false : Int) := by
    rw [show (fmtOf 8).maxCode false = 255 * 2 ^ 23 - 1 from rfl]
    omega
  unfold Fmt.pack
  simp only [if_neg kept, if_pos subnormal, if_neg fits]
  rfl

theorem fit_two_pow_normal {n : Int} (low : -126 ≤ n) (high : n ≤ 127) :
    fit (fmtOf 8) 0 0 (.fin 1 n) = ((n + 127).toNat * 2 ^ 23, 0) := by
  have place : (fmtOf 8).lastPlace 1 n = n - 23 := by rw [f32_lastPlace_one]; omega
  refine f32_fit_exact 0 0 one_pos (by omega) ?_
  have shift : (n - (n - 23)).toNat = 23 := by omega
  rw [place, shift, show n + 127 = n - 23 + 150 by ring]
  exact f32_pack_normal (by omega) (by omega)
theorem fit_two_pow_subnormal {n : Int} (low : -149 ≤ n) (high : n < -126) :
    fit (fmtOf 8) 0 0 (.fin 1 n) = (2 ^ (n + 149).toNat, 0) := by
  have place : (fmtOf 8).lastPlace 1 n = -149 := by rw [f32_lastPlace_one]; omega
  have small : 2 ^ (n + 149).toNat < 2 ^ 23 := Nat.pow_lt_pow_right (by norm_num) (by omega)
  refine f32_fit_exact 0 0 one_pos (by omega) ?_
  rw [place, sub_neg_eq_add, one_mul, Int.natAbs_pow]
  exact f32_pack_subnormal _ small

/-! ### The rows of finite operands (R186, R187) -/

section
variable {a : Nat} {m e : Int} {b : Bool} (h : (fmtOf 8).value a = (.fin m e, b))
include h

theorem frsq_neg (neg : m < 0) : specialFn 0 a = (0x7FC00000, 16) := by rw [frsq_fin h, if_pos neg]
theorem frsq_pos (pos : 0 < m) : specialFn 0 a = inexactSpecial 0 a m e := by rw [frsq_fin h, if_neg pos.not_gt]
theorem fex2_of_dyadicInt {n : Int} (hn : DyadicInt m e n) :
    (128 ≤ n → specialFn 1 a = (0x7F800000, 5)) ∧ (n ≤ -150 → specialFn 1 a = (0, 3)) ∧
    (-126 ≤ n → n ≤ 127 → specialFn 1 a = ((n + 127).toNat * 2 ^ 23, 0)) ∧
    (-149 ≤ n → n < -126 → specialFn 1 a = (2 ^ (n + 149).toNat, 0)) := by
  obtain ⟨-, -, high⟩ := f32_fin h
  rw [fex2_int h (asInt_of_dyadicInt (by omega) hn)]
  refine ⟨fun above => if_pos above, fun below => ?_, fun low high => ?_, fun low high => ?_⟩
  · rw [if_neg (by omega), if_pos below]
  · rw [if_neg (by omega), if_neg (by omega), fit_two_pow_normal low high]
  · rw [if_neg (by omega), if_neg (by omega), fit_two_pow_subnormal low high]
theorem fex2_large (pos : 0 < m) (large : 7 ≤ (ilog2 m : Int) + e) : specialFn 1 a = (0x7F800000, 5) := by
  cases hn : asInt m e with
  | some n => rw [fex2_int h hn, if_pos (dyadicInt_large (dyadicInt_of_asInt hn) pos large)]
  | none => rw [fex2_fraction h hn, if_pos ⟨large, pos⟩]
theorem fex2_pos (hn : ∀ n, ¬DyadicInt m e n) (pos : 0 < m) (small : (ilog2 m : Int) + e < 7) :
    specialFn 1 a = inexactSpecial 1 a m e := by
  rw [fex2_fraction h (asInt_eq_none hn), if_neg fun large => absurd large.1 (not_le.2 small),
    if_neg fun neg => absurd neg.1 pos.not_gt]
theorem fex2_neg (hn : ∀ n, ¬DyadicInt m e n) (neg : m < 0) :
    if 150 * 2 ^ (-e).toNat < -m then specialFn 1 a = (0, 3) else specialFn 1 a = inexactSpecial 1 a m e := by
  obtain ⟨-, low, -⟩ := f32_fin h
  have bound : toFx m e < -(150 * 2 ^ fx) ↔ 150 * 2 ^ (-e).toNat < -m := by
    rw [← neg_mul, toFx_lt_iff _ low (neg_of_not_dyadicInt hn), neg_mul, lt_neg]
  have row : specialFn 1 a = if 150 * 2 ^ (-e).toNat < -m then (0, 3) else inexactSpecial 1 a m e := by
    rw [fex2_fraction h (asInt_eq_none hn), if_neg fun large => absurd large.2 neg.not_gt]
    simp only [neg, true_and, bound]
  split
  case isTrue tiny => rw [row, if_pos tiny]
  case isFalse inexact => rw [row, if_neg inexact]
theorem flg2_neg (neg : m < 0) : specialFn 2 a = (0x7FC00000, 16) := by rw [flg2_fin h, if_pos neg]
theorem flg2_two_pow {k : Nat} (hk : m = 2 ^ k) : specialFn 2 a = ((fit (fmtOf 8) 0 0 (FV.ofDyadic (k + e) 0)).1, 0) := by
  subst hk
  rw [flg2_fin h, if_neg (not_lt.2 (by positivity)), ilog2_two_pow, if_pos rfl]
theorem flg2_pos (pos : 0 < m) (hk : ∀ k : Nat, m ≠ 2 ^ k) : specialFn 2 a = inexactSpecial 2 a m e := by
  rw [flg2_fin h, if_neg pos.not_gt, if_neg (hk _)]
end

end Sys2Proof.Machine
end

section
/-! What is claimed of Round, of sums and products, and of the floating-point instructions (spec/07_float.md). -/
namespace Sys2Proof.Machine
open Sys2Proof.Claim

/-- Settles O6: Round is `roundQuot` wherever the result has a greater exponent than its operand. -/
theorem roundByRule : Obligations.RoundByRule := by
  intro F rm m e hm E u r
  have exact (h : u ≤ e) : r = (m * 2 ^ (e - u).toNat, u, false) := roundTo_exact rm h
  have quotient (h : e < u) : r = ((roundQuot m (2 ^ (u - e).toNat) rm).1, u, (roundQuot m (2 ^ (u - e).toNat) rm).2) :=
    roundTo_quotient rm hm h
  refine ⟨?_, fun h => by rw [exact h]; exact ⟨rfl, rfl⟩, fun h => ?_⟩
  · rcases le_or_gt u e with h | h
    · rw [exact h]
    · rw [quotient h]
  · rw [quotient h]
    intro q
    have pos : 0 < q := by positivity
    refine ⟨roundQuot_flag m q rm, ?nearest, ?truncated, ?least, ?greatest⟩
    all_goals rintro rfl
    case nearest => exact roundQuot_nearest pos
    case truncated => exact roundQuot_truncated pos
    case least => exact roundQuot_least pos
    case greatest => exact roundQuot_greatest pos

/-- Settles O7, case by case of the two operands. -/
theorem specialValueArithmetic : Obligations.SpecialValueArithmetic := by
  have opposite (a : Bool) : ¬a = !a := by simp
  refine ⟨fun rm a => if_pos rfl, fun rm a => if_neg (opposite a), fun rm m e _ => ?cancels, fun rm a => if_neg (opposite a),
    fun a b => ⟨rfl, rfl⟩, fun rm a b z => ⟨rfl, rfl⟩, fun rm m n e f h nonzero => ?sum, fun _ _ _ _ => rfl⟩
  case cancels => simp [fvAdd, dyAdd, FV.ofDyadic]
  case sum => simp [fvAdd, dyAdd, FV.ofDyadic, h, nonzero]

/-- Settles O8: without faults the shadow unit finds nothing, and the operands are those that the thread held. -/
theorem floatArithmetic : Obligations.FloatArithmetic := by
  intro i f r h s p hi clear
  obtain ⟨halves, runs⟩ := exec_floatOp h
  exact ⟨_, runs s, fpA_putRaise hi (.inr clear) (reads_floatOp h s)⟩

theorem floatConversions_met : floatConversions :=
  ⟨fun _ _ _ h => raises_floatOther h, fun f _ _ => fcmp_runs f, fun f _ _ => flagclr_runs f⟩
theorem floatCompareTable_met : floatCompareTable := by
  refine ⟨fun c x y hc un => ?_, fun c m n e hc => ⟨rFcmp_quiet c m n e, rFcmp_ordered m n e hc⟩, fun a b => rfl⟩
  rw [rFcmp_unordered x y hc un]
  exact ⟨rfl, rfl⟩
/-- Settles O9: each result is a function of operands that the thread held, and the truth of a comparison one of the order of its
operands. -/
theorem floatConversionsAndCompares : Obligations.FloatConversionsAndCompares := ⟨floatConversions_met, floatCompareTable_met⟩

theorem specialResults_met : specialResults := fun _ f r h s _ hi => ⟨_, exec_floatSpecial h s, fpL_pends f r hi⟩
theorem specialTable_met : specialTable := by
  refine ⟨fun a b h rm op => ⟨frcp_nan h rm, fsqrt_nan h rm, specialFn_nan h op⟩, fun rm => ?_, ?_⟩
  · exact ⟨rfl, rfl, rfl, rfl, rfl, rfl, rfl, rfl⟩
  · exact ⟨⟨rfl, rfl, rfl, rfl⟩, ⟨rfl, rfl, rfl, rfl⟩, ⟨rfl, rfl, rfl, rfl⟩, ⟨rfl, rfl, rfl, rfl⟩, ⟨rfl, rfl, rfl, rfl⟩,
      ⟨rfl, rfl, rfl, rfl⟩, ⟨rfl, rfl, rfl, rfl⟩⟩
theorem specialFinites_met : specialFinites := by
  intro a m e b h nan other int
  have inexact (op : Nat) : 3 ≤ op → other op := specialFn_inexact h op
  exact ⟨frcp_fin h, fsqrt_fin h, fun neg => ⟨frsq_neg h neg, flg2_neg h neg⟩, frsq_pos h,
    fun n hn => fex2_of_dyadicInt h hn, fex2_large h, fex2_pos h, fex2_neg h, fun k hk => flg2_two_pow h hk, flg2_pos h,
    inexact 3 (by decide), inexact 4 (by decide), inexact 5 (by decide), inexact 6 (by decide)⟩
/-- Settles O10: the operand's value decides the row. -/
theorem specialFunctions : Obligations.SpecialFunctions := ⟨specialResults_met, specialTable_met, specialFinites_met⟩

end Sys2Proof.Machine
end

section
/-! SUPPORT. Every step keeps the canonical form of device memory and of host memory (assumption log 10): what the lemmas of the sections
below are stated in. A function of the model leaves memory alone but through the few operations that write it (Laws/Keeps), so that
each lemma follows the branches of its function and cites the lemma of the function called there. -/
namespace Sys2Proof.Machine

/-- The canonical form, of the memory system alone. -/
def MemSys.Wf (m : MemSys) : Prop := Memory.wf m.phys = true ∧ Memory.wf m.host = true
/-- An answer that leaves a next state leaves it in the canonical form. -/
def OutWf : Out → Prop
  | .next s => s.MemWf
  | _ => True
def OptWf : Option State → Prop
  | some s => s.MemWf
  | none => True
def Res.MemWf : Res → Prop
  | .ok s => s.MemWf
  | _ => True
def OnceRes.MemWf : OnceRes → Prop
  | .ok s => s.MemWf
  | _ => True
def Pick.MemWf : Pick → Prop
  | .idle s | .issue _ s => s.MemWf
  | .corrupt => True

/-! ### A state that a function answers -/

theorem State.MemWf.fst {α : Type} {x : State × α} {t : State} {a : α} (h : x.1.MemWf) (e : x = (t, a)) : t.MemWf := by rw [e] at h; exact h
theorem State.MemWf.snd {α : Type} {x : α × State} {t : State} {a : α} (h : x.2.MemWf) (e : x = (a, t)) : t.MemWf := by rw [e] at h; exact h
theorem OptWf.some {o : Option State} {t : State} (h : OptWf o) (e : o = some t) : t.MemWf := by rw [e] at h; exact h
theorem OutWf.next {o : Out} {t : State} (h : OutWf o) (e : o = .next t) : t.MemWf := by rw [e] at h; exact h
theorem Res.MemWf.ok {r : Res} {t : State} (h : r.MemWf) (e : r = .ok t) : t.MemWf := by rw [e] at h; exact h
theorem OnceRes.MemWf.ok {r : OnceRes} {t : State} (h : r.MemWf) (e : r = .ok t) : t.MemWf := by rw [e] at h; exact h
theorem Pick.MemWf.idle {q : Pick} {t : State} (h : q.MemWf) (e : q = .idle t) : t.MemWf := by rw [e] at h; exact h
theorem Pick.MemWf.issue {q : Pick} {i : Instr} {t : State} (h : q.MemWf) (e : q = .issue i t) : t.MemWf := by rw [e] at h; exact h

/-! ### Updates, choices and folds -/

theorem State.MemWf.mk {threads fgs blocks paths insts ctxs ctl map opr mem sync links health eng sched images fills yields ev agenda ticks
    fresh uid} (h : MemSys.Wf mem) : (State.mk threads fgs blocks paths insts ctxs ctl map opr mem sync links health eng sched images fills
      yields ev agenda ticks fresh uid).MemWf := h
theorem State.MemWf.setMem {s : State} {threads fgs blocks paths insts ctxs ctl map opr sync links health eng sched images fills yields ev agenda
    ticks fresh uid scrub poison active l1 slice tlb slots sram bad} (h : s.MemWf) :
    (State.mk threads fgs blocks paths insts ctxs ctl map opr ⟨s.mem.phys, s.mem.host, scrub, poison, active, l1, slice, tlb, slots, sram, bad⟩
      sync links health eng sched images fills yields ev agenda ticks fresh uid).MemWf := h
theorem ite_memWf {c : Prop} [Decidable c] {s t : State} (hs : s.MemWf) (ht : t.MemWf) : (if c then s else t).MemWf := by
  split
  · exact hs
  · exact ht
theorem ite_memWf_fst {α : Type} {c : Prop} [Decidable c] {x y : State × α} (hx : x.1.MemWf) (hy : y.1.MemWf) :
    (if c then x else y).1.MemWf := by
  split
  · exact hx
  · exact hy
theorem foldl_wf {α : Type} {l : List α} {f : State → α → State} {s : State} (h : s.MemWf) (hf : ∀ s a, s.MemWf → (f s a).MemWf) :
    (l.foldl f s).MemWf := foldl_memWf l f hf s h
theorem foldl_wf_fst {α β : Type} {l : List α} {f : State × β → α → State × β} {x : State × β} (h : x.1.MemWf)
    (hf : ∀ x a, x.1.MemWf → (f x a).1.MemWf) : (l.foldl f x).1.MemWf := foldl_memWf_fst l f hf x h

end Sys2Proof.Machine
end


section
/-! SUPPORT. Keeping the form: traps, the clause boundary, and every way of issuing an instruction (spec/03_encoding.md, spec/04_system.md). -/
namespace Sys2Proof.Machine
variable {s : State}

theorem State.setThread_memWf {t : Thread} (h : s.MemWf) : (s.setThread t).MemWf := h
theorem State.modThread_memWf {fg lane : Nat} {f : Thread → Thread} (h : s.MemWf) : (s.modThread fg lane f).MemWf := h
theorem State.setFg_memWf {g : FileGroup} (h : s.MemWf) : (s.setFg g).MemWf := h
theorem State.setBlock_memWf {b : Block} (h : s.MemWf) : (s.setBlock b).MemWf := h
theorem State.modCtx_memWf {asid : Nat} {f : Ctx → Ctx} (h : s.MemWf) : (s.modCtx asid f).MemWf := h
theorem State.setPath_memWf {p : Path} (h : s.MemWf) : (s.setPath p).MemWf := h
theorem State.dropPath_memWf {id : Nat} (h : s.MemWf) : (s.dropPath id).MemWf := h
theorem State.modPend_memWf {fg lane uid : Nat} {f : Pending → Pending} (h : s.MemWf) : (s.modPend fg lane uid f).MemWf := h
theorem State.loseNet_memWf {n : Net} {code : Nat} (h : s.MemWf) : (s.loseNet n code).MemWf := foldl_wf (foldl_wf h (fun _ _ h => h)) (fun _ _ h => h)
theorem State.newUid_memWf (h : s.MemWf) : s.newUid.2.MemWf := h
theorem State.countEv_memWf {asid ev n : Nat} (h : s.MemWf) : (s.countEv asid ev n).MemWf := h
theorem State.retire_memWf {fg : Nat} {inH : Bool} (h : s.MemWf) : (s.retire fg inH).MemWf := by
  unfold State.retire
  split
  · exact ite_memWf h h
  · exact h
theorem State.retireClause_memWf {fg : Nat} (h : s.MemWf) : (s.retireClause fg).MemWf := by
  unfold State.retireClause
  split
  · exact ite_memWf h h
  · exact h
theorem State.record_memWf {r : OprRec} (h : s.MemWf) : (s.record r).MemWf := h
theorem State.holdFor_memWf {core asid code : Nat} {pc : DWord} {page n sub lane : Nat} {f : Held → Held} (h : s.MemWf) :
    (s.holdFor core asid code pc page n sub lane f).2.MemWf := by
  unfold State.holdFor
  dsimp only
  split <;> exact h
theorem State.stopBlocks_memWf {which : Block → Bool} (h : s.MemWf) : (s.stopBlocks which).MemWf := h
theorem State.newMap_memWf {us : List (Nat × Nat)} (h : s.MemWf) : (s.newMap us).MemWf :=
  ite_memWf (ite_memWf h (foldl_wf h (fun _ _ h => h))) (State.stopBlocks_memWf (ite_memWf h (foldl_wf h (fun _ _ h => h))))
theorem State.publish_memWf {us : List (Nat × Nat)} (h : s.MemWf) : (s.publish us).MemWf := ite_memWf h (State.newMap_memWf h)
theorem State.suspect_memWf {incs : List (Nat × Nat)} (h : s.MemWf) : (s.suspect incs).1.MemWf := h
theorem State.vectorMismatch_memWf {core unit lane : Nat} (h : s.MemWf) : (s.vectorMismatch core unit lane).MemWf :=
  ite_memWf h (State.publish_memWf h)
theorem State.dropBlocks_memWf {which : Block → Bool} (h : s.MemWf) : (s.dropBlocks which).MemWf := h
theorem State.setNode_memWf {n : Node} (h : s.MemWf) : (s.setNode n).MemWf := h
theorem State.modCluster_memWf {node clu : Nat} {f : Node → Cluster → Cluster} (h : s.MemWf) : (s.modCluster node clu f).MemWf := h
theorem State.freeShared_memWf {asid : Nat} (h : s.MemWf) : (s.freeShared asid).MemWf := .mk (foldl_wf h (fun _ _ h => State.loseNet_memWf h))
theorem State.endContext_memWf {asid code detail : Nat} (h : s.MemWf) : (s.endContext asid code detail).MemWf := State.freeShared_memWf h
theorem State.loadBank_memWf (h : s.MemWf) : s.loadBank.MemWf := ite_memWf h h
theorem State.restartCore_memWf {die : Nat} (h : s.MemWf) : (s.restartCore die).MemWf := .mk (ite_memWf h (State.loadBank_memWf h))
theorem State.endRun_memWf {node clu : Nat} (h : s.MemWf) : (s.endRun node clu).MemWf := h
theorem State.takeOwn_memWf {t : Thread} {code : Nat} {addr iaddr : DWord} {mid : Bool} (h : s.MemWf) : (s.takeOwn t code addr iaddr mid).MemWf := by
  unfold State.takeOwn
  dsimp only
  split
  · exact ite_memWf (State.restartCore_memWf h) h
  · split
    · exact h
    · exact h
    · exact ite_memWf h (ite_memWf (State.endContext_memWf h) (ite_memWf (ite_memWf h (State.endContext_memWf h)) (ite_memWf h h)))
theorem State.takeOpr_memWf {t : Thread} {code page sub lane : Nat} (h : s.MemWf) : (s.takeOpr t code page sub lane).MemWf := by
  unfold State.takeOpr
  split
  exact State.setThread_memWf ((State.holdFor_memWf h).snd ‹_›)
theorem State.takeTrap_memWf {t : Thread} {code : Nat} {addr iaddr : DWord} {mid : Bool} (h : s.MemWf) :
    (s.takeTrap t code addr iaddr mid).MemWf :=
  ite_memWf h (ite_memWf (State.vectorMismatch_memWf (ite_memWf (State.countEv_memWf (State.takeOpr_memWf h)) (State.takeOpr_memWf h))) (ite_memWf
    (State.takeOpr_memWf h) (State.takeOwn_memWf h)))
theorem issueLane_memWf {r : Rights} {g : Guard} {p : Path} {f : State → Thread → Res} {x : State × List Nat} {l : Nat} (h : x.1.MemWf)
    (hf : ∀ s t, s.MemWf → (f s t).MemWf) : (issueLane r g p f x l).1.MemWf := by
  unfold issueLane
  dsimp only
  split
  · exact h
  · rename_i t _
    have trap {t : Thread} {c : Nat} {a b : DWord} {m : Bool} : (x.1.takeTrap t c a b m).MemWf := State.takeTrap_memWf h
    split
    · exact trap
    · split
      · have made := hf (x.1.setThread ({ t with pc := p.pc, idx := p.idx } : Thread).passed) ({ t with pc := p.pc, idx := p.idx } : Thread).passed h
        split
        · exact State.retire_memWf (made.ok ‹_›)
        · exact trap
        · exact h
      · exact State.retire_memWf (State.setThread_memWf h)
theorem issueLanes_memWf {r : Rights} {g : Guard} {p : Path} {f : State → Thread → Res} {ls kept : List Nat} (h : s.MemWf)
    (hf : ∀ s t, s.MemWf → (f s t).MemWf) : (ls.foldl (issueLane r g p f) (s, kept)).1.MemWf :=
  foldl_wf_fst h fun _ _ h => issueLane_memWf h hf
theorem State.endThread_memWf {fg lane : Nat} (h : s.MemWf) : (s.endThread fg lane).MemWf := by
  unfold State.endThread
  dsimp only
  split
  · exact h
  · split
    · exact State.takeTrap_memWf (State.setThread_memWf (ite_memWf h (State.retireClause_memWf h)))
    · exact State.setThread_memWf (ite_memWf h (State.retireClause_memWf h))
theorem State.leaveInst_memWf {i : Option Nat} {lanes : List Nat} (h : s.MemWf) : (s.leaveInst i lanes).MemWf := by
  unfold State.leaveInst
  dsimp only
  split <;> exact h
theorem State.yieldSlot_memWf {p : Path} (h : s.MemWf) : (s.yieldSlot p).MemWf := ite_memWf h h
theorem State.advance_memWf {p : Path} {kept : List Nat} (h : s.MemWf) : (s.advance p kept).MemWf :=
  ite_memWf (ite_memWf h h) (State.yieldSlot_memWf (State.dropPath_memWf (State.leaveInst_memWf (foldl_wf h (fun _ _ h => State.endThread_memWf h)))))
theorem issueEach_memWf {r : Rights} {g : Guard} {f : Path → State → Thread → Res} (h : s.MemWf)
    (hf : ∀ p s t, s.MemWf → (f p s t).MemWf) : (issueEach s r g f).MemWf := by
  unfold issueEach
  split
  · exact h
  · exact State.advance_memWf (issueLanes_memWf h (hf _))
theorem issueOnce_memWf {r : Rights} {g : Guard} {f : Path → State → List Thread → OnceRes} (h : s.MemWf)
    (hf : ∀ p s l, s.MemWf → (f p s l).MemWf) : (issueOnce s r g f).MemWf := by
  unfold issueOnce
  dsimp only
  split
  · exact h
  · rename_i p _ _
    have passed {ls : List Nat} : (ls.foldl (issueLane r g p fun s _ => .ok s) (s, [])).1.MemWf := issueLanes_memWf h fun _ _ h => h
    split
    · exact State.advance_memWf passed
    · split
      · exact State.advance_memWf ((hf _ _ _ passed).ok ‹_›)
      · exact State.advance_memWf (issueLanes_memWf h fun _ _ _ => trivial)
theorem State.pendU_memWf {t : Thread} {p : Pending} (h : s.MemWf) : (s.pendU t p).2.MemWf := h
theorem State.pendL_memWf {t : Thread} {p : Pending} (h : s.MemWf) : (s.pendL t p).MemWf := h

end Sys2Proof.Machine
end

section
/-! SUPPORT. Keeping the form: integer and floating-point instructions, branches, holds and cross-lane instructions. -/
namespace Sys2Proof.Machine
variable {s : State}

theorem intA_memWf {f : FmtA} {res : State → Thread → List Word} (h : s.MemWf) : (intA s f res).MemWf := by
  unfold intA
  split
  · refine issueOnce_memWf h (fun _ _ _ h => ?_)
    split <;> exact h
  · exact issueEach_memWf h (fun _ _ _ h => h)
theorem intA2_memWf {f : FmtA} {op : Nat → Nat → Nat → Nat} (h : s.MemWf) : (intA2 s f op).MemWf := intA_memWf h
theorem intASh_memWf {f : FmtA} {op : Nat → Nat → Nat → Nat} (h : s.MemWf) : (intASh s f op).MemWf := intA_memWf h
theorem intA1_memWf {f : FmtA} {op : Nat → Nat → Nat} (h : s.MemWf) : (intA1 s f op).MemWf := intA_memWf h
theorem intCnt_memWf {f : FmtA} {op : Nat → Nat → Nat} (h : s.MemWf) : (intCnt s f op).MemWf := intA_memWf h
theorem intS2_memWf {f : FmtS} {op : Nat → Nat → Nat → Nat} (h : s.MemWf) : (intS2 s f op).MemWf := issueEach_memWf h (fun _ _ _ h => h)
theorem intCarry_memWf {f : FmtA} {op : Nat → Nat → Nat → Nat → Nat × Bool} (h : s.MemWf) : (intCarry s f op).MemWf :=
  issueEach_memWf h (fun _ _ _ h => h)
theorem intDiv_memWf {f : FmtL} {pick : Nat × Nat → Nat} (h : s.MemWf) : (intDiv s f pick).MemWf := issueEach_memWf h (fun _ _ _ h => h)
theorem intPred_memWf {f : FmtA} {op : Bool → Bool → Bool} (h : s.MemWf) : (intPred s f op).MemWf := issueEach_memWf h (fun _ _ _ h => h)
theorem execMovi_memWf {f : FmtI} (h : s.MemWf) : OutWf (execMovi f s) := by
  unfold execMovi
  split
  · refine issueOnce_memWf h (fun _ _ _ h => ?_)
    split <;> exact h
  · exact issueEach_memWf h (fun _ _ _ h => h)
theorem fpA_memWf {f : FmtA} {halves : Nat} {res : State → Thread → Nat × Nat} (h : s.MemWf) : (fpA s f halves res).MemWf := by
  unfold fpA
  refine issueEach_memWf h (fun _ _ _ h => ?_)
  dsimp only
  split
  · split
    · exact trivial
    · exact h
  · exact h
theorem fpL_memWf {f : FmtL} {res : Nat → Nat × Nat} (h : s.MemWf) : (fpL s f res).MemWf := issueEach_memWf h (fun _ _ _ h => h)
theorem branchEach_memWf {g : Guard} {link : Option Nat} {tgt : Path → State → Thread → DWord} (h : s.MemWf) : (branchEach s g link tgt).MemWf := by
  unfold branchEach
  refine issueEach_memWf h (fun _ _ _ h => ?_)
  dsimp only
  split
  · exact trivial
  · exact h
theorem holdEach_memWf {g : Guard} {k : Path → State → Thread → Status} (h : s.MemWf) : (holdEach s g k).MemWf := issueEach_memWf h (fun _ _ _ h => h)
theorem execMask_memWf {f : FmtA} (h : s.MemWf) : OutWf (execMask f s) := by
  unfold execMask
  dsimp only
  split
  · exact issueEach_memWf h (fun _ _ _ h => h)
  · refine issueOnce_memWf h (fun _ _ _ h => ?_)
    split <;> exact h
theorem State.joinWaiting_memWf {p : Path} (h : s.MemWf) : (s.joinWaiting p).MemWf := by
  unfold State.joinWaiting
  dsimp only
  split <;> exact h
theorem issueCross_memWf {g : Guard} {f : State → Inst → List Thread → State} (h : s.MemWf)
    (hf : ∀ s i l, s.MemWf → (f s i l).MemWf) : (issueCross s g f).MemWf := by
  unfold issueCross
  split
  · exact h
  · refine ite_memWf (foldl_wf (hf _ _ _ (foldl_wf_fst h fun _ _ h => ?_)) fun _ _ h => State.advance_memWf h) (State.joinWaiting_memWf h)
    exact issueLanes_memWf h fun _ _ h => h
theorem execVote_memWf {f : FmtA} (h : s.MemWf) : OutWf (execVote f s) := by
  unfold execVote
  refine issueCross_memWf h (fun _ _ _ h => ?_)
  dsimp only
  split
  · exact foldl_wf h (fun _ _ h => h)
  · exact foldl_wf h (fun _ _ h => h)
  · exact foldl_wf h (fun _ _ h => h)
  · split <;> exact h
  · exact foldl_wf h (fun _ _ h => h)
theorem execShfl_memWf {f : FmtA} (h : s.MemWf) : OutWf (execShfl f s) := by
  unfold execShfl
  refine issueCross_memWf h (fun _ _ _ h => ?_)
  refine foldl_wf h (fun _ _ h => ?_)
  dsimp only
  (repeat' split) <;> exact h

end Sys2Proof.Machine
end

section
/-! SUPPORT. Keeping the form: flits, lanes and answers to other dies (spec/17_links.md). -/
namespace Sys2Proof.Machine
variable {s : State}

theorem State.setPort_memWf {n : Nat} {p : LinkPort} (h : s.MemWf) : (s.setPort n p).MemWf := h
theorem State.putWire_memWf {n : Nat} {fs : List Flit} (h : s.MemWf) : (s.putWire n fs).MemWf := h.of_mem (s.putWire_mem n fs)
theorem State.sendFlit_memWf {n fk : Nat} {b : List Byte} (h : s.MemWf) : (s.sendFlit n fk b).MemWf := h.of_mem (s.sendFlit_mem n fk b)
theorem State.sendNak_memWf {n : Nat} (h : s.MemWf) : (s.sendNak n).MemWf := State.sendFlit_memWf h
theorem State.closeWin_memWf {w : TxWin} (h : s.MemWf) : (s.closeWin w).MemWf := h.of_mem (s.closeWin_mem w)
theorem State.sendTx_memWf {plane dst : Nat} {tx : List Byte} (h : s.MemWf) : (s.sendTx plane dst tx).MemWf := h.of_mem (s.sendTx_mem plane dst tx)
theorem State.pump_memWf (h : s.MemWf) : s.pump.MemWf := h.of_mem s.pump_mem
theorem State.pushOut_memWf {q : OutReq} (h : s.MemWf) : (s.pushOut q).MemWf := h.of_mem (s.pushOut_mem q)
theorem State.sendDie_memWf {here dst : Nat} {tx : List Byte} (h : s.MemWf) : OptWf (s.sendDie here dst tx) := by
  unfold State.sendDie
  dsimp only
  split
  · unfold Option.map
    split
    · exact h
    · exact trivial
  · exact trivial
theorem State.reply_memWf {via : Via} {k : TxHdr} {kind : Nat} {data : List Byte} (h : s.MemWf) : (s.reply via k kind data).MemWf := by
  unfold State.reply
  dsimp only
  split
  · exact State.sendTx_memWf h
  · unfold Option.getD
    split
    · exact (State.sendDie_memWf h).some ‹_›
    · exact h
theorem State.replyErr_memWf {via : Via} {k : TxHdr} {code : Nat} (h : s.MemWf) : (s.replyErr via k code).MemWf := State.reply_memWf h
theorem State.replyData_memWf {via : Via} {k : TxHdr} : ∀ (n : Nat) {s : State} {b : List Byte} (_ : s.MemWf), (s.replyData via k n b).MemWf
  | 0, _, _, h => h
  | n + 1, _, _, h => ite_memWf (State.reply_memWf h) (State.replyData_memWf n (State.reply_memWf h))
theorem State.answerDie_memWf {id : Nat} {res : Except Nat (List Byte)} (h : s.MemWf) : (s.answerDie id res).MemWf := by
  unfold State.answerDie
  dsimp only
  split
  · exact h
  · split
    · exact State.reply_memWf h
    · exact State.replyErr_memWf h
theorem State.answerLost_memWf (h : s.MemWf) : s.answerLost.MemWf := foldl_wf h (fun _ _ h => State.answerDie_memWf h)

end Sys2Proof.Machine
end

section
/-! SUPPORT. Keeping the form: checks, accesses, loads, stores, prefetches and probes (spec/08_memory.md). -/
namespace Sys2Proof.Machine
variable {s : State}

theorem State.ensureKey_memWf {asid : Nat} {l : Leaf} (h : s.MemWf) : (s.ensureKey asid l).MemWf := h.same (State.ensureKey_same _ _ _)
theorem State.translate_memWf {core asid va : Nat} (h : s.MemWf) : (s.translate core asid va).1.MemWf := h.same (State.translate_same _ _ _ _)
theorem State.checkParts_memWf {core asid : Nat} {w : Want} {l : List (Nat × Nat)} (h : s.MemWf) : (s.checkParts core asid w l).1.MemWf :=
  h.same (State.checkParts_same _ _ _ _ _)
theorem State.check_memWf {core asid : Nat} {w : Want} {ea n : Nat} (h : s.MemWf) : (s.check core asid w ea n).1.MemWf :=
  h.same (State.check_same _ _ _ _ _ _)
theorem State.noteWrite_memWf {blk : Nat} {ps : List Piece} {bs : List Byte} (h : s.MemWf) : (s.noteWrite blk ps bs).MemWf :=
  h.of_mem (s.noteWrite_mem blk ps bs)
theorem State.putOne_memWf {eng : Bool} {core asid blk : Nat} {p : Piece} {bs : List Byte} (h : s.MemWf) :
    (s.putOne eng core asid blk p bs).MemWf := State.noteWrite_memWf (ite_memWf (State.growBuf_memWf h _ _) (State.writePiece_memWf h _ _ _ _ _))
theorem State.setCross_memWf {l : List Cross} (h : s.MemWf) : (s.setCross l).MemWf := h
theorem State.modCross_memWf {e : Cross} {f : Cross → Cross} (h : s.MemWf) : (s.modCross e f).MemWf := h
theorem State.sendCross_memWf {x : Cross × List Byte} (h : s.MemWf) : (s.sendCross x).MemWf := by
  unfold State.sendCross
  split
  · exact State.setCross_memWf ((State.sendDie_memWf h).some ‹_›)
  · exact h
theorem State.holdAcc_memWf {t : Thread} {code addr : Nat} {a : HeldAcc} (h : s.MemWf) : (s.holdAcc t code addr a).MemWf :=
  ite_memWf h (State.holdFor_memWf h)
theorem State.postpone_memWf {t : Thread} {a : HeldAcc} (h : s.MemWf) : (s.postpone t a).MemWf := h
theorem State.accessPeer_memWf {t : Thread} {a : HeldAcc} {rank rest : Nat} (h : s.MemWf) : (s.accessPeer t a rank rest).MemWf :=
  ite_memWf (State.modPend_memWf (State.pushOut_memWf h)) (State.pushOut_memWf h)
theorem State.accessSplit_memWf {t : Thread} {a : HeldAcc} {m : Nat} (h : s.MemWf) : (s.accessSplit t a m).MemWf := by
  unfold State.accessSplit
  dsimp only
  split
  · split
    · exact State.accessPeer_memWf h
    · exact State.accessPeer_memWf h
    · exact h
  · split
    · exact State.accessPeer_memWf h
    · split
      · exact State.accessPeer_memWf ((State.load_memWf h _ _ _ _ _ _).fst ‹_›)
      · exact State.modPend_memWf ((State.load_memWf h _ _ _ _ _ _).fst ‹_›)
      · exact (State.load_memWf h _ _ _ _ _ _).fst ‹_›
theorem State.accessHere_memWf {t : Thread} {a : HeldAcc} (h : s.MemWf) : (s.accessHere t a).MemWf := by
  unfold State.accessHere
  dsimp only
  split
  · exact State.modPend_memWf ((ite_memWf_fst (State.store_memWf h _ _ _ _ _ _) (State.load_memWf h _ _ _ _ _ _)).fst ‹_›)
  · exact State.modPend_memWf ((ite_memWf_fst (State.store_memWf h _ _ _ _ _ _) (State.load_memWf h _ _ _ _ _ _)).fst ‹_›)
  · exact State.holdAcc_memWf ((ite_memWf_fst (State.store_memWf h _ _ _ _ _ _) (State.load_memWf h _ _ _ _ _ _)).fst ‹_›)
  · have h1 := (ite_memWf_fst (State.store_memWf h _ _ _ _ _ _) (State.load_memWf h _ _ _ _ _ _)).fst ‹_›
    exact ite_memWf (State.postpone_memWf h1) (.mk h1)
  · exact State.modPend_memWf ((ite_memWf_fst (State.store_memWf h _ _ _ _ _ _) (State.load_memWf h _ _ _ _ _ _)).fst ‹_›)
  · have h1 := (ite_memWf_fst (State.store_memWf h _ _ _ _ _ _) (State.load_memWf h _ _ _ _ _ _)).fst ‹_›
    exact ite_memWf (State.accessPeer_memWf h1) (State.accessSplit_memWf h1)
theorem State.access_memWf {t : Thread} {a : HeldAcc} (h : s.MemWf) : (s.access t a).MemWf := ite_memWf h (State.accessHere_memWf h)
theorem State.putPart_memWf {t : Thread} {a : HeldAcc} {left : List Piece} {got : List (Nat × List Byte)} {k : Nat} (h : s.MemWf) :
    (s.putPart t a left got k).MemWf := by
  unfold State.putPart
  dsimp only
  split
  · exact h
  · split
    · exact State.modPend_memWf (State.putOne_memWf h)
    · split <;> exact State.modPend_memWf ((State.readPiece_memWf h _ _ _ _).fst ‹_›)
theorem State.accessLater_memWf {t : Thread} {a : HeldAcc} {k : Nat} (h : s.MemWf) : (s.accessLater t a k).MemWf := by
  unfold State.accessLater
  split
  · exact State.putPart_memWf h
  · exact State.accessHere_memWf h
theorem State.partsLater_memWf {t : Thread} {a : HeldAcc} {left : List Piece} {got : List (Nat × List Byte)} {k : Nat} (h : s.MemWf) :
    (s.partsLater t a left got k).MemWf := by
  unfold State.partsLater
  split
  · refine foldl_wf h (fun _ _ h => ?_)
    split
    · split
      · exact State.putPart_memWf h
      · exact h
    · exact h
  · exact State.putPart_memWf h
theorem State.readOwn_memWf {t : Thread} {p : Pending} {ea n : Nat} (h : s.MemWf) : (s.readOwn t p ea n).1.MemWf := by
  unfold State.readOwn
  dsimp only
  split
  · exact h
  · split
    · exact (State.load_memWf h _ _ _ _ _ _).fst ‹_›
    · have h1 := (State.load_memWf h _ _ _ _ _ _).fst ‹_›
      split
      · exact State.modPend_memWf (State.pushOut_memWf (State.newUid_memWf h1))
      · split
        · exact State.modPend_memWf (State.pushOut_memWf (State.newUid_memWf ((State.load_memWf h1 _ _ _ _ _ _).fst ‹_›)))
        · exact State.load_memWf h1 _ _ _ _ _ _
    · exact State.load_memWf h _ _ _ _ _ _
theorem State.writeOwn_memWf {t : Thread} {p : Pending} {ea : Nat} {bs : List Byte} (h : s.MemWf) : (s.writeOwn t p ea bs).1.MemWf := by
  unfold State.writeOwn
  extract_lets core asid blk m one
  have hone (s : State) (x : Nat) (b : List Byte) (h : s.MemWf) : (one s x b).MemWf := by
    unfold one
    split
    · exact State.pushOut_memWf (State.newUid_memWf h)
    · exact State.store_memWf h _ _ _ _ _ _
    · exact h
  clear_value one
  split
  · exact hone _ _ _ (hone _ _ _ ((State.store_memWf h _ _ _ _ _ _).fst ‹_›))
  · exact State.store_memWf h _ _ _ _ _ _
theorem issueLd_memWf {f : FmtM} {go : State → Thread → HeldAcc → State} (h : s.MemWf) (hf : ∀ s t a, s.MemWf → (go s t a).MemWf) :
    (issueLd f s go).MemWf := issueEach_memWf h fun _ _ _ h => hf _ _ _ h
theorem issueSt_memWf {f : FmtM} {go : State → Thread → HeldAcc → State} (h : s.MemWf) (hf : ∀ s t a, s.MemWf → (go s t a).MemWf) :
    (issueSt f s go).MemWf := by
  refine issueEach_memWf h fun _ _ _ h => ?_
  dsimp only
  split
  · trivial
  · exact hf _ _ _ h
theorem execLds_memWf {f : FmtM} (h : s.MemWf) : OutWf (execLds f s) := by
  unfold execLds
  refine issueEach_memWf h (fun _ _ _ h => ?_)
  dsimp only
  (repeat' split) <;> exact h
theorem execSts_memWf {f : FmtM} (h : s.MemWf) : OutWf (execSts f s) := by
  unfold execSts
  refine issueEach_memWf h (fun _ _ _ h => ?_)
  dsimp only
  (repeat' split) <;> exact h
theorem State.prefetch_memWf {core asid ea : Nat} (h : s.MemWf) : (s.prefetch core asid ea).MemWf := by
  unfold State.prefetch
  split
  · exact h
  · split
    · split
      · exact ite_memWf (State.cacheRead_memWf ((State.check_memWf h).fst ‹_›) _ _ _ _ _ _ _) h
      · exact h
    · exact h
theorem State.probe_memWf {core asid ea : Nat} (h : s.MemWf) : (s.probe core asid ea).1.MemWf := by
  unfold State.probe
  dsimp only
  split
  · exact ite_memWf_fst h h
  · exact h
  · split
    · exact (State.translate_memWf h).fst ‹_›
    · have h1 := (State.translate_memWf h).fst ‹_›
      split
      · exact h1
      · split <;> exact (State.check_memWf h1).fst ‹_›

end Sys2Proof.Machine
end

section
/-! SUPPORT. Keeping the form: fences, objects, event rings, atomics, tickets and barriers (spec/09_ordering.md, spec/10_sync.md). -/
namespace Sys2Proof.Machine
variable {s : State}

theorem State.writeBack_memWf {core asid : Nat} {sc : Line → Nat} (h : s.MemWf) : (s.writeBack core asid sc).MemWf :=
  ite_memWf h (.setMem (foldl_wf (.setMem (foldl_wf h (fun _ _ h => State.wbL1Line_memWf h _))) (fun _ _ h => State.wbSliceLine_memWf h _)))
theorem State.discardClean_memWf {core asid : Nat} {sc : Line → Nat} (h : s.MemWf) : (s.discardClean core asid sc).MemWf := ite_memWf h h
theorem State.flushCtx_memWf {core asid : Nat} (h : s.MemWf) : (s.flushCtx core asid).MemWf := State.discardClean_memWf (State.writeBack_memWf h)
theorem State.writeBackAll_memWf {asid : Nat} {k : Line → Bool} (h : s.MemWf) : (s.writeBackAll asid k).MemWf :=
  .setMem (foldl_wf (.setMem (foldl_wf h (fun _ _ h => State.wbL1Line_memWf h _))) (fun _ _ h => State.wbSliceLine_memWf h _))
theorem State.discardAll_memWf {asid : Nat} {k : Line → Bool} (h : s.MemWf) : (s.discardAll asid k).MemWf := h
theorem State.failLost_memWf {t : Thread} {uid : Nat} (h : s.MemWf) : (s.failLost t uid).MemWf := h
theorem State.fenceEng_memWf {t : Thread} (h : s.MemWf) : (s.fenceEng t).MemWf := by
  unfold State.fenceEng
  refine State.writeBack_memWf ?_
  split <;> exact h
theorem State.doFence_memWf {t : Thread} {eng rel acq : Bool} {sc : Nat} (h : s.MemWf) : (s.doFence t eng rel acq sc).MemWf :=
  ite_memWf (State.fenceEng_memWf h) (ite_memWf (State.discardClean_memWf (ite_memWf (State.writeBack_memWf h) h)) (ite_memWf (State.writeBack_memWf
    h) h))
theorem State.findObj_memWf {core asid : Nat} {w : Want} {obj : Nat} (h : s.MemWf) : (s.findObj core asid w obj).1.MemWf := by
  unfold State.findObj
  split
  · exact (State.check_memWf h).fst ‹_›
  · have h1 := (State.check_memWf h).fst ‹_›
    split
    · exact h1
    · exact ite_memWf_fst h1 (ite_memWf_fst h1 h1)
  · exact (State.check_memWf h).fst ‹_›
theorem State.pendAcc_memWf {t : Thread} {p : Pending} {kind obj sc : Nat} {x6 : AccRes} (h : s.MemWf) : (s.pendAcc t p kind obj sc x6).MemWf := by
  unfold State.pendAcc
  dsimp only
  split
  · exact h
  · exact h
  · exact h
  · exact h
  · exact State.holdAcc_memWf h
  · exact State.modPend_memWf (State.pushOut_memWf h)
theorem State.doAcq_memWf {t : Thread} {p : Pending} {obj sc : Nat} (h : s.MemWf) : (s.doAcq t p obj sc).MemWf := by
  unfold State.doAcq
  dsimp only
  split
  · exact State.pendAcc_memWf ((State.findObj_memWf h).fst ‹_›)
  · have h1 := (State.findObj_memWf h).fst ‹_›
    split
    · exact State.pendAcc_memWf ((State.readPiece_memWf h1 _ _ _ _).fst ‹_›)
    · exact State.modPend_memWf (State.discardClean_memWf ((State.readPiece_memWf h1 _ _ _ _).fst ‹_›))
theorem State.doRel_memWf {t : Thread} {p : Pending} {obj sc : Nat} {sent : Bool} (h : s.MemWf) : (s.doRel t p obj sc sent).MemWf := by
  unfold State.doRel
  dsimp only
  split
  · have h1 := (State.findObj_memWf h).fst ‹_›
    exact ite_memWf (State.failLost_memWf h1) (ite_memWf (State.writeBack_memWf h1) (State.pendAcc_memWf (State.writeBack_memWf h1)))
  · exact State.pendAcc_memWf ((State.findObj_memWf h).fst ‹_›)
  · have h1 := (State.findObj_memWf h).fst ‹_›
    split
    · exact State.failLost_memWf h1
    · split
      · exact State.pendAcc_memWf ((State.readPiece_memWf h1 _ _ _ _).fst ‹_›)
      · have h2 := (State.readPiece_memWf h1 _ _ _ _).fst ‹_›
        exact ite_memWf (ite_memWf h2 (State.writeBack_memWf h2)) (State.modPend_memWf (State.writePiece_memWf (ite_memWf h2 (State.writeBack_memWf
            h2)) _ _ _ _ _))
theorem execRel_memWf {f : FmtL} (h : s.MemWf) : OutWf (execRel f s) := by
  unfold execRel
  refine issueEach_memWf h (fun _ _ _ h => ?_)
  dsimp only
  split
  · exact trivial
  · exact h
theorem State.bind_memWf {asid base len obj sc : Nat} (h : s.MemWf) : (s.bind asid base len obj sc).1.MemWf := by
  unfold State.bind
  dsimp only
  (repeat' split) <;> exact h
theorem execBind_memWf {f : FmtL} (h : s.MemWf) : OutWf (execBind f s) := by
  unfold execBind
  refine issueEach_memWf h (fun _ _ _ h => ?_)
  dsimp only
  split
  · exact trivial
  · exact State.pendL_memWf (State.bind_memWf h)
theorem execUnbind_memWf {f : FmtL} (h : s.MemWf) : OutWf (execUnbind f s) := by
  unfold execUnbind
  refine issueEach_memWf h (fun _ _ _ h => ?_)
  dsimp only
  split
  · exact trivial
  · exact h
theorem State.setVf_memWf {v : Vf} (h : s.MemWf) : (s.setVf v).MemWf := h
theorem State.writeEvent_memWf {v : Vf} {rec : List Byte} (h : s.MemWf) : (s.writeEvent v rec).MemWf := by
  unfold State.writeEvent
  dsimp only
  split
  · exact State.setVf_memWf (State.hostWrite_memWf h _ _)
  · split
    · exact State.setVf_memWf ((State.store_memWf h _ _ _ _ _ _).fst ‹_›)
    · exact State.setVf_memWf (State.pushOut_memWf (State.newUid_memWf ((State.store_memWf h _ _ _ _ _ _).fst ‹_›)))
    · exact .mk ((State.store_memWf h _ _ _ _ _ _).fst ‹_›)
    · exact State.setVf_memWf ((State.store_memWf h _ _ _ _ _ _).fst ‹_›)
theorem State.postRecord_memWf {asid : Nat} {rec : List Byte} (h : s.MemWf) : (s.postRecord asid rec).MemWf := by
  unfold State.postRecord
  dsimp only
  split
  · exact h
  · exact ite_memWf h (ite_memWf (State.writeEvent_memWf h) h)
theorem State.hwEvent_memWf {asid type payload detail : Nat} (h : s.MemWf) : (s.hwEvent asid type payload detail).MemWf := State.postRecord_memWf h
theorem State.post_memWf {v : Option Vf} {rec : List Byte} (h : s.MemWf) : (s.post v rec).1.MemWf := by
  unfold State.post
  split
  · exact h
  · exact ite_memWf_fst h (ite_memWf_fst h (ite_memWf_fst h (State.writeEvent_memWf h)))
theorem State.pumpPx_memWf {vf : Nat} (h : s.MemWf) : (s.pumpPx vf).MemWf := by
  unfold State.pumpPx
  refine foldl_wf h (fun _ _ h => ?_)
  dsimp only
  split
  · exact h
  · exact ite_memWf h (.mk (State.setVf_memWf (State.hostWrite_memWf (State.hostWrite_memWf h _ _) _ _)))
theorem State.setReq_memWf {r : AtomReq} (h : s.MemWf) : (s.setReq r).MemWf := h
theorem issueAtom_memWf {f : FmtL} {sp red : Bool} (h : s.MemWf) : (issueAtom s f sp red).MemWf := by
  unfold issueAtom
  dsimp only
  split
  · refine .mk ?_
    refine issueEach_memWf h (fun _ _ _ h => ?_)
    split
    · exact trivial
    · exact .mk (ite_memWf h h)
  · refine .mk ?_
    refine issueEach_memWf h (fun _ _ _ h => ?_)
    split
    · exact trivial
    · exact .mk (ite_memWf h h)
theorem State.acqAfter_memWf {fg lane uid sc : Nat} (h : s.MemWf) : (s.acqAfter fg lane uid sc).MemWf := State.discardClean_memWf h
theorem State.relBefore_memWf {fg lane uid sc : Nat} (h : s.MemWf) : (s.relBefore fg lane uid sc).MemWf := State.writeBack_memWf h
theorem State.atomDone_memWf {r : AtomReq} {l : AtomLane} {res : Except Nat Nat} (h : s.MemWf) : (s.atomDone r l res).MemWf := by
  unfold State.atomDone
  dsimp only
  split
  · exact ite_memWf (ite_memWf (State.acqAfter_memWf h) h) (State.modPend_memWf (ite_memWf (State.acqAfter_memWf h) h))
  · exact ite_memWf (State.hwEvent_memWf h) h
theorem State.sendHost_memWf {r : AtomReq} {l : AtomLane} {p : Piece} (h : s.MemWf) : (s.sendHost r l p).MemWf := by
  unfold State.sendHost
  dsimp only
  split
  · exact State.atomDone_memWf h
  · split
    · exact h
    · split
      · exact State.atomDone_memWf h
      · split
        · exact State.atomDone_memWf h
        · exact ite_memWf (State.pumpPx_memWf h) (State.atomDone_memWf h)
theorem State.checkLane_memWf {r : AtomReq} {l : AtomLane} (h : s.MemWf) : (s.checkLane r l).1.MemWf := by
  unfold State.checkLane
  dsimp only
  split
  · (repeat' split) <;> exact h
  · split
    · have h1 := (State.check_memWf h).fst ‹_›
      split
      · exact State.holdAcc_memWf h1
      · exact State.modPend_memWf h1
    · exact (State.check_memWf h).fst ‹_›
    · have h1 := (State.check_memWf h).fst ‹_›
      split
      · exact State.modPend_memWf h1
      · split
        · exact State.modPend_memWf h1
        · exact h1
theorem State.sendLane_memWf {r : AtomReq} {l : AtomLane} (h : s.MemWf) : (s.sendLane r l).1.MemWf := by
  unfold State.sendLane
  dsimp only
  split
  · exact h
  · split
    · have h1 := (State.check_memWf h).fst ‹_›
      split
      · exact State.pushOut_memWf (State.newUid_memWf h1)
      · split
        · exact State.sendHost_memWf h1
        · split
          · exact State.sendCross_memWf h1
          · exact h1
    · exact (State.check_memWf h).fst ‹_›
theorem State.performAtom_memWf {r : AtomReq} {l : AtomLane} (h : s.MemWf) : (s.performAtom r l).1.MemWf := by
  unfold State.performAtom
  dsimp only
  split
  · split <;> exact h
  · split
    · exact (State.check_memWf h).fst ‹_›
    · exact (State.check_memWf h).fst ‹_›
    · have h1 := (State.check_memWf h).fst ‹_›
      split
      · exact (State.readPiece_memWf h1 _ _ _ _).fst ‹_›
      · exact State.writePiece_memWf ((State.readPiece_memWf h1 _ _ _ _).fst ‹_›) _ _ _ _ _
theorem State.redDone_memWf {r : AtomReq} {l : AtomLane} (h : s.MemWf) : (s.redDone r l).MemWf := ite_memWf h h
theorem laneStep_memWf {f : State → AtomLane → State × LaneFate} {done : State → AtomLane → State} {ls : List AtomLane} (h : s.MemWf)
    (hf : ∀ s l, s.MemWf → (f s l).1.MemWf) (hd : ∀ s l, s.MemWf → (done s l).MemWf) : (laneStep f done s ls).1.MemWf := by
  unfold laneStep
  refine foldl_wf_fst h fun x l h => ?_
  have made := hf x.1 l h
  dsimp only
  split
  · exact made
  · exact hd _ _ made
  · exact made
theorem State.releaseReq_memWf {r : AtomReq} (h : s.MemWf) : (s.releaseReq r).1.MemWf := by
  unfold State.releaseReq
  split
  · exact h
  · refine laneStep_memWf h (fun _ _ h => ?_) (fun _ _ h => h)
    split
    · exact ite_memWf_fst h (State.relBefore_memWf h)
    · exact h
theorem State.sendReq_memWf {r : AtomReq} (h : s.MemWf) : (s.sendReq r).1.MemWf :=
  ite_memWf_fst (laneStep_memWf h (fun _ _ h => State.checkLane_memWf h) (fun _ _ h => h)) (ite_memWf_fst (State.releaseReq_memWf (laneStep_memWf h
    (fun _ _ h => State.checkLane_memWf h) (fun _ _ h => h))) (foldl_wf (laneStep_memWf (State.releaseReq_memWf (laneStep_memWf h (fun _ _ h =>
    State.checkLane_memWf h) (fun _ _ h => h))) (fun _ _ h => State.sendLane_memWf h) (fun _ _ h => State.redDone_memWf h)) (fun _ _ h =>
    State.redDone_memWf h)))
theorem execAtomicRequestServe_memWf (h : s.MemWf) : OutWf (execAtomicRequestServe s) := by
  unfold execAtomicRequestServe
  dsimp only
  split
  · exact h
  · split
    · exact h
    · split
      · dsimp only
        split
        · exact h
        · exact State.setReq_memWf (foldl_wf h (fun _ _ h => State.atomDone_memWf (State.performAtom_memWf h)))
      · split
        · exact State.setReq_memWf (State.sendReq_memWf h)
        · exact State.setReq_memWf (foldl_wf (State.sendReq_memWf h) (fun _ _ h => State.atomDone_memWf (State.performAtom_memWf h)))
theorem State.lostCross_memWf {e : Cross} (h : s.MemWf) : (s.lostCross e).MemWf :=
  ite_memWf h (ite_memWf (State.hwEvent_memWf (foldl_wf h (fun _ _ h => h))) (State.modPend_memWf (foldl_wf h (fun _ _ h => h))))
theorem State.answerCross_memWf (h : s.MemWf) : s.answerCross.MemWf := by
  unfold State.answerCross
  refine foldl_wf h (fun _ _ h => ?_)
  dsimp only
  split
  · exact h
  · split
    · exact h
    · split
      · exact State.modCross_memWf ((State.sendDie_memWf h).some ‹_›)
      · exact State.lostCross_memWf h
theorem State.setNet_memWf {k : NetKey} {n : Net} (h : s.MemWf) : (s.setNet k n).MemWf := h
theorem State.findNet_memWf {core asid ea : Nat} (h : s.MemWf) : (s.findNet core asid ea).1.MemWf := by
  unfold State.findNet
  dsimp only
  split
  · exact (State.check_memWf h).fst ‹_›
  · exact (State.check_memWf h).fst ‹_›
  · have h1 := (State.check_memWf h).fst ‹_›
    exact ite_memWf_fst h1 (ite_memWf_fst h1 (ite_memWf_fst h1 h1))
theorem State.pendVal_memWf {t : Thread} {uid : Nat} {ws : List Word} (h : s.MemWf) : (s.pendVal t uid ws).MemWf := h
theorem State.pendStop_memWf {t : Thread} {uid ea : Nat} {e : AccRes} (h : s.MemWf) : (s.pendStop t uid ea e).MemWf := by
  unfold State.pendStop
  split
  · exact h
  · exact State.holdAcc_memWf h
  · exact h
theorem State.doTake_memWf {t : Thread} {p : Pending} {ea ord sc : Nat} (h : s.MemWf) : (s.doTake t p ea ord sc).MemWf := by
  unfold State.doTake
  dsimp only
  split
  · exact State.pendStop_memWf ((State.findNet_memWf h).fst ‹_›)
  · have h1 := (State.findNet_memWf h).fst ‹_›
    split
    · exact State.failLost_memWf h1
    · split
      · split
        · exact State.relBefore_memWf h1
        · split
          · exact State.pendStop_memWf (State.relBefore_memWf h1)
          · exact State.modPend_memWf (State.setNet_memWf (State.newUid_memWf (State.relBefore_memWf h1)))
      · split
        · exact h1
        · split
          · exact State.pendStop_memWf h1
          · exact State.modPend_memWf (State.setNet_memWf (State.newUid_memWf h1))
theorem execTake_memWf {f : FmtL} (h : s.MemWf) : OutWf (execTake f s) := by
  unfold execTake
  refine issueEach_memWf h (fun _ _ _ h => ?_)
  dsimp only
  split
  · exact trivial
  · exact h
theorem State.netEnd_memWf {fg lane uid : Nat} {ws : List Word} (h : s.MemWf) : (s.netEnd fg lane uid ws).MemWf :=
  ite_memWf (State.answerDie_memWf h) h
theorem State.netQuiet_memWf {k : NetKey} {n : Net} (h : s.MemWf) : (s.netQuiet k n).MemWf :=
  ite_memWf (foldl_wf h (fun _ _ h => State.netEnd_memWf h)) h
theorem execTicketTokenExit_memWf (h : s.MemWf) : OutWf (execTicketTokenExit s) := by
  unfold execTicketTokenExit
  dsimp only
  split
  · exact h
  · split
    · exact h
    · split
      · exact h
      · split
        · split
          · exact h
          · exact State.netQuiet_memWf (State.netEnd_memWf (ite_memWf (State.acqAfter_memWf h) h))
        · split
          · exact h
          · exact State.netQuiet_memWf (State.netEnd_memWf (ite_memWf (State.acqAfter_memWf h) h))
theorem State.netCmd_memWf {k : NetKey} {kind b asid : Nat} {who : Nat × Nat × Nat} (h : s.MemWf) : (s.netCmd k kind b asid who).1.MemWf := by
  unfold State.netCmd
  dsimp only
  split
  · exact ite_memWf_fst h (ite_memWf_fst h h)
  · split
    · exact ite_memWf_fst h h
    · exact h
    · exact ite_memWf_fst h (ite_memWf_fst h (ite_memWf_fst (State.loseNet_memWf h) h))
theorem State.doTk_memWf {t : Thread} {p : Pending} {kind ea b : Nat} (h : s.MemWf) : (s.doTk t p kind ea b).MemWf := by
  unfold State.doTk
  dsimp only
  split
  · exact State.pendStop_memWf ((State.findNet_memWf h).fst ‹_›)
  · have h1 := (State.findNet_memWf h).fst ‹_›
    split
    · exact State.pendStop_memWf h1
    · split
      · exact h1
      · split
        · exact State.modPend_memWf ((State.netCmd_memWf h1).fst ‹_›)
        · have h2 := (State.netCmd_memWf h1).fst ‹_›
          split
          · exact State.pendVal_memWf h2
          · split
            · split
              · exact State.pendVal_memWf ((State.writeOwn_memWf h2).fst ‹_›)
              · exact State.pendStop_memWf ((State.writeOwn_memWf h2).fst ‹_›)
            · split
              · have h3 := (State.readOwn_memWf h2).fst ‹_›
                split
                · exact State.pendVal_memWf (State.setNet_memWf h3)
                · exact State.pendVal_memWf h3
              · exact State.pendStop_memWf ((State.readOwn_memWf h2).fst ‹_›)
theorem issueTk_memWf {f : FmtL} {kind : Nat} {b : State → Thread → Nat} (h : s.MemWf) : (issueTk s f kind b).MemWf := by
  unfold issueTk
  refine issueEach_memWf h (fun _ _ _ h => ?_)
  dsimp only
  split
  · exact trivial
  · exact h
theorem State.crossing_memWf {t : Thread} {p : Pending} (h : s.MemWf) : (s.crossing t p).1.MemWf := by
  unfold State.crossing
  dsimp only
  split
  · exact h
  · split
    · exact h
    · split
      · exact h
      · split
        · refine foldl_wf_fst h (fun _ _ h => ?_)
          split
          · exact State.relBefore_memWf h
          · exact h
        · refine foldl_wf ?_ (fun _ _ h => State.sendCross_memWf h)
          refine foldl_wf_fst h (fun _ _ h => ?_)
          split
          · exact State.relBefore_memWf h
          · exact h
theorem State.performTodo_memWf {t : Thread} {p : Pending} {k : Nat} (h : s.MemWf) : (s.performTodo t p k).MemWf := by
  unfold State.performTodo
  split
  · exact h
  · extract_lets c s1 sent
    have h1 : s1.MemWf := State.crossing_memWf h
    clear_value s1 c
    split
    · exact h1
    · split
      · exact h1
      · exact ite_memWf (ite_memWf h1 (ite_memWf (State.failLost_memWf h1) (ite_memWf (State.doFence_memWf h1)
          (State.modPend_memWf (State.doFence_memWf h1))))) h1
      · exact State.doAcq_memWf h1
      · exact ite_memWf (State.doRel_memWf h1) h1
      · exact State.doTk_memWf h1
      · exact ite_memWf (State.doTake_memWf h1) h1
      · exact State.accessLater_memWf h1
      · exact State.partsLater_memWf h1
      · exact ite_memWf h1 (State.modPend_memWf h1)
      all_goals exact h1
theorem State.wakeBar_memWf {blk n : Nat} {done : Bool} {phase sc : Nat} (h : s.MemWf) : (s.wakeBar blk n done phase sc).MemWf := by
  unfold State.wakeBar
  dsimp only
  split
  · split
    · exact State.discardClean_memWf h
    · exact h
  · exact h
theorem State.changeBar_memWf {blk n sc : Nat} {f : Bar → Bar} (h : s.MemWf) : (s.changeBar blk n sc f).MemWf := by
  unfold State.changeBar
  dsimp only
  split
  · exact h
  · exact ite_memWf (State.wakeBar_memWf h) h
theorem State.overflow_memWf {fg lane n : Nat} {iaddr : DWord} (h : s.MemWf) : (s.overflow fg lane n iaddr).MemWf := by
  unfold State.overflow
  dsimp only
  split
  · exact h
  · split
    · exact h
    · exact h
    · exact h
    · exact h
    · exact State.takeTrap_memWf h
theorem State.failBar_memWf {blk n err : Nat} (h : s.MemWf) : (s.failBar blk n err).MemWf := by
  unfold State.failBar
  split <;> exact h
theorem State.applyArrival_memWf {a : Arrival} (h : s.MemWf) : (s.applyArrival a).MemWf := by
  unfold State.applyArrival
  dsimp only
  split
  · exact ite_memWf (State.changeBar_memWf h) (ite_memWf h (State.failBar_memWf h))
  · exact ite_memWf (ite_memWf (State.changeBar_memWf h) (ite_memWf h (State.failBar_memWf h))) (ite_memWf (State.changeBar_memWf (ite_memWf (foldl_wf
        (ite_memWf (State.changeBar_memWf h) (ite_memWf h (State.failBar_memWf h))) (fun _ _ h => h)) (ite_memWf (State.changeBar_memWf h) (ite_memWf
        h (State.failBar_memWf h))))) (State.changeBar_memWf (foldl_wf (ite_memWf (State.changeBar_memWf h) (ite_memWf h (State.failBar_memWf h)))
        (fun _ _ h => State.overflow_memWf h))))
theorem execBarrierArrivalCount_memWf (h : s.MemWf) : OutWf (execBarrierArrivalCount s) := by
  unfold execBarrierArrivalCount
  dsimp only
  split
  · exact h
  · split
    · exact h
    · exact State.applyArrival_memWf h
theorem State.closeGather_memWf {fg : Nat} (h : s.MemWf) : (s.closeGather fg).MemWf := .mk (foldl_wf h (fun _ _ h => h))
theorem execBarinit_memWf {f : FmtA} (h : s.MemWf) : OutWf (execBarinit f s) := by
  unfold execBarinit
  refine issueOnce_memWf h (fun _ _ _ h => ?_)
  dsimp only
  split
  · exact h
  · split
    · exact trivial
    · exact State.changeBar_memWf h
theorem State.arriveBy_memWf {p : Path} {t : Thread} {f : FmtA} {hold : Bool} (h : s.MemWf) : (s.arriveBy p t f hold).MemWf :=
  ite_memWf (State.closeGather_memWf h) h
theorem execBarwait_memWf {f : FmtA} (h : s.MemWf) : OutWf (execBarwait f s) := by
  unfold execBarwait
  refine issueEach_memWf h (fun _ _ _ h => ?_)
  dsimp only
  split
  · exact h
  · exact State.arriveBy_memWf h
theorem execBartest_memWf {f : FmtA} (h : s.MemWf) : OutWf (execBartest f s) := by
  unfold execBartest
  refine issueEach_memWf h (fun _ _ _ h => ?_)
  dsimp only
  split
  · exact h
  · exact ite_memWf h h
theorem execArriveClu_memWf {f : FmtA} (h : s.MemWf) : OutWf (execArriveClu f s) := by
  unfold execArriveClu
  refine issueEach_memWf h (fun _ _ _ h => ?_)
  dsimp only
  split
  · exact trivial
  · split
    · split
      · exact h
      · exact trivial
    · exact h
theorem execArriveDom_memWf {f : FmtA} (h : s.MemWf) : OutWf (execArriveDom f s) := by
  unfold execArriveDom
  refine issueEach_memWf h (fun _ _ _ h => ?_)
  dsimp only
  split
  · exact trivial
  · split
    · exact trivial
    · split
      · exact trivial
      · split
        · exact trivial
        · exact h
theorem State.remoteAt_memWf {b : Block} {bar sc : Nat} (h : s.MemWf) : (s.remoteAt b bar sc).MemWf := ite_memWf h h

end Sys2Proof.Machine
end

section
/-! SUPPORT. Keeping the form: the engines, copies, tensors and matrix commands (spec/12_copy.md, spec/13_tensor.md). -/
namespace Sys2Proof.Machine
variable {s : State}

theorem State.discharge_memWf {id : Nat} {prov : List Nat} (h : s.MemWf) : (s.discharge id prov).MemWf := h
theorem State.setJob_memWf {j : Job} (h : s.MemWf) : (s.setJob j).MemWf := h
theorem State.setCmd_memWf {c : Cmd} (h : s.MemWf) : (s.setCmd c).MemWf := h
theorem State.setSlot_memWf {x : Slot} (h : s.MemWf) : (s.setSlot x).MemWf := h
theorem State.setBank_memWf {x : Bank} (h : s.MemWf) : (s.setBank x).MemWf := h
theorem State.releaseUnits_memWf (h : s.MemWf) : s.releaseUnits.MemWf := h
theorem State.touch_memWf (h : s.MemWf) : s.touch.MemWf := h
theorem State.faultOf_memWf {blk : Nat} (h : s.MemWf) : (s.faultOf blk).MemWf := by
  unfold State.faultOf
  dsimp only
  split <;> exact h
theorem State.countOn_memWf {blk bar bytes err : Nat} {arrive : Bool} (h : s.MemWf) : (s.countOn blk bar bytes err arrive).MemWf :=
  ite_memWf (State.faultOf_memWf (ite_memWf h (State.applyArrival_memWf h))) (ite_memWf h (State.applyArrival_memWf h))
theorem State.engCheck_memWf {core asid blk : Nat} {w : Want} {segs : List (Nat × Nat)} (h : s.MemWf) :
    (s.engCheck core asid blk w segs).1.MemWf := by
  unfold State.engCheck
  split
  · exact (State.checkParts_memWf h).fst ‹_›
  · have h1 := (State.checkParts_memWf h).fst ‹_›
    split
    · exact h1
    · split
      · exact h1
      · split
        · exact h1
        · exact ite_memWf_fst h1 h1
theorem State.engRead_memWf {core asid blk : Nat} {inbox : List (Nat × List Byte)} {ps : List Piece} (h : s.MemWf) :
    (s.engRead core asid blk inbox ps).1.MemWf := by
  unfold State.engRead
  (repeat' split) <;> exact (State.readPieces_memWf h _ _ _ _).fst ‹_›
theorem State.askLines_memWf {asid id : Nat} {ls : List (Nat × Nat)} (h : s.MemWf) : (s.askLines asid id ls).1.MemWf :=
  foldl_wf_fst h (fun _ _ h => State.pushOut_memWf h)
theorem State.ask_memWf {asid fg lane : Nat} {iaddr : DWord} {l : List Asked} {ls : List (Nat × Nat)} (h : s.MemWf) :
    (s.ask asid fg lane iaddr l ls).1.MemWf := foldl_wf_fst h (fun _ _ h => ite_memWf_fst h (State.pushOut_memWf h))
theorem State.dropL1_memWf {core asid pa n : Nat} (h : s.MemWf) : (s.dropL1 core asid pa n).MemWf := h
theorem State.jobWrite_memWf {asid : Nat} {j : Job} {rank ea : Nat} {bs : List Byte} (h : s.MemWf) : (s.jobWrite asid j rank ea bs).MemWf :=
  State.pushOut_memWf h
theorem State.engWrite_memWf {core asid : Nat} {j : Job} {ps : List Piece} {bs : List Byte} (h : s.MemWf) : (s.engWrite core asid j ps bs).MemWf := by
  unfold State.engWrite
  refine foldl_wf_fst h (fun _ _ h => ?_)
  dsimp only
  split
  · exact State.jobWrite_memWf h
  · exact ite_memWf (State.dropL1_memWf (State.putOne_memWf h)) (State.putOne_memWf h)
theorem State.holdWork_memWf {core asid code addr what id : Nat} (h : s.MemWf) : (s.holdWork core asid code addr what id).MemWf :=
  State.holdFor_memWf h
theorem State.jobTag_memWf {j : Job} {ok : Bool} (h : s.MemWf) : (s.jobTag j ok).MemWf := by
  unfold State.jobTag
  dsimp only
  split
  · split
    · exact ite_memWf h h
    · exact h
  · exact h
theorem State.endJob_memWf {j : Job} {err : Nat} (h : s.MemWf) : (s.endJob j err).MemWf :=
  ite_memWf (State.touch_memWf (State.releaseUnits_memWf (State.countOn_memWf (.mk (State.discharge_memWf (State.jobTag_memWf h))))))
    (State.touch_memWf (State.setJob_memWf (State.discharge_memWf (State.jobTag_memWf h))))
theorem State.endCmd_memWf {c : Cmd} {err : Nat} (h : s.MemWf) : (s.endCmd c err).MemWf :=
  ite_memWf (State.touch_memWf (State.releaseUnits_memWf (State.countOn_memWf h))) h
theorem State.countBytes_memWf {blk bar n : Nat} {prov : List Nat} (h : s.MemWf) : (s.countBytes blk bar n prov).MemWf :=
  ite_memWf (State.countOn_memWf h) h
theorem State.addJob_memWf {blk bar : Nat} {kind : JobKind} {rd wr : List Foot} {bytes : Nat} (h : s.MemWf) :
    (s.addJob blk bar kind rd wr bytes).MemWf := ite_memWf (State.endJob_memWf h) h
theorem issueCopy_memWf {f : FmtL} {perPath : Bool} {bad : State → Thread → Bool} {go : Path → State → List Thread → State} (h : s.MemWf)
    (hf : ∀ p s l, s.MemWf → (go p s l).MemWf) : (issueCopy s f perPath bad go).MemWf := by
  unfold issueCopy
  dsimp only
  split
  · exact h
  · refine ite_memWf (issueEach_memWf h fun _ _ _ h => h) (ite_memWf (issueEach_memWf h fun _ _ _ _ => trivial) (ite_memWf ?_ h))
    refine issueEach_memWf (ite_memWf (ite_memWf h (hf _ _ _ h)) (foldl_wf h fun _ _ h => hf _ _ _ h)) fun _ _ _ h => ?_
    split
    · trivial
    · exact h
theorem execCpb_memWf {f : FmtL} (h : s.MemWf) : OutWf (execCpb f s) := by
  unfold execCpb
  refine issueCopy_memWf h (fun _ _ _ h => ?_)
  dsimp only
  split
  · exact h
  · exact State.addJob_memWf h
theorem execCpt_memWf {f : FmtL} (h : s.MemWf) : OutWf (execCpt f s) := by
  unfold execCpt
  refine issueCopy_memWf h (fun _ _ _ h => ?_)
  dsimp only
  split
  · exact h
  · exact State.addJob_memWf h
theorem execCpa_memWf {f : FmtL} (h : s.MemWf) : OutWf (execCpa f s) := by
  unfold execCpa
  refine issueCopy_memWf h (fun _ _ _ h => ?_)
  dsimp only
  split
  · exact h
  · exact State.addJob_memWf h
theorem State.cancelJobs_memWf {js : List Job} (h : s.MemWf) : (s.cancelJobs js).MemWf := by
  unfold State.cancelJobs
  refine foldl_wf h (fun _ _ h => ?_)
  split
  · exact ite_memWf h (State.endJob_memWf h)
  · exact h
theorem execCpcan_memWf {f : FmtL} (h : s.MemWf) : OutWf (execCpcan f s) := by
  unfold execCpcan
  dsimp only
  split
  · exact h
  · exact ite_memWf (issueEach_memWf h (fun _ _ _ h => h)) (ite_memWf (issueEach_memWf h (fun _ _ _ h => trivial)) (issueEach_memWf
        (State.cancelJobs_memWf h) (fun _ _ _ h => h)))
theorem State.chunkRead_memWf {core asid : Nat} {j : Job} {segs : List (Nat × Nat)} (h : s.MemWf) : (s.chunkRead core asid j segs).1.MemWf := by
  unfold State.chunkRead
  dsimp only
  split
  · exact (State.engCheck_memWf h).fst ‹_›
  · have h1 := (State.engCheck_memWf h).fst ‹_›
    split
    · exact (State.engRead_memWf h1).fst ‹_›
    · have h2 := (State.engRead_memWf h1).fst ‹_›
      split
      · exact h2
      · exact State.setJob_memWf (State.askLines_memWf h2)
    · exact (State.engRead_memWf h1).fst ‹_›
theorem State.chunkWrite_memWf {core asid : Nat} {j : Job} {segs : List (Nat × Nat)} {bs : List Byte} (h : s.MemWf) :
    (s.chunkWrite core asid j segs bs).1.MemWf := by
  unfold State.chunkWrite
  dsimp only
  split
  · exact (State.engCheck_memWf h).fst ‹_›
  · have h1 := (State.engCheck_memWf h).fst ‹_›
    exact ite_memWf_fst (State.engWrite_memWf h1) (State.setJob_memWf h1)
theorem State.scratchPut_memWf {b : Block} {off : Nat} {bs : List Byte} (h : s.MemWf) : (s.scratchPut b off bs).MemWf := h
theorem State.chunkCpb_memWf {core asid : Nat} {j : Job} {blk : Block} {dstS srcS : Bool} {a b len : Nat} (h : s.MemWf) :
    (s.chunkCpb core asid j blk dstS srcS a b len).1.MemWf := by
  unfold State.chunkCpb
  dsimp only
  split
  · exact (ite_memWf_fst h (State.chunkRead_memWf h)).fst ‹_›
  · have h1 := (ite_memWf_fst h (State.chunkRead_memWf h)).fst ‹_›
    split
    · exact ite_memWf_fst (State.scratchPut_memWf h1) h1
    · split <;> exact (State.chunkWrite_memWf h1).fst ‹_›
theorem State.chunkCpt_memWf {core asid : Nat} {j : Job} {blk : Block} {fn handle row0 col0 i2 i3 c : Nat} (h : s.MemWf) :
    (s.chunkCpt core asid j blk fn handle row0 col0 i2 i3 c).1.MemWf := by
  unfold State.chunkCpt
  extract_lets lo last
  split
  · exact h
  · rename_i r base _
    extract_lets plan
    suffices planned : plan.1.MemWf by
      clear_value plan
      refine ite_memWf_fst h (ite_memWf_fst h ?_)
      split
      · exact planned
      · rename_i x segs
        have hx : x.MemWf := planned
        extract_lets gl
        refine ite_memWf_fst ?_ ?_
        · split <;> exact (State.chunkWrite_memWf hx).fst ‹_›
        · split
          · exact (State.chunkRead_memWf hx).fst ‹_›
          · rename_i y bs read
            have hy : y.MemWf := (State.chunkRead_memWf hx).fst read
            extract_lets t
            refine ite_memWf_fst (State.scratchPut_memWf hy) ?_
            split
            · exact State.setSlot_memWf hy
            · exact hy
    refine ite_memWf_fst h ?_
    split
    · exact h
    · refine ite_memWf_fst h ?_
      split <;> exact (State.chunkRead_memWf h).fst ‹_›
theorem State.countJob_memWf {asid n : Nat} (h : s.MemWf) : (s.countJob asid n).MemWf := ite_memWf h h
theorem State.laneCopy_memWf {core asid : Nat} {j : Job} {st : Bool} {off ea : Nat} (h : s.MemWf) : (s.laneCopy core asid j st off ea).1.MemWf := by
  unfold State.laneCopy
  split
  · exact h
  · split
    · split
      · exact h
      · split <;> exact (State.chunkWrite_memWf h).fst ‹_›
    · split
      · exact (State.chunkRead_memWf h).fst ‹_›
      · have h1 := (State.chunkRead_memWf h).fst ‹_›
        exact ite_memWf_fst (State.scratchPut_memWf h1) h1
theorem State.countLane_memWf {j : Job} {code : Nat} (h : s.MemWf) : (s.countLane j code).MemWf :=
  ite_memWf (State.countOn_memWf h) (State.countOn_memWf h)
theorem State.chunkCpl_memWf {core asid : Nat} {j : Job} {st : Bool} {ls : List (Nat × Nat × Nat)} (h : s.MemWf) :
    (s.chunkCpl core asid j st ls).1.MemWf := by
  unfold State.chunkCpl
  refine State.setJob_memWf ?_
  refine foldl_wf_fst h (fun _ _ h => ?_)
  split
  · exact State.countLane_memWf (State.countJob_memWf ((State.laneCopy_memWf h).fst ‹_›))
  · exact State.countLane_memWf ((State.laneCopy_memWf h).fst ‹_›)
  · exact (State.laneCopy_memWf h).fst ‹_›
  · exact (State.laneCopy_memWf h).fst ‹_›
theorem State.chunkCpa_memWf {j : Job} {blk : Block} {fn a b : Nat} (h : s.MemWf) : (s.chunkCpa j blk fn a b).1.MemWf := by
  unfold State.chunkCpa
  dsimp only
  split
  · exact h
  · exact ite_memWf_fst h (ite_memWf_fst h h)
theorem execCopyJobStart_memWf (h : s.MemWf) : OutWf (execCopyJobStart s) := by
  unfold execCopyJobStart
  dsimp only
  (repeat' split) <;> exact h
theorem State.runChunk_memWf {core : Nat} {j : Job} (h : s.MemWf) : (s.runChunk core j).MemWf := by
  unfold State.runChunk
  split
  · exact h
  · extract_lets asid r s1 j1
    have hr : r.1.MemWf := by
      unfold r
      split
      · exact ite_memWf_fst h (State.chunkCpb_memWf h)
      · exact State.chunkCpt_memWf h
      · exact State.chunkCpl_memWf h
      · exact State.chunkCpa_memWf h
    have hs : s1.MemWf := by
      unfold s1
      split
      · exact hr
      · exact State.countJob_memWf hr
      · exact hr
    clear_value r s1
    split
    · exact .mk hs
    · exact State.endJob_memWf hs
    · exact State.holdWork_memWf (State.setJob_memWf hs)
    · have counted {n : Nat} : (s1.countBytes j1.blk j1.bar n j1.prov).MemWf := State.countBytes_memWf hs
      exact ite_memWf (State.endJob_memWf counted) (ite_memWf (State.endJob_memWf counted) (.mk counted))
theorem State.settleJob_memWf {id : Nat} (h : s.MemWf) : (s.settleJob id).MemWf := by
  unfold State.settleJob
  split
  · exact h
  · split
    · exact h
    · split
      · exact h
      · extract_lets r s1
        have hs : s1.MemWf := by
          refine foldl_wf_fst h (fun _ _ h => ?_)
          split
          · exact h
          · split
            · exact State.engWrite_memWf ((State.engCheck_memWf h).fst ‹_›)
            · exact (State.engCheck_memWf h).fst ‹_›
        clear_value s1 r
        split
        · exact State.endJob_memWf hs
        · exact State.holdWork_memWf (State.setJob_memWf hs)
        · exact .mk hs
        · exact ite_memWf (State.endJob_memWf hs) (State.countBytes_memWf (State.setJob_memWf hs))
theorem execCopyChunk_memWf (h : s.MemWf) : OutWf (execCopyChunk s) := by
  unfold execCopyChunk
  dsimp only
  split
  · exact ite_memWf (State.settleJob_memWf h) (State.runChunk_memWf h)
  · exact h
theorem execCopyWindowDeadlock_memWf (h : s.MemWf) : OutWf (execCopyWindowDeadlock s) := by
  unfold execCopyWindowDeadlock
  refine foldl_wf h (fun _ _ h => ?_)
  split
  · exact h
  · extract_lets g go s1 rest s2
    have hs : s1.MemWf := by
      refine foldl_wf h (fun _ _ h => ?_)
      split
      · exact State.takeTrap_memWf h
      · exact h
    exact .mk (ite_memWf (State.dropPath_memWf hs) (State.setPath_memWf hs))
theorem issueShared_memWf {f : FmtL} {todo : State → Thread → List (Nat × Nat) → Todo} (h : s.MemWf) : (issueShared s f todo).MemWf := by
  unfold issueShared
  dsimp only
  split
  · exact h
  · split
    · exact issueEach_memWf h (fun _ _ _ h => h)
    · split
      · exact issueEach_memWf h (fun _ _ _ h => h)
      · exact State.modPend_memWf (issueEach_memWf h (fun _ _ _ h => h))
theorem State.endShared_memWf {t : Thread} {uid : Nat} {others : List (Nat × Nat)} {f : Pending → Pending} (h : s.MemWf) :
    (s.endShared t uid others f).MemWf := foldl_wf h (fun _ _ h => h)
theorem State.todoRead_memWf {t : Thread} {p : Pending} {ea n : Nat} {others : List (Nat × Nat)} (h : s.MemWf) :
    (s.todoRead t p ea n others).1.MemWf := by
  unfold State.todoRead
  split
  · exact (State.readOwn_memWf h).fst ‹_›
  · exact State.endShared_memWf ((State.readOwn_memWf h).fst ‹_›)
  · exact State.pendStop_memWf ((State.readOwn_memWf h).fst ‹_›)
  · exact (State.readOwn_memWf h).fst ‹_›
  · exact (State.readOwn_memWf h).fst ‹_›
  · exact (State.readOwn_memWf h).fst ‹_›
theorem State.doTdef_memWf {t : Thread} {p : Pending} {ea : Nat} {others : List (Nat × Nat)} (h : s.MemWf) : (s.doTdef t p ea others).MemWf := by
  unfold State.doTdef
  dsimp only
  split
  · exact (State.todoRead_memWf h).fst ‹_›
  · have h1 := (State.todoRead_memWf h).fst ‹_›
    refine State.endShared_memWf ?_
    split
    · exact State.setFg_memWf h1
    · exact h1
theorem State.doTseal_memWf {t : Thread} {p : Pending} {others : List (Nat × Nat)} (h : s.MemWf) : (s.doTseal t p others).MemWf := by
  unfold State.doTseal
  dsimp only
  split
  · exact (ite_memWf_fst (State.todoRead_memWf h) h).fst ‹_›
  · have h1 := (ite_memWf_fst (State.todoRead_memWf h) h).fst ‹_›
    split
    · exact h1
    · exact ite_memWf (State.endShared_memWf h1) (State.endShared_memWf (State.modCtx_memWf h1))
theorem execGang_memWf {f : FmtA} (h : s.MemWf) : OutWf (execGang f s) := by
  unfold execGang
  refine issueOnce_memWf h (fun _ _ _ h => ?_)
  dsimp only
  split
  · exact h
  · split
    · exact h
    · exact foldl_wf (ite_memWf h h) (fun _ _ h => h)
theorem execOclaim_memWf {f : FmtL} (h : s.MemWf) : OutWf (execOclaim f s) := by
  unfold execOclaim
  dsimp only
  split
  · exact h
  · split
    · exact issueEach_memWf h (fun _ _ _ h => h)
    · split
      · exact issueEach_memWf h (fun _ _ _ h => h)
      · exact ite_memWf (issueEach_memWf h (fun _ _ _ h => h)) (ite_memWf h h)
theorem execOrel_memWf {f : FmtA} (h : s.MemWf) : OutWf (execOrel f s) := by
  unfold execOrel
  refine issueOnce_memWf h (fun _ _ _ h => ?_)
  dsimp only
  split <;> exact h
theorem execClaimGrant_memWf (h : s.MemWf) : OutWf (execClaimGrant s) := by
  unfold execClaimGrant
  dsimp only
  split
  · exact h
  · split
    · exact h
    · split
      · exact execOclaim_memWf h
      · exact h
theorem State.latchExit_memWf {blk : Nat} (h : s.MemWf) : (s.latchExit blk).MemWf := by
  unfold State.latchExit
  dsimp only
  split
  · exact h
  · exact ite_memWf h h
theorem issueMatrix_memWf {f : FmtL} {op : Nat} (h : s.MemWf) : (issueMatrix s f op).MemWf := by
  unfold issueMatrix
  dsimp only
  split
  · exact h
  · split
    · exact issueEach_memWf h (fun _ _ _ h => h)
    · split
      · exact ite_memWf (ite_memWf (issueEach_memWf (foldl_wf h (fun _ _ h => h)) (fun _ _ _ h => h)) h) (ite_memWf (issueEach_memWf h (fun _ _ _ h =>
            trivial)) (ite_memWf h (ite_memWf (issueEach_memWf h (fun _ _ _ h => trivial)) (ite_memWf (ite_memWf h (issueEach_memWf h (fun _ _ _ h =>
            h))) (issueEach_memWf h (fun _ _ _ h => h))))))
      · exact issueEach_memWf h (fun _ _ _ h => h)
theorem execLatchCommandAccept_memWf (h : s.MemWf) : OutWf (execLatchCommandAccept s) := by
  unfold execLatchCommandAccept
  dsimp only
  (repeat' split) <;> exact h
theorem execMatrixCommandStart_memWf (h : s.MemWf) : OutWf (execMatrixCommandStart s) := by
  unfold execMatrixCommandStart
  dsimp only
  (repeat' split) <;> exact h
theorem State.viewSlot_memWf {core asid : Nat} {c : Cmd} {moving : Bool} {rows : List Nat} {n : Nat} (h : s.MemWf) :
    (s.viewSlot core asid c moving rows n).1.MemWf := by
  unfold State.viewSlot
  dsimp only
  split
  · exact h
  · split
    · exact h
    · split
      · split
        · exact h
        · split
          · exact (State.engCheck_memWf h).fst ‹_›
          · (repeat' split) <;> exact (State.engRead_memWf ((State.engCheck_memWf h).fst ‹_›)).fst ‹_›
      · split
        · exact h
        · split
          · exact (State.engCheck_memWf h).fst ‹_›
          · (repeat' split) <;> exact (State.engRead_memWf ((State.engCheck_memWf h).fst ‹_›)).fst ‹_›
theorem State.viewSlots_memWf {core asid : Nat} {c : Cmd} {moving : Bool} {rows ns : List Nat} (h : s.MemWf) :
    (s.viewSlots core asid c moving rows ns).1.MemWf := by
  unfold State.viewSlots
  refine foldl_wf_fst h (fun _ _ h => ?_)
  split
  · exact h
  · split <;> exact (State.viewSlot_memWf h).fst ‹_›
theorem State.columnMismatch_memWf {core asid : Nat} (h : s.MemWf) : (s.columnMismatch core asid).MemWf := State.publish_memWf h
theorem State.kStep_memWf {core asid : Nat} {c : Cmd} {g j : Nat} (h : s.MemWf) : (s.kStep core asid c g j).1.MemWf := by
  unfold State.kStep
  dsimp only
  split
  · exact h
  · split
    · exact h
    · split
      · exact h
      · split
        · exact (State.viewSlots_memWf h).fst ‹_›
        · have h1 := (State.viewSlots_memWf h).fst ‹_›
          split
          · exact (State.viewSlots_memWf h1).fst ‹_›
          · have h2 := (State.viewSlots_memWf h1).fst ‹_›
            exact ite_memWf_fst (State.columnMismatch_memWf (ite_memWf h2 (.mk h2))) (State.setBank_memWf (ite_memWf h2 (.mk h2)))
theorem State.clearRows_memWf {c : Cmd} (h : s.MemWf) : (s.clearRows c).1.MemWf := by
  unfold State.clearRows
  dsimp only
  split <;> exact h
theorem execGroupKStep_memWf (h : s.MemWf) : OutWf (execGroupKStep s) := by
  unfold execGroupKStep
  extract_lets core goes
  split
  · exact h
  · split
    · exact h
    · extract_lets k total r s1
      have hs : s1.MemWf := ite_memWf_fst (State.clearRows_memWf h) (State.kStep_memWf h)
      clear_value s1 r
      split
      · exact State.endCmd_memWf h
      · split
        · exact hs
        · exact State.setCmd_memWf (State.askLines_memWf hs)
        · exact State.endCmd_memWf hs
        · exact State.holdWork_memWf (State.setCmd_memWf hs)
        · split
          · exact State.endCmd_memWf (State.countBytes_memWf (ite_memWf (State.countEv_memWf hs) hs))
          · exact State.setCmd_memWf (State.countBytes_memWf (ite_memWf (State.countEv_memWf hs) hs))

end Sys2Proof.Machine
end

section
/-! SUPPORT. Keeping the form: nodes, places, stops, resets and failures (spec/15_launch.md, spec/20_health.md). -/
namespace Sys2Proof.Machine
variable {s : State}

theorem State.setPart_memWf {p : Nat} {e : PartEntry} (h : s.MemWf) : (s.setPart p e).MemWf := h
theorem State.setSlotE_memWf {k : Nat} {e : SlotEntry} (h : s.MemWf) : (s.setSlotE k e).MemWf := h
theorem State.readyNode_memWf {n : Node} (h : s.MemWf) : (s.readyNode n).MemWf := ite_memWf h h
theorem State.dischargeNode_memWf {id : Nat} {war : Bool} (h : s.MemWf) : (s.dischargeNode id war).MemWf :=
  foldl_wf h (fun _ _ h => State.readyNode_memWf h)
theorem State.setTag_memWf {part tag : Nat} (h : s.MemWf) : (s.setTag part tag).MemWf :=
  ite_memWf h (foldl_wf h (fun _ _ h => State.readyNode_memWf h))
theorem State.acceptNode_memWf {asid queue : Nat} {launchers : List Nat} {p : Packet} (h : s.MemWf) :
    (s.acceptNode asid queue launchers p).1.MemWf := State.readyNode_memWf h
theorem State.askPeer_memWf {q : OutReq} {addr size who : Nat} (h : s.MemWf) : (s.askPeer q addr size who).MemWf := State.pushOut_memWf h
theorem State.schedPart_memWf {asid addr n : Nat} (h : s.MemWf) : (s.schedPart asid addr n).1.MemWf := by
  unfold State.schedPart
  split
  · split
    · exact h
    · exact ite_memWf_fst h h
  · split
    · exact (State.load_memWf h _ _ _ _ _ _).fst ‹_›
    · exact (State.load_memWf h _ _ _ _ _ _).fst ‹_›
    · exact (State.load_memWf h _ _ _ _ _ _).fst ‹_›
    · exact State.askPeer_memWf ((State.load_memWf h _ _ _ _ _ _).fst ‹_›)
    · exact (State.load_memWf h _ _ _ _ _ _).fst ‹_›
    · exact (State.load_memWf h _ _ _ _ _ _).fst ‹_›
theorem State.schedRead_memWf {asid addr n : Nat} (h : s.MemWf) : (s.schedRead asid addr n).1.MemWf := by
  unfold State.schedRead
  dsimp only
  split
  · exact State.schedPart_memWf h
  · split
    · have h1 := (State.schedPart_memWf h).fst ‹_›
      split
      · exact (State.schedPart_memWf h1).fst ‹_›
      · exact State.schedPart_memWf h1
    · exact State.schedPart_memWf h
theorem State.readPacket_memWf {asid : Nat} {pk : List Byte} (h : s.MemWf) : (s.readPacket asid pk).1.MemWf := by
  unfold State.readPacket
  (repeat' split) <;> exact (State.schedRead_memWf h).fst ‹_›
theorem State.writePennant_memWf {asid addr who : Nat} {bs : List Byte} (h : s.MemWf) : (s.writePennant asid addr who bs).1.MemWf := by
  unfold State.writePennant
  split
  · exact ite_memWf_fst h (ite_memWf_fst h h)
  · split
    · exact State.askPeer_memWf ((State.store_memWf h _ _ _ _ _ _).fst ‹_›)
    · exact State.store_memWf h _ _ _ _ _ _
theorem State.finishReject_memWf {r : Reject} (h : s.MemWf) : (s.finishReject r).MemWf := by
  unfold State.finishReject
  dsimp only
  split
  · exact h
  · split
    · exact State.setTag_memWf (.mk ((State.writePennant_memWf h).fst ‹_›))
    · exact State.holdWork_memWf (.mk ((State.writePennant_memWf h).fst ‹_›))
    · have h1 := (State.writePennant_memWf h).fst ‹_›
      exact ite_memWf h1 (State.setTag_memWf (.mk (State.hwEvent_memWf h1)))
    · exact (State.writePennant_memWf h).fst ‹_›
theorem State.setQueue_memWf {q : Queue} (h : s.MemWf) : (s.setQueue q).MemWf := h
theorem execPacketTake_memWf (h : s.MemWf) : OutWf (execPacketTake s) := by
  unfold execPacketTake
  dsimp only
  split
  · exact h
  · split
    · exact h
    · split
      · exact (State.schedRead_memWf h).fst ‹_›
      · exact State.setQueue_memWf ((State.schedRead_memWf h).fst ‹_›)
      · have h1 := (State.schedRead_memWf h).fst ‹_›
        split
        · exact (State.readPacket_memWf h1).fst ‹_›
        · exact State.acceptNode_memWf (State.setQueue_memWf ((State.readPacket_memWf h1).fst ‹_›))
        · have h2 := (State.readPacket_memWf h1).fst ‹_›
          split
          · exact State.setTag_memWf (State.setQueue_memWf h2)
          · exact State.finishReject_memWf (.mk (State.newUid_memWf (State.setQueue_memWf h2)))
theorem execQtailWrite_memWf (h : s.MemWf) : OutWf (execQtailWrite s) := by
  unfold execQtailWrite
  dsimp only
  split
  · exact h
  · exact ite_memWf h h
theorem execQctlWrite_memWf (h : s.MemWf) : OutWf (execQctlWrite s) := by
  unfold execQctlWrite
  split <;> exact h
theorem State.startBlock_memWf {n : Node} {clu num core run : Nat} {units : List Nat} (h : s.MemWf) :
    (s.startBlock n clu num core run units).MemWf := foldl_wf h (fun _ _ h => h)
theorem State.placeCluster_memWf {n : Node} {clu run : Nat} {cores : List (Nat × List Nat)} (h : s.MemWf) :
    (s.placeCluster n clu run cores).MemWf := State.setNode_memWf (foldl_wf h (fun _ _ h => State.startBlock_memWf h))
theorem State.applyLayby_memWf {b : Block} (h : s.MemWf) : (s.applyLayby b).MemWf := foldl_wf h (fun _ _ h => State.applyArrival_memWf h)
theorem State.resumeBlock_memWf {b : Block} {core : Nat} {units : List Nat} (h : s.MemWf) : (s.resumeBlock b core units).MemWf :=
  State.applyLayby_memWf (State.setBlock_memWf (State.discardClean_memWf h))
theorem State.placeEarly_memWf {part : Nat} {e : Early} (h : s.MemWf) : (s.placeEarly part e).MemWf := by
  unfold State.placeEarly
  dsimp only
  split
  · split
    · exact h
    · split
      · exact h
      · exact foldl_wf h (fun _ _ h => State.resumeBlock_memWf h)
  · split
    · exact h
    · split
      · exact h
      · split
        · exact State.placeCluster_memWf h
        · split
          · exact State.placeCluster_memWf h
          · exact h
theorem placeHeads_memWf : ∀ (n : Nat) {s : State} {part : Nat} {stuck : List Nat} {past : Bool} (_ : s.MemWf), (placeHeads n s part stuck past).MemWf
  | 0, _, _, _, _, h => h
  | n + 1, _, _, _, _, h => by
    unfold placeHeads
    dsimp only
    split
    · exact h
    · split
      · exact placeHeads_memWf n (State.setPart_memWf (State.placeCluster_memWf h))
      · exact placeHeads_memWf n (ite_memWf h h)
theorem State.moveSlot_memWf {k : Nat} (h : s.MemWf) : (s.moveSlot k).MemWf := by
  unfold State.moveSlot
  dsimp only
  split
  · exact h
  · exact ite_memWf h h
theorem State.moveSlots_memWf (h : s.MemWf) : s.moveSlots.MemWf := by
  unfold State.moveSlots
  exact foldl_wf h (fun _ _ h => State.moveSlot_memWf h)
theorem execDispatchPass_memWf (h : s.MemWf) : OutWf (execDispatchPass s) := by
  unfold execDispatchPass
  dsimp only
  split
  · exact h
  · exact placeHeads_memWf _ (foldl_wf (foldl_wf (State.moveSlots_memWf (ite_memWf h h)) (fun _ _ h => State.readyNode_memWf h)) (fun _ _ h =>
        State.placeEarly_memWf h))
theorem execRegionReserve_memWf (h : s.MemWf) : OutWf (execRegionReserve s) := by
  unfold execRegionReserve
  dsimp only
  (repeat' split) <;> exact h
theorem execServiceWindow_memWf (h : s.MemWf) : OutWf (execServiceWindow s) := by
  unfold execServiceWindow
  dsimp only
  split
  · exact h
  · split
    · split
      · exact State.moveSlot_memWf h
      · exact h
    · exact h
theorem State.clusterBlock_memWf {b : Block} (h : s.MemWf) : (s.clusterBlock b).MemWf := by
  unfold State.clusterBlock
  dsimp only
  split
  · exact h
  · split
    · exact h
    · exact ite_memWf h h
theorem State.flushNode_memWf {id : Nat} (h : s.MemWf) : (s.flushNode id).MemWf := by
  unfold State.flushNode
  dsimp only
  split
  · exact h
  · exact ite_memWf h (ite_memWf (State.writeBackAll_memWf h) (State.dischargeNode_memWf (State.setNode_memWf (State.writeBackAll_memWf h))))
theorem State.nodeEnding_memWf {id : Nat} (h : s.MemWf) : (s.nodeEnding id).MemWf := by
  unfold State.nodeEnding
  split
  · exact h
  · exact ite_memWf (State.flushNode_memWf h) h
theorem State.blockEnd_memWf {b : Block} (h : s.MemWf) : (s.blockEnd b).MemWf :=
  State.nodeEnding_memWf (State.clusterBlock_memWf (ite_memWf (State.moveSlot_memWf (ite_memWf (State.setBlock_memWf (.mk (ite_memWf h h))) (.mk
    (ite_memWf h h)))) (ite_memWf (State.setBlock_memWf (.mk (ite_memWf h h))) (.mk (ite_memWf h h)))))
theorem State.exited_memWf {fg : Nat} (h : s.MemWf) : (s.exited fg).MemWf := by
  unfold State.exited
  dsimp only
  split
  · exact h
  · split
    · exact State.latchExit_memWf (State.closeGather_memWf h)
    · split
      · exact State.blockEnd_memWf (State.latchExit_memWf (State.closeGather_memWf h))
      · exact State.latchExit_memWf (State.closeGather_memWf h)
theorem issueExit_memWf {g : Guard} (h : s.MemWf) : (issueExit s g).MemWf := by
  unfold issueExit
  dsimp only
  split
  · exact h
  · exact ite_memWf h (ite_memWf (issueEach_memWf h (fun _ _ _ h => h)) (State.exited_memWf (issueEach_memWf h (fun _ _ _ h => h))))
theorem execNodeCompletion_memWf (h : s.MemWf) : OutWf (execNodeCompletion s) := by
  unfold execNodeCompletion
  dsimp only
  split
  · split
    · exact State.finishReject_memWf (State.flushNode_memWf h)
    · exact State.flushNode_memWf h
  · split
    · exact State.flushNode_memWf h
    · split
      · exact ite_memWf_fst (State.writeBackAll_memWf (State.flushNode_memWf h)) (ite_memWf_fst (State.writeBackAll_memWf (State.flushNode_memWf h))
            (State.writePennant_memWf (State.writeBackAll_memWf (State.flushNode_memWf h))))
      · exact State.holdWork_memWf (State.setNode_memWf (ite_memWf_fst (State.writeBackAll_memWf (State.flushNode_memWf h)) (ite_memWf_fst
            (State.writeBackAll_memWf (State.flushNode_memWf h)) (State.writePennant_memWf (State.writeBackAll_memWf (State.flushNode_memWf h))))))
      · exact State.setNode_memWf (.mk (ite_memWf (State.hwEvent_memWf (ite_memWf_fst (State.writeBackAll_memWf (State.flushNode_memWf h))
            (ite_memWf_fst (State.writeBackAll_memWf (State.flushNode_memWf h)) (State.writePennant_memWf (State.writeBackAll_memWf
            (State.flushNode_memWf h)))))) (ite_memWf_fst (State.writeBackAll_memWf (State.flushNode_memWf h)) (ite_memWf_fst
            (State.writeBackAll_memWf (State.flushNode_memWf h)) (State.writePennant_memWf (State.writeBackAll_memWf (State.flushNode_memWf h)))))))
theorem State.evqRead_memWf {pop : Bool} (h : s.MemWf) : (s.evqRead pop).1.MemWf := by
  unfold State.evqRead
  dsimp only
  split
  · exact ite_memWf h h
  · exact h
theorem State.freeNode_memWf {id : Nat} (h : s.MemWf) : (s.freeNode id).MemWf := State.dischargeNode_memWf h
theorem State.evqStep_memWf {e : EvqEntry} (h : s.MemWf) : (s.evqStep e).MemWf := by
  unfold State.evqStep
  dsimp only
  split
  · exact h
  · exact ite_memWf h (State.freeNode_memWf (ite_memWf (State.post_memWf (State.setTag_memWf h)) (State.setTag_memWf h)))
theorem execEvqRead_memWf (h : s.MemWf) : OutWf (execEvqRead s) := by
  unfold execEvqRead
  dsimp only
  split
  · exact ite_memWf (State.evqStep_memWf (.mk (State.evqRead_memWf h))) (.mk (State.evqRead_memWf h))
  · exact .mk (State.evqRead_memWf h)
theorem execNlaunch_memWf {f : FmtL} (h : s.MemWf) : OutWf (execNlaunch f s) := by
  unfold execNlaunch
  refine issueEach_memWf h (fun _ _ _ h => ?_)
  dsimp only
  split
  · exact trivial
  · exact h
theorem State.doLaunch_memWf {t : Thread} {p : Pending} {ea : Nat} (h : s.MemWf) : (s.doLaunch t p ea).MemWf := by
  unfold State.doLaunch
  dsimp only
  split
  · exact h
  · split
    · exact (State.todoRead_memWf h).fst ‹_›
    · have h1 := (State.todoRead_memWf h).fst ‹_›
      split
      · exact State.modPend_memWf ((State.readPacket_memWf h1).fst ‹_›)
      · exact State.endShared_memWf ((State.readPacket_memWf h1).fst ‹_›)
      · have h2 := (State.readPacket_memWf h1).fst ‹_›
        split
        · exact State.modPend_memWf h2
        · split
          · exact h2
          · exact ite_memWf (State.modPend_memWf (State.writeBack_memWf h2)) (State.endShared_memWf (State.acceptNode_memWf (State.discardAll_memWf
                (State.writeBack_memWf h2))))
theorem execNwait_memWf {f : FmtA} (h : s.MemWf) : OutWf (execNwait f s) := by
  unfold execNwait
  refine issueEach_memWf h (fun _ _ _ h => ?_)
  dsimp only
  split <;> exact h
theorem execNwaitWake_memWf (h : s.MemWf) : OutWf (execNwaitWake s) := by
  unfold execNwaitWake
  (repeat' split) <;> exact h
theorem issueSys_memWf {f : FmtL} {n : Nat} {go : State → Thread → State × List Nat} (h : s.MemWf)
    (hf : ∀ s t, s.MemWf → (go s t).1.MemWf) : (issueSys s f n go).MemWf := by
  refine issueEach_memWf h fun _ s t h => ?_
  have made := hf s t h
  dsimp only
  split <;> exact made
theorem execPlaceRsv_memWf {f : FmtL} (h : s.MemWf) : OutWf (execPlaceRsv f s) := by
  unfold execPlaceRsv
  refine issueSys_memWf h (fun _ _ h => ?_)
  dsimp only
  split
  · exact h
  · exact ite_memWf_fst h (foldl_wf h (fun _ _ h => h))
theorem State.closeSlots_memWf {ks : List Nat} {v : Bool} (h : s.MemWf) : (s.closeSlots ks v).MemWf := foldl_wf h (fun _ _ h => h)
theorem State.saveImage_memWf {b : Block} (h : s.MemWf) : OptWf (s.saveImage b) := by
  unfold State.saveImage
  extract_lets n
  split
  · trivial
  · exact (State.sealTo_memWf (.mk h) _ : State.MemWf _)
theorem State.withdraw_memWf {fgs : List Nat} (h : s.MemWf) : (s.withdraw fgs).MemWf := foldl_wf h (fun _ _ h => h)
theorem State.settleBlock_memWf {id : Nat} (h : s.MemWf) : (s.settleBlock id).MemWf := by
  unfold State.settleBlock
  dsimp only
  split
  · exact h
  · exact ite_memWf h (ite_memWf (State.withdraw_memWf (foldl_wf h (fun _ _ h => h))) (ite_memWf (.mk (State.modCluster_memWf (State.endRun_memWf
        (State.dropBlocks_memWf (State.withdraw_memWf (foldl_wf h (fun _ _ h => h))))))) (ite_memWf (State.writeBack_memWf (State.withdraw_memWf
        (foldl_wf h (fun _ _ h => h)))) (State.touch_memWf (.mk (State.setBlock_memWf (State.setCross_memWf (State.flushCtx_memWf (ite_memWf
        (State.record_memWf (State.countEv_memWf (State.writeBack_memWf (State.withdraw_memWf (foldl_wf h (fun _ _ h => h)))))) (State.writeBack_memWf
        (State.withdraw_memWf (foldl_wf h (fun _ _ h => h)))))))))))))
theorem State.finishMove_memWf {done : List Nat} {a b : Nat} (h : s.MemWf) : (s.finishMove done a b).MemWf := by
  unfold State.finishMove
  refine State.setSlotE_memWf ?_
  refine State.setSlotE_memWf ?_
  refine foldl_wf h (fun _ _ h => ?_)
  dsimp only
  split
  · exact h
  · split
    · exact h
    · split
      · exact State.resumeBlock_memWf h
      · exact h
theorem State.settleStops_memWf (h : s.MemWf) : s.settleStops.MemWf := by
  unfold State.settleStops
  refine foldl_wf h (fun _ _ h => ?_)
  dsimp only
  split
  · exact h
  · exact State.modPend_memWf (State.finishMove_memWf h)
theorem State.settle_memWf (h : s.MemWf) : s.settle.MemWf := by
  unfold State.settle
  exact State.moveSlots_memWf (State.settleStops_memWf (foldl_wf h (fun _ _ h => State.settleBlock_memWf h)))
theorem State.stopSaved_memWf {bs : List Block} (h : s.MemWf) : (s.stopSaved bs).1.MemWf := by
  unfold State.stopSaved
  refine State.stopBlocks_memWf ?_
  refine foldl_wf_fst h (fun _ _ h => ?_)
  split
  · exact h
  · split
    · exact (State.saveImage_memWf h).some ‹_›
    · exact h
theorem execSlicesetMove_memWf {f : FmtL} (h : s.MemWf) : OutWf (execSlicesetMove f s) := by
  unfold execSlicesetMove
  refine issueEach_memWf h (fun _ _ _ h => ?_)
  dsimp only
  split
  · exact h
  · exact State.settle_memWf (.mk (State.pendU_memWf (State.stopSaved_memWf h)))
theorem State.moduleReset_memWf {tests : List (List Byte)} {strap : Bool} (h : s.MemWf) : (s.moduleReset tests strap).MemWf := by
  unfold State.moduleReset
  extract_lets us us' r v _ _ _ t
  have ht : t.MemWf := ⟨wfFrom_filter _ h.1, h.2⟩
  exact ite_memWf ht (State.loadBank_memWf ht)
theorem execNovigImageUpdate_memWf (h : s.MemWf) : OutWf (execNovigImageUpdate s) := by
  unfold execNovigImageUpdate
  dsimp only
  split
  · exact State.moduleReset_memWf h
  · exact h
theorem State.service_memWf {k : Health → Health} (h : s.MemWf) : (s.service k).MemWf := ite_memWf h h
theorem State.failUnit_memWf {n : Nat} (h : s.MemWf) : (s.failUnit n).MemWf := State.publish_memWf h
theorem execSramUncorrectable_memWf (h : s.MemWf) : OutWf (execSramUncorrectable s) := by
  unfold execSramUncorrectable
  dsimp only
  split
  · split
    · exact State.publish_memWf h
    · exact h
  · exact State.record_memWf (ite_memWf h h)
  · split
    · exact State.loseNet_memWf h
    · exact h
  · exact State.restartCore_memWf h
theorem execRerunEnd_memWf (h : s.MemWf) : OutWf (execRerunEnd s) := by
  unfold execRerunEnd
  extract_lets s1
  split
  · exact h
  · split
    · exact h
    · split
      · exact h
      · extract_lets d coresOf s2 set again done out
        have h2 : s2.MemWf := State.endRun_memWf (ite_memWf h h)
        have hset (c : Cluster) (v : Nat) : (set s2 c v).MemWf := State.setNode_memWf h2
        clear_value s2 out
        split
        · exact .mk (hset ..)
        · extract_lets s3 low s4 r s5
          have h5 : s5.MemWf := State.publish_memWf (State.suspect_memWf (ite_memWf (State.record_memWf (hset ..)) (hset ..)))
          clear_value s5
          split
          · exact ite_memWf (State.dischargeNode_memWf h5) h5
          · exact h5

end Sys2Proof.Machine
end

section
/-! SUPPORT. Keeping the form: transactions of other modules and of the host (spec/17_links.md). -/
namespace Sys2Proof.Machine
variable {s : State}

theorem State.setProv_memWf {id win : Nat} (h : s.MemWf) : (s.setProv id win).MemWf := h
theorem State.engLost_memWf {q : OutReq} {id code : Nat} (h : s.MemWf) : (s.engLost q id code).MemWf := by
  unfold State.engLost
  dsimp only
  split
  · split
    · exact h
    · exact State.endJob_memWf h
  · exact State.endCmd_memWf h
  · exact h
theorem State.lostWrite_memWf {id blk bar code : Nat} (h : s.MemWf) : (s.lostWrite id blk bar code).MemWf := by
  unfold State.lostWrite
  split
  · split
    · exact State.countOn_memWf h
    · exact ite_memWf (State.countOn_memWf h) (State.endJob_memWf h)
  · exact State.countOn_memWf h
theorem State.failReq_memWf {q : OutReq} {code off : Nat} (h : s.MemWf) : (s.failReq q code off).MemWf := by
  unfold State.failReq
  dsimp only
  split
  · exact h
  · split
    · exact State.endShared_memWf h
    · exact State.endShared_memWf h
    · exact h
theorem State.restStore_memWf {q : OutReq} (h : s.MemWf) : (s.restStore q).MemWf := by
  unfold State.restStore
  split
  · exact State.access_memWf h
  · exact h
theorem State.gotRead_memWf {q : OutReq} {b : List Byte} (h : s.MemWf) : (s.gotRead q b).MemWf := by
  unfold State.gotRead
  dsimp only
  split
  · exact ite_memWf h (State.access_memWf h)
  · exact h
theorem State.complete_memWf {q : OutReq} {res : Except (Nat × Nat) (List Byte)} (h : s.MemWf) : (s.complete q res).MemWf := by
  unfold State.complete
  dsimp only
  split
  · split
    · exact ite_memWf h h
    · exact ite_memWf h (State.gotRead_memWf h)
  · split
    · exact ite_memWf (State.engLost_memWf h) h
    · exact ite_memWf h (State.failReq_memWf h)
  · split
    · exact h
    · exact State.restStore_memWf h
  · split
    · exact State.failReq_memWf h
    · split
      · exact State.lostWrite_memWf h
      · exact h
      · exact h
  · exact State.atomDone_memWf h
  · exact State.atomDone_memWf h
  · exact State.modPend_memWf (State.acqAfter_memWf h)
  · exact h
  · exact State.failReq_memWf h
  · exact State.failReq_memWf h
  · exact h
  · exact h
theorem State.respond_memWf {plane : Nat} {k : TxHdr} {data : List Byte} (h : s.MemWf) : (s.respond plane k data).MemWf := by
  unfold State.respond
  dsimp only
  split
  · exact h
  · exact ite_memWf (State.complete_memWf h) (ite_memWf h (State.complete_memWf h))
theorem State.txPieces_memWf {via : Via} {k : TxHdr} {w : Want} {n : Nat} (h : s.MemWf) : (s.txPieces via k w n).1.MemWf := by
  unfold State.txPieces
  dsimp only
  split
  · split
    · exact (State.check_memWf h).fst ‹_›
    · have h1 := (State.check_memWf h).fst ‹_›
      exact ite_memWf_fst h1 h1
  · exact h
theorem State.onPieces_memWf {via : Via} {tx : List Byte} {w : Want} {n : Nat} {k : State → List Piece → State} (h : s.MemWf)
    (hf : ∀ s ps, s.MemWf → (k s ps).MemWf) : (s.onPieces via tx w n k).MemWf := by
  have checked : (s.txPieces via (TxHdr.of tx) w n).1.MemWf := State.txPieces_memWf h
  unfold State.onPieces
  dsimp only
  split
  · exact ite_memWf (State.holdWork_memWf (.mk (State.newUid_memWf (checked.fst ‹_›)))) (State.replyErr_memWf (checked.fst ‹_›))
  · exact ite_memWf (.mk (checked.fst ‹_›)) (hf _ _ (checked.fst ‹_›))
theorem State.parityApply_memWf {k : TxHdr} {data : List Byte} (h : s.MemWf) : (s.parityApply k data).1.MemWf := by
  unfold State.parityApply
  dsimp only
  split
  · have h1 := (State.check_memWf h).fst ‹_›
    split
    · exact State.ctlWrite_memWf h1 _ _ _ _ _ _
    · exact h1
  · exact (State.check_memWf h).fst ‹_›
theorem State.arriveAt_memWf {asid tag num bar sc : Nat} (h : s.MemWf) : (s.arriveAt asid tag num bar sc).MemWf := by
  unfold State.arriveAt
  dsimp only
  split
  · exact h
  · split
    · exact State.remoteAt_memWf h
    · exact h
theorem State.dieImage_memWf {asid ea : Nat} {put : Option (List Byte)} (h : s.MemWf) : (s.dieImage asid ea put).1.MemWf := by
  unfold State.dieImage
  split
  · exact (State.check_memWf h).fst ‹_›
  · rename_i ps found
    have checked := (State.check_memWf h).fst found
    cases put with
    | none => dsimp only; split <;> exact (State.readPieces_memWf checked _ _ _ _).fst ‹_›
    | some b => dsimp only; split <;> exact (State.writePieces_memWf checked _ _ _ _ _).fst ‹_›
theorem State.dieTicket_memWf {dir : Nat} {tx : List Byte} (h : s.MemWf) : (s.dieTicket dir tx).MemWf := by
  unfold State.dieTicket
  dsimp -zeta only [State.newUid]
  extract_lets hd data k me _ s' ret _ kind
  have hs : s'.MemWf := h
  have ret_memWf {x : State} {v : Nat} (hx : x.MemWf) : (ret x v).MemWf := State.answerDie_memWf hx
  split
  · split
    · exact State.answerDie_memWf h
    · exact State.setNet_memWf h
  · split
    · exact (State.netCmd_memWf hs).fst ‹_›
    · rename_i x v asked
      have hx : x.MemWf := (State.netCmd_memWf hs).fst asked
      split
      · exact ret_memWf hx
      · split
        · exact State.answerDie_memWf ((State.dieImage_memWf hx).fst ‹_›)
        · rename_i y b read
          have hy : y.MemWf := (State.dieImage_memWf hx).fst read
          refine ite_memWf (ret_memWf hy) ?_
          split
          · exact ret_memWf (State.setNet_memWf hy)
          · exact ret_memWf hy
theorem State.performTx_memWf {via : Via} {tx : List Byte} (h : s.MemWf) : (s.performTx via tx).MemWf := by
  unfold State.performTx
  dsimp only
  split
  · exact ite_memWf h (State.replyErr_memWf h)
  · split
    · refine State.onPieces_memWf h (fun _ _ h => ?_)
      split
      · exact State.replyData_memWf _ ((State.readPieces_memWf h _ _ _ _).fst ‹_›)
      · exact State.replyErr_memWf ((State.readPieces_memWf h _ _ _ _).fst ‹_›)
      · exact State.replyErr_memWf ((State.readPieces_memWf h _ _ _ _).fst ‹_›)
    · split
      · exact State.replyErr_memWf h
      · refine State.onPieces_memWf h (fun _ _ h => ?_)
        split
        · exact State.reply_memWf ((State.writePieces_memWf h _ _ _ _ _).fst ‹_›)
        · exact State.replyErr_memWf ((State.writePieces_memWf h _ _ _ _ _).fst ‹_›)
        · exact State.replyErr_memWf ((State.writePieces_memWf h _ _ _ _ _).fst ‹_›)
    · refine State.onPieces_memWf h (fun _ _ h => ?_)
      split
      · exact h
      · split
        · exact State.replyErr_memWf ((State.readPiece_memWf h _ _ _ _).fst ‹_›)
        · have h1 := (State.readPiece_memWf h _ _ _ _).fst ‹_›
          exact ite_memWf (State.reply_memWf (State.writePiece_memWf h1 _ _ _ _ _)) (State.reply_memWf (State.writePiece_memWf h1 _ _ _ _ _))
    · refine State.onPieces_memWf h (fun _ _ h => ?_)
      split
      · exact h
      · split
        · exact State.replyErr_memWf ((State.readPiece_memWf h _ _ _ _).fst ‹_›)
        · have h1 := (State.readPiece_memWf h _ _ _ _).fst ‹_›
          exact ite_memWf (State.reply_memWf (State.writePiece_memWf h1 _ _ _ _ _)) (State.reply_memWf (State.writePiece_memWf h1 _ _ _ _ _))
    · split
      · split
        · exact ite_memWf (State.dieTicket_memWf h) (State.replyErr_memWf h)
        · exact State.replyErr_memWf h
      · refine State.onPieces_memWf h (fun _ _ h => ?_)
        split
        · exact h
        · split
          · exact State.replyErr_memWf h
          · split
            · exact State.replyErr_memWf ((State.readPiece_memWf h _ _ _ _).fst ‹_›)
            · have h1 := (State.readPiece_memWf h _ _ _ _).fst ‹_›
              exact ite_memWf (State.reply_memWf h1) (State.reply_memWf (State.writePiece_memWf h1 _ _ _ _ _))
    · exact State.reply_memWf (State.arriveAt_memWf h)
    · exact State.reply_memWf (foldl_wf h (fun _ _ h => ite_memWf (State.writeBack_memWf h) (State.discardClean_memWf h)))
    · exact State.reply_memWf h
    · exact State.reply_memWf h
    · split
      · exact State.reply_memWf ((State.parityApply_memWf h).fst ‹_›)
      · exact State.replyErr_memWf ((State.parityApply_memWf h).fst ‹_›)
    · exact h
    · exact State.respond_memWf h
theorem State.lostTx_memWf {here dst : Nat} {tx : List Byte} (h : s.MemWf) : (s.lostTx here dst tx).MemWf := by
  unfold State.lostTx
  dsimp only
  split
  · exact State.lostCross_memWf h
  · split
    · exact h
    · unfold Option.getD
      split
      · exact (State.sendDie_memWf h).some ‹_›
      · exact h
theorem State.dieTx_memWf {k dst : Nat} {tx : List Byte} (h : s.MemWf) : (s.dieTx k dst tx).MemWf := by
  unfold State.dieTx
  dsimp only
  split
  · exact State.performTx_memWf h
  · split
    · unfold Option.getD
      split
      · exact (State.sendDie_memWf h).some ‹_›
      · exact State.lostTx_memWf h
    · split
      · exact ite_memWf h h
      · exact State.performTx_memWf h
theorem State.setRx_memWf {w : RxWin} (h : s.MemWf) : (s.setRx w).MemWf := h
theorem State.fabricTx_memWf {plane : Nat} {tx : List Byte} (h : s.MemWf) : (s.fabricTx plane tx).MemWf := by
  unfold State.fabricTx
  extract_lets hdr cls w
  clear_value w
  split
  · split <;> exact h
  · split
    · exact State.performTx_memWf h
    · split
      next id s1 counted =>
        have h1 : s1.MemWf := (State.newUid_memWf h).snd counted
        extract_lets new _ r w1 s2
        have h2 : s2.MemWf := by
          refine State.setRx_memWf ?_
          unfold r
          split <;> exact h1
        clear_value s2
        split
        · split
          · exact ite_memWf (State.setProv_memWf (State.complete_memWf h2)) h2
          · exact h2
        · exact h2
theorem State.dropWin_memWf {win : Nat} (h : s.MemWf) : (s.dropWin win).MemWf := h
theorem State.settleCmd_memWf {id : Nat} (h : s.MemWf) : (s.settleCmd id).MemWf := by
  unfold State.settleCmd
  split
  · exact h
  · exact ite_memWf h (ite_memWf (State.endCmd_memWf h) (State.countBytes_memWf h))
theorem State.returnSlots_memWf {w : RxWin} (h : s.MemWf) : (s.returnSlots w).MemWf := foldl_wf h (fun _ _ h => State.sendFlit_memWf h)
theorem State.passWin_memWf {w : RxWin} (h : s.MemWf) : (s.passWin w).MemWf :=
  foldl_wf (State.dropWin_memWf (foldl_wf (State.returnSlots_memWf h) (fun _ _ h => State.performTx_memWf h))) (fun _ _ h => State.settleCmd_memWf
    (State.settleJob_memWf h))
theorem State.failWin_memWf {w : RxWin} (h : s.MemWf) : (s.failWin w).MemWf := by
  unfold State.failWin
  refine foldl_wf ?_ (fun _ _ h => ?_)
  · refine foldl_wf (State.returnSlots_memWf h) (fun _ _ h => ?_)
    dsimp only
    split
    · split
      · exact State.complete_memWf h
      · exact h
    · exact State.replyErr_memWf h
  · split
    · exact State.endJob_memWf h
    · split
      · exact State.endCmd_memWf h
      · exact h
theorem execTagVerify_memWf (h : s.MemWf) : OutWf (execTagVerify s) := by
  unfold execTagVerify
  split
  · exact h
  · split
    · exact h
    · exact ite_memWf (State.passWin_memWf h) (State.failWin_memWf h)
theorem execTagTimeout_memWf (h : s.MemWf) : OutWf (execTagTimeout s) := by
  unfold execTagTimeout
  split
  · exact h
  · exact ite_memWf (State.failWin_memWf h) h
theorem State.ackPort_memWf {n a : Nat} {nak : Bool} (h : s.MemWf) : (s.ackPort n a nak).MemWf := State.putWire_memWf h
theorem execGuestusFlitReceive_memWf (h : s.MemWf) : OutWf (execGuestusFlitReceive s) := by
  unfold execGuestusFlitReceive
  dsimp only
  split
  · exact h
  · split
    · exact State.sendNak_memWf h
    · split
      · exact State.pump_memWf (ite_memWf (State.sendNak_memWf (State.ackPort_memWf h)) (State.ackPort_memWf h))
      · exact State.pump_memWf (ite_memWf (foldl_wf (State.setPort_memWf (State.ackPort_memWf h)) (fun _ _ h => State.fabricTx_memWf h))
            (State.setPort_memWf (State.ackPort_memWf h)))
theorem execUcieFlitReceive_memWf (h : s.MemWf) : OutWf (execUcieFlitReceive s) := by
  unfold execUcieFlitReceive
  dsimp only
  split
  · exact h
  · split
    · exact ite_memWf h h
    · split
      · exact h
      · exact foldl_wf (ite_memWf h h) (fun _ _ h => State.dieTx_memWf h)
theorem State.moveFlits_memWf {k : Nat} (h : s.MemWf) : (s.moveFlits k).MemWf := by
  unfold State.moveFlits
  dsimp only
  split
  · exact h
  · refine foldl_wf h (fun _ _ h => ?_)
    split
    · exact h
    · unfold Option.getD
      split
      · exact (State.sendDie_memWf h).some ‹_›
      · exact State.lostTx_memWf h
theorem State.loseModule_memWf {m : Nat} (h : s.MemWf) : (s.loseModule m).MemWf :=
  ite_memWf (State.record_memWf (State.moveFlits_memWf (State.moveFlits_memWf (State.publish_memWf h)))) (State.moveFlits_memWf (State.moveFlits_memWf
    (State.publish_memWf h)))
theorem execUcieLaneEvent_memWf (h : s.MemWf) : OutWf (execUcieLaneEvent s) := by
  unfold execUcieLaneEvent
  dsimp only
  split
  · exact h
  · split
    · exact ite_memWf (State.loseModule_memWf h) (ite_memWf (State.publish_memWf h) (State.publish_memWf h))
    · exact ite_memWf (State.publish_memWf h) h
    · exact State.loseModule_memWf h
    · exact h
theorem State.dropTakes_memWf {plane : Nat} (h : s.MemWf) : (s.dropTakes plane).MemWf :=
  foldl_wf h (fun _ _ h => State.setNet_memWf (foldl_wf (foldl_wf h (fun _ _ h => h)) (fun _ _ h => h)))
theorem execFabricPortDown_memWf (h : s.MemWf) : OutWf (execFabricPortDown s) := by
  unfold execFabricPortDown
  dsimp only
  split
  · exact h
  · exact ite_memWf (.mk (State.dropTakes_memWf (foldl_wf (.mk (State.setPort_memWf (State.record_memWf (State.publish_memWf h)))) (fun _ _ h =>
        State.complete_memWf h)))) (State.dropTakes_memWf (foldl_wf (.mk (State.setPort_memWf (State.record_memWf (State.publish_memWf h)))) (fun _ _
        h => State.complete_memWf h)))
theorem State.setRank_memWf {r : Nat} {w : Word} (h : s.MemWf) : (s.setRank r w).MemWf := h
theorem execRankLoss_memWf (h : s.MemWf) : OutWf (execRankLoss s) := by
  unfold execRankLoss
  dsimp only
  split
  · exact h
  · exact foldl_wf h (fun _ _ h => State.complete_memWf h)
theorem State.releasePar_memWf (h : s.MemWf) : s.releasePar.MemWf := by
  unfold State.releasePar
  refine foldl_wf ?_ (fun _ _ h => State.performTx_memWf h)
  refine foldl_wf h (fun _ _ h => ?_)
  split
  · exact State.access_memWf h
  · exact h
theorem execParityRebuild_memWf (h : s.MemWf) : OutWf (execParityRebuild s) := by
  unfold execParityRebuild
  dsimp only
  split
  · exact h
  · split
    · exact .mk (State.ctlWrite_memWf ((State.check_memWf h).fst ‹_›) _ _ _ _ _ _)
    · exact (State.check_memWf h).fst ‹_›
theorem State.sendArrival_memWf {r : RemoteArr} (h : s.MemWf) : (s.sendArrival r).MemWf := by
  unfold State.sendArrival
  extract_lets core sc s1
  have h1 : s1.MemWf := State.writeBack_memWf h
  clear_value s1
  split
  · exact h1
  · split
    · split
      · exact State.remoteAt_memWf (.mk h1)
      · exact .mk h1
    · exact ite_memWf (State.arriveAt_memWf (.mk h1)) (ite_memWf (.mk h1) (State.pushOut_memWf (State.newUid_memWf (.mk h1))))
theorem execRemoteArrival_memWf (h : s.MemWf) : OutWf (execRemoteArrival s) := by
  unfold execRemoteArrival
  dsimp only
  split
  · exact State.arriveAt_memWf h
  · split
    · exact h
    · exact ite_memWf (State.sendArrival_memWf h) h
theorem issueZ_memWf {f : FmtZ} {r : Rights} {go : State → Thread → State × Except Nat (List Word)} (h : s.MemWf)
    (hf : ∀ s t, s.MemWf → (go s t).1.MemWf) : (issueZ s f r go).MemWf := by
  refine issueEach_memWf h fun _ s t h => ?_
  have made := hf s t h
  split
  · exact State.modThread_memWf (made.fst ‹_›)
  · trivial
theorem State.rankSet_memWf {n w : Nat} (h : s.MemWf) : (s.rankSet n w).1.MemWf :=
  ite_memWf_fst h (ite_memWf_fst h (State.releasePar_memWf (ite_memWf (.mk (State.setRank_memWf (ite_memWf h h))) (State.setRank_memWf (ite_memWf h
    h)))))
theorem State.planeMap_memWf {n p : Nat} (h : s.MemWf) : (s.planeMap n p).MemWf :=
  State.pump_memWf (ite_memWf (ite_memWf (foldl_wf h (fun _ _ h => State.loseNet_memWf h)) h) (State.publish_memWf (ite_memWf (foldl_wf h (fun _ _ h
    => State.loseNet_memWf h)) h)))
theorem execPlanemapMap_memWf {f : FmtZ} (h : s.MemWf) : OutWf (execPlanemapMap f s) := by
  unfold execPlanemapMap
  dsimp only
  split
  · exact h
  · split
    · exact h
    · exact issueZ_memWf h (fun _ _ h => ite_memWf_fst (State.planeMap_memWf h) h)
theorem execHostAtomicCompletion_memWf (h : s.MemWf) : OutWf (execHostAtomicCompletion s) := by
  unfold execHostAtomicCompletion
  dsimp only
  split
  · exact h
  · split
    · exact State.atomDone_memWf (State.hostWrite_memWf h _ _)
    · exact State.atomDone_memWf h
    · exact State.atomDone_memWf h
    · exact State.atomDone_memWf h
theorem State.pxAccept_memWf {id vf : Nat} (h : s.MemWf) : (s.pxAccept id vf).MemWf := by
  unfold State.pxAccept
  dsimp only
  split
  · exact h
  · exact State.pumpPx_memWf h
theorem execPxRespWrite_memWf (h : s.MemWf) : OutWf (execPxRespWrite s) := by
  unfold execPxRespWrite
  dsimp only
  split
  · exact h
  · exact ite_memWf (State.pxAccept_memWf h) (State.atomDone_memWf (State.pxAccept_memWf h))
theorem execProxyTimeout_memWf (h : s.MemWf) : OutWf (execProxyTimeout s) := by
  unfold execProxyTimeout
  dsimp only
  split
  · exact h
  · split
    · exact h
    · exact State.atomDone_memWf h
theorem State.atsSweep_memWf (h : s.MemWf) : s.atsSweep.MemWf := h
theorem State.atsAbort_memWf {a : Ats} {j : Job} (h : s.MemWf) : (s.atsAbort a j).MemWf := by
  unfold State.atsAbort
  dsimp only
  split
  · exact ite_memWf (State.endJob_memWf (foldl_wf h (fun _ _ h => State.countLane_memWf h))) (foldl_wf h (fun _ _ h => State.countLane_memWf h))
  · exact State.endJob_memWf h
theorem execAtsAbortTimeout_memWf (h : s.MemWf) : OutWf (execAtsAbortTimeout s) := by
  unfold execAtsAbortTimeout
  dsimp only
  split
  · exact h
  · split
    · exact h
    · refine State.atsSweep_memWf ?_
      refine foldl_wf h (fun _ _ h => ?_)
      split
      · exact State.atsAbort_memWf h
      · exact h
theorem execHostDmaWrite_memWf (h : s.MemWf) : OutWf (execHostDmaWrite s) := by
  unfold execHostDmaWrite
  split
  · exact State.hostWrite_memWf h _ _
  · split
    · exact (State.check_memWf h).fst ‹_›
    · have h1 := (State.check_memWf h).fst ‹_›
      split
      · exact h1
      · exact State.writePieces_memWf h1 _ _ _ _ _
theorem execVfTableWrite_memWf (h : s.MemWf) : OutWf (execVfTableWrite s) := by
  unfold execVfTableWrite
  dsimp only
  split
  · exact h
  · split
    · exact h
    · exact ite_memWf h h
theorem execFunctionLevelReset_memWf (h : s.MemWf) : OutWf (execFunctionLevelReset s) := by
  unfold execFunctionLevelReset
  split
  · exact h
  · exact ite_memWf h h
theorem execEventRecordDelivery_memWf (h : s.MemWf) : OutWf (execEventRecordDelivery s) := by
  unfold execEventRecordDelivery
  dsimp only
  split
  · split
    · exact h
    · split
      · exact State.writeEvent_memWf h
      · exact h
  · exact h
theorem execTdiStateChange_memWf (h : s.MemWf) : OutWf (execTdiStateChange s) := by
  unfold execTdiStateChange
  split
  · exact h
  · exact ite_memWf h h
theorem State.barWrite_memWf {die off x : Nat} (h : s.MemWf) : (s.barWrite die off x).MemWf := by
  unfold State.barWrite
  dsimp only
  split
  · split <;> exact h
  · split
    · exact State.setTag_memWf h
    · split
      · exact h
      · split
        · split
          · exact ite_memWf h h
          · exact h
        · split
          · exact h
          · split
            · split <;> exact h
            · exact ite_memWf h h
theorem execRegisterWrite_memWf (h : s.MemWf) : OutWf (execRegisterWrite s) := by
  unfold execRegisterWrite
  dsimp only
  split
  · exact State.barWrite_memWf h
  · exact State.barWrite_memWf h
  · split
    · exact h
    · split
      · exact h
      · exact State.pumpPx_memWf h
  · split
    · exact h
    · exact ite_memWf h h
  · exact h
theorem State.schedLoad_memWf {core off n : Nat} (h : s.MemWf) : (s.schedLoad core off n).1.MemWf := by
  unfold State.schedLoad
  dsimp only
  split
  · dsimp only
    split
    · exact ite_memWf (State.freeNode_memWf (State.evqRead_memWf h)) (State.evqRead_memWf h)
    · exact State.evqRead_memWf h
  · exact h
theorem State.schedStore_memWf {off : Nat} {bs : List Byte} (h : s.MemWf) : (s.schedStore off bs).MemWf := ite_memWf (State.barWrite_memWf h) h
theorem State.doRegs_memWf {t : Thread} {p : Pending} {write : Bool} {off n : Nat} {a : HeldAcc} (h : s.MemWf) :
    (s.doRegs t p write off n a).MemWf := State.modPend_memWf (ite_memWf_fst (State.schedStore_memWf h) (State.schedLoad_memWf h))

end Sys2Proof.Machine
end

section
/-! SUPPORT. Keeping the form: operands in memory, contexts, keys, the command window and the issue stage (spec/04_system.md, spec/06_control.md). -/
namespace Sys2Proof.Machine
variable {s : State}

theorem execTret_memWf {f : FmtZ} (h : s.MemWf) : OutWf (execTret f s) := by
  unfold execTret
  refine issueEach_memWf h (fun _ _ _ h => ?_)
  dsimp only
  split
  · exact trivial
  · split
    · exact State.leaveInst_memWf h
    · exact h
theorem State.releaseHold_memWf {k : Held} (h : s.MemWf) : (s.releaseHold k).MemWf := by
  unfold State.releaseHold
  refine foldl_wf ?_ (fun _ _ h => ?_)
  · refine foldl_wf h (fun _ _ h => ?_)
    dsimp only
    split
    · exact h
    · exact ite_memWf (State.access_memWf h) h
  · dsimp only
    split
    · exact State.settleJob_memWf h
    · exact h
    · split
      · exact State.finishReject_memWf h
      · exact h
    · split
      · exact State.performTx_memWf h
      · exact h
theorem execTretRec_memWf {f : FmtZ} (h : s.MemWf) : OutWf (execTretRec f s) := by
  unfold execTretRec
  refine issueZ_memWf h (fun _ _ h => ?_)
  split
  · exact State.releaseHold_memWf h
  · exact h
theorem State.crWrite_memWf {t : Thread} {asid die cr x : Nat} (h : s.MemWf) : (s.crWrite t asid die cr x).MemWf := by
  unfold State.crWrite
  dsimp only
  split
  · exact h
  · exact h
  · exact h
  · exact h
  · exact h
  · exact h
  · exact h
  · exact h
  · exact h
  · exact h
  · exact h
  · exact ite_memWf h (State.publish_memWf h)
  · exact h
theorem execCrd_memWf {f : FmtZ} (h : s.MemWf) : OutWf (execCrd f s) := by
  unfold execCrd
  refine issueZ_memWf h (fun _ _ h => ?_)
  dsimp only
  split <;> exact h
theorem execCwr_memWf {f : FmtZ} (h : s.MemWf) : OutWf (execCwr f s) := by
  unfold execCwr
  refine issueZ_memWf h (fun _ _ h => ?_)
  dsimp only
  split
  · exact h
  · exact State.crWrite_memWf h
theorem execGracePeriodExpiry_memWf (h : s.MemWf) : OutWf (execGracePeriodExpiry s) := by
  unfold execGracePeriodExpiry
  (repeat' split) <;> exact h
theorem execOpfRecordWrite_memWf (h : s.MemWf) : OutWf (execOpfRecordWrite s) := by
  unfold execOpfRecordWrite
  dsimp only
  split
  · exact h
  · split
    · exact h
    · exact .mk (State.hwWrite_memWf _ h _ _)
theorem OpStop.res_memWf {e : OpStop} {put : Nat → Res} (hf : ∀ c, (put c).MemWf) : (e.res put).MemWf := by
  cases e with
  | fault => trivial
  | status c => exact hf c
  | stall => trivial
theorem State.peerOpRead_memWf {t : Thread} {iaddr : DWord} {ea n : Nat} (h : s.MemWf) : (s.peerOpRead t iaddr ea n).1.MemWf := by
  unfold State.peerOpRead
  dsimp only
  split
  · exact (State.check_memWf h).fst ‹_›
  · (repeat' split) <;> exact (State.readPieces_memWf ((State.check_memWf h).fst ‹_›) _ _ _ _).fst ‹_›
theorem State.opRead_memWf {t : Thread} {iaddr : DWord} {ea n : Nat} (h : s.MemWf) : (s.opRead t iaddr ea n).1.MemWf := by
  unfold State.opRead
  dsimp only
  split
  · exact h
  · split
    · exact (State.load_memWf h _ _ _ _ _ _).fst ‹_›
    · exact (State.load_memWf h _ _ _ _ _ _).fst ‹_›
    · exact (State.load_memWf h _ _ _ _ _ _).fst ‹_›
    · exact State.schedLoad_memWf ((State.load_memWf h _ _ _ _ _ _).fst ‹_›)
    · exact (State.load_memWf h _ _ _ _ _ _).fst ‹_›
    · exact State.peerOpRead_memWf ((State.load_memWf h _ _ _ _ _ _).fst ‹_›)
theorem State.peerOpWrite_memWf {t : Thread} {ea : Nat} {b : List Byte} (h : s.MemWf) : (s.peerOpWrite t ea b).1.MemWf := by
  unfold State.peerOpWrite
  dsimp only
  split
  · exact (State.check_memWf h).fst ‹_›
  · have h1 := (State.check_memWf h).fst ‹_›
    exact ite_memWf_fst h1 (foldl_wf (foldl_wf h1 (fun _ _ h => ite_memWf h (State.putOne_memWf h))) (fun _ _ h => State.pushOut_memWf h))
theorem State.opWrite_memWf {t : Thread} {ea : Nat} {b : List Byte} (h : s.MemWf) : (s.opWrite t ea b).1.MemWf := by
  unfold State.opWrite
  split
  · exact h
  · split
    · exact (State.store_memWf h _ _ _ _ _ _).fst ‹_›
    · exact (State.store_memWf h _ _ _ _ _ _).fst ‹_›
    · exact (State.store_memWf h _ _ _ _ _ _).fst ‹_›
    · exact State.schedStore_memWf ((State.store_memWf h _ _ _ _ _ _).fst ‹_›)
    · exact (State.store_memWf h _ _ _ _ _ _).fst ‹_›
    · exact State.peerOpWrite_memWf ((State.store_memWf h _ _ _ _ _ _).fst ‹_›)
theorem issueOps_memWf {r : Rights} {g : Guard} {f : Path → State → Thread → Res} (h : s.MemWf)
    (hf : ∀ p s t, s.MemWf → (f p s t).MemWf) : (issueOps s r g f).MemWf := by
  unfold issueOps
  split
  · exact h
  · split
    · exact issueEach_memWf h hf
    · refine foldl_wf h fun _ _ h => ?_
      split
      · exact h
      · exact State.modThread_memWf (State.ask_memWf h)
theorem issueLong_memWf {f : FmtL} {r : Rights} {n : Nat} {go : Path → State → Thread → State × Except OpStop (List Nat)} (h : s.MemWf)
    (hf : ∀ p s t, s.MemWf → (go p s t).1.MemWf) : (issueLong s f r n go).MemWf := by
  unfold issueLong
  refine issueOps_memWf h fun p s t h => ?_
  have put {x : State} {ws : List Nat} (hx : x.MemWf) : Res.MemWf (match x.thread? t.fg t.lane with
      | some u => .ok (x.pendL u { fmtLPend f p n with val := some ((ws ++ [x.anyWord]).take n |>.map (BitVec.ofNat 32)) })
      | none => .ok x) := by split <;> exact hx
  dsimp only
  split
  · exact OpStop.res_memWf fun _ => put h
  · exact put ((hf p s t h).fst ‹_›)
theorem State.finishSeal_memWf {x : SealCmd} (h : s.MemWf) : (s.finishSeal x).MemWf := by
  unfold State.finishSeal
  extract_lets _ s' commit n text
  have hs : s'.MemWf := h
  have commit_memWf {y : State} {a b : Nat} (hy : y.MemWf) : (commit y a b).MemWf := State.modPend_memWf hy
  split
  · exact commit_memWf h
  · refine ite_memWf (commit_memWf h) ?_
    extract_lets seq s1 msix s2 ids _ s3
    clear_value msix
    have h1 : s1.MemWf := State.store_memWf hs _ _ _ _ _ _
    have h2 : s2.MemWf := by
      unfold s2
      split
      · exact State.setVf_memWf h1
      · exact h1
    exact commit_memWf (State.modCtx_memWf (.mk h2))
theorem State.settleSeals_memWf (h : s.MemWf) : s.settleSeals.MemWf := foldl_wf h (fun _ _ h => State.finishSeal_memWf h)
theorem State.settleAll_memWf (h : s.MemWf) : s.settleAll.MemWf := by
  unfold State.settleAll
  exact State.answerLost_memWf (State.settleSeals_memWf (State.settle_memWf h))
theorem execCtxsaveSeal_memWf {f : FmtL} (h : s.MemWf) : OutWf (execCtxsaveSeal f s) := by
  unfold execCtxsaveSeal
  refine issueEach_memWf h (fun _ _ _ h => ?_)
  dsimp only
  split
  · split
    · exact h
    · split
      · exact OpStop.res_memWf (fun _ => State.pendL_memWf ((State.check_memWf h).fst ‹_›))
      · exact State.settleAll_memWf (.mk (State.pendU_memWf (State.stopBlocks_memWf ((State.check_memWf h).fst ‹_›))))
  · split
    · exact h
    · split
      · exact OpStop.res_memWf (fun _ => State.pendL_memWf ((State.check_memWf h).fst ‹_›))
      · exact State.settleAll_memWf (.mk (State.pendU_memWf (State.stopBlocks_memWf ((State.check_memWf h).fst ‹_›))))
theorem execCtxsaveReset_memWf {f : FmtL} (h : s.MemWf) : OutWf (execCtxsaveReset f s) := by
  unfold execCtxsaveReset
  refine issueEach_memWf h (fun _ _ _ h => ?_)
  dsimp only
  split
  · split
    · exact h
    · exact State.modCtx_memWf (State.pendU_memWf (State.endContext_memWf h))
  · split
    · exact h
    · exact State.modCtx_memWf (State.pendU_memWf (State.endContext_memWf h))
theorem State.forgetKeys_memWf {asid : Nat} (h : s.MemWf) : (s.forgetKeys asid).MemWf := h
theorem State.clearRecords_memWf {asid : Nat} (h : s.MemWf) : (s.clearRecords asid).MemWf := foldl_wf h (fun _ _ h => State.hwWrite_memWf _ h _ _)
theorem execContextEndDone_memWf (h : s.MemWf) : OutWf (execContextEndDone s) := by
  unfold execContextEndDone
  dsimp only
  split
  · exact h
  · split
    · exact h
    · exact .mk (State.forgetKeys_memWf (ite_memWf (.mk (State.clearRecords_memWf (State.forgetKeys_memWf (foldl_wf (ite_memWf h (State.hwEvent_memWf
          h)) (fun _ _ h => h))))) (State.record_memWf (.mk (State.clearRecords_memWf (State.forgetKeys_memWf (foldl_wf (ite_memWf h
          (State.hwEvent_memWf h)) (fun _ _ h => h))))))))
theorem State.unseen_memWf {asid : Nat} {due : Bool} (h : s.MemWf) : (s.unseen asid due).MemWf := ite_memWf h h
theorem State.restoreForeign_memWf {asid : Nat} {text : List Byte} (h : s.MemWf) : (s.restoreForeign asid text).1.MemWf :=
  State.modCtx_memWf (.mk (foldl_wf h (fun _ _ h => h)))
theorem State.restore_memWf {c : Ctx} {text : List Byte} (h : s.MemWf) : (s.restore c text).MemWf := by
  unfold State.restore
  dsimp only
  split
  · refine State.setVf_memWf ?_
    refine State.unseen_memWf ?_
    refine State.modCtx_memWf ?_
    refine .mk ?_
    split
    · exact h
    · exact State.restoreForeign_memWf h
  · refine State.unseen_memWf ?_
    refine State.modCtx_memWf ?_
    refine .mk ?_
    split
    · exact h
    · exact State.restoreForeign_memWf h
theorem execCtxloadImage_memWf {f : FmtL} (h : s.MemWf) : OutWf (execCtxloadImage f s) := by
  unfold execCtxloadImage
  refine issueLong_memWf h (fun _ _ _ h => ?_)
  dsimp only
  split
  · exact h
  · split
    · exact h
    · split
      · exact h
      · split
        · exact (State.opRead_memWf h).fst ‹_›
        · have h1 := (State.opRead_memWf h).fst ‹_›
          split
          · exact (State.opRead_memWf h1).fst ‹_›
          · have h2 := (State.opRead_memWf h1).fst ‹_›
            split
            · exact h2
            · exact ite_memWf_fst h2 (ite_memWf_fst h2 (State.restore_memWf h2))
theorem execCtxloadNew_memWf {f : FmtL} (h : s.MemWf) : OutWf (execCtxloadNew f s) := by
  unfold execCtxloadNew
  refine issueLong_memWf h (fun _ _ _ h => ?_)
  dsimp only
  split
  · exact h
  · split
    · exact (State.opRead_memWf h).fst ‹_›
    · exact .mk ((State.opRead_memWf h).fst ‹_›)
theorem execCtxloadResume_memWf {f : FmtL} (h : s.MemWf) : OutWf (execCtxloadResume f s) := by
  unfold execCtxloadResume
  refine issueLong_memWf h (fun _ _ _ h => ?_)
  dsimp only
  split
  · exact h
  · exact ite_memWf_fst h (ite_memWf_fst h (State.modCtx_memWf (State.unseen_memWf h)))
theorem execKwrapGive_memWf {f : FmtL} (h : s.MemWf) : OutWf (execKwrapGive f s) := by
  unfold execKwrapGive
  refine issueOps_memWf h (fun _ _ _ h => ?_)
  dsimp only
  split
  · exact trivial
  · split
    · exact h
    · split
      · exact h
      · split
        · exact State.pendL_memWf (State.ensureKey_memWf h)
        · split
          · exact OpStop.res_memWf (fun _ => State.pendL_memWf (State.ensureKey_memWf h))
          · exact State.pendL_memWf ((State.opWrite_memWf (State.ensureKey_memWf h)).fst ‹_›)
theorem execKwrapTake_memWf {f : FmtL} (h : s.MemWf) : OutWf (execKwrapTake f s) := by
  unfold execKwrapTake
  refine issueOps_memWf h fun _ s t h => ?_
  extract_lets asid _ put
  have put_memWf {x : State} {a b : Nat} (hx : x.MemWf) : (put x a b).MemWf := hx
  split
  · trivial
  · split
    · exact OpStop.res_memWf fun _ => put_memWf h
    · exact put_memWf ((State.opRead_memWf h).fst ‹_›)
    · rename_i x b c read _
      have hx : x.MemWf := (State.opRead_memWf h).fst read
      split
      · exact put_memWf hx
      · split
        · exact put_memWf hx
        · split
          · exact put_memWf hx
          · exact put_memWf (.setMem hx)
theorem execKwrapEscrow_memWf {f : FmtL} (h : s.MemWf) : OutWf (execKwrapEscrow f s) := by
  unfold execKwrapEscrow
  refine issueLong_memWf h (fun _ _ _ h => ?_)
  dsimp only
  split
  · exact h
  · split
    · exact h
    · split
      · exact (State.opRead_memWf h).fst ‹_›
      · have h1 := (State.opRead_memWf h).fst ‹_›
        split
        · exact h1
        · split
          · exact (State.opWrite_memWf h1).fst ‹_›
          · exact State.modCtx_memWf (.mk ((State.opWrite_memWf h1).fst ‹_›))
theorem State.installSlots_memWf {asid : Nat} {l : List (Nat × Option Nat × Nat)} {renumber : Bool} (h : s.MemWf) :
    (s.installSlots asid l renumber).MemWf := by
  unfold State.installSlots
  refine foldl_wf h (fun _ _ h => ?_)
  dsimp only
  split <;> exact h
theorem execKwrapImport_memWf {f : FmtL} (h : s.MemWf) : OutWf (execKwrapImport f s) := by
  unfold execKwrapImport
  refine issueOps_memWf h (fun _ _ _ h => ?_)
  dsimp only
  split
  · exact trivial
  · split
    · exact h
    · split
      · exact OpStop.res_memWf (fun _ => h)
      · have h1 := (State.opRead_memWf h).fst ‹_›
        split
        · exact OpStop.res_memWf (fun _ => State.pendL_memWf h1)
        · have h2 := (State.opRead_memWf h1).fst ‹_›
          split
          · exact State.pendL_memWf h2
          · split
            · exact State.pendL_memWf (State.installSlots_memWf h2)
            · split
              · exact OpStop.res_memWf (fun _ => State.pendL_memWf h2)
              · exact State.pendL_memWf (State.installSlots_memWf (.mk ((State.opWrite_memWf h2).fst ‹_›)))
theorem execKdrop_memWf {f : FmtZ} (h : s.MemWf) : OutWf (execKdrop f s) := by
  unfold execKdrop
  refine issueEach_memWf h fun _ s t h => ?_
  extract_lets asid k put
  have put_memWf {x : State} {a : Nat} (hx : x.MemWf) : (put x a).MemWf := hx
  split
  · trivial
  · split
    · exact put_memWf h
    · generalize List.range 65536 = bufs
      split
      · split <;> exact put_memWf h
      · split <;> exact put_memWf h
theorem execKdropErase_memWf {f : FmtZ} (h : s.MemWf) : OutWf (execKdropErase f s) := by
  unfold execKdropErase
  refine issueOps_memWf h (fun _ _ _ h => ?_)
  dsimp only
  split
  · exact h
  · split
    · split
      · exact OpStop.res_memWf (fun _ => h)
      · have h1 := (State.opRead_memWf h).fst ‹_›
        split
        · exact State.modThread_memWf (State.endContext_memWf h1)
        · exact State.modThread_memWf h1
    · exact h
theorem issueAttest_memWf {f : FmtL} {r : Rights} {kind : Nat} (h : s.MemWf) : (issueAttest s f r kind).MemWf := by
  unfold issueAttest
  refine issueLong_memWf h (fun _ _ _ h => ?_)
  dsimp only
  split
  · exact (State.opRead_memWf h).fst ‹_›
  · split <;> exact (State.opWrite_memWf ((State.opRead_memWf h).fst ‹_›)).fst ‹_›
theorem State.leafAt_memWf {t : Thread} {va : Nat} (h : s.MemWf) : (s.leafAt t va).1.MemWf := by
  unfold State.leafAt
  split
  · exact State.translate_memWf h
  · exact h
  · exact h
theorem State.leavesOf_memWf {t : Thread} : ∀ (n : Nat) {s : State} {va : Nat} (_ : s.MemWf), (s.leavesOf t n va).1.MemWf
  | 0, _, _, h => h
  | n + 1, _, _, h => State.leavesOf_memWf n (State.leafAt_memWf h)
theorem execScrubVirt_memWf {f : FmtL} (h : s.MemWf) : OutWf (execScrubVirt f s) := by
  unfold execScrubVirt
  refine issueLong_memWf h (fun _ _ _ h => ?_)
  dsimp only
  split
  · exact h
  · split
    · exact State.leavesOf_memWf _ h
    · split
      · exact State.leavesOf_memWf _ h
      · refine foldl_wf (State.leavesOf_memWf _ h) (fun _ _ h => ?_)
        split <;> exact h
theorem execMoncfg_memWf {f : FmtZ} (h : s.MemWf) : OutWf (execMoncfg f s) := by
  unfold execMoncfg
  refine issueEach_memWf h (fun _ _ _ h => ?_)
  dsimp only
  split
  · exact trivial
  · exact h
theorem execEvpost_memWf {f : FmtZ} (h : s.MemWf) : OutWf (execEvpost f s) := by
  unfold execEvpost
  refine issueEach_memWf h (fun _ _ _ h => ?_)
  dsimp only
  split
  · exact trivial
  · exact State.modThread_memWf (State.post_memWf h)
theorem State.finishWindow_memWf {w : Nat} (h : s.MemWf) : (s.finishWindow w).MemWf := by
  unfold State.finishWindow
  dsimp only
  split
  · exact h
  · split
    · exact h
    · refine State.dropBlocks_memWf ?_
      split <;> exact h
theorem State.takePath_memWf {g : FileGroup} {k : PoolKey} {lg : Nat} {free : List Nat} (h : s.MemWf) : (s.takePath g k lg free).MemWf := h
theorem State.fillPaths_memWf {fg : Nat} : ∀ (n : Nat) {s : State} (_ : s.MemWf), (s.fillPaths fg n).MemWf
  | 0, _, h => h
  | n + 1, _, h => by
    unfold State.fillPaths
    split
    · exact h
    · split
      · exact State.fillPaths_memWf n (State.takePath_memWf h)
      · exact h
theorem State.boundaryEvent_memWf {fg lane : Nat} (h : s.MemWf) : (s.boundaryEvent fg lane).MemWf := by
  unfold State.boundaryEvent
  dsimp only
  split
  · exact h
  · split
    · exact h
    · split
      · exact State.takeTrap_memWf h
      · split
        · exact ite_memWf h h
        · split
          · exact h
          · exact ite_memWf h (State.takeTrap_memWf h)
theorem State.milestones_memWf {old : Nat} (h : s.MemWf) : (s.milestones old).MemWf := by
  unfold State.milestones
  split
  · exact h
  · refine foldl_wf h (fun _ _ h => ?_)
    split
    · exact ite_memWf (State.boundaryEvent_memWf h) h
    · exact h
theorem State.pathEvents_memWf {p : Path} (h : s.MemWf) : (s.pathEvents p).MemWf :=
  ite_memWf h (foldl_wf h (fun _ _ h => State.boundaryEvent_memWf h))
theorem State.boundaryEvents_memWf {fg : Nat} (h : s.MemWf) : (s.boundaryEvents fg).MemWf := foldl_wf h (fun _ _ h => State.boundaryEvent_memWf h)
theorem State.ageFill_memWf {core unit : Nat} (h : s.MemWf) : (s.ageFill core unit).MemWf := by
  unfold State.ageFill
  dsimp only
  split
  · exact h
  · split
    · exact foldl_wf h (fun _ _ h => State.boundaryEvents_memWf h)
    · split
      · exact foldl_wf h (fun _ _ h => State.boundaryEvents_memWf h)
      · split
        · exact foldl_wf h (fun _ _ h => State.boundaryEvents_memWf h)
        · exact .mk (State.takePath_memWf (foldl_wf h (fun _ _ h => State.boundaryEvents_memWf h)))
theorem execClauseBoundary_memWf (h : s.MemWf) : OutWf (execClauseBoundary s) := by
  unfold execClauseBoundary
  dsimp only
  split
  · exact h
  · exact State.settleAll_memWf (State.fillPaths_memWf _ (State.ageFill_memWf (State.boundaryEvents_memWf h)))
theorem State.stepEnd_memWf {old : Nat} (h : s.MemWf) : (s.stepEnd old).MemWf := State.milestones_memWf (State.answerCross_memWf h)
theorem State.faultPath_memWf {p : Path} {code : Nat} {addr iaddr : DWord} (h : s.MemWf) : (s.faultPath p code addr iaddr).MemWf := by
  unfold State.faultPath
  refine State.dropPath_memWf ?_
  refine foldl_wf h (fun _ _ h => ?_)
  dsimp only
  split
  · exact h
  · exact State.takeTrap_memWf h
theorem State.fetchBytes_memWf {p : Path} {n : Nat} (h : s.MemWf) : (s.fetchBytes p n).1.MemWf := by
  unfold State.fetchBytes
  dsimp only
  split
  · exact (State.check_memWf h).fst ‹_›
  · (repeat' split) <;> exact (State.readPieces_memWf ((State.check_memWf h).fst ‹_›) _ _ _ _).fst ‹_›
theorem State.fetchClause_memWf {p : Path} (h : s.MemWf) : (s.fetchClause p).1.MemWf := by
  unfold State.fetchClause
  split
  · exact (State.fetchBytes_memWf h).fst ‹_›
  · rename_i x hd read
    have hx : x.MemWf := (State.fetchBytes_memWf h).fst read
    split <;> exact (State.fetchBytes_memWf hx).fst ‹_›
theorem execClauseFetch_memWf (h : s.MemWf) : OutWf (execClauseFetch s) := by
  unfold execClauseFetch
  extract_lets x
  have hx : x.MemWf := by
    unfold x
    split
    · exact ite_memWf (State.pathEvents_memWf h) h
    · exact h
  split
  · exact hx
  · split
    · exact hx
    · split
      · exact State.faultPath_memWf ((State.fetchClause_memWf hx).fst ‹_›)
      · exact State.setPath_memWf (State.ask_memWf ((State.fetchClause_memWf hx).fst ‹_›))
      · rename_i y ws read
        have hy : y.MemWf := (State.fetchClause_memWf hx).fst read
        split
        · exact State.faultPath_memWf hy
        · exact ite_memWf (State.dropPath_memWf (.mk hy)) (State.setPath_memWf (.mk hy))
theorem State.perform_memWf {t : Thread} {p : Pending} {k : Nat} (h : s.MemWf) : (s.perform t p k).MemWf := by
  unfold State.perform
  split
  · exact h
  · split
    · exact State.doTdef_memWf h
    · exact State.doTseal_memWf h
    · exact State.doLaunch_memWf h
    · exact State.doRegs_memWf h
    · exact State.performTodo_memWf h
theorem State.afterPend_memWf {t : Thread} (h : s.MemWf) : (s.afterPend t).MemWf := by
  unfold State.afterPend
  exact State.settleAll_memWf (ite_memWf (State.finishWindow_memWf h) h)
theorem execLongLatencyCommit_memWf (h : s.MemWf) : OutWf (execLongLatencyCommit s) := by
  unfold execLongLatencyCommit
  split
  · exact h
  · split
    · split <;> exact State.afterPend_memWf h
    · split
      · exact h
      · exact State.afterPend_memWf (State.perform_memWf h)
theorem execErrorCompletion_memWf (h : s.MemWf) : OutWf (execErrorCompletion s) := by
  unfold execErrorCompletion
  dsimp only
  split
  · exact h
  · split
    · exact State.finishWindow_memWf h
    · split
      · exact h
      · exact State.afterPend_memWf h
theorem execRendezvousRelease_memWf (h : s.MemWf) : OutWf (execRendezvousRelease s) := by
  unfold execRendezvousRelease
  dsimp only
  split
  · exact h
  · split
    · exact State.boundaryEvents_memWf h
    · exact .mk (State.newUid_memWf (State.boundaryEvents_memWf h))
theorem execJoinRelease_memWf (h : s.MemWf) : OutWf (execJoinRelease s) := by
  unfold execJoinRelease
  dsimp only
  split <;> exact h
theorem execWaitmRelease_memWf (h : s.MemWf) : OutWf (execWaitmRelease s) := by
  unfold execWaitmRelease
  (repeat' split) <;> exact h
theorem execSleepExpiry_memWf (h : s.MemWf) : OutWf (execSleepExpiry s) := by
  unfold execSleepExpiry
  (repeat' split) <;> exact h
theorem execSyncDeadlock_memWf (h : s.MemWf) : OutWf (execSyncDeadlock s) := by
  unfold execSyncDeadlock
  split
  · exact h
  · split
    · exact h
    · refine foldl_wf h (fun _ _ h => ?_)
      split
      · exact h
      · exact State.takeTrap_memWf h
theorem execBankQueueWrite_memWf (h : s.MemWf) : OutWf (execBankQueueWrite s) := by
  unfold execBankQueueWrite
  split <;> exact h
theorem execCacheWriteBack_memWf (h : s.MemWf) : OutWf (execCacheWriteBack s) := by
  unfold execCacheWriteBack
  dsimp only
  split
  · split
    · exact h
    · exact .setMem (State.wbL1Line_memWf h _)
  · split
    · exact h
    · split
      · exact h
      · exact .setMem (State.wbSliceLine_memWf h _)
theorem State.takeDue_memWf {p : Path} {lanes : List Nat} (h : s.MemWf) : (s.takeDue p lanes).MemWf := by
  unfold State.takeDue
  refine foldl_wf h (fun _ _ h => ?_)
  dsimp only
  split
  · exact h
  · split
    · exact h
    · exact State.takeTrap_memWf h
theorem State.joinHold_memWf {p : Path} (h : s.MemWf) : OptWf (s.joinHold p) := by
  unfold State.joinHold
  dsimp only
  split
  · exact trivial
  · split
    · exact trivial
    · unfold Option.map
      split
      · exact h
      · exact trivial
theorem State.issueSlot_memWf {p : Path} (h : s.MemWf) : (s.issueSlot p).MemWf := h
theorem State.toHead_memWf {p : Path} (h : s.MemWf) : (s.toHead p).MemWf := h
theorem State.withRegs_memWf {fg : Nat} {from_ : State} (h : s.MemWf) : (s.withRegs fg from_).MemWf := by
  unfold State.withRegs
  split <;> exact h
theorem State.tick_memWf (h : s.MemWf) : s.tick.MemWf := h

end Sys2Proof.Machine
end

section
/-! SUPPORT. Every instruction, every event and every step keeps the canonical form of memory. -/
namespace Sys2Proof.Machine
variable {s : State}

/-- The instructions that a command window takes. -/
theorem sysExec_memWf {i : Instr} {o : Out} (h : s.MemWf) (e : sysExec i s = some o) : OutWf o := by
  unfold sysExec at e
  split at e <;> cases e
  · exact issueEach_memWf h (fun _ _ _ h => h)
  · exact execTret_memWf h
  · exact execTretRec_memWf h
  · exact execCrd_memWf h
  · exact execCwr_memWf h
  · exact issueZ_memWf h (fun _ _ h => ite_memWf_fst h h)
  · exact issueZ_memWf h (fun _ _ h => ite_memWf_fst h h)
  · exact execCtxsaveSeal_memWf h
  · exact execCtxsaveReset_memWf h
  · exact execCtxloadImage_memWf h
  · exact execCtxloadNew_memWf h
  · exact execCtxloadResume_memWf h
  · exact execKwrapGive_memWf h
  · exact execKwrapTake_memWf h
  · exact execKwrapEscrow_memWf h
  · exact execKwrapImport_memWf h
  · exact execKdrop_memWf h
  · exact execKdropErase_memWf h
  · exact issueAttest_memWf h
  · exact issueAttest_memWf h
  · exact issueZ_memWf h (fun _ _ h => ite_memWf_fst h h)
  · exact issueZ_memWf h (fun _ _ h => ite_memWf_fst h h)
  · exact execMoncfg_memWf h
  · exact issueZ_memWf h (fun _ _ h => ite_memWf_fst h h)
  · exact execEvpost_memWf h
  · exact issueEach_memWf h (fun _ _ _ h => h)
  · exact execScrubVirt_memWf h
  · exact issueLong_memWf h (fun _ _ _ h => ite_memWf_fst h (ite_memWf_fst h (foldl_wf h (fun _ _ h => h))))
  · exact issueZ_memWf h (fun _ _ h => ite_memWf_fst h h)
  · exact issueZ_memWf h (fun _ _ h => State.rankSet_memWf h)
  · exact execPlanemapMap_memWf h
  · exact issueZ_memWf h (fun _ _ h => ite_memWf_fst h (State.pump_memWf h))
  · exact issueZ_memWf h (fun _ _ h => h)
  · exact issueZ_memWf h (fun _ _ h => ite_memWf_fst h (ite_memWf_fst h (State.pump_memWf (State.publish_memWf h))))
  · exact issueZ_memWf h (fun _ _ h => ite_memWf_fst h (State.releasePar_memWf h))
  · exact issueZ_memWf h (fun _ _ h => ite_memWf_fst h h)
  · exact issueZ_memWf h (fun _ _ h => h)
  · exact execNlaunch_memWf h
  · exact execNwait_memWf h
  · exact issueEach_memWf h (fun _ _ _ h => h)
  · exact execPlaceRsv_memWf h
  · exact issueSys_memWf h (fun _ _ h => ite_memWf_fst h h)
  · exact issueSys_memWf h (fun _ _ h => State.closeSlots_memWf h)
  · exact issueSys_memWf h (fun _ _ h => State.closeSlots_memWf h)
  · exact issueEach_memWf h (fun _ _ _ h => State.settle_memWf (.mk (State.pendU_memWf (State.stopSaved_memWf h))))
  · exact issueSys_memWf h (fun _ _ h => ite_memWf_fst h (ite_memWf_fst h h))
  · exact issueSys_memWf h (fun _ _ h => ite_memWf_fst h h)
  · exact execSlicesetMove_memWf h
  · exact issueSys_memWf h (fun _ _ h => ite_memWf_fst h h)
theorem execCommandWindowExec_memWf (h : s.MemWf) : OutWf (execCommandWindowExec s) := by
  unfold execCommandWindowExec
  dsimp -zeta only [State.newUid]
  extract_lets w w0 w1 fail v0 hdr b g p
  have failed {c : Nat} : OutWf (fail c) := h
  split
  · exact State.finishWindow_memWf h
  · split
    · exact h
    · split
      · exact failed
      · split
        · exact failed
        · split
          · exact failed
          · exact failed
          · split
            · exact failed
            · extract_lets uses dst dregs v t x
              have hx : x.MemWf := h
              split
              · rename_i y ran
                have hy : y.MemWf := sysExec_memWf hx ran
                exact State.finishWindow_memWf (State.modThread_memWf hy)
              · exact hx
theorem exec_memWf_of_sysExec {i : Instr} (h : s.MemWf) (e : sysExec i s = some (exec i s)) : OutWf (exec i s) := sysExec_memWf h e
/-- Each row of the opcode table. -/
theorem exec_memWf (i : Instr) (h : s.MemWf) : OutWf (exec i s) := by
  cases i with
  | trap _ | tret _ | tretRec _ | crd _ | cwr _ | mapack _ | maprd _ | ctxsaveSeal _ | ctxsaveReset _ | ctxloadImage _ | ctxloadNew _
  | ctxloadResume _ | kwrapGive _ | kwrapTake _ | kwrapEscrow _ | kwrapImport _ | kdrop _ | kdropErase _ | attestCtx _ | attestModule _ | cntrd _
  | cntcfg _ | moncfg _ | monrd _ | evpost _ | yieldC _ | scrubVirt _ | scrubPhys _ | rankmapGet _ | rankmapSet _ | planemapMap _ | planemapShare _
  | planemapGet _ | planemapRetrain _ | paritycfgSet _ | paritycfgRebuild _ | paritycfgGet _ | nlaunch _ | nwait _ | nquery _ | placeRsv _
  | placeFree _ | placeClose _ | placeOpen _ | preempt _ | slicesetAssign _ | slicesetTarget _ | slicesetMove _ | slicesetPool _ =>
    exact exec_memWf_of_sysExec h rfl
  | commandWindowExec => exact execCommandWindowExec_memWf h
  | addS _ | subS _ | mulS _ | minS _ | maxS _ | andS _ | orS _ | xorS _ | andnS _ | shlS _ | shrS _ | sarS _ | rolS _ => exact intS2_memWf h
  | add _ | sub _ | sadd _ | ssub _ | mul _ | mulh _ | min _ | max _ | and _ | or _ | xor _ | andn _ => exact intA2_memWf h
  | addc _ | subb _ => exact intCarry_memWf h
  | mad _ | dot4 _ | bfx _ | bfi _ | prmt _ | sel _ | mov _ | lea _ | cvti _ => exact intA_memWf h
  | div _ | rem _ => exact intDiv_memWf h
  | abs _ | neg _ | not _ | brev _ => exact intA1_memWf h
  | shl _ | shr _ | sar _ | rol _ => exact intASh_memWf h
  | popc _ | clz _ | ctz _ => exact intCnt_memWf h
  | setp _ | movS _ | nopShort _ | nop _ | leave _ | elect _ | fcmp _ | fcvt _ | flagrd _ | flagclr _ | unpack8 _ | fence _ | acq _ | tdrop _
  | tquery _ =>
    exact issueEach_memWf h (fun _ _ _ h => h)
  | pand _ | por _ | pxor _ | pnot _ => exact intPred_memWf h
  | movi _ => exact execMovi_memWf h
  | braShort _ | bra _ | brx _ | callShort _ | call _ | retShort _ | ret _ => exact branchEach_memWf h
  | brc _ => exact issueCross_memWf h (fun _ _ _ h => ite_memWf (foldl_wf h (fun _ _ h => h)) h)
  | exitShort _ | exit _ => exact issueExit_memWf h
  | join _ | waitm _ | sleep _ => exact holdEach_memWf h
  | mask _ => exact execMask_memWf h
  | vote _ => exact execVote_memWf h
  | shfl _ => exact execShfl_memWf h
  | scan _ | lred _ | matchL _ => exact issueCross_memWf h (fun _ _ _ h => foldl_wf h (fun _ _ h => h))
  | fadd _ | fsub _ | fmul _ | ffma _ | fmin _ | fmax _ | fclass _ | frnd _ | fscl _ | hadd2 _ | hmul2 _ | hfma2 _ | pack8 _ => exact fpA_memWf h
  | frcp _ | frsq _ | fsqrt _ | fex2 _ | flg2 _ | fsin _ | fcos _ | ftanh _ | fsigm _ => exact fpL_memWf h
  | ld _ => exact issueLd_memWf h (fun _ _ _ h => State.access_memWf h)
  | st _ => exact issueSt_memWf h (fun _ _ _ h => State.access_memWf h)
  | lds _ => exact execLds_memWf h
  | sts _ => exact execSts_memWf h
  | prf _ => exact issueEach_memWf h (fun _ _ _ h => State.pendL_memWf (foldl_wf h (fun _ _ h => State.prefetch_memWf h)))
  | mprobe _ => exact issueEach_memWf h (fun _ _ _ h => State.pendL_memWf (State.probe_memWf h))
  | dirtysw _ => exact issueEach_memWf h (fun _ _ _ h => State.pendL_memWf (State.swapDirty_memWf h))
  | rel _ => exact execRel_memWf h
  | bind _ => exact execBind_memWf h
  | unbind _ => exact execUnbind_memWf h
  | atom _ | atomSp _ | red _ | redSp _ => exact issueAtom_memWf h
  | take _ => exact execTake_memWf h
  | tknew _ | tksave _ | tkload _ | tkdrainClose _ | tkdrainOpen _ | tkdrainFree _ => exact issueTk_memWf h
  | barinit _ => exact execBarinit_memWf h
  | arrive _ => exact issueEach_memWf h (fun _ _ _ h => State.arriveBy_memWf h)
  | arriveClu _ => exact execArriveClu_memWf h
  | arriveDom _ => exact execArriveDom_memWf h
  | expect _ => exact issueEach_memWf h (fun _ _ _ h => State.changeBar_memWf h)
  | barwait _ => exact execBarwait_memWf h
  | bartest _ => exact execBartest_memWf h
  | cpb _ => exact execCpb_memWf h
  | cpt _ => exact execCpt_memWf h
  | cpl _ => exact issueCopy_memWf h (fun _ _ _ h => State.addJob_memWf h)
  | cpa _ => exact execCpa_memWf h
  | cpcan _ => exact execCpcan_memWf h
  | tdef _ | tseal _ => exact issueShared_memWf h
  | gang _ => exact execGang_memWf h
  | oclaim _ => exact execOclaim_memWf h
  | orel _ => exact execOrel_memWf h
  | mma _ | mmag _ | mmas _ | accz _ => exact issueMatrix_memWf h
  | moduleReset => exact State.moduleReset_memWf h
  | novigImageUpdate => exact execNovigImageUpdate_memWf h
  | novigQuarantineClear => exact State.service_memWf h
  | buyerKeyAdd => exact ite_memWf (State.service_memWf h) h
  | gracePeriodExpiry => exact execGracePeriodExpiry_memWf h
  | clauseFetch => exact execClauseFetch_memWf h
  | clauseBoundary => exact execClauseBoundary_memWf h
  | ageRuleFill => exact State.ageFill_memWf h
  | opfRecordWrite => exact execOpfRecordWrite_memWf h
  | longLatencyCommit => exact execLongLatencyCommit_memWf h
  | errorCompletion => exact execErrorCompletion_memWf h
  | syncDeadlock => exact execSyncDeadlock_memWf h
  | rendezvousRelease => exact execRendezvousRelease_memWf h
  | joinRelease => exact execJoinRelease_memWf h
  | waitmRelease => exact execWaitmRelease_memWf h
  | sleepExpiry => exact execSleepExpiry_memWf h
  | nwaitWake => exact execNwaitWake_memWf h
  | bankQueueWrite => exact execBankQueueWrite_memWf h
  | cacheWriteBack => exact execCacheWriteBack_memWf h
  | tableWalk => exact State.translate_memWf h
  | atomicRequestServe => exact execAtomicRequestServe_memWf h
  | ticketTokenExit => exact execTicketTokenExit_memWf h
  | barrierArrivalCount => exact execBarrierArrivalCount_memWf h
  | remoteArrival => exact execRemoteArrival_memWf h
  | copyJobStart => exact execCopyJobStart_memWf h
  | copyChunk => exact execCopyChunk_memWf h
  | copyWindowDeadlock => exact execCopyWindowDeadlock_memWf h
  | claimGrant => exact execClaimGrant_memWf h
  | latchCommandAccept => exact execLatchCommandAccept_memWf h
  | matrixCommandStart => exact execMatrixCommandStart_memWf h
  | groupKStep => exact execGroupKStep_memWf h
  | sramUncorrectable => exact execSramUncorrectable_memWf h
  | stackUncorrectable | suspicionHalving | evClrWrite | atsInvalidation | hostAtomicopToBar => exact h
  | patrolScrub => exact foldl_wf h (fun _ _ h => ite_memWf h h)
  | laneFailure => exact ite_memWf (State.publish_memWf h) h
  | sliceErrorRateFail | stackLost | coreSelftestFail => exact ite_memWf (State.failUnit_memWf h) h
  | pcieLinkChange => exact ite_memWf (ite_memWf (State.newMap_memWf h) (State.publish_memWf h)) h
  | controlCoreRestart => exact State.restartCore_memWf h
  | contextEndDone => exact execContextEndDone_memWf h
  | qtailWrite => exact execQtailWrite_memWf h
  | qctlWrite => exact execQctlWrite_memWf h
  | packetTake => exact execPacketTake_memWf h
  | dispatchPass => exact execDispatchPass_memWf h
  | regionReserve => exact execRegionReserve_memWf h
  | serviceWindow => exact execServiceWindow_memWf h
  | nodeCompletion => exact execNodeCompletion_memWf h
  | evqRead => exact execEvqRead_memWf h
  | evSetWrite => exact State.setTag_memWf h
  | rerunEnd => exact execRerunEnd_memWf h
  | registerWrite => exact execRegisterWrite_memWf h
  | ucieFlitReceive => exact execUcieFlitReceive_memWf h
  | ucieLaneEvent => exact execUcieLaneEvent_memWf h
  | transactionReceive => exact ite_memWf (State.fabricTx_memWf h) (ite_memWf (State.performTx_memWf h) (State.dieTx_memWf h))
  | guestusFlitReceive => exact execGuestusFlitReceive_memWf h
  | fabricPortDown => exact execFabricPortDown_memWf h
  | rankLoss => exact execRankLoss_memWf h
  | tagWindowClose => exact ite_memWf (State.closeWin_memWf h) h
  | tagVerify => exact execTagVerify_memWf h
  | tagTimeout => exact execTagTimeout_memWf h
  | parityRebuild => exact execParityRebuild_memWf h
  | hostAtomicCompletion => exact execHostAtomicCompletion_memWf h
  | pxRespWrite => exact execPxRespWrite_memWf h
  | proxyTimeout => exact execProxyTimeout_memWf h
  | atsAbortTimeout => exact execAtsAbortTimeout_memWf h
  | hostDmaWrite => exact execHostDmaWrite_memWf h
  | vfTableWrite => exact execVfTableWrite_memWf h
  | functionLevelReset => exact execFunctionLevelReset_memWf h
  | eventRecordDelivery => exact execEventRecordDelivery_memWf h
  | tdiStateChange => exact execTdiStateChange_memWf h
theorem State.execLater_memWf {i : Instr} (h : s.MemWf) : OutWf (s.execLater i) := by
  unfold State.execLater
  split
  · exact issueLd_memWf h fun _ _ _ h => State.postpone_memWf h
  · exact issueSt_memWf h fun _ _ _ h => State.postpone_memWf h
  · exact exec_memWf _ h

/-! ### Steps -/

theorem State.pick_memWf {k : Nat} (h : s.MemWf) : (s.pick k).MemWf := by
  unfold State.pick
  split
  · exact h
  · rename_i p _
    have head : (s.toHead p).MemWf := State.toHead_memWf h
    extract_lets x due
    split
    · exact State.takeDue_memWf head
    · split
      · exact State.pathEvents_memWf head
      · split
        · exact (State.joinHold_memWf head).some ‹_›
        · split
          · exact head
          · split
            · exact State.issueSlot_memWf head
            · trivial
theorem State.second_memWf {a : State} {l : Nat} (h : a.MemWf) : OutWf (a.second s l) := by
  unfold State.second
  split
  · exact h
  · rename_i q _
    have chosen : ((a.withRegs q.fg s).pick l).MemWf := State.pick_memWf (State.withRegs_memWf h)
    split
    · exact h
    · split
      · rename_i j b picked
        have ran := exec_memWf j (chosen.issue picked)
        extract_lets k
        split
        · have hc := ran.next ‹_›
          split
          · exact State.setFg_memWf hc
          · exact hc
        · exact ran
      · exact State.withRegs_memWf (chosen.idle ‹_›)
      · trivial
theorem State.act_memWf {a : Act} (h : s.MemWf) : OutWf (s.act a) := by
  have chosen {k : Nat} := State.pick_memWf (k := k) h
  unfold State.act
  split
  · split
    · exact exec_memWf _ h
    · exact h
  · split
    · exact chosen.idle ‹_›
    · exact exec_memWf _ (chosen.issue ‹_›)
    · trivial
  · split
    · exact chosen.idle ‹_›
    · exact State.execLater_memWf (chosen.issue ‹_›)
    · trivial
  · extract_lets e
    split
    · exact chosen.idle ‹_›
    · rename_i i x picked
      have ran := exec_memWf i (chosen.issue picked)
      split
      · split
        · exact ran.next ‹_›
        · exact State.second_memWf (ran.next ‹_›)
      · exact ran
    · trivial
theorem State.go_memWf (h : s.MemWf) : OutWf s.go := by
  unfold State.go
  split
  · exact State.act_memWf h
  · split
    · exact State.act_memWf h
    · exact h
theorem step_memWf (h : s.MemWf) : OutWf (step s) := by
  have gone : OutWf s.tick.go := State.go_memWf (State.tick_memWf h)
  unfold step
  split
  · exact State.stepEnd_memWf (gone.next ‹_›)
  · exact gone

end Sys2Proof.Machine
end

section
/-! What is claimed of memory and of the instructions that reach it (spec/08_memory.md). -/
namespace Sys2Proof.Machine
open Claim

/-- Settles O57: the form is an invariant of every operation that a step is made of. -/
theorem memoryInvariant : Obligations.MemoryInvariant :=
  fun _ _ hp hh hs => (step_memWf ⟨hp, hh⟩).next hs

end Sys2Proof.Machine
end

section
/-! SUPPORT. The memory instructions on a path of one thread (spec/08_memory.md R210, R213 to R218): when an access is made and what it
leaves pending, the range of an address, prefetch, probe and the swap of the bitmaps, and the bounds of the scratchpad. -/
namespace Sys2Proof.Machine
open Claim

/-- The load or the store that an access makes of the memory system. -/
def State.made (s : State) (t : Thread) (a : HeldAcc) : State × AccRes :=
  if a.write then s.store false (s.coreOf t.fg) (s.asidOf t.fg) (blkOf s t) a.ea a.data
  else s.load false (s.coreOf t.fg) (s.asidOf t.fg) (blkOf s t) a.ea a.size
/-- An access is left for later: an earlier one of its thread goes before it, or it lies in sync space of another die. -/
def State.leftLater (s : State) (t : Thread) (a : HeldAcc) : Bool :=
  s.accWaits t a.uid a.touch || (s.farHome t.fg (if a.write then .wr else .rd) a.ea a.size).isSome

theorem State.access_later {s : State} {t : Thread} {a : HeldAcc} (h : s.leftLater t a = true) : s.access t a = s.postpone t a := if_pos h
theorem State.access_now {s : State} {t : Thread} {a : HeldAcc} (h : s.leftLater t a = false) : s.access t a = s.accessHere t a :=
  if_neg (Bool.eq_false_iff.mp h)
theorem State.accessHere_done {s c : State} {t : Thread} {a : HeldAcc} {bs : List Byte} (h : s.made t a = (c, .done bs)) :
    s.accessHere t a = valued c t a.uid (if a.write then [] else loadWords a.ty a.vn (a.pre ++ bs)) := by
  unfold State.made blkOf at h
  unfold State.accessHere
  simp only [h]; rfl
theorem State.accessHere_err {s c : State} {t : Thread} {a : HeldAcc} {code addr : Nat} (h : s.made t a = (c, .err code addr)) :
    s.accessHere t a = failed c t a.uid code addr := by
  unfold State.made blkOf at h
  unfold State.accessHere
  simp only [h]; rfl
/-- The words of a load (R213), by its size field as it stands. -/
theorem loadWords_toNat (ty : Nat) (vn : BitVec 2) (bs : List Byte) :
    loadWords ty vn.toNat bs = if vn = 0#2 then writeD (ofBytes bs) ty else bytesWords bs :=
  ite_congr (propext ⟨fun h => BitVec.eq_of_toNat_eq h, fun h => congrArg BitVec.toNat h⟩) (fun _ => rfl) fun _ => rfl

/-! ### LD and ST on a path of one thread -/

@[simp] theorem eaGlobal_at (s : State) (p : Path) (t : Thread) (f : FmtM) : eaGlobal (s.begun p t) (moved p t) f = eaGlobal s t f := by
  simp [eaGlobal]
@[simp] theorem eaScratch_at (s : State) (p : Path) (t : Thread) (f : FmtM) : eaScratch (s.begun p t) (moved p t) f = eaScratch s t f := by
  simp [eaScratch]
@[simp] theorem storeBytes_at (s : State) (p : Path) (t : Thread) (f : FmtM) : storeBytes (s.begun p t) (moved p t) f = storeBytes s t f := by
  simp [storeBytes]
@[simp] theorem sideStore_at (s : State) (p : Path) (t : Thread) (ea n : Nat) :
    (s.begun p t).sideStore (moved p t) ea n = s.sideStore t ea n := rfl

/-- The state in which LD and ST hand their access on: their operation is pending, under the identity that comes with it. -/
def ldPend (f : FmtM) (s : State) (p : Path) (t : Thread) : Nat × State :=
  (s.begun p t).pendU (moved p t) (fmtMPend f p (mRegs f.vn.toNat f.ty.toNat))
def stPend (f : FmtM) (s : State) (p : Path) (t : Thread) : Nat × State := (s.begun p t).pendU (moved p t) (fmtMPend f p 0)
/-- The access that they hand on. -/
def ldAcc (f : FmtM) (s : State) (p : Path) (t : Thread) : HeldAcc :=
  { fg := t.fg, lane := t.lane, uid := (ldPend f s p t).1, write := false, ea := eaGlobal s t f, size := mSize f
    ty := f.ty.toNat, vn := f.vn.toNat }
def stAcc (f : FmtM) (s : State) (p : Path) (t : Thread) : HeldAcc :=
  { fg := t.fg, lane := t.lane, uid := (stPend f s p t).1, write := true, ea := eaGlobal s t f, size := mSize f, data := storeBytes s t f }

section
variable {f : FmtM} {s : State} {p : Path} {t : Thread}

theorem ld_access (h : Alone s p rightsAll f.guard t) : Done (.ld f) s p t ((ldPend f s p t).2.access (moved p t) (ldAcc f s p t)) :=
  done_each (g := f.guard) rfl h (by rw [eaGlobal_at]; rfl)
theorem st_access (h : Alone s p rightsAll f.guard t) (hs : s.sideStore t (eaGlobal s t f) (mSize f) = false) :
    Done (.st f) s p t ((stPend f s p t).2.access (moved p t) (stAcc f s p t)) :=
  done_each (g := f.guard) rfl h (by simp only [eaGlobal_at, storeBytes_at, sideStore_at, hs, Bool.false_eq_true, if_false]; rfl)
theorem st_traps (h : Alone s p rightsAll f.guard t) (hs : s.sideStore t (eaGlobal s t f) (mSize f) = true) :
    Traps (.st f) s p t 0x4001 s.noAddr :=
  traps_each (g := f.guard) rfl h (by simp only [eaGlobal_at, sideStore_at, hs, if_true]; rfl)

theorem ld_made (h : Alone s p rightsAll f.guard t) : (ldPend f s p t).2.made (moved p t) (ldAcc f s p t) =
    (ldPend f s p t).2.load false (s.coreOf p.fg) (s.asidOf p.fg) (blkOf s t) (eaGlobal s t f) (mSize f) := by rw [← h.fg]; rfl
theorem st_made (h : Alone s p rightsAll f.guard t) : (stPend f s p t).2.made (moved p t) (stAcc f s p t) =
    (stPend f s p t).2.store false (s.coreOf p.fg) (s.asidOf p.fg) (blkOf s t) (eaGlobal s t f) (storeBytes s t f) := by rw [← h.fg]; rfl

theorem ld_later (h : Alone s p rightsAll f.guard t) (later : (ldPend f s p t).2.leftLater (moved p t) (ldAcc f s p t) = true) :
    Done (.ld f) s p t ((ldPend f s p t).2.postpone (moved p t) (ldAcc f s p t)) := State.access_later later ▸ ld_access h
theorem ld_now (h : Alone s p rightsAll f.guard t) (now : (ldPend f s p t).2.leftLater (moved p t) (ldAcc f s p t) = false) :
    Done (.ld f) s p t ((ldPend f s p t).2.accessHere (moved p t) (ldAcc f s p t)) := State.access_now now ▸ ld_access h
theorem st_later (h : Alone s p rightsAll f.guard t) (hs : s.sideStore t (eaGlobal s t f) (mSize f) = false)
    (later : (stPend f s p t).2.leftLater (moved p t) (stAcc f s p t) = true) :
    Done (.st f) s p t ((stPend f s p t).2.postpone (moved p t) (stAcc f s p t)) := State.access_later later ▸ st_access h hs
theorem st_now (h : Alone s p rightsAll f.guard t) (hs : s.sideStore t (eaGlobal s t f) (mSize f) = false)
    (now : (stPend f s p t).2.leftLater (moved p t) (stAcc f s p t) = false) :
    Done (.st f) s p t ((stPend f s p t).2.accessHere (moved p t) (stAcc f s p t)) := State.access_now now ▸ st_access h hs

/-- The words that a load leaves pending (R213). -/
theorem ld_words {c : State} {bs : List Byte} (h : Alone s p rightsAll f.guard t)
    (made : (ldPend f s p t).2.load false (s.coreOf p.fg) (s.asidOf p.fg) (blkOf s t) (eaGlobal s t f) (mSize f) = (c, .done bs)) :
    (ldPend f s p t).2.accessHere (moved p t) (ldAcc f s p t) =
      valued c t (ldPend f s p t).1 (if f.vn = 0#2 then writeD (ofBytes bs) f.ty.toNat else bytesWords bs) := by
  rw [State.accessHere_done ((ld_made h).trans made), ← loadWords_toNat]; rfl

end

/-! ### The range of an address (R192, R210) -/

theorem State.window_far (s : State) (opr : Bool) {ea : Nat} (h : 2 ^ 57 ≤ ea) : s.window opr ea = .error 0x3003 := if_pos h
/-- A failure of a portion's range comes before any translation (R210, step 1). -/
theorem State.locate_far (s : State) (core asid : Nat) (w : Want) {ea n : Nat} (ps : List (Nat × Nat)) (h : 2 ^ 57 ≤ ea) :
    s.locate core asid w ((ea, n) :: ps) = (s, .error (0x3003, ea)) := by
  unfold State.locate
  simp only [List.findSome?_cons, State.window_far s _ h]
theorem parts_head {k ea n : Nat} (he : ea < 2 ^ 64) (hn : 0 < n) : ∃ m l, parts (k + 1) ea n = (ea, m) :: l :=
  ⟨_, _, by rw [parts, if_neg (by omega), Nat.mod_eq_of_lt he]⟩
/-! ### PRF, MPROBE, DIRTYSW (R216 to R218) -/

section
variable {f : FmtM} {s : State} {p : Path} {t : Thread}

theorem prf_done (h : Alone s p rightsAll f.guard t) :
    Done (.prf f) s p t (((List.range (2 ^ f.vn.toNat)).foldl
      (fun x k => x.prefetch (x.coreOf t.fg) (x.asidOf t.fg) ((eaGlobal s t f / 128 * 128 + 128 * k) % 2 ^ 64)) (s.begun p t)).pendL (moved p t)
        { fmtMPend f p 0 with val := some [] }) :=
  done_each (g := f.guard) rfl h (by simp only [eaGlobal_at, moved_fg])
theorem mprobe_done (h : Alone s p rightsAll f.guard t) :
    let r := (s.begun p t).probe (s.coreOf p.fg) (s.asidOf p.fg) (eaGlobal s t f)
    Done (.mprobe f) s p t (r.1.pendL (moved p t) { fmtMPend f p 2 with val := some [BitVec.ofNat 32 r.2.1, BitVec.ofNat 32 r.2.2] }) :=
  done_each (g := f.guard) rfl h (by simp only [eaGlobal_at, moved_fg, begun_coreOf, begun_asidOf, h.fg])
theorem dirtysw_done {f : FmtL} (h : Alone s p rightsOpr f.guard t) :
    Done (.dirtysw f) s p t ((s.begun p t).swapDirty.pendL (moved p t)
      { fmtLPend f p 1 with val := some [BitVec.ofNat 32 (1 - s.mem.dirtyActive)] }) :=
  done_each (g := f.guard) rfl h rfl

end

/-- The copy that becomes active reads as zero, and every other byte as before (R218). -/
theorem cellGet_swapDirty {s : State} (hw : Memory.wf s.mem.phys = true) (a : Nat) :
    cellGet s.swapDirty.mem.phys a =
      if dirtyBase (1 - s.mem.dirtyActive) ≤ a ∧ a < dirtyBase (1 - s.mem.dirtyActive) + 0x100000 then 0 else cellGet s.mem.phys a := by
  split
  next inside =>
    refine cellGet_absent fun c hc e => ?_
    have kept := (List.mem_filter.mp hc).2
    simp [e, inside] at kept
  next outside =>
    refine cellGet_filter (p := fun a => !(dirtyBase (1 - s.mem.dirtyActive) ≤ a && a < dirtyBase (1 - s.mem.dirtyActive) + 0x100000)) hw ?_
    rw [← Bool.decide_and, decide_eq_false outside]; rfl

/-! ### LDS and STS (R213, R214, R220) -/

theorem Block.scratchBad_inside {b : Block} {ea n : Nat} (h : ea + n ≤ b.scratch.length) : b.scratchBad ea n = none := if_pos h
/-- The lowest byte that fails: the first, or else the first past the end (R210). -/
theorem Block.scratchBad_past {b : Block} {ea n : Nat} (h : b.scratch.length < ea + n) : b.scratchBad ea n = some (Nat.max ea b.scratch.length) := by
  unfold Block.scratchBad
  rw [if_neg (Nat.not_le.mpr h)]
  split
  next past => exact congrArg some (Nat.max_eq_left past).symm
  next before => exact congrArg some (Nat.max_eq_right (Nat.le_of_not_le before)).symm

section
variable {f : FmtM} {s : State} {p : Path} {t : Thread} {b : Block}

theorem lds_done (h : Alone s p rightsAll f.guard t) (hb : s.blockOf p.fg = some b) (ok : eaScratch s t f + mSize f ≤ b.scratch.length) :
    Done (.lds f) s p t ((s.begun p t).pendL (moved p t) { fmtMPend f p (mRegs f.vn.toNat f.ty.toNat) with
      val := some (loadWords f.ty.toNat f.vn.toNat (b.scratchGen (eaScratch s t f) (mSize f))) }) :=
  done_each (g := f.guard) rfl h (by simp only [eaScratch_at, moved_fg, begun_blockOf, h.fg, hb, Block.scratchBad_inside ok])
theorem sts_done (h : Alone s p rightsAll f.guard t) (hb : s.blockOf p.fg = some b) (ok : eaScratch s t f + mSize f ≤ b.scratch.length) :
    Done (.sts f) s p t (((s.begun p t).setBlock { b with bankQ := b.bankQ ++ bankParts (eaScratch s t f) (storeBytes s t f) }).pendL (moved p t)
      { fmtMPend f p 0 with val := some [] }) :=
  done_each (g := f.guard) rfl h (by simp only [eaScratch_at, storeBytes_at, moved_fg, begun_blockOf, h.fg, hb, Block.scratchBad_inside ok])
theorem lds_past (h : Alone s p rightsAll f.guard t) (hb : s.blockOf p.fg = some b) (past : b.scratch.length < eaScratch s t f + mSize f) :
    Done (.lds f) s p t ((s.begun p t).pendL (moved p t) { fmtMPend f p (mRegs f.vn.toNat f.ty.toNat) with
      err := some (0x3004, BitVec.ofNat 64 (Nat.max (eaScratch s t f) b.scratch.length)) }) :=
  done_each (g := f.guard) rfl h (by simp only [eaScratch_at, moved_fg, begun_blockOf, h.fg, hb, Block.scratchBad_past past])
theorem sts_past (h : Alone s p rightsAll f.guard t) (hb : s.blockOf p.fg = some b) (past : b.scratch.length < eaScratch s t f + mSize f) :
    Done (.sts f) s p t ((s.begun p t).pendL (moved p t) { fmtMPend f p 0 with
      err := some (0x3004, BitVec.ofNat 64 (Nat.max (eaScratch s t f) b.scratch.length)) }) :=
  done_each (g := f.guard) rfl h (by simp only [eaScratch_at, moved_fg, begun_blockOf, h.fg, hb, Block.scratchBad_past past])

end

end Sys2Proof.Machine
end

section
/-! SUPPORT. Bytes written over bytes, and the write queues of a scratchpad's banks (spec/09_ordering.md R220). -/
namespace Sys2Proof.Machine

/-! ### The bytes of a slice and of a patched list; a byte beyond the end is 0 -/

@[simp] theorem length_slice (l : List Byte) (off n : Nat) : (slice l off n).length = n := by
  simp [slice]
theorem getD_slice (l : List Byte) {off n i : Nat} (h : i < n) : (slice l off n).getD i 0 = l.getD (off + i) 0 := by
  simp only [slice, List.getD_eq_getElem?_getD, List.getElem?_append, List.length_take, List.length_drop, List.getElem?_take, List.getElem?_drop,
    List.getElem?_replicate]
  by_cases inside : off + i < l.length
  · rw [if_pos (by omega), if_pos h]
  · rw [if_neg (by omega), if_pos (by omega), List.getElem?_eq_none (by omega)]; rfl
/-- A slice is the bytes that stand there. -/
theorem slice_eq {l v : List Byte} {off : Nat} (h : ∀ i, i < v.length → l.getD (off + i) 0 = v.getD i 0) : slice l off v.length = v := by
  refine List.ext_getElem (length_slice ..) fun i _ hi => ?_
  rw [← List.getD_eq_getElem _ 0, ← List.getD_eq_getElem _ 0, getD_slice l hi, h i hi]
theorem slice_congr {l m : List Byte} {off n : Nat} (h : ∀ i, i < n → l.getD (off + i) 0 = m.getD (off + i) 0) :
    slice l off n = slice m off n := by
  have bytes := slice_eq (l := l) (v := slice m off n) (off := off) fun i hi => by
    rw [length_slice] at hi
    rw [getD_slice m hi, h i hi]
  rwa [length_slice] at bytes
theorem getD_patch (l : List Byte) (off : Nat) (v : List Byte) (i : Nat) :
    (patch l off v).getD i 0 = if off ≤ i ∧ i < off + v.length then v.getD (i - off) 0 else l.getD i 0 := by
  have pad : (padTo off l).length = off := length_slice l 0 off
  unfold patch
  by_cases before : i < off
  · rw [List.append_assoc, List.getD_append _ _ _ _ (by omega), if_neg (by omega), padTo, getD_slice l before, Nat.zero_add]
  · by_cases inside : i < off + v.length
    · rw [List.append_assoc, List.getD_append_right _ _ _ _ (by omega), pad, List.getD_append _ _ _ _ (by omega), if_pos (by omega)]
    · rw [List.getD_append_right _ _ _ _ (by rw [List.length_append]; omega), List.length_append, pad, if_neg (by omega),
        List.getD_eq_getElem?_getD, List.getElem?_drop, List.getD_eq_getElem?_getD]
      congr 2; omega

/-! ### A queue over the bytes of its bank -/

/-- The stores of a write queue over bytes. -/
def queued (q : List BankStore) (l : List Byte) : List Byte := q.foldl (fun l q => patch l q.off q.bytes) l
theorem Block.scratchGen_queued (b : Block) (a n : Nat) : b.scratchGen a n = slice (queued b.bankQ b.scratch) a n := rfl
theorem queued_append (q r : List BankStore) (l : List Byte) : queued (q ++ r) l = queued r (queued q l) := List.foldl_append
/-- What stands under a queue shows through it alike. -/
theorem queued_congr (q : List BankStore) {l m : List Byte} (h : ∀ i, l.getD i 0 = m.getD i 0) (i : Nat) :
    (queued q l).getD i 0 = (queued q m).getD i 0 := by
  induction q generalizing l m with
  | nil => exact h i
  | cons q r ih => exact ih fun j => by rw [getD_patch, getD_patch, h j]

/-- No byte of the one is a byte of the other. -/
def BankStore.apart (q r : BankStore) : Prop := q.off + q.bytes.length ≤ r.off ∨ r.off + r.bytes.length ≤ q.off
theorem patch_comm {q r : BankStore} (h : q.apart r) (l : List Byte) (i : Nat) :
    (patch (patch l q.off q.bytes) r.off r.bytes).getD i 0 = (patch (patch l r.off r.bytes) q.off q.bytes).getD i 0 := by
  unfold BankStore.apart at h
  simp only [getD_patch]
  by_cases hq : q.off ≤ i ∧ i < q.off + q.bytes.length
  · rw [if_pos hq, if_neg (by omega), if_pos hq]
  · rw [if_neg hq, if_neg hq]
/-- A store that shares no byte with those before it may as well be made before them. -/
theorem queued_patch {q : BankStore} {l1 : List BankStore} (h : ∀ r ∈ l1, q.apart r) (l : List Byte) (i : Nat) :
    (queued l1 (patch l q.off q.bytes)).getD i 0 = (patch (queued l1 l) q.off q.bytes).getD i 0 := by
  induction l1 generalizing l with
  | nil => rfl
  | cons r l1 ih =>
    calc (queued l1 (patch (patch l q.off q.bytes) r.off r.bytes)).getD i 0
        = (queued l1 (patch (patch l r.off r.bytes) q.off q.bytes)).getD i 0 := queued_congr l1 (patch_comm (h r (.head _)) l) i
      _ = (patch (queued l1 (patch l r.off r.bytes)) q.off q.bytes).getD i 0 := ih (fun x hx => h x (.tail _ hx)) _

/-! ### The queue of one bank writes its oldest entry -/

/-- Entries of different banks lie in different 16-byte parts. -/
theorem apart_of_bank {q r : BankStore} (hq : q.off % 16 + q.bytes.length ≤ 16) (hr : r.off % 16 + r.bytes.length ≤ 16) (h : q.bank ≠ r.bank) :
    q.apart r := by
  have part : q.off / 16 ≠ r.off / 16 := fun e => h (congrArg Config.bankOf e)
  unfold BankStore.apart
  omega
theorem scratchGen_drainBank {b : Block} (h : ∀ q ∈ b.bankQ, q.off % 16 + q.bytes.length ≤ 16) (k a n : Nat) :
    (b.drainBank k).scratchGen a n = b.scratchGen a n := by
  unfold Block.drainBank
  split
  next => rfl
  next q found =>
    obtain ⟨bank, l1, l2, split, before⟩ := List.find?_eq_some_iff_append.mp found
    have others : ∀ r ∈ l1, q.apart r := fun r hr => by
      have ne := before r hr
      simp only [Bool.not_eq_true', decide_eq_false_iff_not] at ne
      have eq := of_decide_eq_true bank
      exact apart_of_bank (h q (by simp [split])) (h r (by simp [split, hr])) fun e => ne (e ▸ eq)
    have notin : q ∉ l1 := fun hq => by simpa [of_decide_eq_true bank] using before q hq
    rw [Block.scratchGen_queued, Block.scratchGen_queued]
    refine slice_congr fun i _ => ?_
    simp only [split, List.erase_append_right _ notin, List.erase_cons_head, queued_append]
    exact queued_congr l2 (queued_patch others b.scratch) _
theorem scratchGen_drainBanks (b : Block) (a n : Nat) : b.drainBanks.scratchGen a n = b.scratchGen a n := rfl

/-! ### The 16-byte parts of a store -/

/-- The bytes of a store dealt to its parts. -/
def deal : List (Nat × Nat) → List Byte → List BankStore
  | [], _ => []
  | p :: ps, bs => { off := p.1, bytes := bs.take p.2 } :: deal ps (bs.drop p.2)
theorem foldl_deal (ps : List (Nat × Nat)) (acc : List BankStore) (bs : List Byte) :
    (ps.foldl (fun (acc : List BankStore × List Byte) p =>
      (acc.1 ++ [{ off := p.1, bytes := acc.2.take p.2 }], acc.2.drop p.2)) (acc, bs)).1 = acc ++ deal ps bs := by
  induction ps generalizing acc bs with
  | nil => exact (List.append_nil acc).symm
  | cons p ps ih => rw [List.foldl_cons, ih, List.append_assoc]; rfl
theorem bankParts_deal (ea : Nat) (bs : List Byte) : bankParts ea bs = deal (parts (bs.length / 16 + 2) ea bs.length) bs :=
  foldl_deal _ [] bs

/-- `k` parts hold the bytes from `ea` on. -/
def enough (k ea n : Nat) : Prop := n = 0 ∨ ea % 16 + n ≤ 16 * k
theorem enough_start (ea n : Nat) : enough (n / 16 + 2) ea n := by unfold enough; omega
theorem enough_next {k ea n : Nat} (h : enough (k + 1) ea n) : enough k (ea + Nat.min n (16 - ea % 16)) (n - Nat.min n (16 - ea % 16)) := by
  unfold enough at *
  have : Nat.min n (16 - ea % 16) = if n ≤ 16 - ea % 16 then n else 16 - ea % 16 := rfl
  split at this <;> omega
/-- The first part of a store and what it leaves to the others. -/
theorem deal_parts {k ea : Nat} {bs : List Byte} (fits : ea + bs.length ≤ 2 ^ 32) (some : bs.length ≠ 0) :
    deal (parts (k + 1) ea bs.length) bs = { off := ea, bytes := bs.take (Nat.min bs.length (16 - ea % 16)) } ::
      deal (parts k (ea + Nat.min bs.length (16 - ea % 16)) (bs.drop (Nat.min bs.length (16 - ea % 16))).length)
        (bs.drop (Nat.min bs.length (16 - ea % 16))) := by
  have low : ea % 2 ^ 64 = ea := Nat.mod_eq_of_lt (by omega)
  rw [parts, if_neg some, deal, low, List.length_drop]
theorem deal_none (k ea : Nat) {bs : List Byte} (none : bs.length = 0) : deal (parts k ea bs.length) bs = [] := by
  cases k with
  | zero => rfl
  | succ k => rw [parts, if_pos none]; rfl

/-- The part of a store that its first portion is. -/
theorem min_part (n ea : Nat) : Nat.min n (16 - ea % 16) ≤ n ∧ ea % 16 + Nat.min n (16 - ea % 16) ≤ 16 :=
  ⟨Nat.min_le_left .., by have := Nat.min_le_right n (16 - ea % 16); have : Nat.min n (16 - ea % 16) = min n (16 - ea % 16) := rfl; omega⟩
/-- The parts together write the bytes of the store, and no other. -/
theorem getD_deal {k ea : Nat} {bs : List Byte} (he : enough k ea bs.length) (fits : ea + bs.length ≤ 2 ^ 32) (l : List Byte) (i : Nat) :
    (queued (deal (parts k ea bs.length) bs) l).getD i 0 = if ea ≤ i ∧ i < ea + bs.length then bs.getD (i - ea) 0 else l.getD i 0 := by
  induction k generalizing ea bs l with
  | zero =>
    have none : bs.length = 0 := by unfold enough at he; omega
    rw [if_neg (by omega)]; rfl
  | succ k ih =>
    by_cases none : bs.length = 0
    · rw [deal_none _ _ none, if_neg (by omega)]; rfl
    · have next := enough_next he
      obtain ⟨inside, part⟩ := min_part bs.length ea
      rw [deal_parts fits none]
      generalize Nat.min bs.length (16 - ea % 16) = m at *
      have taken : (bs.take m).length = m := by rw [List.length_take]; omega
      have left : (bs.drop m).length = bs.length - m := List.length_drop
      have rest := ih (left ▸ next) (by omega) (patch l ea (bs.take m))
      rw [getD_patch, taken, left] at rest
      refine (congrArg (fun n => (queued (deal (parts k (ea + m) n) (bs.drop m)) (patch l ea (bs.take m))).getD i 0) left).trans (rest.trans ?_)
      by_cases first : ea ≤ i ∧ i < ea + m
      · rw [if_neg (by omega), if_pos first, if_pos (by omega), List.getD_eq_getElem?_getD, List.getElem?_take, if_pos (by omega),
          List.getD_eq_getElem?_getD]
      · by_cases later : ea + m ≤ i ∧ i < ea + m + (bs.length - m)
        · rw [if_pos later, if_pos (by omega), List.getD_eq_getElem?_getD, List.getElem?_drop, List.getD_eq_getElem?_getD]
          congr 2; omega
        · rw [if_neg later, if_neg first, if_neg (by omega)]
/-- Each part lies within its 16 bytes and within the store. -/
theorem mem_deal {k ea : Nat} {bs : List Byte} (fits : ea + bs.length ≤ 2 ^ 32) {q : BankStore} (hq : q ∈ deal (parts k ea bs.length) bs) :
    q.off % 16 + q.bytes.length ≤ 16 ∧ ea ≤ q.off ∧ q.off + q.bytes.length ≤ ea + bs.length := by
  induction k generalizing ea bs with
  | zero => cases hq
  | succ k ih =>
    by_cases none : bs.length = 0
    · rw [deal_none _ _ none] at hq; cases hq
    · obtain ⟨inside, part⟩ := min_part bs.length ea
      rw [deal_parts fits none] at hq
      generalize Nat.min bs.length (16 - ea % 16) = m at *
      have left : (bs.drop m).length = bs.length - m := List.length_drop
      obtain rfl | rest := List.mem_cons.mp hq
      · have taken : (bs.take m).length = m := by rw [List.length_take]; omega
        simp only [taken]; omega
      · have := ih (by omega) rest
        omega

/-! ### A store in the queues of its banks, as the generic path sees it -/

theorem getD_bankParts {off : Nat} {bs : List Byte} (fits : off + bs.length ≤ 2 ^ 32) (q : List BankStore) (l : List Byte) (i : Nat) :
    (queued (q ++ bankParts off bs) l).getD i 0 =
      if off ≤ i ∧ i < off + bs.length then bs.getD (i - off) 0 else (queued q l).getD i 0 := by
  rw [queued_append, bankParts_deal]
  exact getD_deal (enough_start ..) fits _ i
theorem scratchGen_store {off : Nat} {bs : List Byte} (b : Block) (fits : off + bs.length ≤ 2 ^ 32) :
    ({ b with bankQ := b.bankQ ++ bankParts off bs } : Block).scratchGen off bs.length = bs := by
  refine slice_eq (l := queued (b.bankQ ++ bankParts off bs) b.scratch) fun i hi => ?_
  rw [getD_bankParts fits, if_pos (by omega), Nat.add_sub_cancel_left]
theorem scratchGen_store_apart {off a n : Nat} {bs : List Byte} (b : Block) (fits : off + bs.length ≤ 2 ^ 32)
    (h : a + n ≤ off ∨ off + bs.length ≤ a) :
    ({ b with bankQ := b.bankQ ++ bankParts off bs } : Block).scratchGen a n = b.scratchGen a n :=
  slice_congr fun i _ => by rw [← queued, getD_bankParts fits, if_neg (by omega)]; rfl
theorem bankParts_within {off : Nat} {bs : List Byte} (fits : off + bs.length ≤ 2 ^ 32) {q : BankStore} (hq : q ∈ bankParts off bs) :
    q.off % 16 + q.bytes.length ≤ 16 ∧ off ≤ q.off ∧ q.off + q.bytes.length ≤ off + bs.length :=
  mem_deal fits (bankParts_deal off bs ▸ hq)

end Sys2Proof.Machine
end

section
/-! SUPPORT. A store to a physical address that no module has (spec/08_memory.md R196): the bitmap copy of R207 has a byte for each eight
pages below 2^39, and the bit of a page past them lies past the copy. -/
namespace Sys2Proof.Machine

/-- Where the bit of the page at physical address 2^60 stands, counted past the end of the first bitmap copy. -/
def farBit : Nat := dirtyBase 0 + 2 ^ 60 / 65536 / 8
/-- Memory in which the page of that bit awaits scrubbing. -/
def farScrub : State := { State.reset with mem := { State.reset.mem with scrub := [farBit / 65536] } }
/-- Where the sweep of that page sets the bit of the page itself. -/
def farSwept : Nat := dirtyBase 0 + farBit / 65536 / 8

theorem farScrub_before : cellGet farScrub.mem.phys farSwept = 0 := rfl
theorem farScrub_after : cellGet (farScrub.cacheWrite false 0 0 rawLeaf 0 (2 ^ 60) [7]).mem.phys farSwept = 1 := by decide +kernel

end Sys2Proof.Machine
end

section
/-! What is claimed of memory (spec/08_memory.md). -/
namespace Sys2Proof.Machine
open Claim

theorem loadsAndStores_met : loadsAndStores := fun _ _ _ _ h =>
  ⟨fun later => ld_later h later,
   fun _ _ now made => ld_words h made ▸ ld_now h now,
   fun _ _ _ now made => State.accessHere_err ((ld_made h).trans made) ▸ ld_now h now,
   fun _ _ side now made => State.accessHere_done ((st_made h).trans made) ▸ st_now h side now,
   fun _ _ _ side now made => State.accessHere_err ((st_made h).trans made) ▸ st_now h side now,
   fun side later => st_later h side later,
   st_traps h⟩
theorem addressRange_met : addressRange := by
  intro s core asid w ea n far fits some
  obtain ⟨m, l, first⟩ := parts_head (k := n / 16 + 1) fits some
  unfold State.check State.checkParts
  simp only [first, State.locate_far s core asid w l far]

/-- Settles O16: the thread's access is left for later or made (`ld_later`, `ld_now`, `st_later`, `st_now`), and what it leaves pending
is what the memory system answers (`State.accessHere_done`, `State.accessHere_err`). -/
theorem loadsAndStores : Obligations.LoadsAndStores := ⟨loadsAndStores_met, addressRange_met⟩

/-- Refutes O17, in its clause on the pages of the bitmap: nothing there bounds the physical address, which R196 has below 2^39. The byte
of the page at 2^60 stands far past the bitmap copy, in a page that awaits scrubbing in `farScrub`; the sweep of that page sets the bit of
the page itself, in a third page that the clause does not name. -/
theorem not_storeFrame : ¬ Obligations.StoreFrame := by
  intro frame
  obtain ⟨-, others, -⟩ := frame farScrub 0 0 rawLeaf 0 (2 ^ 60) [7] (by decide) (by decide) rfl (by decide)
  have kept := others farSwept (by decide) (by decide)
  rw [farScrub_before, farScrub_after] at kept
  exact absurd kept (by decide)

/-- Settles O18: the parts of a store together write its bytes (`getD_deal`), and stores of different banks share no byte, so that the
oldest of one bank may go before those of the others (`queued_patch`). -/
theorem scratchpadAccess : Obligations.ScratchpadAccess :=
  ⟨fun _ _ _ _ _ h hb =>
    ⟨fun inside => ⟨lds_done h hb inside, sts_done h hb inside⟩, fun past => ⟨lds_past h hb past, sts_past h hb past⟩⟩,
   fun b _ _ _ fits => ⟨scratchGen_store b fits, fun _ _ off => scratchGen_store_apart b fits off, fun _ hq => bankParts_within fits hq⟩,
   fun b k a n h => ⟨scratchGen_drainBank (fun q hq => (h q hq).1) k a n, scratchGen_drainBanks b a n⟩⟩

/-- Settles O19: each form issues as it stands, and the swap's filter by address leaves no byte of the copy that becomes active. -/
theorem probesAndBitmap : Obligations.ProbesAndBitmap :=
  ⟨fun _ _ _ _ h => prf_done h, fun _ _ _ _ h => mprobe_done h, fun _ _ _ _ h => dirtysw_done h, fun _ hw => ⟨rfl, cellGet_swapDirty hw⟩⟩

end Sys2Proof.Machine
end

section
/-! SUPPORT. Instructions that only make an operation pending, and that SIDE = 0 forbids (spec/15_launch.md R337). -/
namespace Sys2Proof.Machine

/-! ### A meaning that makes an operation pending unless SIDE = 0 forbids it -/

theorem State.sideless_congr {s1 s : State} (h : s1.rest = s.rest) (fg : Nat) : s1.sideless fg = s.sideless fg :=
  (congrArg (fun x : State => x.sideless fg) h : s1.rest.sideless fg = s.rest.sideless fg)
theorem does_pend (s : State) (op : Thread → Pending) :
    Does s (fun s1 t => .ok (s1.pendL t (op t))) fun t v => ∃ u, v.core = (t.pendAdd { op t with uid := u }).core := by
  intro s1 t h1 ht
  let v : Thread := t.pendAdd { op t with uid := s1.uid }
  let x : State := { s1 with uid := s1.uid + 1 }
  exact ⟨_, rfl, h1, fun fg l hne => State.thread?_setThread_ne x v fg l hne, v, State.thread?_setThread_mk x v _ _ rfl rfl ⟨t, ht⟩, _, rfl⟩
theorem local_pend {op : Thread → Pending} (hc : ∀ t u, t.core = u.core → op t = op u) :
    Local fun t v => ∃ u, v.core = (t.pendAdd { op t with uid := u }).core := by
  refine ⟨fun t v ⟨_, hv⟩ q => Thread.quiet_core (u := t.pendAdd _) hv q, fun t u v w ⟨k, hv⟩ htu hvw => ⟨k, ?_⟩⟩
  rw [← Thread.core_mid hvw, hv, hc t u (Thread.core_mid htu)]
  exact Thread.core_pendAdd _ _ _ (Thread.core_mid htu)
/-- The operation that each thread leaves pending is an operand of its instruction. -/
theorem issueEach_pendsReads {s : State} {p : Path} {r : Rights} {g : Guard} {op : Path → State → Thread → Pending} (hi : Issues s p r)
    (hr : Reads s (op p)) :
    (issueEach s r g fun p s t => .ok (s.pendL t (op p s t))).rest = s.rest ∧
    Threads s (issueEach s r g fun p s t => .ok (s.pendL t (op p s t))) p (pends g (op p s)) :=
  issueEach_pends hi (fun s1 t h => by rw [hr.rest s1 t h]) hr.core

/-- An instruction that SIDE = 0 forbids, and that else makes `op` pending. -/
def pendSided (s : State) (r : Rights) (g : Guard) (op : Path → State → Thread → Pending) : State :=
  issueEach s r g fun p s t => if s.sideless t.fg then .trap 0x4001 s.noAddr else .ok (s.pendL t (op p s t))
/-- With SIDE = 1 none of its threads traps. -/
theorem pendSided_pends {s : State} {p : Path} {r : Rights} {g : Guard} {op : Path → State → Thread → Pending} (hi : Issues s p r)
    (side : s.sideless p.fg = false) (hr : Reads s (op p)) :
    (pendSided s r g op).rest = s.rest ∧ Threads s (pendSided s r g op) p (pends g (op p s)) := by
  let f : Path → State → Thread → Res := fun p s1 t => .ok (s1.pendL t (op p s t))
  have same : pendSided s r g op = issueEach s r g f := by
    refine issueEach_congr hi (does_pend s (op p s)) (local_pend hr.core) fun s1 h1 t ht => ?_
    have here : (moved p t).fg = p.fg := by
      obtain ⟨⟨l, -, found⟩, -⟩ : (∃ l ∈ p.lanes, s.thread? p.fg l = some t) ∧ g.on t = true := by
        simpa [State.active] using ht
      exact (thread?_key found).1
    rw [if_neg (by rw [here, State.sideless_congr h1, side]; decide), hr.rest s1 _ h1]
  rw [same]
  exact issueEach_pends hi (fun _ _ _ => rfl) hr.core
theorem pendSided_traps {i : Instr} {s : State} {p : Path} {r : Rights} {g : Guard} {t : Thread} {op : Path → State → Thread → Pending}
    (he : exec i s = .next (pendSided s r g op)) (h : Alone s p r g t) (side : s.sideless p.fg = true) : Traps i s p t 0x4001 s.noAddr :=
  traps_each he h (if_pos (begun_noSide h side))

end Sys2Proof.Machine
end

section
/-! SUPPORT. What the ordering and ticket instructions leave pending (spec/09_ordering.md R240, R241; spec/10_sync.md R258, R261). -/
namespace Sys2Proof.Machine
open Claim

/-- The object of an address, and the bindings of a context to it, are operands. -/
theorem State.objOf_congr {s1 s : State} (h : s1.rest = s.rest) (ea : Nat) : s1.objOf ea = s.objOf ea :=
  (congrArg (fun x : State => x.objOf ea) h : s1.rest.objOf ea = s.rest.objOf ea)
theorem State.boundTo_congr {s1 s : State} (h : s1.rest = s.rest) (asid obj : Nat) : s1.boundTo asid obj = s.boundTo asid obj :=
  (congrArg (fun x : State => x.boundTo asid obj) h : s1.rest.boundTo asid obj = s.rest.boundTo asid obj)
theorem reads_objOf {s : State} {a : State → Thread → Nat} (h : Reads s a) : Reads s fun s t => s.objOf (a s t) :=
  ⟨fun s1 t h1 => by rw [h.rest s1 t h1, State.objOf_congr h1], fun t u hc => by rw [h.core t u hc]⟩
theorem reads_asidOf (s : State) : Reads s fun s t => s.asidOf t.fg :=
  ⟨fun _ t h1 => State.asidOf_congr h1 t.fg, fun t u hc => congrArg s.asidOf (congrArg Thread.fg hc : t.core.fg = u.core.fg)⟩
theorem reads_toObj (s : State) (f : FmtL) : Reads s fun s t => awaits.toObj s t f := by
  have obj := reads_objOf (reads_regL s f.a.toNat 2)
  have asid := reads_asidOf s
  refine ⟨fun s1 t h1 => ?_, fun t u hc => ?_⟩ <;> unfold awaits.toObj
  · rw [obj.rest s1 t h1, asid.rest s1 t h1, State.boundTo_congr h1]
  · rw [obj.core t u hc, asid.core t u hc]

section
variable {i : Instr} {f : FmtL} {n : Nat} {w : State → Thread → Todo × List Binding}

/-- What such an instruction leaves pending. -/
def awaited (f : FmtL) (n : Nat) (w : State → Thread → Todo × List Binding) (p : Path) (s : State) (t : Thread) : Pending :=
  { fmtLPend f p n with todo := (w s t).1, bound := (w s t).2 }

theorem awaits_reads (h : awaits i = some (f, n, w)) (s : State) : Reads s w := by
  have a (f : FmtL) := reads_regL s f.a.toNat 2
  have b (f : FmtL) := reads_regL s f.b.toNat 2
  have obj (f : FmtL) := reads_objOf (a f)
  cases i with
  | fence f => cases h; exact reads_const s _
  | acq f => cases h; exact (obj f).map2 (reads_toObj s f) fun o b => (Todo.acq o (FmtL.sc f), b)
  | rel f => cases h; exact (obj f).map2 (reads_toObj s f) fun o b => (Todo.rel o (FmtL.sc f), b)
  | take f => cases h; exact (a f).map2 (reads_toObj s f) fun ea b => (Todo.take ea (FmtL.ord f) (FmtL.sc f), b)
  | tknew f => cases h; exact (a f).map2 (b f) fun x y => (Todo.tk (if FmtL.fn f = 6 then 1 else 0) x y, [])
  | tksave f => cases h; exact (a f).map2 (b f) fun x y => (Todo.tk 2 x y, [])
  | tkload f => cases h; exact (a f).map2 (b f) fun x y => (Todo.tk 3 x y, [])
  | tkdrainClose f => cases h; exact (a f).map fun x => (Todo.tk 4 x 0, [])
  | tkdrainOpen f => cases h; exact (a f).map fun x => (Todo.tk 5 x 0, [])
  | tkdrainFree f => cases h; exact (a f).map fun x => (Todo.tk 6 x 0, [])
  | _ => cases h
theorem awaited_reads (h : awaits i = some (f, n, w)) (s : State) (p : Path) : Reads s (awaited f n w p) :=
  (awaits_reads h s).map fun x => { fmtLPend f p n with todo := x.1, bound := x.2 }
theorem exec_awaits_free (h : awaits i = some (f, n, w)) (free : i = .fence f ∨ i = .acq f) (s : State) :
    exec i s = .next (issueEach s rightsAll f.guard fun p s t => .ok (s.pendL t (awaited f n w p s t))) := by
  obtain rfl | rfl := free <;> cases h <;> rfl
theorem exec_awaits_sided (h : awaits i = some (f, n, w)) (nf : i ≠ .fence f) (na : i ≠ .acq f) (s : State) :
    exec i s = .next (pendSided s rightsAll f.guard (awaited f n w)) := by
  cases i with
  | fence f => cases h; exact absurd rfl nf
  | acq f => cases h; exact absurd rfl na
  | rel f | take f | tknew f | tksave f | tkload f | tkdrainClose f | tkdrainOpen f | tkdrainFree f => cases h; rfl
  | _ => cases h
theorem awaits_pends {s : State} {p : Path} (h : awaits i = some (f, n, w)) (hi : Issues s p rightsAll)
    (may : s.sideless p.fg = false ∨ i = .fence f ∨ i = .acq f) : Runs i s p s (pends f.guard (awaited f n w p s)) := by
  have reads := awaited_reads h s p
  by_cases free : i = .fence f ∨ i = .acq f
  · exact ⟨_, exec_awaits_free h free s, issueEach_pendsReads hi reads⟩
  · obtain ⟨nf, na⟩ := not_or.1 free
    exact ⟨_, exec_awaits_sided h nf na s, pendSided_pends hi (may.resolve_right free) reads⟩

end

end Sys2Proof.Machine
end

section
/-! SUPPORT. What an ordering operation performs that nothing holds back (spec/09_ordering.md R225, R226, R234, R240, R241). -/
namespace Sys2Proof.Machine

/-- The block of the operation stands on a core, no earlier operation of its thread goes before it, and no other die keeps its object. -/
structure Unhindered (s : State) (t : Thread) (q : Pending) : Prop where
  free  : q.held = false
  block : s.mayPerform t = true
  order : s.todoWaits t q = false
  here  : s.crossOf t.fg t.lane q.uid = none
  near  : s.farAsk t q = none

theorem crossing_near {s : State} {t : Thread} {q : Pending} (h : Unhindered s t q) : s.crossing t q = (s, true) := by
  unfold State.crossing
  simp only [h.here, h.near, Option.isNone_none, if_true]

/-! ### Fences (R240) -/

section
variable {s : State} {t : Thread} {q : Pending} {eng rel acq : Bool} {sc : Nat}

/-- A pending operation is performed, with a value (R80). -/
def valuedTodo (s : State) (t : Thread) (uid : Nat) (ws : List Word) : State :=
  s.modPend t.fg t.lane uid fun r => { r with val := some ws, todo := .none }
/-- Steps 1 and 2 of R225 are over for a fence; one of the acquire half alone waits for neither. -/
def State.fenceReady (s : State) (t : Thread) (uid : Nat) (eng rel : Bool) (sc : Nat) : Bool :=
  s.releaseReady t uid (if rel then sc else 0) || (!eng && !rel)
theorem fenceReady_iff (s : State) (t : Thread) (uid : Nat) (eng rel : Bool) (sc : Nat) :
    s.fenceReady t uid eng rel sc = true ↔ s.releaseReady t uid (if rel then sc else 0) = true ∨ (eng = false ∧ rel = false) := by
  simp [State.fenceReady]

/-- `State.dropWaits` is assumption log 124. -/
theorem performTodo_fence (h : Unhindered s t q) (e : q.todo = .fence eng rel acq sc) :
    s.performTodo t q =
      if s.fenceReady t q.uid eng rel sc then
        if s.dropWaits t q.uid sc then s
        else if rel && t.relLost sc then s.failLost t q.uid
        else
          let d := s.doFence t eng rel acq sc
          if rel && d.relWaits (d.coreOf t.fg) (d.asidOf t.fg) sc (fun _ => sc) then d else valuedTodo d t q.uid []
      else s := by
  have stays : s.leftBehind t q = false := by simp [State.leftBehind, State.takeAway, e]
  unfold State.performTodo
  simp only [h.free, h.block, h.order, stays, crossing_near h, e]
  rfl

end

/-! ### Acquires and releases (R241) -/

section
variable {s c d : State} {t : Thread} {q : Pending} {obj sc : Nat} {p : Piece} {bs : List Byte}

theorem performTodo_acq (h : Unhindered s t q) (e : q.todo = .acq obj sc) : s.performTodo t q = s.doAcq t q obj sc := by
  have stays : s.leftBehind t q = false := by simp [State.leftBehind, State.takeAway, e]
  unfold State.performTodo
  simp only [h.free, h.block, h.order, stays, crossing_near h, e]
  rfl
theorem performTodo_rel (h : Unhindered s t q) (e : q.todo = .rel obj sc) :
    s.performTodo t q = if s.releaseReady t q.uid sc || s.relStops t obj then s.doRel t q obj sc else s := by
  have stays : s.leftBehind t q = false := by simp [State.leftBehind, State.takeAway, e]
  unfold State.performTodo
  simp only [h.free, h.block, h.order, h.here, stays, crossing_near h, e]
  rfl
theorem doAcq_reads (found : s.findObj (s.coreOf t.fg) (s.asidOf t.fg) .rd obj = (c, .ok p))
    (read : c.readPiece false (s.coreOf t.fg) (s.asidOf t.fg) p = (d, .ok bs)) :
    s.doAcq t q obj sc =
      valuedTodo (d.discardClean (s.coreOf t.fg) (s.asidOf t.fg) (d.boundScope (s.asidOf t.fg) sc q.bound)) t q.uid (bytesWords bs) := by
  unfold State.doAcq
  simp only [found, read]
  rfl
theorem doRel_lost (found : s.findObj (s.coreOf t.fg) (s.asidOf t.fg) .rw obj = (c, .ok p)) (lost : t.relLost sc = true) :
    s.doRel t q obj sc = c.failLost t q.uid := by
  unfold State.doRel
  simp only [found, lost]
  rfl
theorem doRel_reads (found : s.findObj (s.coreOf t.fg) (s.asidOf t.fg) .rw obj = (c, .ok p)) (kept : t.relLost sc = false)
    (read : c.readPiece false (s.coreOf t.fg) (s.asidOf t.fg) p = (d, .ok bs)) :
    s.doRel t q obj sc =
      let v := toBytes 8 ((ofBytes bs + 1) % 2 ^ 64)
      let by_ := s.boundScope (s.asidOf t.fg) sc q.bound
      let e := d.writeBack (s.coreOf t.fg) (s.asidOf t.fg) by_
      if e.relWaits (s.coreOf t.fg) (s.asidOf t.fg) sc by_ then e
      else valuedTodo (e.writePiece false (s.coreOf t.fg) (s.asidOf t.fg) p v) t q.uid (bytesWords v) := by
  unfold State.doRel
  simp only [found, kept, read]
  rfl
/-- The checks on its object come before its waits (assumption log 104). -/
theorem doRel_fails {code a : Nat} (fails : s.findObj (s.coreOf t.fg) (s.asidOf t.fg) .rw obj = (c, .error (.err code a))) :
    s.relStops t obj = true ∧ s.doRel t q obj sc =
      c.modPend t.fg t.lane q.uid fun r => { r with err := some (code, BitVec.ofNat 64 a), todo := .none } := by
  constructor
  · unfold State.relStops
    simp only [fails]
  · unfold State.doRel
    simp only [fails]
    rfl

end

end Sys2Proof.Machine
end

section
/-! SUPPORT. Bindings (spec/09_ordering.md R242, R243). -/
namespace Sys2Proof.Machine

/-- The lowest free number is one that is free while all below it are used. -/
theorem lowestFree_eq {used : List Nat} {m n : Nat} (inside : n < m) (free : n ∉ used) (below : ∀ k < n, k ∈ used) :
    lowestFree used m = some n := by
  refine List.find?_range_eq_some.2 ⟨?_, List.mem_range.2 inside, fun k hk => ?_⟩
  · simpa using free
  · simpa using below k hk

section
variable {f : FmtL} {s : State} {p : Path} {t : Thread} {c : Ctx}

/-- A binding of whole lines under the lowest free number (R242). -/
theorem State.bind_lowest {asid base len obj sc n : Nat} (hc : s.ctx? asid = some c) (some_ : 0 < len) (low : s.norm base + len ≤ 2 ^ 47)
    (near : obj < 2 ^ 57) (peer : bits obj 48 9 ≤ 0x180) (space : spaceOf (obj % 2 ^ 48) = 2)
    (number : lowestFree (c.bindings.map (·.num)) 4096 = some n) :
    s.bind asid base len obj sc = (s.modCtx asid fun c => { c with bindings := c.bindings ++
      [{ num := n, base := s.norm base / 128 * 128
         len := (s.norm base + len + 127) / 128 * 128 - s.norm base / 128 * 128, obj := obj, sc := sc }] }, .ok n) := by
  have range : (decide (len = 0) || decide (2 ^ 47 < s.norm base + len)) = false := by
    simp only [Bool.or_eq_false_iff, decide_eq_false_iff_not]; omega
  have object : (decide (2 ^ 57 ≤ obj) || decide (0x180 < bits obj 48 9) || decide (spaceOf (obj % 2 ^ 48) ≠ 2)) = false := by
    simp only [Bool.or_eq_false_iff, decide_eq_false_iff_not]; omega
  unfold State.bind
  simp only [hc, range, object, number, Bool.false_eq_true, if_false]
theorem bind_done {n : Nat} {x : State} (h : Alone s p rightsOwn f.guard t) (side : s.sideless p.fg = false)
    (bound : (s.begun p t).bind (s.asidOf p.fg) (regL s t f.a.toNat 2) (regL s t f.b.toNat 2) (s.objOf (regL s t f.c.toNat 2)) (FmtL.fn f % 8) =
      (x, .ok n)) : Done (.bind f) s p t (x.pendL (moved p t) { fmtLPend f p 1 with val := some [BitVec.ofNat 32 n] }) := by
  refine done_each (g := f.guard) rfl h ?_
  have obj (ea : Nat) : (s.begun p t).objOf ea = s.objOf ea := rfl
  simp only [regL_at, moved_fg, h.fg, begun_sideless, side, begun_asidOf, obj, bound, Bool.false_eq_true, if_false]
theorem unbind_done (h : Alone s p rightsOwn f.guard t) (side : s.sideless p.fg = false) (hc : s.ctx? (s.asidOf p.fg) = some c) :
    let n := regL s t f.a.toNat 1
    Done (.unbind f) s p t (((s.begun p t).modCtx (s.asidOf p.fg) fun c => { c with bindings := c.bindings.filter fun b => b.num ≠ n }).pendL
      (moved p t) { fmtLPend f p 1 with val := some [if c.bindings.any fun b => b.num = n then 0 else 0xFFFFFFFF] }) :=
  done_each (g := f.guard) rfl h (by
    simp only [regL_at, moved_fg, h.fg, begun_sideless, side, begun_asidOf, begun_ctx, hc, Bool.false_eq_true, if_false, Option.map_some,
      Option.getD_some]
    rfl)
theorem bindings_sideless (h : Alone s p rightsOwn f.guard t) (side : s.sideless p.fg = true) :
    Traps (.bind f) s p t 0x4001 s.noAddr ∧ Traps (.unbind f) s p t 0x4001 s.noAddr :=
  ⟨traps_each (g := f.guard) rfl h (if_pos (begun_noSide h side)), traps_each (g := f.guard) rfl h (if_pos (begun_noSide h side))⟩

end

end Sys2Proof.Machine
end

section
/-! SUPPORT. NLAUNCH, NWAIT and NQUERY (spec/15_launch.md R357 to R359). -/
namespace Sys2Proof.Machine
open Claim

/-! ### NLAUNCH (R357) -/

theorem exec_nlaunch (f : FmtL) (s : State) :
    exec (.nlaunch f) s = .next (pendSided s rightsOwn f.guard fun p s t => { fmtLPend f p 1 with todo := .launch (regL s t f.a.toNat 2) }) := rfl

section
variable {s x y : State} {t : Thread} {q : Pending} {ea : Nat} {pk : List Byte}

/-- NLAUNCH keeps the bytes of its packet while it waits. -/
def keepPacket (s : State) (t : Thread) (uid : Nat) (pk : List Byte) : State :=
  s.modPend t.fg t.lane uid fun r => { r with got := some pk }
/-- NLAUNCH ends with a status, or with its node accepted. -/
def launchEnds (s : State) (t : Thread) (uid st : Nat) : State :=
  s.endShared t uid [] fun q => { q with val := some [BitVec.ofNat 32 st] }

theorem doLaunch_early (early : s.lowerFirst t q = true ∨ s.mayPerform t = false) : s.doLaunch t q ea = s :=
  if_pos (by obtain h | h := early <;> simp [h])

/-- Its packet has come, and the lower lanes of its path are through. -/
structure PacketCome (s : State) (t : Thread) (q : Pending) (ea : Nat) (x : State) (pk : List Byte) : Prop where
  turn  : s.lowerFirst t q = false
  block : s.mayPerform t = true
  read  : s.todoRead t q ea 256 [] = (x, some pk)

theorem doLaunch_unread (h : PacketCome s t q ea x pk) (r : x.readPacket (s.asidOf t.fg) pk = (y, .error none)) :
    s.doLaunch t q ea = keepPacket y t q.uid pk := by
  unfold State.doLaunch
  simp only [h.turn, h.block, h.read, r]
  rfl
theorem doLaunch_refused {st : Nat} (h : PacketCome s t q ea x pk) (r : x.readPacket (s.asidOf t.fg) pk = (y, .error (some st))) :
    s.doLaunch t q ea = launchEnds y t q.uid st := by
  unfold State.doLaunch
  simp only [h.turn, h.block, h.read, r]
  rfl

variable {k : Packet} (h : PacketCome s t q ea x pk) (r : x.readPacket (s.asidOf t.fg) pk = (y, .ok k))
include h r

theorem doLaunch_full
    (wait : ¬(y.poolRoom (((y.ctx? (s.asidOf t.fg)).map (·.part)).getD 0) = true ∧ y.releaseReady t q.uid 5 = true)) :
    s.doLaunch t q ea = keepPacket y t q.uid pk := by
  have stop : (!y.poolRoom (((y.ctx? (s.asidOf t.fg)).map (·.part)).getD 0) || !y.releaseReady t q.uid 5) = true := by
    rw [← Bool.not_and, Bool.not_eq_true', Bool.eq_false_iff, Ne, Bool.and_eq_true]; exact wait
  unfold State.doLaunch
  simp only [h.turn, h.block, h.read, r, stop]
  rfl
/-- With room in the pool and its earlier accesses complete, it writes back the lines of the footprints, and accepts its node once none
of them is held. -/
theorem doLaunch_ready {n : Node} (room : y.poolRoom (((y.ctx? (s.asidOf t.fg)).map (·.part)).getD 0) = true)
    (ready : y.releaseReady t q.uid 5 = true) (parent : ((y.blockOf t.fg).bind fun b => y.node? b.node) = some n) :
    s.doLaunch t q ea =
      let asid := s.asidOf t.fg
      let own := fun l => y.inFeet asid k readMode l
      let by_ := fun l => if own l then 5 else 0
      let z := y.writeBack (y.coreOf t.fg) asid by_
      let a := (z.discardAll asid own).acceptNode asid n.queue (n.id :: n.launchers) k
      if z.heldBack (y.coreOf t.fg) asid by_ then keepPacket z t q.uid pk else launchEnds a.1 t q.uid a.2 := by
  unfold State.doLaunch
  simp only [h.turn, h.block, h.read, r, room, ready, parent]
  rfl

end

/-! ### NWAIT (R358) -/

section
variable {f : FmtA} {s : State} {p : Path}

/-- What NWAIT makes of its thread. -/
def nwaits (f : FmtA) (s : State) (t : Thread) : Thread :=
  let n := Nat.min (srcB s t f 6) (2 ^ 24)
  if (s.nodeOf (s.asidOf t.fg) (srcA s t f 6)).isNone then t.put f.d.toNat [0]
  else { t with after := .nwait (srcA s t f 6) (if n = 0 then 0 else s.ctl.cycle + n) f.d.toNat }

theorem State.nodeOf_congr {s1 s : State} (h : s1.rest = s.rest) (asid id : Nat) : s1.nodeOf asid id = s.nodeOf asid id :=
  (congrArg (fun x : State => x.nodeOf asid id) h : s1.rest.nodeOf asid id = s.rest.nodeOf asid id)
theorem exec_nwait (f : FmtA) (s : State) :
    exec (.nwait f) s = .next (issueEach s rightsOwn f.guard fun _ s t => .ok (s.setThread (nwaits f s t))) := by
  refine congrArg (fun each => (.next (issueEach s rightsOwn f.guard each) : Out)) ?_
  funext _ s t
  exact (apply_ite (fun v => Res.ok (s.setThread v)) _ _ _).symm
theorem nwaits_congr {s1 : State} (h : s1.rest = s.rest) (t : Thread) : nwaits f s1 t = nwaits f s t := by
  unfold nwaits
  rw [(reads_srcA s f 6).rest s1 t h, (reads_srcB s f 6).rest s1 t h, (reads_cycle s).rest s1 t h, State.asidOf_congr h, State.nodeOf_congr h]
theorem nwaits_key (f : FmtA) (s : State) (t : Thread) : (nwaits f s t).fg = t.fg ∧ (nwaits f s t).lane = t.lane := by
  unfold nwaits
  dsimp only
  split
  · exact ⟨Thread.put_fg .., Thread.put_lane ..⟩
  · exact ⟨rfl, rfl⟩
theorem nwaits_quiet {t : Thread} (q : t.quiet) : (nwaits f s t).quiet := by
  unfold nwaits
  dsimp only
  split
  · exact Thread.put_quiet _ _ q
  · exact q
theorem nwaits_mid {t u : Thread} (h : t.mid = u.mid) : (nwaits f s t).mid = (nwaits f s u).mid := by
  have core := Thread.core_mid h
  have after (st : Status) : ({ t with after := st } : Thread).mid = ({ u with after := st } : Thread).mid :=
    congrArg (fun v : Thread => { v with after := st }) h
  unfold nwaits
  rw [(reads_srcA s f 6).core t u core, (reads_srcB s f 6).core t u core, (reads_asidOf s).core t u core]
  dsimp only
  split
  · exact Thread.put_mid _ _ h
  · exact after _
theorem nwait_ends (hi : Issues s p rightsOwn) (hp : p.last) :
    Runs (.nwait f) s p s fun t t' => ∃ t1, t1.mid = (if f.guard.on t then nwaits f s t else t).mid ∧ Ended t1 t' :=
  ⟨_, exec_nwait f s, issueEach_ends hi hp (fun s1 t h => by rw [nwaits_congr h]) (nwaits_key f s) (fun _ => nwaits_quiet) fun _ _ => nwaits_mid⟩

end

/-! ### NQUERY (R359) -/

/-- What the operator or an owner is told of a node. -/
def State.nodeWords (s : State) (n : Node) : List Nat :=
  let age := match (s.part n.part).blocked with
    | some b => if b.1 = n.id then (s.ctl.devTime - b.2.1) / 1000 % 2 ^ 24 else 0
    | none => 0
  [n.state, n.next, n.ended, n.part % 64 + age * 256]

section
variable {f : FmtL} {s : State} {p : Path} {t : Thread}

@[simp] theorem begun_node (s : State) (p : Path) (t : Thread) (id : Nat) : (s.begun p t).node? id = s.node? id := rfl
theorem nquery_own {n : Node} (h : Alone s p rightsAll f.guard t) (found : s.node? (regL s t f.a.toNat 1) = some n)
    (may : s.asidOf p.fg = oprAsid ∨ n.asid = s.asidOf p.fg) : Done (.nquery f) s p t (ends (s.begun p t) p t f 4 (s.nodeWords n)) := by
  have told : (decide (s.asidOf p.fg ≠ oprAsid) && decide (n.asid ≠ s.asidOf p.fg)) = false := by
    obtain e | e := may <;> simp [e]
  refine done_each (g := f.guard) rfl h ?_
  simp only [regL_at, moved_fg, h.fg, begun_node, begun_asidOf, found, told]
  rfl
theorem nquery_other (h : Alone s p rightsAll f.guard t)
    (none_ : ∀ n, s.node? (regL s t f.a.toNat 1) = some n → s.asidOf p.fg ≠ oprAsid ∧ n.asid ≠ s.asidOf p.fg) :
    Done (.nquery f) s p t (ends (s.begun p t) p t f 4 [0, 0, 0, 0]) := by
  refine done_each (g := f.guard) rfl h ?_
  simp only [regL_at, moved_fg, h.fg, begun_node, begun_asidOf]
  cases found : s.node? (regL s t f.a.toNat 1) with
  | none => rfl
  | some n =>
    obtain ⟨opr, own⟩ := none_ n found
    simp only [opr, own, ne_eq, not_false_eq_true, decide_true, Bool.and_self, if_true]
    rfl

end

end Sys2Proof.Machine
end

section
/-! What is claimed of ordering, bindings and node instructions (spec/09_ordering.md, spec/15_launch.md R357 to R359). -/
namespace Sys2Proof.Machine
open Claim

/-- Settles O20: the operation is an operand of the instruction (`awaited_reads`), and with SIDE = 1 no thread of the path traps
(`pendSided_pends`). -/
theorem orderingIssue : Obligations.OrderingIssue :=
  ⟨fun _ _ _ _ _ _ h hi may => awaits_pends h hi may,
   fun _ _ _ _ s _ _ h ha side nf na => pendSided_traps (exec_awaits_sided h nf na s) ha side⟩

/-- Settles O21: an operation that nothing holds back is performed as it stands (`performTodo_fence`, `performTodo_rel`,
`performTodo_acq`). -/
theorem orderingEffects : Obligations.OrderingEffects := by
  intro s t q free block order here near
  have h : Unhindered s t q := ⟨free, block, order, here, near⟩
  refine ⟨fun eng rel acq sc e => ?_, fun obj sc c p e ready found => ⟨fun lost => ?_, fun d bs kept read => ?_⟩,
    fun obj sc c code a e fails => ?_, fun obj sc c p d bs e found read => ?_⟩
  · intro may d waits
    have ready : s.fenceReady t q.uid eng rel sc = true ↔ may := fenceReady_iff ..
    rw [performTodo_fence h e]
    refine ⟨fun no => if_neg (mt ready.1 no), fun yes drop => ?_, fun yes drop half lost => ?_, fun yes drop kept => ?_⟩
    all_goals rw [if_pos (ready.2 yes)]
    · rw [if_pos drop]
    · rw [if_neg (Bool.eq_false_iff.1 drop), if_pos (by rw [half, lost]; rfl)]
    · rw [if_neg (Bool.eq_false_iff.1 drop), if_neg (by obtain k | k := kept <;> simp [k])]
      refine ⟨fun done => if_neg ?_, fun half still => if_pos (Bool.and_eq_true_iff.2 ⟨half, still⟩)⟩
      rw [Bool.and_eq_true]
      exact fun ⟨half, still⟩ => done.elim (fun n => absurd half (Bool.eq_false_iff.1 n)) fun n => absurd still (Bool.eq_false_iff.1 n)
  · rw [performTodo_rel h e, if_pos (by rw [ready]; rfl), doRel_lost found lost]
  · intro v x
    rw [performTodo_rel h e, if_pos (by rw [ready]; rfl), doRel_reads found kept read]
    exact ⟨fun still => if_pos still, fun done => if_neg (Bool.eq_false_iff.1 done)⟩
  · obtain ⟨stops, ended⟩ := doRel_fails (q := q) (sc := sc) fails
    rw [performTodo_rel h e, if_pos (by rw [stops, Bool.or_true]), ended]
  · rw [performTodo_acq h e, doAcq_reads found read]
    rfl

/-- Settles O22: the number is the lowest free one (`lowestFree_eq`), and the lines are whole (`State.bind_lowest`). -/
theorem bindings : Obligations.Bindings := by
  refine ⟨?_, fun _ _ _ _ _ h side hc => unbind_done h side hc, fun _ _ _ _ h side => bindings_sideless h side⟩
  intro f s p t c h side hc base len obj some_ low near peer space n inside free below
  have number : lowestFree (c.bindings.map (·.num)) 4096 = some n := by
    refine lowestFree_eq inside (fun used => ?_) fun k hk => List.mem_map.2 (below k hk)
    obtain ⟨b, hb, e⟩ := List.mem_map.1 used
    exact free b hb e
  exact bind_done h side (State.bind_lowest hc some_ low near peer space number)

/-- Settles O38: each clause is one outcome of `State.doLaunch`, of `nwaits` or of NQUERY's answer. -/
theorem nodeInstructions : Obligations.NodeInstructions := by
  refine ⟨fun f s p hi side => ⟨_, exec_nlaunch f s, pendSided_pends hi side ?_⟩, fun f s _ _ h side => pendSided_traps (exec_nlaunch f s) h side,
    fun _ _ _ _ early => doLaunch_early early, fun s t q ea pk x y res turn block read packet => ?_, fun f s p hi => ?_,
    fun _ _ _ _ h => ⟨fun _ found may => nquery_own h found may, nquery_other h⟩⟩
  · exact (reads_regL s f.a.toNat 2).map fun ea => { fmtLPend f p 1 with todo := .launch ea }
  · have come : PacketCome s t q ea x pk := ⟨turn, block, read⟩
    refine ⟨fun e => doLaunch_unread come (e ▸ packet), fun st e => doLaunch_refused come (e ▸ packet), fun k e => ?_⟩
    have ok := e ▸ packet
    refine ⟨doLaunch_full come ok, fun n ⟨room, ready⟩ parent => ?_⟩
    rw [doLaunch_ready come ok room ready parent]
    exact ⟨fun held => if_pos held, fun gone => if_neg (Bool.eq_false_iff.1 gone)⟩
  · intro id n hp
    obtain ⟨s', run, rest, far, near⟩ := nwait_ends (f := f) hi hp
    refine ⟨s', run, rest, far, fun l hl t ht => ?_⟩
    obtain ⟨t', found, t1, mid, ended⟩ := near l hl t ht
    exact ⟨t', found, t1, ended, mid⟩

end Sys2Proof.Machine
end

section
/-! SUPPORT. The new value of an element (spec/10_sync.md R249). -/
namespace Sys2Proof.Machine

/-- The AT codes below 4 name integer types, the others floating-point types. -/
theorem atTy_lt_eight_iff : ∀ {at_ : Nat}, atTy at_ < 8 ↔ at_ < 4
  | 0 | 1 | 2 | 3 | 4 | 5 => by decide
  | n + 6 => by
    have : atTy (n + 6) = 10 := rfl
    omega

section
variable (at_ old x y : Nat)

theorem atomNew_add_int (h : at_ < 4) : atomNew 0 at_ old x y = (old + x) % 2 ^ atWidth at_ := if_pos (atTy_lt_eight_iff.2 h)
theorem atomNew_add_float (h : 4 ≤ at_) :
    atomNew 0 at_ old x y =
      (fit (fmtOf (atTy at_)) 0 0 (fvAdd 0 ((fmtOf (atTy at_)).value old).1 ((fmtOf (atTy at_)).value x).1).1).1 :=
  if_neg (mt atTy_lt_eight_iff.1 (Nat.not_lt.2 h))
theorem valOf_atomNew_min : valOf (atomNew 1 at_ old x y) (atTy at_) = min (valOf old (atTy at_)) (valOf x (atTy at_)) :=
  apply_ite (fun n => valOf n (atTy at_)) _ old x
theorem valOf_atomNew_max : valOf (atomNew 2 at_ old x y) (atTy at_) = max (valOf old (atTy at_)) (valOf x (atTy at_)) :=
  apply_ite (fun n => valOf n (atTy at_)) _ x old
theorem atomNew_dec : atomNew 9 at_ old x y = if old = 0 ∨ old > x then x else old - 1 := by
  simp only [atomNew, Bool.or_eq_true, decide_eq_true_eq, gt_iff_lt]

end

end Sys2Proof.Machine
end

section
/-! SUPPORT. A change to a barrier of a block (spec/10_sync.md R263). -/
namespace Sys2Proof.Machine

theorem block?_id {s : State} {id : Nat} {b : Block} (h : s.block? id = some b) : b.id = id := by
  simpa using List.find?_some h
theorem State.block?_setBlock {s : State} {id : Nat} {b c : Block} (hc : c.id = id) (h : s.block? id = some b) :
    (s.setBlock c).block? id = some c := by
  unfold State.block? State.setBlock at *
  rw [find_map_key, h]
  · have := block?_id h
    simp [this, hc]
  · intro a
    split <;> simp [*]
@[simp] theorem State.discardClean_block? (s : State) (core asid : Nat) (sc : Line → Nat) (id : Nat) :
    (s.discardClean core asid sc).block? id = s.block? id := by
  unfold State.discardClean
  split <;> rfl
@[simp] theorem State.wakeBar_block? (s : State) (blk n : Nat) (done : Bool) (phase sc id : Nat) :
    (s.wakeBar blk n done phase sc).block? id = s.block? id := by
  unfold State.wakeBar
  dsimp only
  split
  · split
    · exact State.discardClean_block? ..
    · rfl
  · rfl

/-- The barrier that a change to its block sets. -/
theorem State.block?_setBar {s : State} {blk n : Nat} {b : Block} (r : Bar) (hb : s.block? blk = some b) (hn : n < b.bars.length) :
    ((s.setBlock { b with bars := b.bars.set n r }).block? blk).map (·.bar n) = some r := by
  rw [State.block?_setBlock (c := { b with bars := b.bars.set n r }) (block?_id hb :) hb]
  simp [Block.bar, hn]

section
variable {s : State} {blk n sc : Nat} {f : Bar → Bar} {b : Block}

theorem changeBar_completes (hb : s.block? blk = some b) (hc : (f (b.bar n)).current = (f (b.bar n)).expected)
    (hp : (f (b.bar n)).pending % 2 ^ 64 = 0) :
    s.changeBar blk n sc f =
      (s.setBlock { b with bars := b.bars.set n { f (b.bar n) with current := 0, phase := 1 - (f (b.bar n)).phase, pending := 0 } }).wakeBar
        blk n true (1 - (f (b.bar n)).phase) sc := by
  unfold State.changeBar
  simp only [hb, hc, hp, decide_true, Bool.and_self, if_true]
theorem changeBar_continues (hb : s.block? blk = some b)
    (h : ¬((f (b.bar n)).current = (f (b.bar n)).expected ∧ (f (b.bar n)).pending % 2 ^ 64 = 0)) :
    s.changeBar blk n sc f =
      s.setBlock { b with bars := b.bars.set n { f (b.bar n) with pending := (f (b.bar n)).pending % 2 ^ 64 } } := by
  unfold State.changeBar
  simp only [hb]
  exact if_neg (by rwa [Bool.and_eq_true, decide_eq_true_eq, decide_eq_true_eq])

end

end Sys2Proof.Machine
end

section
/-! SUPPORT. The barrier instructions of a path of one thread (spec/10_sync.md R264 to R269, R272). -/
namespace Sys2Proof.Machine

/-- What an instruction passes in its thread moves windows alone: what is outstanding stays outstanding. -/
@[simp] theorem moved_waits (p : Path) (t : Thread) : (moved p t).waits = t.waits := by
  have record : (moved p t).trap.record = t.trap.record := by
    unfold moved Thread.passed
    dsimp only
    split <;> rfl
  have pend : (moved p t).pend = t.pend.map fun q => { q with left := q.left - 1 } := rfl
  unfold Thread.waits Thread.allPend
  rw [record, pend, List.filter_append, List.filter_append, List.map_append, List.map_append, List.filter_map, List.map_map]
  rfl
theorem State.gatherFg_moved (x : State) (p : Path) (t : Thread) (n : Nat) (iaddr : DWord) (hold : Bool) :
    x.gatherFg (moved p t) n iaddr hold = x.gatherFg t n iaddr hold := by
  unfold State.gatherFg
  rw [moved_waits]
  rfl
theorem State.blkId_congr {s1 s : State} (h : s1.rest = s.rest) (fg : Nat) : s1.blkId fg = s.blkId fg :=
  (congrArg (fun x : State => x.blkId fg) h : s1.rest.blkId fg = s.rest.blkId fg)
@[simp] theorem begun_blkId (s : State) (p : Path) (t : Thread) (k : Nat) : (s.begun p t).blkId k = s.blkId k := rfl
@[simp] theorem begun_links (s : State) (p : Path) (t : Thread) : (s.begun p t).links = s.links := rfl

section
variable {f : FmtA} {s : State} {p : Path} {t : Thread} {b : Block}

theorem barinit_done (h : Alone s p rightsAll f.guard t) (hn : srcB s t f 6 ≤ 4095) :
    DoneOnce (.barinit f) s p t fun x => x.changeBar (s.blkId p.fg) f.a.toNat 0 fun r =>
      { r with expected := srcB s t f 6, current := 0, pending := 0, error := 0 } := by
  refine done_once (g := f.guard) rfl h ?_
  have read : srcB ((s.begun p t).retire p.fg t.trap.inH) t f 6 = srcB s t f 6 := (reads_srcB s f 6).rest _ t (State.rest_retire ..)
  have blk : ((s.begun p t).retire p.fg t.trap.inH).blkId t.fg = s.blkId p.fg :=
    (State.blkId_congr (s := s) (State.rest_retire (s.begun p t) ..) _).trans (congrArg s.blkId h.fg)
  simp only [read, blk]
  exact if_neg (Nat.not_lt.2 hn)
theorem expect_done (h : Alone s p rightsAll f.guard t) :
    Done (.expect f) s p t ((s.begun p t).changeBar (s.blkId p.fg) f.a.toNat 0 fun r =>
      { r with pending := (r.pending + srcB s t f 6) % 2 ^ 64 }) :=
  done_each (g := f.guard) rfl h (by simp only [srcB_at, moved_fg, begun_blkId, h.fg])

/-- The arrival of a thread on its own (R264). -/
def ownArrival (s : State) (p : Path) (t : Thread) (n : Nat) : Arrival :=
  { seq := 0, blk := s.blkId p.fg, bar := n, kind := 0, from_ := [(t.fg, t.lane, t.waits)], iaddr := p.iaddr }

theorem arriveBy_own (fn : f.fn = 0#5) (here : t.fg = p.fg) (x : State) (hold : Bool) :
    x.arriveBy p (moved p t) f hold = x.arrive { ownArrival x p t f.a.toNat with hold := hold } := by
  unfold State.arriveBy
  rw [if_neg (by rw [fn]; decide)]
  simp only [moved_fg, moved_lane, moved_waits, ownArrival, here]
theorem arriveBy_group (fn : f.fn = 1#5) (x : State) (hold : Bool) :
    x.arriveBy p (moved p t) f hold = (x.gatherFg t f.a.toNat p.iaddr hold).closeGather t.fg := by
  unfold State.arriveBy
  rw [if_pos fn, State.gatherFg_moved]
  rfl
theorem arrive_done {x : State} (h : Alone s p rightsAll f.guard t) (by_ : (s.begun p t).arriveBy p (moved p t) f false = x) :
    Done (.arrive f) s p t x :=
  done_each (g := f.guard) rfl h (congrArg Res.ok by_)
theorem barwait_arrives {x : State} (h : Alone s p rightsAll f.guard t) (fn : f.fn ≠ 2#5)
    (by_ : ((s.begun p t).setThread { moved p t with after := .barrier f.a.toNat 0 }).arriveBy p (moved p t) f true = x) :
    Done (.barwait f) s p t x :=
  done_each (g := f.guard) rfl h ((if_neg fn).trans (congrArg Res.ok by_))
/-- BARWAIT.phase reads the phase of the barrier as it stands (R268). -/
theorem barwait_phase {u : Thread} (h : Alone s p rightsAll f.guard t) (hb : s.blockOf p.fg = some b) (fn : f.fn = 2#5)
    (by_ : (if (b.bar f.a.toNat).phase ≠ regL s t f.b.toNat 1 % 2
        then { moved p t with jobOut := (t.jobOut ++ (s.links.out.filter fun q =>
          q.kind = 1 && q.bar = some (s.blkId p.fg, f.a.toNat)).map (·.id)).eraseDups }
        else { moved p t with after := .barrier f.a.toNat (2 + regL s t f.b.toNat 1 % 2) }) = u) :
    Done (.barwait f) s p t ((s.begun p t).setThread u) := by
  refine done_each (g := f.guard) rfl h ((if_pos fn).trans ?_)
  rw [← h.fg] at hb by_
  simp only [regL_at, moved_fg, begun_blockOf, begun_blkId, begun_links, hb, Option.map_some, Option.getD_some]
  exact congrArg (fun u => Res.ok ((s.begun p t).setThread u)) by_
theorem bartest_done {x : State} (h : Alone s p rightsAll f.guard t) (hb : s.blockOf p.fg = some b)
    (by_ : (if f.fn = 1#5
        then ((s.begun p t).setThread ((moved p t).put f.d.toNat (natWords (b.bar f.a.toNat).bits 4))).setBlock
          { b with bars := b.bars.modify f.a.toNat fun r => { r with error := 0 } }
        else (s.begun p t).setThread ((moved p t).put f.d.toNat (natWords (b.bar f.a.toNat).bits 4))) = x) :
    Done (.bartest f) s p t x :=
  done_each (g := f.guard) rfl h (by simp only [moved_fg, h.fg, begun_blockOf, hb]; exact congrArg Res.ok by_)

end

/-! ### Arrivals for other blocks (R267, R272) -/

/-- The block of the same cluster that stands on a core. -/
def Block.mate (b : Block) (core : Nat) (c : Block) : Bool := c.node = b.node && c.clu = b.clu && c.run = b.run && c.core = core
/-- The cluster of a block has had a block on a core. -/
def State.hadMate (s : State) (b : Block) (core : Nat) : Bool :=
  ((s.sched.pool.find? fun n => n.id = b.node).map fun n => n.clusters.any fun k =>
    k.num = b.clu && k.cores.any fun e => e.1 = b.run && e.2 % 4 = core % 4).getD false
theorem State.hadMate_iff (s : State) (b : Block) (core : Nat) :
    s.hadMate b core = true ↔ ∃ n, s.sched.pool.find? (fun n => n.id = b.node) = some n ∧ ∃ k ∈ n.clusters, k.num = b.clu ∧
      ∃ e ∈ k.cores, e.1 = b.run ∧ e.2 % 4 = core % 4 := by
  unfold State.hadMate
  cases s.sched.pool.find? fun n => n.id = b.node <;> simp
/-- An arrival of a thread joins those that wait for their release. -/
def State.addRemote (s : State) (r : RemoteArr) : State := { s with sync := { s.sync with remote := s.sync.remote ++ [r] } }
/-- What an arrival carries of its thread and of its thread's block. -/
def remoteOf (s : State) (t : Thread) (b : Block) (bar : Nat) : RemoteArr :=
  { fg := t.fg, lane := t.lane, waits := t.waits, uid := s.uid, bar := bar, dom := false, blk := 0, asid := b.asid, tag := b.tag, node := b.node }
@[simp] theorem remoteOf_at (s : State) (p : Path) (t : Thread) (b : Block) (bar : Nat) :
    remoteOf (s.begun p t) (moved p t) b bar = remoteOf s t b bar := by
  unfold remoteOf
  rw [moved_waits]
  rfl

/-- ARRIVE.clu in a thread of block `b`. -/
def arriveCluIn (f : FmtA) (s : State) (t : Thread) (b : Block) : Res :=
  let core := b.core / 4 * 4 + srcB s t f 6 % 4
  match s.blocks.find? (b.mate core) with
  | some c => .ok (s.addRemote { remoteOf s t b f.a.toNat with blk := c.id })
  | none => if s.hadMate b core then .ok s else .trap 0x4004 s.noAddr
theorem exec_arriveClu (f : FmtA) (s : State) :
    exec (.arriveClu f) s = .next (issueEach s rightsAll f.guard fun _ s t =>
      match s.blockOf t.fg with | none => .trap 0x4004 s.noAddr | some b => arriveCluIn f s t b) := by
  refine congrArg (fun each => (.next (issueEach s rightsAll f.guard each) : Out)) ?_
  funext _ s t
  unfold arriveCluIn
  dsimp only
  cases s.blockOf t.fg with
  | none => rfl
  | some b =>
    change _ = match s.blocks.find? (b.mate (b.core / 4 * 4 + srcB s t f 6 % 4)) with | some c => _ | none => _
    unfold Block.mate
    dsimp only
    cases s.blocks.find? _ <;> rfl

/-- ARRIVE.dom in a thread of block `b`, with the target in register B (R267). -/
def arriveDomIn (f : FmtA) (s : State) (t : Thread) (b : Block) : Res :=
  let x := regL s t f.b.toNat 2
  if b.tag = 0 then .trap 0x4004 s.noAddr
  else if s.rankValid (bits x 32 9) then
    .ok (s.addRemote { remoteOf s t b f.a.toNat with jobs := t.jobOut, dom := true, blk := x % 2 ^ 32, rank := bits x 32 9 })
  else .trap 0x8001 s.noAddr
theorem exec_arriveDom (f : FmtA) (s : State) :
    exec (.arriveDom f) s = .next (issueEach s rightsAll f.guard fun _ s t =>
      if s.sideless t.fg then .trap 0x4001 s.noAddr
      else match s.blockOf t.fg with | none => .trap 0x4004 s.noAddr | some b => arriveDomIn f s t b) := by
  refine congrArg (fun each => (.next (issueEach s rightsAll f.guard each) : Out)) ?_
  funext _ s t
  cases s.blockOf t.fg with
  | none => rfl
  | some b =>
    dsimp only [arriveDomIn]
    cases s.rankValid (bits (regL s t f.b.toNat 2) 32 9) <;> rfl

section
variable {f : FmtA} {s : State} {p : Path} {t : Thread} {b : Block} (h : Alone s p rightsAll f.guard t) (hb : s.blockOf p.fg = some b)
include h hb

theorem arriveClu_at :
    (match (s.begun p t).blockOf (moved p t).fg with
      | none => Res.trap 0x4004 (s.begun p t).noAddr
      | some b => arriveCluIn f (s.begun p t) (moved p t) b) =
    match s.blocks.find? (b.mate (b.core / 4 * 4 + srcB s t f 6 % 4)) with
    | some c => .ok ((s.begun p t).addRemote { remoteOf s t b f.a.toNat with blk := c.id })
    | none => if s.hadMate b (b.core / 4 * 4 + srcB s t f 6 % 4) then .ok (s.begun p t) else .trap 0x4004 s.noAddr := by
  rw [moved_fg, h.fg, begun_blockOf, hb]
  simp only [arriveCluIn, srcB_at, remoteOf_at]
  rfl
theorem arriveClu_sent {c : Block} (hc : s.blocks.find? (b.mate (b.core / 4 * 4 + srcB s t f 6 % 4)) = some c) :
    Done (.arriveClu f) s p t ((s.begun p t).addRemote { remoteOf s t b f.a.toNat with blk := c.id }) :=
  done_each (exec_arriveClu f s) h (by rw [arriveClu_at h hb, hc])
theorem arriveClu_ended (hc : s.blocks.find? (b.mate (b.core / 4 * 4 + srcB s t f 6 % 4)) = none)
    (was : s.hadMate b (b.core / 4 * 4 + srcB s t f 6 % 4) = true) : Done (.arriveClu f) s p t (s.begun p t) :=
  done_each (exec_arriveClu f s) h (by rw [arriveClu_at h hb, hc]; exact if_pos was)
theorem arriveClu_nobody (hc : s.blocks.find? (b.mate (b.core / 4 * 4 + srcB s t f 6 % 4)) = none)
    (was : ¬s.hadMate b (b.core / 4 * 4 + srcB s t f 6 % 4) = true) : Traps (.arriveClu f) s p t 0x4004 s.noAddr :=
  traps_each (exec_arriveClu f s) h (by rw [arriveClu_at h hb, hc]; exact if_neg was)

variable (side : s.sideless p.fg = false)
include side

theorem arriveDom_at :
    (if (s.begun p t).sideless (moved p t).fg then Res.trap 0x4001 (s.begun p t).noAddr
      else match (s.begun p t).blockOf (moved p t).fg with
        | none => .trap 0x4004 (s.begun p t).noAddr
        | some b => arriveDomIn f (s.begun p t) (moved p t) b) = arriveDomIn f (s.begun p t) (moved p t) b := by
  rw [moved_fg, h.fg, begun_blockOf, begun_sideless, hb, side]
  rfl
theorem arriveDom_untagged (tag : b.tag = 0) : Traps (.arriveDom f) s p t 0x4004 s.noAddr :=
  traps_each (exec_arriveDom f s) h ((arriveDom_at h hb side).trans (if_pos tag))
theorem arriveDom_sent (tag : b.tag ≠ 0) (ok : s.rankValid (bits (regL s t f.b.toNat 2) 32 9) = true) :
    Done (.arriveDom f) s p t ((s.begun p t).addRemote { remoteOf s t b f.a.toNat with
      jobs := t.jobOut, dom := true, blk := regL s t f.b.toNat 2 % 2 ^ 32, rank := bits (regL s t f.b.toNat 2) 32 9 }) := by
  refine done_each (exec_arriveDom f s) h ((arriveDom_at h hb side).trans ((if_neg tag).trans ?_))
  rw [regL_at, remoteOf_at]
  exact if_pos ok
theorem arriveDom_noRank (tag : b.tag ≠ 0) (no : s.rankValid (bits (regL s t f.b.toNat 2) 32 9) = false) :
    Traps (.arriveDom f) s p t 0x8001 s.noAddr := by
  refine traps_each (exec_arriveDom f s) h ((arriveDom_at h hb side).trans ((if_neg tag).trans ?_))
  rw [regL_at]
  exact if_neg (Bool.eq_false_iff.1 no)

end

end Sys2Proof.Machine
end

section
/-! SUPPORT. The issue of an atomic: its request, and what is pending in its thread (spec/10_sync.md R247, R250, R251). -/
namespace Sys2Proof.Machine
open Claim

/-- A request joins the others under a new identity. -/
def State.openReq (s : State) (r : AtomReq) : State := { s with uid := s.uid + 1, sync := { s.sync with reqs := s.sync.reqs ++ [r] } }
/-- A lane joins a request. -/
def State.joinReq (s : State) (id : Nat) (l : AtomLane) : State :=
  { s with sync := { s.sync with reqs := s.sync.reqs.map fun q => if q.id = id then { q with lanes := q.lanes ++ [l] } else q } }
/-- A request that no lane has joined is none. -/
def State.closeReq (s : State) (id : Nat) : State :=
  { s with sync := { s.sync with reqs := s.sync.reqs.filter fun q => !(q.id = id && q.lanes.isEmpty) } }
/-- The request of a path, before its lanes join it. -/
def atomReq (s : State) (fg : Nat) (f : FmtL) (sp red : Bool) : AtomReq :=
  { id := s.uid, fg := fg, op := FmtL.op f, at_ := FmtL.at_ f, sp := sp, red := red, ord := FmtL.ord f, sc := FmtL.sc f }

/-- The address of a thread's element, aligned to its size. -/
def atomEa (f : FmtL) (sp : Bool) (s : State) (t : Thread) : Nat :=
  regL s t f.a.toNat (if sp then 1 else 2) / atBytes (FmtL.at_ f) * atBytes (FmtL.at_ f)
/-- What an atomic leaves pending in its thread: a RED names no register. -/
def atomPend (f : FmtL) (sp red : Bool) (p : Path) (s : State) (t : Thread) : Pending :=
  { fmtLPend f p (if red then 0 else atRegs (FmtL.at_ f)) with
    bound := if sp then [] else s.boundTo (s.asidOf t.fg) (s.objOf (atomEa f sp s t)) }
/-- The lane that a thread brings to its request, with the identity of what is pending. -/
def atomLane (f : FmtL) (sp : Bool) (s : State) (t : Thread) (u : Nat) : AtomLane :=
  let n := atRegs (FmtL.at_ f)
  let w := atWidth (FmtL.at_ f)
  { lane := t.lane, uid := u, ea := atomEa f sp s t, x := regL s t f.b.toNat n % 2 ^ w, y := regL s t f.c.toNat n % 2 ^ w }
/-- A thread of an atomic: its operation is pending and counted, and its lane joins the request. -/
def State.joinAtom (s : State) (f : FmtL) (sp red : Bool) (id : Nat) (p : Path) (t : Thread) : State :=
  let x := s.pendL t (atomPend f sp red p s t)
  (if s.asidOf t.fg < 1024 then x.countEv (s.asidOf t.fg) 6 1 else x).joinReq id (atomLane f sp s t s.uid)
/-- With SIDE = 0 an atomic of device memory traps (spec/15_launch.md R337). -/
def atomEach (f : FmtL) (sp red : Bool) (id : Nat) (p : Path) (s : State) (t : Thread) : Res :=
  if !sp && s.sideless t.fg then .trap 0x4001 s.noAddr else .ok (s.joinAtom f sp red id p t)

/-- The file group of the path that issues. -/
def State.headFg (s : State) : Nat := match s.paths with | p :: _ => p.fg | [] => 0
theorem State.headFg_eq {s : State} {p : Path} (h : s.paths.head? = some p) : s.headFg = p.fg := by
  unfold State.headFg
  cases hs : s.paths with
  | nil => rw [hs] at h; cases h
  | cons q qs => rw [hs] at h; cases h; rfl
theorem issueAtom_eq (s : State) (f : FmtL) (sp red : Bool) :
    issueAtom s f sp red =
      (issueEach (s.openReq (atomReq s s.headFg f sp red)) rightsAll f.guard (atomEach f sp red s.uid)).closeReq s.uid := by
  cases sp <;> rfl
theorem exec_atomic {i : Instr} {f : FmtL} {sp red : Bool} (h : atomic i = some (f, sp, red)) (s : State) :
    exec i s = .next (issueAtom s f sp red) := by
  unfold atomic at h
  split at h <;> cases h <;> rfl

theorem exec_atomic_issues {i : Instr} {f : FmtL} {sp red : Bool} {s : State} {p : Path} (h : atomic i = some (f, sp, red))
    (hp : s.paths.head? = some p) :
    exec i s = .next ((issueEach (s.openReq (atomReq s p.fg f sp red)) rightsAll f.guard (atomEach f sp red s.uid)).closeReq s.uid) := by
  rw [exec_atomic h, issueAtom_eq, State.headFg_eq hp]

/-! ### What a path of one thread does -/

section
variable {f : FmtL} {s : State} {p : Path} {t : Thread}

theorem Alone.openReq {r : Rights} {g : Guard} (h : Alone s p r g t) (q : AtomReq) : Alone (s.openReq q) p r g t := h.congr rfl rfl rfl
theorem atomEa_at (s : State) (p : Path) (t : Thread) (sp : Bool) (q : AtomReq) :
    atomEa f sp ((s.openReq q).begun p t) (moved p t) = atomEa f sp s t := by
  unfold atomEa
  rw [regL_at]
  rfl
theorem atomLane_at (s : State) (p : Path) (t : Thread) (sp : Bool) (q : AtomReq) (u : Nat) :
    atomLane f sp ((s.openReq q).begun p t) (moved p t) u = atomLane f sp s t u := by
  unfold atomLane
  simp only [atomEa_at, regL_at]
  rfl
theorem atomPend_at (s : State) (p : Path) (t : Thread) (sp red : Bool) (q : AtomReq) :
    atomPend f sp red p ((s.openReq q).begun p t) (moved p t) = atomPend f sp red p s t := by
  unfold atomPend
  rw [atomEa_at]
  rfl

/-- All that a thread's part of an atomic changes but threads and counters: its lane joins the request. -/
theorem State.joinAtom_rest (s : State) (f : FmtL) (sp red : Bool) (id : Nat) (p : Path) (t : Thread) :
    (s.joinAtom f sp red id p t).rest = (s.joinReq id (atomLane f sp s t s.uid)).rest := by
  unfold State.joinAtom
  dsimp only
  split <;> rfl
theorem State.joinAtom_thread? (s : State) (f : FmtL) (sp red : Bool) (id : Nat) (p : Path) (t : Thread) (fg l : Nat) :
    (s.joinAtom f sp red id p t).thread? fg l = (s.pendL t (atomPend f sp red p s t)).thread? fg l := by
  unfold State.joinAtom
  dsimp only
  split <;> rfl

/-- The requests after the lane has joined its own and the others have been left. -/
theorem State.joined_reqs (s : State) {q : AtomReq} (l : AtomLane) (hq : q.id = s.uid) (empty : q.lanes = [])
    (new : ∀ q ∈ s.sync.reqs, q.id ≠ s.uid) :
    (((s.openReq q).joinReq s.uid l).closeReq s.uid).sync = { s.sync with reqs := s.sync.reqs ++ [{ q with lanes := [l] }] } := by
  have others : s.sync.reqs.map (fun q => if q.id = s.uid then { q with lanes := q.lanes ++ [l] } else q) = s.sync.reqs :=
    (List.map_congr_left fun q h => if_neg (new q h)).trans (List.map_id' _)
  have kept : s.sync.reqs.filter (fun q => !(q.id = s.uid && q.lanes.isEmpty)) = s.sync.reqs :=
    List.filter_eq_self.2 fun q h => by simp [new q h]
  simp only [State.closeReq, State.joinReq, State.openReq, List.map_append, others, List.filter_append, kept]
  simp [hq, empty]

theorem atomic_joins {i : Instr} {sp red : Bool} (hi : atomic i = some (f, sp, red)) (h : Alone s p rightsAll f.guard t)
    (may : sp = true ∨ s.sideless p.fg = false) :
    exec i s = .next (((((s.openReq (atomReq s p.fg f sp red)).begun p t).joinAtom f sp red s.uid p (moved p t)).retire p.fg t.trap.inH).advance
      p [t.lane] |>.closeReq s.uid) := by
  have goes : (!sp && s.sideless p.fg) = false := by
    obtain e | e := may <;> simp [e]
  rw [exec_atomic_issues hi h.issues.head,
    issueEach_alone (h.openReq _) (f := atomEach f sp red s.uid) (if_neg (by rw [moved_fg, h.fg]; exact Bool.eq_false_iff.1 goes))]
theorem atomic_sideless {i : Instr} {red : Bool} (hi : atomic i = some (f, false, red)) (h : Alone s p rightsAll f.guard t)
    (side : s.sideless p.fg = true) :
    let x := s.openReq (atomReq s p.fg f false red)
    exec i s = .next (((x.takeTrap { t with pc := p.pc, idx := p.idx } 0x4001 x.noAddr p.iaddr true).advance p []).closeReq s.uid) := by
  dsimp only
  rw [exec_atomic_issues hi h.issues.head,
    issueEach_traps (h.openReq _) (f := atomEach f false red s.uid) (if_pos (by rw [moved_fg, h.fg]; exact side))]
  rfl

/-- After an instruction that leaves one more operation pending in the one thread of its path, and no other thread changed. -/
theorem advance_pends {x y : State} {r : Rights} {g : Guard} {q : Pending} (h : Alone s p r g t)
    (run : y = (x.retire p.fg t.trap.inH).advance p [t.lane])
    (mine : x.thread? p.fg t.lane = some ((moved p t).pendAdd q))
    (far : ∀ fg l, (fg ≠ p.fg ∨ l ≠ t.lane) → x.thread? fg l = s.thread? fg l) :
    y.rest = x.rest ∧ Threads s y p fun u u' => u'.core = (u.pendAdd q).core := by
  obtain ⟨due, ret⟩ := h.issues.quiet t.lane (by rw [h.lanes]; exact List.mem_singleton_self _) t h.found
  have found : (x.retire p.fg t.trap.inH).thread? p.fg t.lane = some ((moved p t).pendAdd q) := by rw [State.thread?_retire, mine]
  obtain ⟨rest, others, ended⟩ := State.advance_spec (x.retire p.fg t.trap.inH) p [t.lane] (List.nodup_singleton _) (by
    intro l hl u hu
    obtain rfl := List.mem_singleton.1 hl
    rw [found] at hu
    cases hu
    exact ⟨due, ret⟩)
  subst run
  refine ⟨rest.trans (State.rest_retire ..), fun fg l hne => ?_, fun l hl u hu => ?_⟩
  · rw [h.lanes, List.mem_singleton] at hne
    rw [others fg l (by rwa [List.mem_singleton]), State.thread?_retire, far fg l hne]
  · rw [h.lanes] at hl
    obtain ⟨u', hu', stands⟩ := ended l hl _ (List.mem_singleton.1 hl ▸ found)
    obtain rfl := List.mem_singleton.1 hl
    obtain rfl : t = u := Option.some.inj (h.found.symm.trans hu)
    exact ⟨u', hu', (core_of_end stands).trans (Thread.core_pendAdd _ _ _ (moved_core p t))⟩

theorem atomic_issues {i : Instr} {sp red : Bool} (hi : atomic i = some (f, sp, red)) (h : Alone s p rightsAll f.guard t)
    (may : sp = true ∨ s.sideless p.fg = false) (new : ∀ q ∈ s.sync.reqs, q.id ≠ s.uid) :
    ∃ s', exec i s = .next s' ∧
      s'.rest = ({ s with sync := { s.sync with reqs := s.sync.reqs ++
        [{ atomReq s p.fg f sp red with lanes := [atomLane f sp s t (s.uid + 1)] }] } } : State).rest ∧
      Threads s s' p fun u u' => u'.core = (u.pendAdd { atomPend f sp red p s t with uid := s.uid + 1 }).core := by
  let x := (s.openReq (atomReq s p.fg f sp red)).begun p t
  have hx : x.thread? p.fg t.lane = some (moved p t) := h.fg ▸ begun_found (h.openReq (atomReq s p.fg f sp red))
  let pend : Pending := atomPend f sp red p s t
  have near : (x.joinAtom f sp red s.uid p (moved p t)).thread? p.fg t.lane = some ((moved p t).pendAdd { pend with uid := s.uid + 1 }) := by
    rw [State.joinAtom_thread?, atomPend_at]
    exact State.thread?_setThread_mk { x with uid := x.uid + 1 } _ _ _ h.fg rfl ⟨_, hx⟩
  have far : ∀ fg l, (fg ≠ p.fg ∨ l ≠ t.lane) → (x.joinAtom f sp red s.uid p (moved p t)).thread? fg l = s.thread? fg l := by
    intro fg l hne
    rw [← h.fg] at hne
    rw [State.joinAtom_thread?, atomPend_at]
    exact (State.thread?_setThread_ne { x with uid := x.uid + 1 } ((moved p t).pendAdd { pend with uid := s.uid + 1 }) fg l hne).trans
      (State.thread?_setThread_ne (s.openReq (atomReq s p.fg f sp red)) (moved p t) fg l hne)
  obtain ⟨rest, threads⟩ := advance_pends h rfl near far
  refine ⟨_, atomic_joins hi h may, ?_, threads⟩
  rw [State.joinAtom_rest, atomLane_at] at rest
  have reqs := State.joined_reqs s (q := atomReq s p.fg f sp red) (atomLane f sp s t (s.uid + 1)) rfl rfl new
  exact (congrArg (fun y : State => y.closeReq s.uid) rest).trans (congrArg (fun y => { s.rest with sync := y }) reqs)

end

end Sys2Proof.Machine
end

section
/-! SUPPORT. The service of atomic requests at their elements (spec/10_sync.md R247, R250). -/
namespace Sys2Proof.Machine
open Claim

/-- A lane of the request is still on its way to an engine of another die. -/
def State.sails (x : State) (q : AtomReq) : Bool := q.lanes.any fun l => (x.crossOf q.fg l.lane l.uid).any fun e => e.st = 0
/-- One pass of a request: what it serves now, and what is left (R247). -/
def State.passLanes (x : State) (q : AtomReq) : List AtomLane := (winners q.lanes).filter fun l => !x.laneHeld q l
def State.serve (x : State) (q : AtomReq) : State :=
  ((x.passLanes q).foldl (fun x l => (x.performAtom q l).1.atomDone q l (x.performAtom q l).2) x).setReq
    { q with lanes := q.lanes.filter fun l => !(x.passLanes q).contains l }

section
variable {s x : State} {r q : AtomReq} (found : s.sync.reqs.find? (fun q => q.id = s.ev.a) = some r)
include found

theorem atomicRequestServe_waits (wait : s.reqReady r = false) : Happens .atomicRequestServe s s := by
  change execAtomicRequestServe s = _
  unfold execAtomicRequestServe
  simp only [found, wait, Bool.not_false, if_true]
/-- A request that has left its core, or leaves it now, is served once all its lanes are at their engines. -/
theorem atomicRequestServe_goes (ready : s.reqReady r = true) (out : (if r.sent then (s, r) else s.sendReq r) = (x, q)) :
    Happens .atomicRequestServe s (if q.sent && !x.sails q then x.serve q else x.setReq q) := by
  change execAtomicRequestServe s = _
  unfold execAtomicRequestServe
  simp only [found, ready, out, Bool.not_true, Bool.false_eq_true, if_false]
  change (if (!q.sent || x.sails q) = true then Host.Outcome.next (x.setReq q) else .next (x.serve q)) = _
  cases q.sent <;> cases x.sails q <;> rfl
theorem atomicRequestServe_sent (sent : r.sent = true) :
    Happens .atomicRequestServe s (if s.sails r then s.setReq r else s.serve r) := by
  have goes := atomicRequestServe_goes (x := s) (q := r) found (by rw [State.reqReady, sent]; rfl) (if_pos sent)
  rw [sent] at goes
  revert goes
  cases s.sails r <;> exact id
theorem atomicRequestServe_leaves (here : r.sent = false) (ready : s.reqReady r = true) (out : s.sendReq r = (x, q)) :
    Happens .atomicRequestServe s (if q.sent && !x.sails q then x.serve q else x.setReq q) :=
  atomicRequestServe_goes found ready (by rw [here]; exact out)

end

theorem Block.drainBanks_empty {b : Block} (h : b.bankQ = []) : b.drainBanks = b := by
  cases b
  cases h
  rfl
/-- An element of a scratchpad that no store waits for (R244). -/
theorem performAtom_scratch {s : State} {r : AtomReq} {b : Block} (l : AtomLane) (sp : r.sp = true) (hb : s.blockOf r.fg = some b)
    (empty : b.bankQ = []) :
    let old := field b.scratch l.ea (atBytes r.at_)
    s.performAtom r l =
      (s.setBlock { b with scratch := patch b.scratch l.ea (toBytes (atBytes r.at_) (atomNew r.op r.at_ old l.x l.y)) }, .ok old) := by
  unfold State.performAtom
  simp only [sp, hb, Block.drainBanks_empty empty, if_true]

end Sys2Proof.Machine
end

section
/-! SUPPORT. Tokens in a ticket network (spec/10_sync.md R254). -/
namespace Sys2Proof.Machine
open Claim

/-- The key under which a network lives. -/
def Net.key (n : Net) : NetKey := { dom := n.dom, home := n.home, word := n.word }
/-- Token `k` has passed `m` layers, and stands on wire `out.2`. -/
def Net.movedTo (n : Net) (k : Token) (out : BitVec 80 × Nat) (m : Nat) : Net :=
  { n with bits := out.1, tokens := n.tokens.map fun y => if y.id = k.id then { k with layer := k.layer + m, wire := out.2 } else y }
/-- The ticket that the counter of wire `w` gives next. -/
def Net.ticket (n : Net) (w : Nat) : Nat := (n.base + w + 16 * n.ctrs.getD w 0) % 2 ^ 64
/-- Token `k` has left on wire `out.2` with its ticket. -/
def Net.left (n : Net) (k : Token) (out : BitVec 80 × Nat) : Net :=
  { n with bits := out.1, ctrs := n.ctrs.set out.2 ((n.ctrs.getD out.2 0 + 1) % 2 ^ 48), tokens := n.tokens.filter fun y => y.id ≠ k.id }

/-- Token `k` of network `n` is the one that the event names, and may go. -/
structure TokenGoes (s : State) (n : Net) (k : Token) : Prop where
  net   : s.sync.nets[s.ev.a]? = some n
  token : n.tokens.find? (fun y => y.id = s.ev.b) = some k
  first : k.layer = 0 → (n.tokens.find? fun y => y.layer = 0) = some k

section
variable {s : State} {n : Net} {k : Token} (h : TokenGoes s n k)
include h

theorem ticketTokenExit_goes (m : Nat) (hm : (if s.ev.c = 0 then 10 - k.layer else Nat.min s.ev.c (10 - k.layer)) = m) :
    exec .ticketTokenExit s = .next (
      let out := passLayers m n.bits k.layer k.wire
      if m < 10 - k.layer then s.setNet n.key (n.movedTo k out m)
      else
        ((if k.ord = 1 then s.acqAfter k.fg k.lane k.uid k.sc else s).netEnd k.fg k.lane k.uid (natWords (n.ticket out.2) 2)).netQuiet n.key
          (n.left k out)) := by
  have turn : (decide (k.layer = 0) && decide ((n.tokens.find? fun y => y.layer = 0).map (·.id) ≠ some k.id)) = false := by
    rw [Bool.and_eq_false_iff, decide_eq_false_iff_not, decide_eq_false_iff_not]
    by_cases low : k.layer = 0
    · rw [h.first low]
      exact .inr (not_not_intro rfl)
    · exact .inl low
  change execTicketTokenExit s = _
  unfold execTicketTokenExit
  simp only [h.net, h.token, turn, hm, Bool.false_eq_true, if_false]
  split <;> rfl
theorem ticketTokenExit_leaves (all : s.ev.c = 0) (plain : k.ord ≠ 1) :
    let out := passLayers (10 - k.layer) n.bits k.layer k.wire
    Happens .ticketTokenExit s ((s.netEnd k.fg k.lane k.uid (natWords (n.ticket out.2) 2)).netQuiet n.key (n.left k out)) := by
  have goes := ticketTokenExit_goes h (10 - k.layer) (if_pos all)
  dsimp only at goes
  rwa [if_neg (Nat.lt_irrefl _), if_neg plain] at goes
theorem ticketTokenExit_passes (some_ : 0 < s.ev.c) (short : s.ev.c < 10 - k.layer) :
    Happens .ticketTokenExit s (s.setNet n.key (n.movedTo k (passLayers s.ev.c n.bits k.layer k.wire) s.ev.c)) := by
  have goes := ticketTokenExit_goes h s.ev.c ((if_neg (by omega)).trans (Nat.min_eq_left (by omega)))
  dsimp only at goes
  rwa [if_pos short] at goes

end

end Sys2Proof.Machine
end

section
/-! SUPPORT. Arrivals at barriers (spec/10_sync.md R263, R264, R267). -/
namespace Sys2Proof.Machine
open Claim

/-- An arrival is taken from those on their way. -/
def State.takeArrival (s : State) (a : Arrival) : State :=
  { s with sync := { s.sync with arrivals := s.sync.arrivals.filter fun x => x.seq ≠ a.seq } }
theorem exec_barrierArrivalCount {s : State} {a : Arrival} (found : s.sync.arrivals.find? (fun a => a.seq = s.ev.a) = some a) :
    exec .barrierArrivalCount s = .next (if s.arrivalReady a then (s.takeArrival a).applyArrival a else s) := by
  change execBarrierArrivalCount s = _
  unfold execBarrierArrivalCount
  simp only [found]
  cases s.arrivalReady a <;> rfl

@[simp] theorem Bar.fail_zero (r : Bar) : r.fail 0 = r := by simp [Bar.fail]
/-- An arrival that is counted and holds nobody is one change of CURRENT (R263). -/
theorem applyArrival_counts {s : State} {a : Arrival} {b : Block} (hb : s.block? a.blk = some b) (count : a.count = true) (free : a.hold = false)
    (room : (b.bar a.bar).current < (b.bar a.bar).expected) (err : a.err = 0) (bytes : a.bytes = 0) :
    s.applyArrival a = s.changeBar a.blk a.bar a.sc fun r => { r with current := r.current + 1 } := by
  unfold State.applyArrival
  simp only [bytes, count, hb, free, err, Bar.fail_zero, ne_eq, not_true_eq_false, if_false, if_true, Bool.not_true, Bool.false_eq_true,
    if_pos (Nat.succ_le_of_lt room)]

/-- Bytes that have come are one change of PENDING, before the arrival is counted (R264). -/
def State.lessPending (s : State) (a : Arrival) : State :=
  s.changeBar a.blk a.bar (if a.count then 0 else a.sc) fun r => { r with pending := (r.pending + 2 ^ 64 - a.bytes % 2 ^ 64) % 2 ^ 64 }

section
variable {s : State} {a : Arrival} (err : a.err = 0) (bytes : a.bytes ≠ 0)
include err bytes

theorem applyArrival_bytesFirst (count : a.count = true) : s.applyArrival a = (s.lessPending a).applyArrival { a with bytes := 0 } := by
  unfold State.applyArrival State.lessPending
  simp only [err, bytes, count, Bar.fail_zero, ne_eq, not_false_eq_true, not_true_eq_false, if_true, if_false]
theorem applyArrival_bytesOnly (count : a.count = false) : s.applyArrival a = s.lessPending a := by
  unfold State.applyArrival State.lessPending
  simp only [err, bytes, count, Bar.fail_zero, ne_eq, not_false_eq_true, if_true, Bool.false_eq_true, if_false, Bool.not_false]
  split <;> rfl

end

/-- What the thread of a remote arrival had outstanding is complete, and its stores are performed (R225). -/
def State.remoteReady (s : State) (t : Thread) (r : RemoteArr) : Bool :=
  (t.allPend.all fun p => p.arrived || !r.waits.contains p.uid) && s.storesDone r.fg r.lane r.uid (if r.dom then 6 else 3) r.jobs
theorem State.remoteReady_iff (s : State) (t : Thread) (r : RemoteArr) :
    s.remoteReady t r = true ↔
      (∀ p ∈ t.allPend, p.arrived = true ∨ p.uid ∉ r.waits) ∧ s.storesDone r.fg r.lane r.uid (if r.dom then 6 else 3) r.jobs = true := by
  simp [State.remoteReady]
theorem exec_remoteArrival {s : State} {r : RemoteArr} {t : Thread} (here : s.ev.c ≠ 1) (found : s.sync.remote[s.ev.a]? = some r)
    (ht : s.thread? r.fg r.lane = some t) :
    exec .remoteArrival s = .next (if s.remoteReady t r then s.sendArrival r else s) := by
  change execRemoteArrival s = _
  unfold execRemoteArrival
  simp only [here, found, ht, if_false]
  rfl

end Sys2Proof.Machine
end

section
/-! What is claimed of atomics, tickets and barriers (spec/10_sync.md). -/
namespace Sys2Proof.Machine
open Claim

/-- Settles O24: the sum is by the kind of the type (`atTy_lt_eight_iff`), minimum and maximum are those of the values. -/
theorem atomicValues : Obligations.AtomicValues := by
  intro at_ old x y _ _ _
  exact ⟨atomNew_add_int at_ old x y, atomNew_add_float at_ old x y,
    fun _ => ⟨valOf_atomNew_min at_ old x y, valOf_atomNew_max at_ old x y⟩, rfl, rfl, rfl, rfl, rfl, rfl, atomNew_dec at_ old x y⟩

/-- Settles O25: waking the waiters leaves the blocks as they are (`State.wakeBar_block?`). -/
theorem barrierChange : Obligations.BarrierChange := by
  intro s blk n sc f b hb hn
  refine ⟨fun hc hp => ?_, fun h => ?_⟩
  · rw [changeBar_completes hb hc hp, State.wakeBar_block?]
    exact State.block?_setBar _ hb hn
  · rw [changeBar_continues hb h]
    exact ⟨State.block?_setBar _ hb hn, State.setBlock_threads ..⟩

/-- Settles O26: ARRIVE and BARWAIT are `State.arriveBy`, whose arrival carries what the thread has outstanding (`moved_waits`). -/
theorem barrierInstructions : Obligations.BarrierInstructions := by
  intro f s p t b h hb
  have notPhase {k : BitVec 5} (fn : f.fn = k) (hk : k ≠ 2#5) : f.fn ≠ 2#5 := fn ▸ hk
  exact ⟨barinit_done h, expect_done h, fun fn => arrive_done h (arriveBy_own fn h.fg _ false),
    fun fn => arrive_done h (arriveBy_group fn _ false), fun fn => barwait_arrives h (notPhase fn (by decide)) (arriveBy_own fn h.fg _ true),
    fun fn => barwait_arrives h (notPhase fn (by decide)) (arriveBy_group fn _ true), fun fn now => barwait_phase h hb fn (if_pos now),
    fun fn now => barwait_phase h hb fn (if_neg (not_not_intro now)), fun fn => bartest_done h hb (if_neg (by rw [fn]; decide)),
    fun fn => bartest_done h hb (if_pos fn)⟩

/-- Settles O27: each clause is one outcome of `arriveCluIn` or of `arriveDomIn`. -/
theorem remoteArrivals : Obligations.RemoteArrivals := by
  intro f s p t b h hb
  refine ⟨fun c hc => arriveClu_sent h hb hc, fun hc => ⟨fun was => ?_, fun was => ?_⟩, fun side tag ok => arriveDom_sent h hb side tag ok,
    fun side tag no => arriveDom_noRank h hb side tag no, fun side tag => arriveDom_untagged h hb side tag, fun side => ?_⟩
  · exact arriveClu_ended h hb hc ((s.hadMate_iff b _).2 was)
  · exact arriveClu_nobody h hb hc (mt (s.hadMate_iff b _).1 was)
  · exact traps_each (exec_arriveDom f s) h (if_pos (begun_noSide h side))

/-- Settles O23: the one lane joins the request that its path opened (`State.joined_reqs`), and one operation is pending in its thread
(`advance_pends`). -/
theorem atomicIssue : Obligations.AtomicIssue := by
  refine ⟨fun i f sp red s p t hi h may new => ?_, fun i f red s p t hi h side => atomic_sideless hi h side⟩
  obtain ⟨s', run, rest, threads⟩ := atomic_issues hi h may new
  have here : s.asidOf t.fg = s.asidOf p.fg := congrArg s.asidOf h.fg
  rw [atomPend, here] at threads
  exact ⟨s', s.uid + 1, run, rest, threads⟩

/-- Settles O47: a request that is out is served in one pass (`State.serve`); a token goes on or leaves (`ticketTokenExit_goes`); an
arrival is applied by `State.applyArrival` once it is ready. -/
theorem syncEvents : Obligations.SyncEvents := by
  refine ⟨fun s r found => ⟨atomicRequestServe_waits found, atomicRequestServe_sent found, fun x q => atomicRequestServe_leaves found⟩,
    fun s r l b => performAtom_scratch l, fun s n k net token _ first => ?_, fun s a found => ?_,
    fun s a b => applyArrival_counts, fun s a err bytes => ⟨applyArrival_bytesFirst err bytes, applyArrival_bytesOnly err bytes⟩,
    fun s r t here found ht => ?_, fun s c => if_pos c⟩
  · have h : TokenGoes s n k := ⟨net, token, first⟩
    exact ⟨ticketTokenExit_leaves h, ticketTokenExit_passes h⟩
  · exact ⟨fun ready => (exec_barrierArrivalCount found).trans (congrArg _ (if_pos ready)),
      fun wait => (exec_barrierArrivalCount found).trans (congrArg _ (if_neg (Bool.eq_false_iff.1 wait)))⟩
  · exact ⟨fun ready => (exec_remoteArrival here found ht).trans (congrArg _ (if_pos ((s.remoteReady_iff t r).2 ready))),
      fun wait => (exec_remoteArrival here found ht).trans (congrArg _ (if_neg (mt (s.remoteReady_iff t r).1 wait)))⟩

end Sys2Proof.Machine
end

section
/-! SUPPORT. SIDE of the blocks (spec/15_launch.md R337): the engines' work, when it counts on a barrier and ends, leaves it. -/
namespace Sys2Proof.Machine

/-- The file groups are the same, and their blocks have the SIDE that they had. -/
structure SameSides (s x : State) : Prop where
  fgs   : x.fgs = s.fgs
  sides : ∀ id, (x.block? id).map (·.side) = (s.block? id).map (·.side)

section
variable {s x y : State}

theorem SameSides.sideless (h : SameSides s x) (fg : Nat) : x.sideless fg = s.sideless fg := by
  have fgs (id : Nat) : x.fg? id = s.fg? id := congrArg (fun l : List FileGroup => l.find? fun g : FileGroup => g.id = id) h.fgs
  unfold State.sideless State.blockOf
  rw [fgs]
  cases s.fg? fg with
  | none => rfl
  | some g =>
    have side := h.sides g.blk
    simp only [Option.bind_some]
    cases hx : x.block? g.blk <;> cases hs : s.block? g.blk <;> simp_all
theorem SameSides.trans (h : SameSides s x) (k : SameSides x y) : SameSides s y :=
  ⟨k.fgs.trans h.fgs, fun id => (k.sides id).trans (h.sides id)⟩
theorem sameSides_of_eq (fgs : x.fgs = s.fgs) (blocks : x.blocks = s.blocks) : SameSides s x :=
  ⟨fgs, fun id => congrArg (fun l : List Block => (l.find? fun b => b.id = id).map (·.side)) blocks⟩
theorem SameSides.ite {c : Prop} [Decidable c] (hx : SameSides s x) (hy : SameSides s y) : SameSides s (if c then x else y) := by
  split
  · exact hx
  · exact hy

theorem sameSides_setBlock {b c : Block} (hb : s.block? c.id = some b) (side : c.side = b.side) : SameSides s (s.setBlock c) := by
  refine ⟨rfl, fun id => ?_⟩
  unfold State.block? State.setBlock at *
  rw [find_map_key _ _ _ fun a => by split <;> simp [*]]
  cases found : s.blocks.find? fun a => a.id = id with
  | none => rfl
  | some a =>
    have key : a.id = id := by simpa using List.find?_some found
    simp only [Option.map_some]
    split
    · have same : a.id = c.id := ‹_›
      rw [← same, key, found] at hb
      cases hb
      rw [side]
    · rfl
theorem sameSides_wakeBar (s : State) (blk n : Nat) (done : Bool) (phase sc : Nat) : SameSides s (s.wakeBar blk n done phase sc) := by
  refine ⟨?_, fun id => by rw [State.wakeBar_block?]⟩
  unfold State.wakeBar State.discardClean
  dsimp only
  split
  · split
    · split <;> rfl
    · rfl
  · rfl
theorem sameSides_changeBar (s : State) (blk n sc : Nat) (f : Bar → Bar) : SameSides s (s.changeBar blk n sc f) := by
  unfold State.changeBar
  split
  · exact sameSides_of_eq rfl rfl
  case _ b hb =>
    have set_ (r : List Bar) : SameSides s (s.setBlock { b with bars := r }) := sameSides_setBlock ((block?_id hb).symm ▸ hb :) rfl
    exact .ite ((set_ _).trans (sameSides_wakeBar ..)) (set_ _)
theorem sameSides_failBar (s : State) (blk n err : Nat) : SameSides s (s.failBar blk n err) := by
  unfold State.failBar
  split
  · exact sameSides_of_eq rfl rfl
  case _ b hb => exact sameSides_setBlock ((block?_id hb).symm ▸ hb :) rfl
/-- An arrival that carries no thread. -/
theorem sameSides_applyArrival {a : Arrival} (none_ : a.from_ = []) : SameSides s (s.applyArrival a) := by
  have same := sameSides_of_eq (s := s) (x := s) rfl rfl
  unfold State.applyArrival
  simp only [none_, List.foldl_nil, List.filter_nil, ite_self]
  generalize first : (if a.bytes ≠ 0 then s.changeBar a.blk a.bar (if a.count then 0 else a.sc) _
    else if a.count then s else s.failBar a.blk a.bar a.err) = y
  have h : SameSides s y := first ▸ .ite (sameSides_changeBar ..) (.ite same (sameSides_failBar ..))
  split
  · exact h
  · exact .ite h (.ite (h.trans (sameSides_changeBar ..)) (h.trans (sameSides_changeBar ..)))
theorem sameSides_faultOf (s : State) (blk : Nat) : SameSides s (s.faultOf blk) := by
  unfold State.faultOf
  split <;> exact sameSides_of_eq rfl rfl
theorem sameSides_countOn (s : State) (blk bar bytes err : Nat) (arrive : Bool) : SameSides s (s.countOn blk bar bytes err arrive) := by
  have counted : SameSides s (if bytes = 0 && err = 0 && !arrive then s
      else s.applyArrival { seq := 0, blk := blk, bar := bar, kind := 3, bytes := bytes, count := arrive, err := err }) :=
    .ite (sameSides_of_eq rfl rfl) (sameSides_applyArrival rfl)
  exact .ite (counted.trans (sameSides_faultOf ..)) counted
theorem sameSides_jobTag (s : State) (j : Job) (ok : Bool) : SameSides s (s.jobTag j ok) := by
  have same := sameSides_of_eq (s := s) (x := s) rfl rfl
  unfold State.jobTag
  split
  · split
    · exact .ite same (sameSides_of_eq rfl rfl)
    · exact same
  · exact same
theorem sameSides_discharge (s : State) (id : Nat) (prov : List Nat) : SameSides s (s.discharge id prov) := ⟨rfl, fun _ => rfl⟩
theorem sameSides_touch (s : State) : SameSides s s.touch := ⟨rfl, fun _ => rfl⟩
theorem sameSides_releaseUnits (s : State) : SameSides s s.releaseUnits := ⟨rfl, fun _ => rfl⟩
theorem sameSides_endJob (s : State) (j : Job) (err : Nat) : SameSides s (s.endJob j err) := by
  unfold State.endJob
  have open_ := (sameSides_jobTag s j (decide ((if j.err ≠ 0 then j.err else err) = 0))).trans (sameSides_discharge _ j.id j.prov)
  refine .ite (((open_.trans ?_).trans (sameSides_countOn ..)).trans ((sameSides_releaseUnits _).trans (sameSides_touch _)))
    ((open_.trans ?_).trans (sameSides_touch _))
  · exact ⟨rfl, fun _ => rfl⟩
  · exact ⟨rfl, fun _ => rfl⟩
theorem sameSides_addJob (s : State) (blk bar : Nat) (kind : JobKind) (rd wr : List Foot) (n : Nat) :
    SameSides s (s.addJob blk bar kind rd wr n) := by
  unfold State.addJob
  refine .ite (.trans ?_ (sameSides_endJob ..)) ?_ <;> exact sameSides_of_eq rfl rfl

end

end Sys2Proof.Machine
end

section
/-! SUPPORT. The copy instructions on a path of one thread (spec/12_copy.md R278, R281, R290 to R294). -/
namespace Sys2Proof.Machine
open Claim

/-- The path stalls for no entries of its window any more (R278). -/
def State.unstalled (s : State) (p : Path) : State :=
  { s with eng := { s.eng with stalls := s.eng.stalls.filter fun x => x.path ≠ p.id } }

/-- A job of some bytes stays in its window. -/
theorem addJob_ne_zero {n : Nat} (hn : n ≠ 0) (s : State) (blk bar : Nat) (kind : JobKind) (rd wr : List Foot) :
    ∃ e, s.addJob blk bar kind rd wr n = State.touch { s with uid := s.uid + 1, eng := e } :=
  ⟨_, if_neg (by simp [hn])⟩
/-- Where nothing else is in the engines, a job waits for nothing (R281). -/
theorem addJob_first {s : State} (jobs : s.eng.jobs = []) (cmds : s.eng.cmds = []) (blk bar : Nat) (kind : JobKind) (rd wr : List Foot)
    (n : Nat) :
    let j : Job := { id := s.uid, blk := blk, bar := bar, kind := kind, rd := rd, wr := wr, left := n, state := .ready }
    let x : State := { s with uid := s.uid + 1, eng := { s.eng with jobs := [j] } }
    s.addJob blk bar kind rd wr n = if n = 0 then x.endJob j 0 else x.touch := by
  have edges : ({ s with uid := s.uid + 1 } : State).edgesOf blk rd wr = ([], []) := by
    simp [State.edgesOf, jobs, cmds]
  simp only [State.addJob, State.newUid, edges, jobs]
  simp

/-- The instruction issues with this job: the job is accepted, and the thread goes on where a job of no bytes, which ends at once, leaves it. -/
def CopyIssues (i : Instr) (f : FmtL) (s : State) (p : Path) (t : Thread) (kind : JobKind) (rd wr : List Foot) (n : Nat) : Prop :=
  (n = 0 → Alone ((s.unstalled p).addJob (s.blkId p.fg) (FmtL.br f) kind rd wr n) p rightsOwn f.guard t) →
    Done i s p t (ends (((s.unstalled p).addJob (s.blkId p.fg) (FmtL.br f) kind rd wr n).begun p t) p t f 0 [])

section
variable {i : Instr} {f : FmtL} {s : State} {p : Path} {t : Thread} (h : Alone s p rightsOwn f.guard t)
include h

theorem issueCopy_notProducer {perPath : Bool} {bad : State → Thread → Bool} {go : Path → State → List Thread → State}
    (he : exec i s = .next (issueCopy s f perPath bad go)) (other : s.notProducer p.fg = true) : Traps i s p t 0x4006 s.noAddr := by
  obtain ⟨qs, hp⟩ := List.head?_eq_some_iff.1 h.issues.head
  refine traps_each (he.trans (congrArg _ ?_)) h (f := fun _ s _ => .trap 0x4006 s.noAddr) rfl
  unfold issueCopy
  simp only [hp, h.issues.rights, other, Bool.not_true, Bool.false_eq_true, if_false, if_true]

/-- The job is accepted, and then the path goes on. -/
theorem issueCopy_done {perPath : Bool} {bad : State → Thread → Bool} {go : Path → State → List Thread → State} {x : State}
    (he : exec i s = .next (issueCopy s f perPath bad go)) (producer : s.notProducer p.fg = false)
    (room : (s.window_ (s.coreOf p.fg)).length ≤ 63) (good : bad s t = false) (made : go p (s.unstalled p) [t] = x)
    (hx : Alone x p rightsOwn f.guard t) (still : bad (x.begun p t) (moved p t) = false) :
    Done i s p t (ends (x.begun p t) p t f 0 []) := by
  obtain ⟨qs, hp⟩ := List.head?_eq_some_iff.1 h.issues.head
  have act : ((s.executing p f.guard).filter fun t => !bad s t) = [t] := by
    rw [show s.executing p f.guard = [t] from active_alone h]
    simp [good]
  have fits : (s.window_ (s.coreOf p.fg)).length + 1 ≤ 64 := by omega
  have run : issueCopy s f perPath bad go =
      issueEach x rightsOwn f.guard fun _ s t =>
        if bad s t then .trap 0x4001 s.noAddr else .ok (s.pendL t { fmtLPend f p 0 with val := some [] }) := by
    rw [← made]
    unfold issueCopy
    simp only [hp, h.issues.rights, producer, act, Bool.not_true, Bool.false_eq_true, if_false, List.isEmpty_cons, List.foldl_cons,
      List.foldl_nil, List.length_singleton, ite_self, fits, if_true, State.unstalled]
  exact he.trans (congrArg _ (run.trans (issueEach_alone hx (if_neg (Bool.eq_false_iff.1 still)))))

/-- A copy instruction issues with one job of `n` bytes. A store that SIDE = 0 forbids is all that can trap it (R337). -/
theorem issueCopy_addsJob {perPath : Bool} {bad : State → Thread → Bool} {go : Path → State → List Thread → State} {kind : JobKind}
    {rd wr : List Foot} {n : Nat} (he : exec i s = .next (issueCopy s f perPath bad go)) (producer : s.notProducer p.fg = false)
    (room : (s.window_ (s.coreOf p.fg)).length ≤ 63) (side : s.sideless p.fg = false)
    (sided : ∀ y u, y.sideless u.fg = false → bad y u = false)
    (made : go p (s.unstalled p) [t] = (s.unstalled p).addJob (s.blkId p.fg) (FmtL.br f) kind rd wr n) :
    CopyIssues i f s p t kind rd wr n := by
  intro empty
  have alone : Alone ((s.unstalled p).addJob (s.blkId p.fg) (FmtL.br f) kind rd wr n) p rightsOwn f.guard t := by
    by_cases hn : n = 0
    · exact empty hn
    · obtain ⟨e, he⟩ := addJob_ne_zero hn (s.unstalled p) (s.blkId p.fg) (FmtL.br f) kind rd wr
      rw [he]
      exact h.congr rfl rfl rfl
  refine issueCopy_done h he producer room (sided s t (h.fg ▸ side)) made alone (sided _ _ ?_)
  rw [begun_sideless, moved_fg, (sameSides_addJob ..).sideless, h.fg]
  exact side

section
variable (producer : s.notProducer p.fg = false) (room : (s.window_ (s.coreOf p.fg)).length ≤ 63) (side : s.sideless p.fg = false)
include producer room side

theorem cpb_issues :
    let dstS := (FmtL.fn f).testBit 0
    let srcS := (FmtL.fn f).testBit 1
    let a := regL s t f.a.toNat (if dstS then 1 else 2)
    let b := regL s t f.b.toNat (if srcS then 1 else 2)
    let n := regL s t f.c.toNat 1
    CopyIssues (.cpb f) f s p t (.cpb dstS srcS a b n) (if srcS then footScratch b n else footGlobal b n)
      (if dstS then footScratch a n else footGlobal a n) n :=
  issueCopy_addsJob h rfl producer room side (fun y u hu => by simp [State.sideStore, hu]) (by simp only [h.fg]; rfl)
theorem cpt_issues :
    let o := fun k => regL s t f.b.toNat 4 / 2 ^ (32 * k) % 2 ^ 32
    let h := regL s t f.a.toNat 1
    let at_ := regL s t f.c.toNat 1
    let buf := match s.tensorOf (s.asidOf p.fg) h with
      | some x => (tileSegs x.1 x.2 (o 0) (o 1) (o 2) (o 3)).flatMap fun y => footGlobal y.1 y.2
      | none => []
    let place := if FmtL.fn f = 0 then [footSlot at_] else footScratch at_ 16384
    CopyIssues (.cpt f) f s p t (.cpt (FmtL.fn f) h (o 0) (o 1) (o 2) (o 3) at_) (if FmtL.fn f = 2 then place else buf)
      (if FmtL.fn f = 2 then buf else place) 16384 := by
  refine issueCopy_addsJob h rfl producer room side (fun y u hu => by simp [State.sideStore, hu]) ?_
  simp only [h.fg, bits_eq_div]
  cases named : s.tensorOf (s.asidOf p.fg) (regL s t f.a.toNat 1) <;>
  · have same : (s.unstalled p).tensorOf ((s.unstalled p).asidOf p.fg) (regL (s.unstalled p) t f.a.toNat 1) = _ := named
    simp only [same]
    rfl
theorem cpl_issues :
    let st := FmtL.fn f = 1
    let a := regL s t f.a.toNat 1
    let b := regL s t f.b.toNat 2
    CopyIssues (.cpl f) f s p t (.cpl st [(t.lane, a, b)]) (if st then footScratch a 16 else footGlobal b 16)
      (if st then footGlobal b 16 else footScratch a 16) 16 :=
  issueCopy_addsJob h rfl producer room side (fun y u hu => by simp [State.sideStore, hu]) rfl
theorem cpa_issues :
    let a := regL s t f.a.toNat 1
    let sel := regL s t f.b.toNat 1
    let sc := footScratch a (128 * selCount sel * cpaBytes (FmtL.fn f))
    let rows := footRows (selBank sel) (selRow sel) (selCount sel)
    let into := (FmtL.fn f).testBit 7
    CopyIssues (.cpa f) f s p t (.cpa (FmtL.fn f) a sel) (if into then sc else rows) (if into then rows else sc)
      (128 * selCount sel * (if into then 4 else cpaBytes (FmtL.fn f))) :=
  issueCopy_addsJob h rfl producer room side (fun _ _ _ => rfl) (by simp only [h.fg]; rfl)

end

end

/-! ### CPCAN (R294) -/

/-- CPCAN ends these jobs of its path's block (R294). -/
def State.cancelled (s : State) (p : Path) (f : FmtL) : List Job :=
  s.eng.jobs.filter fun j => j.blk = s.blkId p.fg && j.bar = FmtL.br f && j.state ≠ .counted

/-- CPCAN leaves pending in each thread of its path the number of the jobs, once those have ended that are performing a chunk (R294). -/
def cpcanPend (f : FmtL) (p : Path) (js : List Job) : Pending :=
  let on := js.filter Job.performing
  if on.isEmpty then { fmtLPend f p 1 with val := some [BitVec.ofNat 32 js.length] }
  else { fmtLPend f p 1 with todo := .cancel (on.map (·.id)) js.length }
theorem cpcanPend_idle {f : FmtL} {p : Path} {js : List Job} (idle : (js.filter Job.performing).map (·.id) = []) :
    cpcanPend f p js = { fmtLPend f p 1 with val := some [BitVec.ofNat 32 js.length] } :=
  if_pos (List.isEmpty_iff.2 (List.map_eq_nil_iff.1 idle))
theorem cpcanPend_busy {f : FmtL} {p : Path} {js : List Job} (busy : (js.filter Job.performing).map (·.id) ≠ []) :
    cpcanPend f p js = { fmtLPend f p 1 with todo := .cancel ((js.filter Job.performing).map (·.id)) js.length } :=
  if_neg (mt List.isEmpty_iff.1 (mt List.map_eq_nil_iff.2 busy))

section
variable {f : FmtL} {s : State} {p : Path} {t : Thread} (h : Alone s p rightsOwn f.guard t)
include h

theorem cpcan_notProducer (other : s.notProducer p.fg = true) : Traps (.cpcan f) s p t 0x4006 s.noAddr := by
  obtain ⟨qs, hp⟩ := List.head?_eq_some_iff.1 h.issues.head
  refine traps_each (r := rightsOwn) (g := f.guard) (f := fun _ s _ => .trap 0x4006 s.noAddr) ?_ h rfl
  change execCpcan f s = _
  unfold execCpcan
  simp only [hp, h.issues.rights, other, Bool.not_true, Bool.false_eq_true, if_false, if_true]
theorem cpcan_done (producer : s.notProducer p.fg = false) (alone : Alone (s.cancelJobs (s.cancelled p f)) p rightsOwn f.guard t) :
    Done (.cpcan f) s p t (((s.cancelJobs (s.cancelled p f)).begun p t).pendL (moved p t) (cpcanPend f p (s.cancelled p f))) := by
  obtain ⟨qs, hp⟩ := List.head?_eq_some_iff.1 h.issues.head
  have act : s.executing p f.guard = [t] := active_alone h
  suffices run : execCpcan f s = .next (issueEach (s.cancelJobs (s.cancelled p f)) rightsOwn f.guard fun q x u =>
      .ok (x.pendL u (cpcanPend f q (s.cancelled p f)))) from
    run.trans (congrArg _ (issueEach_alone alone rfl))
  unfold execCpcan
  simp only [hp, h.issues.rights, producer, act, Bool.not_true, Bool.false_eq_true, if_false, List.isEmpty_cons]
  rfl

end

section
variable {s : State} {j : Job} {js : List Job} (found : s.eng.jobs.find? (fun k => k.id = j.id) = some j)
include found

theorem cancelJobs_ends (idle : j.performing = false) : s.cancelJobs (j :: js) = (s.endJob j 0x6002).cancelJobs js := by
  simp only [State.cancelJobs, List.foldl_cons, found, idle, Bool.false_eq_true, if_false]
theorem cancelJobs_marks (busy : j.performing = true) :
    s.cancelJobs (j :: js) = (s.setJob { j with cancel := true }).cancelJobs js := by
  simp only [State.cancelJobs, List.foldl_cons, found, busy, if_true]

end

theorem performTodo_cancel {s : State} {t : Thread} {q : Pending} {js : List Nat} {n : Nat} (h : Unhindered s t q)
    (e : q.todo = .cancel js n) :
    s.performTodo t q = if s.eng.jobs.any fun j => js.contains j.id && j.state ≠ .counted then s
      else valuedTodo s t q.uid [BitVec.ofNat 32 n] := by
  have stays : s.leftBehind t q = false := by simp [State.leftBehind, State.takeAway, e]
  unfold State.performTodo
  simp only [h.free, h.block, h.order, stays, crossing_near h, e]
  rfl

end Sys2Proof.Machine
end

section
/-! What is claimed of the copy instructions (spec/12_copy.md). -/
namespace Sys2Proof.Machine
open Claim

/-- Settles O40: each form's job is one `State.addJob`, and what it leaves of SIDE (`sameSides_addJob`) lets the thread go on. -/
theorem copyInstructions : Obligations.CopyInstructions := by
  refine ⟨fun f s p t h producer room side => ?issue, fun i f s p t hi h other => ?producers, fun f s p t h producer alone => ?cancel,
    fun _ => rfl, fun s j js found => ⟨cancelJobs_ends found, cancelJobs_marks found⟩, fun s t q js n todo free may order here => ?number,
    fun s blk bar kind rd wr n jobs cmds => addJob_first jobs cmds blk bar kind rd wr n⟩
  case issue =>
    exact ⟨cpb_issues h producer room side, cpt_issues h producer room side, cpl_issues h producer room side, cpa_issues h producer room side⟩
  case producers =>
    obtain rfl | rfl | rfl | rfl | rfl := hi
    on_goal 5 => exact cpcan_notProducer h other
    all_goals exact issueCopy_notProducer h rfl other
  case cancel =>
    have done := cpcan_done h producer alone
    refine ⟨fun idle => ?_, fun busy => ?_⟩
    · rwa [cpcanPend_idle (js := s.cancelled p f) idle] at done
    · rwa [cpcanPend_busy (js := s.cancelled p f) busy] at done
  case number =>
    have near : s.farAsk t q = none := by simp [State.farAsk, todo, Todo.ask]
    rw [performTodo_cancel ⟨free, may, order, here, near⟩ todo]
    refine ⟨fun ended => if_neg ?_, fun going => if_pos ?_⟩
    · simpa using ended
    · simpa using going

end Sys2Proof.Machine
end

section
/-! SUPPORT. The events of the streamer (spec/12_copy.md R282, R283, R286, R290, R294). -/
namespace Sys2Proof.Machine
open Claim

/-! ### COPY_JOB_START (R282) -/

/-- A ready job of a block that is placed, or whose threads have all exited (assumption log 54). -/
def State.startable (s : State) (j : Job) : Bool :=
  j.state = .ready && match s.block? j.blk with | some b => b.place = .resident || b.place = .ended | none => false
theorem exec_copyJobStart {s : State} {id : Nat} (first : (((s.window_ s.ev.a).filter s.startable).map (·.id)).min? = some id) :
    exec .copyJobStart s = .next (if ((s.window_ s.ev.a).filter fun j => j.state = .running).length < 8
      then State.touch { s with eng := { s.eng with
        jobs := s.eng.jobs.map fun j => if j.id = id then { j with state := .running } else j } }
      else s) := by
  have run : exec .copyJobStart s = match (((s.window_ s.ev.a).filter s.startable).map (·.id)).min? with
    | some id => if ((s.window_ s.ev.a).filter fun j => j.state = .running).length < 8
      then .next (State.touch { s with eng := { s.eng with
        jobs := s.eng.jobs.map fun j => if j.id = id then { j with state := .running } else j } })
      else .next s
    | none => .next s := rfl
  rw [run, first]
  exact (apply_ite Host.Outcome.next ..).symm

/-! ### COPY_CHUNK (R283) -/

/-- Its data has been verified, and writes of it are still held (R380). -/
def Job.late (j : Job) : Bool := j.prov.isEmpty && !j.heldWr.isEmpty
/-- A job that may do its next chunk. -/
def State.chunkable (s : State) (j : Job) : Bool :=
  (j.state = .running || j.late) && !j.hold && j.reads.isEmpty && match s.block? j.blk with
    | some b => b.place = .resident || b.place = .ended || (b.place = .stopping && j.performing) | none => false
theorem exec_copyChunk {s : State} {j : Job} (first : (s.window_ s.ev.a).find? s.chunkable = some j) :
    exec .copyChunk s = .next (if j.late then s.settleJob j.id else s.runChunk s.ev.a j) := by
  have run : exec .copyChunk s = match (s.window_ s.ev.a).find? s.chunkable with
    | some j => .next (if j.late then s.settleJob j.id else s.runChunk s.ev.a j)
    | none => .next s := rfl
  rw [run, first]

/-- A job after a chunk of `n` bytes (R283, R380). -/
def Job.chunked (j : Job) (n : Nat) : Job :=
  { j with chunk := j.chunk + 1, inbox := [], failed := []
           left := if j.prov.isEmpty then j.left - n else j.left, owed := if j.prov.isEmpty then j.owed else j.owed + n }
/-- The last chunk of a CPB ends its job, with 0x6002 where CPCAN has cancelled it (R294). -/
theorem runChunk_last {s x : State} {core : Nat} {j : Job} {b : Block} {d q : Bool} {a c len n : Nat} (hb : s.block? j.blk = some b)
    (kind : j.kind = .cpb d q a c len) (some_ : len ≠ 0) (done : s.chunkCpb core b.asid j b d q a c len = (x, .done n true))
    (found : x.eng.jobs.find? (fun k => k.id = j.id) = some j) :
    s.runChunk core j = ((x.countJob b.asid n).countBytes j.blk j.bar n j.prov).endJob (j.chunked n) (if j.cancel then 0x6002 else 0) := by
  have job : (x.countJob b.asid n).job j = j := by
    unfold State.job State.countJob
    split
    · rw [State.countEv_eng, found, Option.getD_some]
    · rw [found, Option.getD_some]
  unfold State.runChunk Job.chunked
  simp only [hb, kind, some_, if_false, done, job]
  cases j.cancel <;> rfl

section
variable {s : State} {core : Nat} {j : Job} {b : Block} {a c n : Nat} (chunk : j.chunk = 0) (some_ : 0 < n) (whole : n ≤ 4096)
  (dst : a + n ≤ b.scratch.length) (src : c + n ≤ b.scratch.length)
include chunk some_ whole dst src

/-- A copy within the scratchpad that fits in one chunk (R283, R290). -/
theorem chunkCpb_scratch (asid : Nat) :
    s.chunkCpb core asid j b true true a c n = (s.setBlock { b with scratch := patch b.scratch a (slice b.scratch c n) }, .done n true) := by
  have chunks : ceilDiv n 4096 = 1 := by
    unfold ceilDiv
    omega
  have off : cpbOff true true a c n 0 = 0 := by simp [cpbOff, chunks]
  have all : Nat.min 4096 n = n := Nat.min_eq_right whole
  simp [State.chunkCpb, Block.scratchEng, State.scratchPut, off, chunks, chunk, all, dst, src]

theorem runChunk_scratch (found : s.eng.jobs.find? (fun k => k.id = j.id) = some j) (hb : s.block? j.blk = some b)
    (kind : j.kind = .cpb true true a c n) (prov : j.prov = []) (asid : b.asid < 1024) :
    s.runChunk core j =
      ((((s.setBlock { b with scratch := patch b.scratch a (slice b.scratch c n) }).countEv b.asid 5 n).countOn j.blk j.bar n 0 false).endJob
        { j with chunk := 1, inbox := [], failed := [], left := j.left - n } (if j.cancel then 0x6002 else 0)) := by
  have pos : n ≠ 0 := some_.ne'
  let x : State := s.setBlock { b with scratch := patch b.scratch a (slice b.scratch c n) }
  have counted : x.countJob b.asid n = x.countEv b.asid 5 n := if_pos (by simp [asid, pos])
  have bytes (y : State) : y.countBytes j.blk j.bar n j.prov = y.countOn j.blk j.bar n 0 false := if_pos (by simp [pos, prov])
  have after : j.chunked n = { j with chunk := 1, inbox := [], failed := [], left := j.left - n } := by simp [Job.chunked, chunk, prov]
  rw [runChunk_last hb kind pos (chunkCpb_scratch chunk some_ whole dst src b.asid) found, counted, bytes, after]

end

/-! ### COPY_WINDOW_DEADLOCK (R286) -/

/-- A stall of core `core` whose deadlock has held for 1,024 cycles. -/
def CopyStall.due (x : CopyStall) (core cycle : Nat) : Bool :=
  x.core = core && match x.since with | some c => c + 1024 ≤ cycle | none => false
/-- The threads of a stalled path trap (R286). -/
def State.trapStalled (s : State) (x : CopyStall) : State :=
  match s.paths.find? fun p => p.id = x.path with
  | none => s
  | some p =>
    let g : Guard := match clauseInstr p.words p.idx with
      | some (.cpb f, _) | some (.cpt f, _) | some (.cpl f, _) | some (.cpa f, _) => f.guard
      | _ => {}
    let go := (s.executing p g).map (·.lane)
    let y := go.foldl (fun (s : State) l =>
      match s.thread? p.fg l with
      | some t => s.takeTrap { t with pc := p.pc, idx := p.idx } 0x6001 0 p.iaddr true
      | none => s) s
    let rest := p.lanes.filter fun l => !go.contains l
    let y := if rest.isEmpty then y.dropPath p.id else y.setPath { p with lanes := rest }
    { y with eng := { y.eng with stalls := y.eng.stalls.filter fun z => z.path ≠ x.path } }
theorem exec_copyWindowDeadlock (s : State) :
    exec .copyWindowDeadlock s = .next ((s.touch.eng.stalls.filter fun x => x.due s.ev.a s.ctl.cycle).foldl State.trapStalled s.touch) := rfl
theorem CopyStall.due_iff (x : CopyStall) (core cycle : Nat) :
    x.due core cycle = true ↔ x.core = core ∧ ∃ c, x.since = some c ∧ c + 1024 ≤ cycle := by
  unfold CopyStall.due
  cases x.since <;> simp
/-- A stalled CPB of one thread. -/
theorem trapStalled_cpb {s : State} {x : CopyStall} {p : Path} {l : Nat} {t : Thread} {f : FmtL} {k : Nat}
    (path : s.paths.find? (fun p => p.id = x.path) = some p) (lanes : p.lanes = [l]) (ht : s.thread? p.fg l = some t)
    (at_ : clauseInstr p.words p.idx = some (.cpb f, k)) (on : f.guard.on t = true) :
    let y := (s.takeTrap { t with pc := p.pc, idx := p.idx } 0x6001 0 p.iaddr true).dropPath p.id
    s.trapStalled x = { y with eng := { y.eng with stalls := y.eng.stalls.filter fun z => z.path ≠ x.path } } := by
  obtain ⟨-, rfl⟩ := thread?_key ht
  have act : s.executing p f.guard = [t] := by simp [State.executing, lanes, ht, on]
  unfold State.trapStalled
  simp only [path, at_, act, lanes, List.map_cons, List.map_nil, List.foldl_cons, List.foldl_nil, ht]
  simp

theorem copyWindowDeadlock_early {s : State}
    (early : ∀ x ∈ s.touch.eng.stalls, x.core = s.ev.a → ∀ c, x.since = some c → s.ctl.cycle < c + 1024) :
    Happens .copyWindowDeadlock s s.touch := by
  have none_ : (s.touch.eng.stalls.filter fun x => x.due s.ev.a s.ctl.cycle) = [] := by
    refine List.filter_eq_nil_iff.2 fun x hx due => ?_
    obtain ⟨core, c, since, late⟩ := (x.due_iff ..).1 due
    exact absurd (early x hx core c since) (by omega)
  exact (exec_copyWindowDeadlock s).trans (by rw [none_]; rfl)
theorem copyWindowDeadlock_cpb {s : State} {x : CopyStall} {c : Nat} {p : Path} {l : Nat} {t : Thread} {f : FmtL} {k : Nat}
    (only : s.touch.eng.stalls = [x]) (core : x.core = s.ev.a) (since : x.since = some c) (late : c + 1024 ≤ s.ctl.cycle)
    (path : s.paths.find? (fun p => p.id = x.path) = some p) (lanes : p.lanes = [l]) (ht : s.thread? p.fg l = some t)
    (at_ : clauseInstr p.words p.idx = some (.cpb f, k)) (on : f.guard.on t = true) :
    let y := (s.touch.takeTrap { t with pc := p.pc, idx := p.idx } 0x6001 0 p.iaddr true).dropPath p.id
    Happens .copyWindowDeadlock s { y with eng := { y.eng with stalls := y.eng.stalls.filter fun z => z.path ≠ x.path } } := by
  have due : (s.touch.eng.stalls.filter fun x => x.due s.ev.a s.ctl.cycle) = [x] := by
    rw [only]
    exact List.filter_eq_self.2 fun y hy => List.mem_singleton.1 hy ▸ (x.due_iff ..).2 ⟨core, c, since, late⟩
  refine (exec_copyWindowDeadlock s).trans (congrArg _ ?_)
  rw [due]
  exact trapStalled_cpb path lanes ht at_ on

end Sys2Proof.Machine
end

section
/-! SUPPORT. The events of the sequencer (spec/13_tensor.md R304, R307, R312 to R315, R325). -/
namespace Sys2Proof.Machine
open Claim

/-! ### CLAIM_GRANT (R304) -/

/-- The path of the first claim that can be granted issues its OCLAIM again. -/
theorem claimGrant_retries {s : State} {c : ClaimWait} {p : Path} {f : FmtL} {k : Nat}
    (first : s.eng.claims.find? (fun c => c.core = s.ev.a && s.grantable c.core c.blk c.path c.slots c.banks) = some c)
    (path : s.paths.find? (fun p => p.id = c.path) = some p) (at_ : clauseInstr p.words p.idx = some (.oclaim f, k)) :
    ∃ t, exec (.oclaim f) { s with paths := p :: s.paths.filter fun q => q.id ≠ p.id } = .next t ∧ Happens .claimGrant s t := by
  refine ⟨_, rfl, ?_⟩
  change execClaimGrant s = _
  unfold execClaimGrant
  simp only [first, path, at_]
  rfl

/-! ### LATCH_COMMAND_ACCEPT and MATRIX_COMMAND_START (R307, R312) -/

theorem exec_latchCommandAccept {s : State} {c : Cmd} (first : s.eng.cmds.find? (fun c => c.waiting && s.onCore c.blk s.ev.a) = some c) :
    exec .latchCommandAccept s = .next (if (s.queue_ s.ev.a).length < 16
      then State.acceptCmd { s with uid := s.uid + 1, eng := { s.eng with cmds := s.eng.cmds.filter fun d => d.id ≠ c.id } } { c with id := s.uid }
      else s) := by
  change execLatchCommandAccept s = _
  unfold execLatchCommandAccept
  simp only [first]
  exact (apply_ite Host.Outcome.next ..).symm

/-- A ready command of a block that is not stopping. -/
def State.cmdReady (s : State) (c : Cmd) : Bool :=
  c.state = .ready && match s.block? c.blk with | some b => decide (b.place ≠ .stopping) | none => false
theorem exec_matrixCommandStart {s : State} {id : Nat} (first : (((s.queue_ s.ev.a).filter s.cmdReady).map (·.id)).min? = some id) :
    exec .matrixCommandStart s = .next (if (s.queue_ s.ev.a).any fun c => c.state = .running then s
      else State.touch { s with eng := { s.eng with
        cmds := s.eng.cmds.map fun c => if c.id = id then { c with state := .running } else c } }) := by
  have run : exec .matrixCommandStart s = match (((s.queue_ s.ev.a).filter s.cmdReady).map (·.id)).min? with
    | some id => if (s.queue_ s.ev.a).any fun c => c.state = .running then .next s
      else .next (State.touch { s with eng := { s.eng with
        cmds := s.eng.cmds.map fun c => if c.id = id then { c with state := .running } else c } })
    | none => .next s := rfl
  rw [run, first]
  exact (apply_ite Host.Outcome.next ..).symm

/-! ### GROUP_K_STEP (R313 to R315, R325) -/

/-- A running command that may do its next group K-step; of a block that is stopping, one that is under way (R315). -/
def State.steppable (s : State) (c : Cmd) : Bool :=
  c.state = .running && !c.hold && c.reads.isEmpty && match s.block? c.blk with
    | some b => decide (b.place ≠ .stopping) || !c.inbox.isEmpty | none => false
/-- K-steps of a command. -/
def Cmd.total (c : Cmd) : Nat := if c.op = 3 then 1 else c.groups.length * cmdK c.a
/-- Bytes that its present K-step delivers: those of a group with its last (R314). -/
def Cmd.delivers (c : Cmd) : Nat :=
  if c.op = 3 then 512 * selCount c.a
  else if c.step % cmdK c.a = cmdK c.a - 1 then 512 * ((c.groups[c.step / cmdK c.a]?).map (·.1)).getD 0 else 0
/-- After its present K-step, where it depends on no data that is to be verified. -/
def Cmd.stepped (c : Cmd) : Cmd := { c with step := c.step + 1, inbox := [], left := c.left - c.delivers }

section
variable {c : Cmd} (op : c.op ≠ 3)
include op

theorem Cmd.total_product : c.total = c.groups.length * cmdK c.a := if_neg op
theorem Cmd.delivers_mid (mid : c.step % cmdK c.a ≠ cmdK c.a - 1) : c.delivers = 0 := (if_neg op).trans (if_neg mid)
theorem Cmd.delivers_last (last : c.step % cmdK c.a = cmdK c.a - 1) :
    c.delivers = 512 * ((c.groups[c.step / cmdK c.a]?).map (·.1)).getD 0 := (if_neg op).trans (if_pos last)

end
/-- The last K-step of all is the last of its group. -/
theorem Cmd.step_last {c : Cmd} {g : Nat} (mid : c.step % cmdK c.a ≠ cmdK c.a - 1) (more : c.step < g * cmdK c.a) :
    c.step + 1 < g * cmdK c.a := by
  refine lt_of_le_of_ne more fun all => mid ?_
  have pos : 0 < cmdK c.a := Nat.succ_pos _
  obtain ⟨q, rfl⟩ := Nat.exists_eq_succ_of_ne_zero (n := g) fun none_ => by simp [none_] at more
  have step : c.step = cmdK c.a * q + (cmdK c.a - 1) := by
    rw [Nat.succ_mul, Nat.mul_comm] at all
    omega
  rw [step, Nat.mul_add_mod, Nat.mod_eq_of_lt (by omega)]

/-- Command `c` of block `b` does the next K-step of the event's core. -/
structure Steps (s : State) (c : Cmd) (b : Block) : Prop where
  found : (s.queue_ s.ev.a).find? s.steppable = some c
  block : s.block? c.blk = some b
  more  : c.total ≠ 0

/-- What a K-step comes to, in the state that it leaves. -/
def State.stepOutcome (x : State) (core : Nat) (b : Block) (c : Cmd) : EngRes → Out
  | .wait => .next x
  | .ask ls => .next ((x.askLines b.asid c.id ls).1.setCmd { c with reads := (x.askLines b.asid c.id ls).2 })
  | .fail code => .next (x.endCmd c code)
  | .hold code addr => .next ((x.setCmd { c with hold := true }).holdWork core b.asid code addr 1 c.id)
  | .ok =>
    let y := if c.op ≠ 3 && b.asid < 1024 then x.countEv b.asid 4 1 else x
    let y := y.countBytes c.blk c.bar c.delivers c.prov
    let d := { c with step := c.step + 1, inbox := [], left := (if c.prov.isEmpty then c.left - c.delivers else c.left),
                      owed := (if c.prov.isEmpty then c.owed else c.owed + c.delivers) }
    if c.total ≤ d.step then .next (y.endCmd d 0) else .next (y.setCmd d)
/-- What the next K-step of a command comes to, with the state that it leaves. -/
def State.stepOf (s : State) (b : Block) (c : Cmd) : State × EngRes :=
  if c.op = 3 then s.clearRows c else s.kStep s.ev.a b.asid c (c.step / cmdK c.a) (c.step % cmdK c.a)

section
variable {s x : State} {c : Cmd} {b : Block} (h : Steps s c b)
include h

theorem exec_groupKStep {e : EngRes} (r : s.stepOf b c = (x, e)) : exec .groupKStep s = x.stepOutcome s.ev.a b c e := by
  have run : exec .groupKStep s = match (s.queue_ s.ev.a).find? s.steppable with
    | none => .next s
    | some c =>
      match s.block? c.blk with
      | none => .next s
      | some b => if c.total = 0 then .next (s.endCmd c 0) else (s.stepOf b c).1.stepOutcome s.ev.a b c (s.stepOf b c).2 := rfl
  simp only [run, h.found, h.block, h.more, if_false, r]

/-- A command that depends on no data that is to be verified: a K-step that was done is counted (R314). -/
theorem groupKStep_done (r : s.stepOf b c = (x, .ok)) (prov : c.prov = []) (asid : b.asid < 1024) :
    exec .groupKStep s = .next (
      let y := if c.op = 3 then x else x.countEv b.asid 4 1
      let z := if c.delivers = 0 then y else y.countOn c.blk c.bar c.delivers 0 false
      if c.total ≤ c.step + 1 then z.endCmd c.stepped 0 else z.setCmd c.stepped) := by
  have after : ({ c with
      step := c.step + 1
      inbox := []
      left := if c.prov.isEmpty then c.left - c.delivers else c.left
      owed := if c.prov.isEmpty then c.owed else c.owed + c.delivers } : Cmd) = c.stepped := by simp [Cmd.stepped, prov]
  have bytes (y : State) : y.countBytes c.blk c.bar c.delivers c.prov =
      if c.delivers = 0 then y else y.countOn c.blk c.bar c.delivers 0 false := by
    unfold State.countBytes
    rw [prov]
    split <;> simp_all
  have event : (if c.op ≠ 3 && b.asid < 1024 then x.countEv b.asid 4 1 else x) = if c.op = 3 then x else x.countEv b.asid 4 1 := by
    by_cases op : c.op = 3 <;> simp [op, asid]
  rw [exec_groupKStep h r, State.stepOutcome]
  simp only [event, bytes, after]
  exact (apply_ite Host.Outcome.next ..).symm

theorem groupKStep_mid (op : c.op ≠ 3) (r : s.stepOf b c = (x, .ok)) (prov : c.prov = []) (asid : b.asid < 1024)
    (more : c.step < c.groups.length * cmdK c.a) (mid : c.step % cmdK c.a ≠ cmdK c.a - 1) :
    Happens .groupKStep s ((x.countEv b.asid 4 1).setCmd { c with step := c.step + 1, inbox := [] }) := by
  have none_ := Cmd.delivers_mid op mid
  have stepped : c.stepped = { c with step := c.step + 1, inbox := [] } := by rw [Cmd.stepped, none_, Nat.sub_zero]
  have goesOn : ¬c.total ≤ c.step + 1 := by
    rw [Cmd.total_product op, Nat.not_le]
    exact Cmd.step_last mid more
  refine (groupKStep_done h r prov asid).trans (congrArg _ ?_)
  simp only [if_neg op, if_pos none_, if_neg goesOn, stepped]
/-- The last K-step of a group counts the group's bytes (R314). -/
theorem groupKStep_group (op : c.op ≠ 3) (r : s.stepOf b c = (x, .ok)) (prov : c.prov = []) (asid : b.asid < 1024)
    (last : c.step % cmdK c.a = cmdK c.a - 1) {rows : Nat} (some_ : 0 < rows)
    (hrows : ((c.groups[c.step / cmdK c.a]?).map (·.1)).getD 0 = rows) :
    let z := (x.countEv b.asid 4 1).countOn c.blk c.bar (512 * rows) 0 false
    let less := { c with step := c.step + 1, inbox := [], left := c.left - 512 * rows }
    Happens .groupKStep s (if c.groups.length * cmdK c.a ≤ c.step + 1 then z.endCmd less 0 else z.setCmd less) := by
  have bytes : c.delivers = 512 * rows := by rw [Cmd.delivers_last op last, hrows]
  have pos : ¬512 * rows = 0 := by omega
  refine (groupKStep_done h r prov asid).trans (congrArg _ ?_)
  simp only [Cmd.stepped, bytes, if_neg op, if_neg pos, Cmd.total_product op]
/-- ACCZ is one K-step (R325). -/
theorem groupKStep_clear {bank : Bank} (op : c.op = 3) (first : c.step = 0) (prov : c.prov = []) (asid : b.asid < 1024)
    (hbank : s.bank? c.blk (selBank c.a) = some bank) :
    let zero := fun (ws : List Word) i => putWords ws (128 * ((selRow c.a + i) % 128)) (List.replicate 128 0)
    let y := (s.setBank { bank with words := (List.range (selCount c.a)).foldl zero bank.words, s32 := c.s32 }).countOn c.blk c.bar
      (512 * selCount c.a) 0 false
    Happens .groupKStep s (y.endCmd { c with step := c.step + 1, inbox := [], left := c.left - 512 * selCount c.a } 0) := by
  have cleared : s.stepOf b c = _ := if_pos op
  rw [State.clearRows, hbank] at cleared
  have bytes : c.delivers = 512 * selCount c.a := if_pos op
  have pos : ¬512 * selCount c.a = 0 := by
    unfold selCount
    omega
  have ended : c.total ≤ c.step + 1 := by
    rw [first]
    exact (if_pos op).le
  refine (groupKStep_done h cleared prov asid).trans (congrArg _ ?_)
  simp only [Cmd.stepped, bytes, if_pos op, if_neg pos, if_pos ended]

end

end Sys2Proof.Machine
end

section
/-! SUPPORT. The sum of an integer chunk (spec/13_tensor.md R311). -/
namespace Sys2Proof.Machine

/-- The value is an integer, with no scale. -/
def FV.IsInt (x : FV) (n : Int) : Prop := ∃ z, x = FV.ofDyadic n 0 z

theorem isInt_zero (z : Bool) : (FV.zero z).IsInt 0 := ⟨z, rfl⟩
theorem isInt_fin {n : Int} (hn : n ≠ 0) : (FV.fin n 0).IsInt n := ⟨false, (if_neg hn).symm⟩
theorem isInt_iff {x : FV} {n : Int} : x.IsInt n ↔ (∃ z, x = .zero z ∧ n = 0) ∨ (x = .fin n 0 ∧ n ≠ 0) := by
  refine ⟨fun ⟨z, hx⟩ => ?_, ?_⟩
  · by_cases hn : n = 0
    · exact .inl ⟨z, hx.trans (if_pos hn), hn⟩
    · exact .inr ⟨hx.trans (if_neg hn), hn⟩
  · rintro (⟨z, rfl, rfl⟩ | ⟨rfl, hn⟩)
    · exact isInt_zero z
    · exact isInt_fin hn

theorem isInt_mul {x y : FV} {m n : Int} (hx : x.IsInt m) (hy : y.IsInt n) : (fvMul x y).1.IsInt (m * n) := by
  obtain ⟨a, rfl, rfl⟩ | ⟨rfl, hm⟩ := isInt_iff.1 hx <;> obtain ⟨b, rfl, rfl⟩ | ⟨rfl, hn⟩ := isInt_iff.1 hy
  · exact isInt_zero _
  · exact (Int.zero_mul n).symm ▸ isInt_zero _
  · exact (Int.mul_zero m).symm ▸ isInt_zero _
  · exact isInt_fin (Int.mul_ne_zero hm hn)
theorem isInt_add {x y : FV} {m n : Int} (hx : x.IsInt m) (hy : y.IsInt n) : (fvAdd 0 x y).1.IsInt (m + n) := by
  obtain ⟨a, rfl, rfl⟩ | ⟨rfl, hm⟩ := isInt_iff.1 hx <;> obtain ⟨b, rfl, rfl⟩ | ⟨rfl, hn⟩ := isInt_iff.1 hy
  · by_cases e : a = b <;> simp [fvAdd, e, isInt_zero]
  · exact (Int.zero_add n).symm ▸ isInt_fin hn
  · exact (Int.add_zero m).symm ▸ isInt_fin hm
  · exact ⟨false, by simp [fvAdd, dyAdd]⟩
theorem isInt_sum {ts : List FV} {ns : List Int} (h : List.Forall₂ FV.IsInt ts ns) {x : FV} {m : Int} (hx : x.IsInt m) :
    (ts.foldl (fun x y => (fvAdd 0 x y).1) x).IsInt (ns.foldl (· + ·) m) := by
  induction h generalizing x m with
  | nil => exact hx
  | cons ht _ ih => exact ih (isInt_add hx ht)
theorem isInt_products (a b : List Int) :
    List.Forall₂ FV.IsInt (List.zipWith (fun x y => (fvMul x y).1) (a.map fun n => FV.ofDyadic n 0) (b.map fun n => FV.ofDyadic n 0))
      (List.zipWith (· * ·) a b) := by
  rw [List.zipWith_map]
  induction a generalizing b with
  | nil => exact .nil
  | cons m a ih =>
    cases b with
    | nil => exact .nil
    | cons n b => exact .cons (isInt_mul ⟨false, rfl⟩ ⟨false, rfl⟩) (ih b)
theorem chunkSum_ints (a b : List Int) :
    (chunkSum (a.map fun n => FV.ofDyadic n 0) (b.map fun n => FV.ofDyadic n 0)).IsInt ((List.zipWith (· * ·) a b).foldl (· + ·) 0) := by
  have products := isInt_products a b
  unfold chunkSum
  revert products
  generalize List.zipWith (fun x y => (fvMul x y).1) _ _ = ts, List.zipWith _ a b = ns
  intro products
  cases products with
  | nil => exact ⟨false, rfl⟩
  | cons first rest => exact isInt_sum rest (by simpa using first)
theorem chunkVal_ints (a b : List Int) :
    chunkVal true (a.map fun n => FV.ofDyadic n 0) (b.map fun n => FV.ofDyadic n 0) =
      BitVec.ofInt 32 ((List.zipWith (· * ·) a b).foldl (· + ·) 0) := by
  obtain ⟨z, sum⟩ := chunkSum_ints a b
  unfold chunkVal
  rw [sum]
  generalize (List.zipWith (· * ·) a b).foldl (· + ·) 0 = n
  by_cases hn : n = 0 <;> simp [FV.ofDyadic, hn]
theorem accWord_chunk (a b : List FV) (w : Word) (ha : a.length ≤ 32) (hb : b.length ≤ 32) :
    accWord true 1 a b w = w + chunkVal true a b := by
  simp only [accWord, chunkVals, List.take_of_length_le ha, List.take_of_length_le hb, List.foldl_cons, List.foldl_nil]
  rfl

end Sys2Proof.Machine
end

section
/-! What is claimed of the engines of a core (spec/12_copy.md, spec/13_tensor.md). -/
namespace Sys2Proof.Machine
open Claim

/-- Settles O48, event by event; the outcomes of a group K-step by `exec_groupKStep`, and the sum of an integer chunk by `FV.IsInt`. -/
theorem engineEvents : Obligations.EngineEvents := by
  refine ⟨fun s id first => ⟨fun few => (exec_copyJobStart first).trans (congrArg _ (if_pos few)),
      fun many => (exec_copyJobStart first).trans (congrArg _ (if_neg (Nat.not_lt.2 many)))⟩,
    fun s j first => exec_copyChunk first,
    fun s core j b a c n found hb kind prov _ asid chunk some_ whole dst src =>
      runChunk_scratch chunk some_ whole dst src found hb kind prov asid,
    fun s core asid j b a c n _ chunk some_ whole dst src => chunkCpb_scratch chunk some_ whole dst src asid,
    fun s early => copyWindowDeadlock_early early,
    fun s x c p l t f k only core since late path lanes ht _ _ at_ on => copyWindowDeadlock_cpb only core since late path lanes ht at_ on,
    fun s c p f k first path at_ => claimGrant_retries first path at_,
    fun s c first => ⟨fun room => (exec_latchCommandAccept first).trans (congrArg _ (if_pos room)),
      fun full => (exec_latchCommandAccept first).trans (congrArg _ (if_neg (Nat.not_lt.2 full)))⟩,
    fun s id first => ⟨fun idle => (exec_matrixCommandStart first).trans (congrArg _ (if_neg (by simpa using idle))),
      fun busy => (exec_matrixCommandStart first).trans (congrArg _ (if_pos (by simpa using busy)))⟩,
    fun s c b found hb prov asid => ⟨fun op more rows => ?product, fun bank op step hbank => ?clear⟩,
    fun a b w same short => ?sum⟩
  case product =>
    have steps : Steps s c b := ⟨found, hb, by rw [Cmd.total_product op]; exact Nat.ne_zero_of_lt more⟩
    obtain ⟨⟨x, e⟩, r⟩ : ∃ r, s.kStep s.ev.a b.asid c (c.step / cmdK c.a) (c.step % cmdK c.a) = r := ⟨_, rfl⟩
    have of : s.stepOf b c = (x, e) := (if_neg op).trans r
    rw [r]
    cases e with
    | ok =>
      exact ⟨groupKStep_mid steps op of prov asid more,
        fun last goesOn => (groupKStep_group steps op of prov asid last rows rfl).trans (congrArg _ (if_neg (Nat.not_le.2 goesOn))),
        fun last all => (groupKStep_group steps op of prov asid last rows rfl).trans (congrArg _ (if_pos all.ge))⟩
    | wait | ask | fail | hold => exact exec_groupKStep steps of
  case clear =>
    exact groupKStep_clear ⟨found, hb, by rw [Cmd.total, if_pos op]; decide⟩ op step prov asid hbank
  case sum =>
    have along : ∀ l : List Int, l.length ≤ 32 → (l.map fun n => FV.ofDyadic n 0).length ≤ 32 := fun l h => by rwa [List.length_map]
    rw [accWord_chunk _ _ w (along a short) (along b (same ▸ short)), chunkVal_ints]

end Sys2Proof.Machine
end

section
/-! SUPPORT. Tensor records on a path of one thread: what TDEF and TSEAL leave pending, what they do when they are performed,
TDROP and TQUERY (spec/13_tensor.md R302, R320 to R322). -/
namespace Sys2Proof.Machine
open Claim

@[simp] theorem begun_sealedRec (s : State) (p : Path) (t : Thread) (asid n : Nat) :
    (s.begun p t).sealedRec asid n = s.sealedRec asid n := rfl

/-! ### Operations performed once for their path (R302) -/

/-- Where a thread stands does not show in the operations that it has pending. -/
theorem Thread.pend_uids_of_core {t u : Thread} (h : t.core = u.core) : t.pend.map (·.uid) = u.pend.map (·.uid) := by
  have uids (v : Thread) : v.core.pend.map (·.uid) = v.pend.map (·.uid) := List.map_map
  rw [← uids t, h, uids u]

section
variable {f : FmtL} {s : State} {p : Path} {t : Thread} (h : Alone s p rightsOwn f.guard t)
include h

/-- The operation that a thread alone on its path has just issued is the last of those that it has pending. -/
theorem lastPend_issued (q : Pending) :
    (((((s.begun p t).pendL (moved p t) q).retire p.fg t.trap.inH).advance p [t.lane]).thread? p.fg t.lane).bind
      (fun u => u.pend.getLast?.map (·.uid)) = some s.uid := by
  have near : ((s.begun p t).pendL (moved p t) q).thread? p.fg t.lane = some ((moved p t).pendAdd { q with uid := s.uid }) :=
    State.thread?_setThread_mk _ _ _ _ h.fg rfl ⟨_, h.fg ▸ begun_found h⟩
  have far (fg l : Nat) (hne : fg ≠ p.fg ∨ l ≠ t.lane) : ((s.begun p t).pendL (moved p t) q).thread? fg l = s.thread? fg l := by
    rw [← h.fg] at hne
    exact (State.thread?_setThread_ne _ ((moved p t).pendAdd { q with uid := s.uid }) fg l hne).trans
      (State.thread?_setThread_ne s (moved p t) fg l hne)
  obtain ⟨-, -, threads⟩ := advance_pends h rfl near far
  obtain ⟨u, hu, core⟩ := threads t.lane (h.lanes ▸ List.mem_singleton_self _) t h.found
  rw [hu, Option.bind_some, ← List.getLast?_map, Thread.pend_uids_of_core core]
  simp [Thread.pendAdd]
theorem issueShared_alone (todo : State → Thread → List (Nat × Nat) → Todo) :
    issueShared s f todo = ((((s.begun p t).pendL (moved p t) (fmtLPend f p 1)).retire p.fg t.trap.inH).advance p [t.lane]).modPend
      p.fg t.lane s.uid fun q => { q with todo := todo s t [] } := by
  obtain ⟨qs, hp⟩ := List.head?_eq_some_iff.1 h.issues.head
  have act : s.executing p f.guard = [t] := active_alone h
  have run : (issueEach s rightsOwn f.guard fun p s t => .ok (s.pendL t (fmtLPend f p 1))) = _ := issueEach_alone h rfl
  unfold issueShared
  simp only [hp, h.issues.rights, act, run, lastPend_issued h, Bool.not_true, Bool.false_eq_true, if_false, List.map_nil, Option.getD_some]

/-! ### TDROP and TQUERY (R322) -/

theorem tdrop_done :
    let n := regL s t f.a.toNat 1
    Done (.tdrop f) s p t (ends ((s.begun p t).modCtx (s.asidOf p.fg) fun c =>
      { c with records := c.records.filter fun r => r.handle.toNat ≠ n }) p t f 1
      [if (s.sealedRec (s.asidOf p.fg) n).isSome then 0 else 0xFFFFFFFF]) :=
  done_each (g := f.guard) rfl h (by
    simp only [regL_at, moved_fg, h.fg, begun_asidOf, begun_sealedRec, ends, List.map_cons, List.map_nil, apply_ite (BitVec.ofNat 32)]
    rfl)
theorem tquery_record {r : SealedRec} (found : s.sealedRec (s.asidOf p.fg) (regL s t f.a.toNat 1) = some r) :
    Done (.tquery f) s p t ((s.begun p t).pendL (moved p t) { fmtLPend f p 4 with
      val := some (bytesWords (slice r.bytes (16 * FmtL.fn f) 16)) }) :=
  done_each (g := f.guard) rfl h (by simp only [regL_at, moved_fg, h.fg, begun_asidOf, begun_sealedRec, found])
theorem tquery_none (none_ : s.sealedRec (s.asidOf p.fg) (regL s t f.a.toNat 1) = none) :
    Done (.tquery f) s p t (ends (s.begun p t) p t f 4 (List.replicate 4 0xFFFFFFFF)) :=
  done_each (g := f.guard) rfl h (by
    simp only [regL_at, moved_fg, h.fg, begun_asidOf, begun_sealedRec, none_]
    rfl)

end

/-! ### TDEF and TSEAL performed (R320, R321) -/

section
variable {s x : State} {t : Thread} {q : Pending}

theorem doTdef_reads {ea : Nat} {b : List Byte} {g : FileGroup} (read : s.todoRead t q ea 128 [] = (x, some b)) (hg : x.fg? t.fg = some g) :
    s.doTdef t q ea [] = (x.setFg { g with defRec := b }).endShared t q.uid [] fun q => { q with val := some [0] } := by
  unfold State.doTdef
  simp only [read, hg]

/-- What TSEAL checks of the record in its file group, as its context and the buffer stand (R321). -/
def State.sealReason (x : State) (asid : Nat) (c : Ctx) (r : TRec) (codes : List Byte) : Nat :=
  let br := x.bufRec r.buf
  let held := x.mem.keySlots.any fun k => k.owner = asid && k.buf = some r.buf
  let slot := if br.owner = asid then x.mem.keySlots.find? fun k => k.num = br.key
    else x.mem.keySlots.find? fun k => k.owner = asid && k.buf = some r.buf
  let codesOk := !r.coded || (codes.all (fun l => l.toNat ≤ 15) && kraft codes = 2 ^ 15)
  sealCheck asid br held ((slot.map (·.dropped)).getD false) x.health.decodeEn r codesOk (1024 ≤ c.records.length)
/-- The node and cluster whose re-run seals a record, if one does (spec/20_health.md R412). -/
def State.sealOwner (x : State) (fg : Nat) : Option (Nat × Nat) :=
  match x.blockOf fg with | some b => if b.run = 0 then none else some (b.node, b.clu) | none => none

variable {codes : List Byte} {c : Ctx}
  (read : (if (TRec.of (s.fgOf t).defRec).coded then s.todoRead t q (TRec.of (s.fgOf t).defRec).codes 256 [] else (s, some [])) = (x, some codes))
  (hc : x.ctx? (s.asidOf t.fg) = some c)
include read hc

theorem doTseal_refused (bad : x.sealReason (s.asidOf t.fg) c (TRec.of (s.fgOf t).defRec) codes ≠ 0) :
    s.doTseal t q [] = x.endShared t q.uid [] fun q =>
      { q with val := some [BitVec.ofNat 32 (x.sealReason (s.asidOf t.fg) c (TRec.of (s.fgOf t).defRec) codes)] } := by
  unfold State.doTseal
  simp only [read, hc]
  exact if_pos bad
theorem doTseal_seals (good : x.sealReason (s.asidOf t.fg) c (TRec.of (s.fgOf t).defRec) codes = 0) :
    let h := 2 ^ 31 + c.seals % 2 ^ 31
    s.doTseal t q [] = (x.modCtx (s.asidOf t.fg) fun c => { c with
      records := c.records ++ [{ handle := BitVec.ofNat 64 h, bytes := (s.fgOf t).defRec, codes := codes
                                 key := (x.bufRec (TRec.of (s.fgOf t).defRec).buf).key, owner := x.sealOwner t.fg }]
      seals := c.seals + 1 }).endShared t q.uid [] fun q => { q with val := some [BitVec.ofNat 32 h] } := by
  unfold State.doTseal
  simp only [read, hc]
  exact if_neg (not_not_intro good)

end

end Sys2Proof.Machine
end

section
/-! SUPPORT. What a block holds: GANG, OCLAIM and OREL on a path of one thread (spec/13_tensor.md R304, R306, R323, R324). -/
namespace Sys2Proof.Machine
open Claim

theorem State.blockOf_congr {s1 s : State} (h : s1.rest = s.rest) (fg : Nat) : s1.blockOf fg = s.blockOf fg :=
  (congrArg (fun x : State => x.blockOf fg) h : s1.rest.blockOf fg = s.rest.blockOf fg)
/-- The number of a file group's block. -/
theorem blkId_of_blockOf {s : State} {fg : Nat} {b : Block} (hb : s.blockOf fg = some b) : s.blkId fg = b.id := by
  obtain ⟨g, hg, found⟩ := Option.bind_eq_some_iff.1 hb
  simp [State.blkId, hg, block?_id found]

/-! ### GANG (R306, R323) -/

/-- The groups of a mask may become the gang of a block. -/
def State.mayGang (s : State) (b : Block) (m : Nat) : Bool :=
  (popc8 m = 0 || (2 ≤ popc8 m && popc8 m ≤ 6)) &&
  ((List.range 8).all fun i => !bit m i || ((s.fgs.filter fun g => g.blk = b.id).map (·.num)).contains i) && !b.latch.open_
    && !(s.eng.cmds.any fun c => c.blk = b.id)
theorem State.mayGang_iff (s : State) (b : Block) (m : Nat) : s.mayGang b m = true ↔
    (popc8 m = 0 ∨ (2 ≤ popc8 m ∧ popc8 m ≤ 6)) ∧
    (∀ i, i < 8 → m.testBit i = true → i ∈ (s.fgs.filter fun g => g.blk = b.id).map (·.num)) ∧ b.latch.open_ = false ∧
    ∀ c ∈ s.eng.cmds, c.blk ≠ b.id := by
  have listed (i : Nat) : (!bit m i || ((s.fgs.filter fun g => g.blk = b.id).map (·.num)).contains i) = true ↔
      (m.testBit i = true → i ∈ (s.fgs.filter fun g => g.blk = b.id).map (·.num)) := by
    rw [Bool.or_eq_true, List.contains_iff_mem, Bool.not_eq_true', ← Bool.not_eq_true, ← imp_iff_not_or]
    rfl
  simp only [State.mayGang, Bool.and_eq_true, List.all_eq_true, listed, List.mem_range, and_assoc]
  simp
theorem State.mayGang_congr {s1 s : State} (h : s1.rest = s.rest) (b : Block) (m : Nat) : s1.mayGang b m = s.mayGang b m :=
  (congrArg (fun x : State => x.mayGang b m) h : s1.rest.mayGang b m = s.rest.mayGang b m)

section
variable {f : FmtA} {s : State} {p : Path} {t : Thread} {b : Block}

theorem gang_done (h : Alone s p rightsOwn f.guard t) (hb : s.blockOf p.fg = some b) :
    let m := srcA s t f 6 % 256
    DoneOnce (.gang f) s p t fun x => (if s.mayGang b m then x.setBlock { b with gang := BitVec.ofNat 8 m } else x).modThread p.fg t.lane
      fun u => u.put f.d.toNat [BitVec.ofNat 32 (b.gang.toNat + if s.mayGang b m then 0 else 2 ^ 31)] := by
  refine done_once (g := f.guard) rfl h ?_
  have rest : ((s.begun p t).retire p.fg t.trap.inH).rest = s.rest := State.rest_retire ..
  simp only [State.blockOf_congr rest, h.fg, hb, (reads_srcA s f 6).rest _ t rest, List.foldl_cons, List.foldl_nil,
    ← State.mayGang_congr rest]
  rfl
theorem orel_done (h : Alone s p rightsOwn f.guard t) (hb : s.blockOf p.fg = some b) :
    let slots := srcA s t f 6
    let banks := srcB s t f 6 % 16
    DoneOnce (.orel f) s p t fun x => { x with eng := { x.eng with
      slots := x.eng.slots.map fun (y : Slot) => if y.blk = b.id && slots.testBit y.num then { y with going := true } else y
      banks := x.eng.banks.map fun (y : Bank) => if y.blk = b.id && banks.testBit y.num then { y with going := true } else y } }.releaseUnits := by
  refine done_once (g := f.guard) rfl h ?_
  have rest : ((s.begun p t).retire p.fg t.trap.inH).rest = s.rest := State.rest_retire ..
  simp only [State.blkId_congr rest, h.fg, blkId_of_blockOf hb, (reads_srcA s f 6).rest _ t rest, (reads_srcB s f 6).rest _ t rest]
  rfl

end

/-! ### OCLAIM (R304, R324) -/

/-- What OCLAIM claims (R324). -/
def claimOf (f : FmtL) (s : State) (p : Path) (t : Thread) : ClaimWait :=
  { core := s.coreOf p.fg, blk := s.blkId p.fg, path := p.id, slots := regL s t f.a.toNat 1, banks := regL s t f.b.toNat 1 % 16 }
/-- A claim can be granted (R304). -/
def State.free (s : State) (c : ClaimWait) : Bool := s.grantable c.core c.blk c.path c.slots c.banks
/-- The state in which a claim of the path has been granted: the path waits with none any more (R304). -/
def State.granted (s : State) (c : ClaimWait) : State :=
  { s with eng := { s.eng with claims := s.eng.claims.filter fun d => d.path ≠ c.path } }.grant c.blk c.slots c.banks

section
variable {f : FmtL} {s : State} {p : Path} {t : Thread} (h : Alone s p rightsOwn f.guard t)
include h

theorem exec_oclaim :
    exec (.oclaim f) s = .next (
      if s.free (claimOf f s p t) then
        issueEach (s.granted (claimOf f s p t)) rightsOwn f.guard fun p s t => .ok (s.pendL t { fmtLPend f p 1 with val := some [0] })
      else if s.eng.claims.any fun c => c.path = p.id then s
      else { s with eng := { s.eng with claims := s.eng.claims ++ [claimOf f s p t] } }) := by
  obtain ⟨qs, hp⟩ := List.head?_eq_some_iff.1 h.issues.head
  have act : s.executing p f.guard = [t] := active_alone h
  change execOclaim f s = _
  unfold execOclaim
  simp only [hp, h.issues.rights, act, Bool.not_true, Bool.false_eq_true, if_false]
  rw [← hp]
  rfl
theorem oclaim_grants (free : s.free (claimOf f s p t) = true) :
    Done (.oclaim f) s p t (ends ((s.granted (claimOf f s p t)).begun p t) p t f 1 [0]) := by
  have alone : Alone (s.granted (claimOf f s p t)) p rightsOwn f.guard t := h.congr rfl rfl rfl
  exact (exec_oclaim h).trans (congrArg _ ((if_pos free).trans (issueEach_alone alone rfl)))
/-- A claim that cannot be granted is put behind those of other paths. -/
theorem oclaim_waits (taken : s.free (claimOf f s p t) = false) (first : ∀ c ∈ s.eng.claims, c.path ≠ p.id) :
    exec (.oclaim f) s = .next { s with eng := { s.eng with claims := s.eng.claims ++ [claimOf f s p t] } } := by
  have new : (s.eng.claims.any fun c => c.path = p.id) = false := by simpa using first
  exact (exec_oclaim h).trans (congrArg _ ((if_neg (Bool.eq_false_iff.1 taken)).trans (if_neg (Bool.eq_false_iff.1 new))))

end

end Sys2Proof.Machine
end

section
/-! SUPPORT. Matrix instructions on a path of one thread, and the latch of a gang (spec/13_tensor.md R306 to R308, R325). -/
namespace Sys2Proof.Machine
open Claim

/-- The operation of each thread is complete as the instruction issues, and writes no register (R308). -/
def matrixGoes (f : FmtL) (x : State) : State :=
  issueEach x rightsOwn f.guard fun p s t => .ok (s.pendL t { fmtLPend f p 0 with val := some [] })
/-- The arrival of the group does not fit the gang or its latch (R307). -/
def matrixTraps (f : FmtL) (s : State) : State := issueEach s rightsOwn f.guard fun _ s _ => .trap 0x6005 s.noAddr
/-- The table of the command, which MMAG alone has (R325). -/
def matrixTab (f : FmtL) (op : Nat) (s : State) (t : Thread) : Nat := if op = 1 then regL s t f.b.toNat 4 else 0
/-- The latch as the instruction of a group would have it, of the groups that are there (R307; for the address assumption log 108). -/
def broughtLatch (f : FmtL) (op : Nat) (s : State) (p : Path) (t : Thread) (b : Block) : Latch :=
  { open_ := true, op := op, iaddr := p.iaddr, fn := FmtL.fn f, br := FmtL.br f, a := regL s t f.a.toNat 1, b := matrixTab f op s t
    present := b.latch.present }

theorem exec_matrix {i : Instr} {op : Nat} {f : FmtL} (hi : matrix i = some (op, f)) (s : State) : exec i s = .next (issueMatrix s f op) := by
  cases i with
  | mma g => cases hi; rfl
  | mmag g => cases hi; rfl
  | mmas g => cases hi; rfl
  | accz g => cases hi; rfl
  | _ => cases hi

theorem matrixGoes_done {i : Instr} {f : FmtL} {s x : State} {p : Path} {t : Thread} (he : exec i s = .next (matrixGoes f x))
    (hx : Alone x p rightsOwn f.guard t) : Done i s p t (ends (x.begun p t) p t f 0 []) :=
  he.trans (congrArg _ (issueEach_alone hx rfl))

section
variable {f : FmtL} {s : State} {p : Path} {t : Thread} (h : Alone s p rightsOwn f.guard t)
include h

theorem Alone.addCmd (blk bar op a tab fn : Nat) : Alone (s.addCmd blk bar op a tab fn) p rightsOwn f.guard t := h.congr rfl rfl rfl
/-- A change to the block of the path that keeps its context. -/
theorem Alone.setBlock {b c : Block} (hb : s.blockOf p.fg = some b) (id : c.id = b.id) (asid : c.asid = b.asid) :
    Alone (s.setBlock c) p rightsOwn f.guard t := by
  obtain ⟨g, hg, found⟩ := Option.bind_eq_some_iff.1 hb
  have set_ : (s.setBlock c).blockOf p.fg = some c :=
    Option.bind_eq_some_iff.2 ⟨g, hg, State.block?_setBlock (id.trans (block?_id found)) found⟩
  refine h.congr rfl rfl ?_
  simp only [State.asidOf, set_, hb, asid]

variable {i : Instr}

theorem matrixTraps_traps (he : exec i s = .next (matrixTraps f s)) : Traps i s p t 0x6005 s.noAddr := traps_each he h rfl

variable {op : Nat} {b : Block} {g : FileGroup} (hi : matrix i = some (op, f)) (hb : s.blockOf p.fg = some b) (hg : s.fg? p.fg = some g)
include hi hb hg

/-- Outside a gang each instruction forms its command, where the queue has room (R307). -/
theorem exec_matrix_single (single : b.gang = 0) :
    exec i s = .next (if (s.queue_ (s.coreOf p.fg)).length < 16
      then matrixGoes f (s.addCmd b.id (FmtL.br f) op (regL s t f.a.toNat 1) (matrixTab f op s t) (FmtL.fn f))
      else s.setPath { p with waiting := true }) := by
  obtain ⟨qs, hp⟩ := List.head?_eq_some_iff.1 h.issues.head
  have act : s.executing p f.guard = [t] := active_alone h
  have room : 1 ≤ 16 - (s.queue_ (s.coreOf p.fg)).length ↔ (s.queue_ (s.coreOf p.fg)).length < 16 := by omega
  rw [exec_matrix hi]
  unfold issueMatrix
  simp only [hp, h.issues.rights, act, hb, hg, single, Bool.not_true, Bool.false_eq_true, if_false, if_true, List.length_singleton, room,
    List.foldl_cons, List.foldl_nil]
  rfl
/-- In a gang the latch decides (R307). -/
theorem exec_matrix_gang (gang : b.gang ≠ 0) :
    let me := broughtLatch f op s p t b
    let present := b.latch.present ++ [g.num]
    exec i s = .next (
      if b.gang.getLsbD g.num = false then matrixTraps f s
      else if b.latch.open_ = true ∧ g.num ∈ b.latch.present then s.setPath { p with waiting := true }
      else if b.latch.open_ = true ∧ b.latch ≠ me then matrixTraps f s
      else if s.latchFull b present = true then
        if (s.queue_ (s.coreOf p.fg)).length < 16
        then matrixGoes f ((s.setBlock { b with latch := {} }).addCmd b.id me.br op me.a me.b me.fn)
        else s.setPath { p with waiting := true }
      else matrixGoes f (s.setBlock { b with latch := { me with present := present } })) := by
  obtain ⟨qs, hp⟩ := List.head?_eq_some_iff.1 h.issues.head
  have act : s.executing p f.guard = [t] := active_alone h
  have full : 16 - (s.queue_ (s.coreOf p.fg)).length = 0 ↔ ¬(s.queue_ (s.coreOf p.fg)).length < 16 := by omega
  rw [exec_matrix hi]
  unfold issueMatrix
  simp only [hp, h.issues.rights, act, hb, hg, gang, Bool.not_true, Bool.false_eq_true, if_false, full, ite_not, Bool.not_eq_true',
    Bool.and_eq_true, List.contains_iff_mem, decide_eq_true_eq]
  rfl

end

end Sys2Proof.Machine
end

section
/-! What is claimed of the tensor and matrix instructions (spec/13_tensor.md). -/
namespace Sys2Proof.Machine
open Claim

/-- Settles O41: an operation for the path hangs on the last that its thread has pending (`issueShared_alone`), and GANG, OCLAIM and
OREL are each one choice (`gang_done`, `exec_oclaim`, `orel_done`). -/
theorem tensorInstructions : Obligations.TensorInstructions := by
  refine ⟨fun f s p t h => ⟨fun _ => ?shared, tdrop_done h, fun r => tquery_record h, tquery_none h, oclaim_grants h, oclaim_waits h⟩,
    fun f s p t b h hb => ⟨fun may => ?takes, fun not_ => ?refuses, orel_done h hb⟩,
    fun s t q ea x b g read hg => doTdef_reads read hg,
    fun s x t q codes c read hc => ⟨fun bad => doTseal_refused read hc bad, fun good own hown => ?seals⟩⟩
  case shared =>
    exact ⟨congrArg Host.Outcome.next (issueShared_alone h _), congrArg Host.Outcome.next (issueShared_alone h _)⟩
  case takes =>
    have done := gang_done h hb
    simpa only [(s.mayGang_iff b _).2 may, if_true, Nat.add_zero] using done
  case refuses =>
    have done := gang_done h hb
    simpa only [Bool.eq_false_iff.2 (mt (s.mayGang_iff b _).1 not_), Bool.false_eq_true, if_false] using done
  case seals =>
    rw [show own = x.sealOwner t.fg from hown]
    exact doTseal_seals read hc good

/-- Settles O42: outside a gang by the room of the queue (`exec_matrix_single`), in a gang by the latch (`exec_matrix_gang`). -/
theorem matrixInstructions : Obligations.MatrixInstructions := by
  intro i op f s p t b g hi h hb hg
  dsimp only
  refine ⟨fun single => ?single, fun gang => ?gang⟩
  case single =>
    have run := exec_matrix_single h hi hb hg single
    exact ⟨fun room => matrixGoes_done (run.trans (congrArg _ (if_pos room))) (h.addCmd ..),
      fun full => run.trans (congrArg _ (if_neg (Nat.not_lt.2 full)))⟩
  case gang =>
    have run := exec_matrix_gang h hi hb hg gang
    refine ⟨fun other => matrixTraps_traps h (run.trans (congrArg _ (if_pos other))), fun listed => ?_⟩
    dsimp only at run
    rw [if_neg (by rw [listed]; decide)] at run
    refine ⟨fun joins => ?_, fun open_ there => run.trans (congrArg _ (if_pos ⟨open_, there⟩)), fun open_ new differs =>
      matrixTraps_traps h (run.trans (congrArg _ ((if_neg fun c => new c.2).trans (if_pos ⟨open_, differs⟩))))⟩
    have place : ¬(b.latch.open_ = true ∧ g.num ∈ b.latch.present) := by
      obtain shut | ⟨new, -⟩ := joins
      · simp [shut]
      · exact fun c => new c.2
    have same : ¬(b.latch.open_ = true ∧ b.latch ≠ broughtLatch f op s p t b) := by
      obtain shut | ⟨-, eq⟩ := joins
      · simp [shut]
      · exact fun c => c.2 eq
    rw [if_neg place, if_neg same] at run
    refine ⟨fun more => ?_, fun all => ⟨fun room => ?_, fun full => ?_⟩⟩
    · exact matrixGoes_done (run.trans (congrArg _ (if_neg (Bool.eq_false_iff.1 more)))) (h.setBlock hb rfl rfl)
    · exact matrixGoes_done (run.trans (congrArg _ ((if_pos all).trans (if_pos room)))) ((h.setBlock (c := { b with latch := {} }) hb rfl rfl).addCmd ..)
    · exact run.trans (congrArg _ ((if_pos all).trans (if_neg (Nat.not_lt.2 full))))

end Sys2Proof.Machine
end

section
/-! SUPPORT. The fabric management instructions on a path of one thread (spec/17_links.md R395 to R399). -/
namespace Sys2Proof.Machine
open Claim

section
variable {s : State} {p : Path} {t : Thread} {f : FmtZ} (h : Alone s p rightsAll f.guard t)
include h

/-! ### RANKMAP and PLANEMAP read (R397, R398) -/

theorem rankmapGet_reads (hk : regL s t f.a.toNat 1 + f.imm.toNat ≤ 383) :
    Done (.rankmapGet f) s p t (wrote (s.begun p t) t f.d [s.links.ranks.getD (regL s t f.a.toNat 1 + f.imm.toNat) 0]) :=
  done_z rfl h (by simp only [regL_at]; rw [if_neg (Nat.not_lt.2 hk)]; rfl)
theorem rankmapGet_traps (hk : 383 < regL s t f.a.toNat 1 + f.imm.toNat) : Traps (.rankmapGet f) s p t 0x4004 s.noAddr :=
  traps_z (x := s.begun p t) rfl h (by simp only [regL_at]; rw [if_pos hk])

end

section
variable {s : State} {p : Path} {t : Thread} {f : FmtZ} (h : Alone s p rightsOpr f.guard t)
include h

/-! ### PLANEMAP (R396, R398) -/

theorem exec_planemapMap (waits : (s.mapOk (f.imm.toNat % 16) (regL s t f.a.toNat 1 % 16) && s.onPlane (f.imm.toNat % 16)) = false) :
    exec (.planemapMap f) s = .next (issueZ s f rightsOpr fun s t =>
      let dest := regL s t f.a.toNat 1 % 16
      if s.mapOk (f.imm.toNat % 16) dest then (s.planeMap (f.imm.toNat % 16) dest, .ok (word 0)) else (s, .ok (word 1))) := by
  obtain ⟨qs, hp⟩ := List.head?_eq_some_iff.1 h.issues.head
  have act : s.executing p f.guard = [t] := active_alone h
  change execPlanemapMap f s = _
  unfold execPlanemapMap
  simp only [hp, act, List.any_cons, List.any_nil, Bool.or_false, h.issues.rights, h.on, Bool.true_and, waits, Bool.false_eq_true, if_false]
theorem planemapMap_maps (free : s.onPlane (f.imm.toNat % 16) = false)
    (ok : s.mapOk (f.imm.toNat % 16) (regL s t f.a.toNat 1 % 16) = true) :
    Done (.planemapMap f) s p t (wrote ((s.begun p t).planeMap (f.imm.toNat % 16) (regL s t f.a.toNat 1 % 16)) t f.d [0]) :=
  done_z (exec_planemapMap h (by rw [free, Bool.and_false])) h (by simp only [regL_at]; exact if_pos ok)
theorem planemapMap_refused (bad : s.mapOk (f.imm.toNat % 16) (regL s t f.a.toNat 1 % 16) = false) :
    Done (.planemapMap f) s p t (wrote (s.begun p t) t f.d [1]) :=
  done_z (exec_planemapMap h (by rw [bad, Bool.false_and])) h (by simp only [regL_at]; exact if_neg (Bool.eq_false_iff.1 bad))
theorem planemapMap_stalls (busy : s.onPlane (f.imm.toNat % 16) = true)
    (ok : s.mapOk (f.imm.toNat % 16) (regL s t f.a.toNat 1 % 16) = true) : exec (.planemapMap f) s = .next s := by
  obtain ⟨qs, hp⟩ := List.head?_eq_some_iff.1 h.issues.head
  have act : s.executing p f.guard = [t] := active_alone h
  change execPlanemapMap f s = _
  unfold execPlanemapMap
  simp only [hp, act, List.any_cons, List.any_nil, Bool.or_false, h.issues.rights, h.on, Bool.true_and, ok, busy, Bool.and_self, if_true]

/-- A reserve is taken up where its class has one, and no more than the receive store holds is reserved (R381, R398). -/
theorem planemapShare_takes {mins : List (Nat × Nat)}
    (hm : putAssoc s.links.mins (64 * (f.imm.toNat / 64 % 4) + f.imm.toNat % 64) (regL s t f.a.toNat 1 % 2 ^ 13) = mins)
    (class_ : f.imm.toNat / 64 % 4 ≠ 3) (one : regL s t f.a.toNat 1 % 2 ^ 13 ≤ 4096) (all : (mins.map (·.2)).sum ≤ 4096) :
    Done (.planemapShare f) s p t (wrote { s.begun p t with links := { (s.begun p t).links with mins := mins } }.pump t f.d [0]) := by
  refine done_z rfl h ?_
  simp only [regL_at, bits_eq_div, Nat.pow_zero, Nat.div_one]
  rw [if_neg]
  · subst hm; rfl
  · subst hm
    simp only [Bool.or_eq_true, decide_eq_true_eq, not_or, Nat.not_lt]
    exact ⟨⟨class_, one⟩, all⟩
theorem planemapShare_refused {mins : List (Nat × Nat)}
    (hm : putAssoc s.links.mins (64 * (f.imm.toNat / 64 % 4) + f.imm.toNat % 64) (regL s t f.a.toNat 1 % 2 ^ 13) = mins)
    (bad : f.imm.toNat / 64 % 4 = 3 ∨ 4096 < regL s t f.a.toNat 1 % 2 ^ 13 ∨ 4096 < (mins.map (·.2)).sum) :
    Done (.planemapShare f) s p t (wrote (s.begun p t) t f.d [1]) := by
  refine done_z rfl h ?_
  simp only [regL_at, bits_eq_div, Nat.pow_zero, Nat.div_one]
  subst hm
  rw [if_pos]
  · rfl
  · simp only [Bool.or_eq_true, decide_eq_true_eq, or_assoc]
    exact bad
theorem planemapRetrain_up (up : (s.map.unit (363 + f.imm.toNat % 16)).1 ≠ 3) (same : (s.map.unit (363 + f.imm.toNat % 16)).1 ≠ 4) :
    Done (.planemapRetrain f) s p t (wrote (s.begun p t) t f.d [1]) := by
  refine done_z rfl h ?_
  simp only [begun_map, up, same, ne_eq, not_false_eq_true, decide_true, Bool.and_self, if_true]
  rfl
/-- Whether the link trains is free (assumption log 33). -/
theorem planemapRetrain_trains (down : (s.map.unit (363 + f.imm.toNat % 16)).1 = 3 ∨ (s.map.unit (363 + f.imm.toNat % 16)).1 = 4) :
    let a := s.begun p t
    let n := f.imm.toNat % 16
    Done (.planemapRetrain f) s p t (if Config.freeValue s.ticks % 2 = 1 then wrote a t f.d [2]
      else wrote ((a.setPort n {}).publish (a.map.units.set (362 + n) (0, 0))).pump t f.d [0]) := by
  have listed : (decide ((s.map.unit (363 + f.imm.toNat % 16)).1 ≠ 3) && decide ((s.map.unit (363 + f.imm.toNat % 16)).1 ≠ 4)) = false := by
    obtain e | e := down <;> simp [e]
  have tries : ¬_ := Bool.eq_false_iff.1 listed
  dsimp only
  split
  case isTrue fails => exact done_z rfl h ((if_neg tries).trans (if_pos fails))
  case isFalse trains => exact done_z rfl h ((if_neg tries).trans (if_neg trains))

/-! ### PARITYCFG (R399) -/

theorem paritycfgSet_refused (bad : s.parityBad (regL s t f.a.toNat 4) = true) :
    Done (.paritycfgSet f) s p t (wrote (s.begun p t) t f.d [1]) :=
  done_z rfl h (by simp only [regL_at]; exact if_pos bad)
theorem paritycfgSet_takes (good : s.parityBad (regL s t f.a.toNat 4) = false) :
    let a := s.begun p t
    let d := regL s t f.a.toNat 4
    Done (.paritycfgSet f) s p t (wrote { a with links := { a.links with
      parity := if parN d = 0 then 0 else d, parPhase := 0, parBlocks := 0 } }.releasePar t f.d [0]) :=
  done_z rfl h (by simp only [regL_at]; exact if_neg (Bool.eq_false_iff.1 good))
theorem paritycfgRebuild_done :
    let a := s.begun p t
    Done (.paritycfgRebuild f) s p t (if s.rankState s.rank = 2 ∧ (parMembers s.links.parity).contains s.rank = true
      then wrote { a with links := { a.links with parPhase := 3, parBlocks := 0 } } t f.d [0] else wrote a t f.d [1]) := by
  dsimp only
  split
  case isTrue may => exact done_z rfl h (if_pos (Bool.and_eq_true_iff.2 ⟨decide_eq_true may.1, may.2⟩))
  case isFalse not_ =>
    exact done_z rfl h (if_neg fun c => not_ ((Bool.and_eq_true_iff.1 c).imp_left of_decide_eq_true))

end
end Sys2Proof.Machine
end

section
/-! What is claimed of the fabric management instructions (spec/17_links.md R395 to R399). -/
namespace Sys2Proof.Machine
open Claim

/-- Settles O37, form by form: PLANEMAP.map stalls its path only where its rule allows it (`exec_planemapMap`). -/
theorem fabricManagement : Obligations.FabricManagement := by
  refine ⟨fun f s p t h => ⟨rankmapGet_reads h, rankmapGet_traps h, done_z rfl h rfl⟩, fun f s p t h => ?_⟩
  exact ⟨done_z rfl h (by simp only [regL_at]; rfl), planemapMap_maps h, planemapMap_refused h, planemapMap_stalls h,
    ⟨planemapShare_takes h rfl, planemapShare_refused h rfl⟩, planemapRetrain_up h, planemapRetrain_trains h,
    ⟨paritycfgSet_refused h, paritycfgSet_takes h⟩, paritycfgRebuild_done h, done_z rfl h rfl⟩

end Sys2Proof.Machine
end

section
/-! SUPPORT. Placement on a path of one thread (spec/15_launch.md R354, R360 to R362). -/
namespace Sys2Proof.Machine
open Claim

/-! ### Which slots a context may reserve (R360) -/

/-- Context `x` of partition `part` may reserve slot `k`. -/
def State.slotFree (s : State) (x part k : Nat) : Prop :=
  (s.slotE k).assigned = true ∧ (s.slotE k).part = part ∧ ((s.slotE k).rsv = none ∨ (s.slotE k).rsv = some x)
theorem State.slotFree_iff (s : State) (x part k : Nat) : s.slotFree x part k ↔
    (!(s.slotE k).assigned || decide ((s.slotE k).part ≠ part) || (s.slotE k).rsv.any (· ≠ x)) = false := by
  unfold State.slotFree
  cases (s.slotE k).rsv <;> simp [and_assoc]
/-- What PLACE.rsv requires of its context and its slots. -/
def State.reservable (s : State) (x : Nat) (ks : List Nat) : Prop :=
  ∃ c, s.ctx? x = some c ∧ c.state ≠ 0 ∧ c.state ≠ 5 ∧ ∀ k ∈ ks, s.slotFree x c.part k
theorem State.reservable_iff {s : State} {x : Nat} {ks : List Nat} {c : Ctx} (hc : s.ctx? x = some c) : s.reservable x ks ↔
    (decide (c.state = 0) || decide (c.state = 5) ||
      ks.any fun k => !(s.slotE k).assigned || decide ((s.slotE k).part ≠ c.part) || (s.slotE k).rsv.any (· ≠ x)) = false := by
  simp only [State.reservable, hc, Option.some.injEq, exists_eq_left', Bool.or_eq_false_iff, decide_eq_false_iff_not, List.any_eq_false,
    Bool.not_eq_true, and_assoc, ne_eq, s.slotFree_iff, decide_not]

/-! ### Which blocks stop for the operator, and what SLICESET.move requires (R354, R361) -/

/-- Blocks stop, and the instruction completes when they have: its thread waits, and what is to complete it is noted. -/
def State.stopFor (s : State) (p : Path) (t : Thread) (f : FmtL) (bs : List Block) (move : Option (Nat × Nat)) : State :=
  let r := s.stopSaved bs
  let q := r.1.pendU (moved p t) { fmtLPend f p 1 with todo := .wait }
  let cmd : StopCmd := { fg := p.fg, lane := t.lane, uid := q.1, blks := r.2, move := move }
  State.settle { q.2 with sched := { q.2.sched with stops := q.2.sched.stops ++ [cmd] } }
/-- The resident blocks of slot `x`, and whether the save pool has room for their images. -/
def State.residents (s : State) (x : Nat) : List Block := s.blocks.filter fun b => b.place = .resident && b.core < 256 && b.core / 4 = x
def State.savesAll (s : State) (bs : List Block) : Option State :=
  bs.foldl (fun (acc : Option State) b => acc.bind fun s => s.saveImage b) (some s)
/-- What SLICESET.move requires (R354; for the room of the save pool assumption log 67). -/
def State.movable (s : State) (a b : Nat) (fits : Bool) : Prop :=
  a ≤ 63 ∧ b ≤ 63 ∧ (s.slotE a).assigned = true ∧ (s.slotE b).assigned = false ∧ s.slotUsed b = false ∧
    (∀ i, i < 4 → s.map.coreLive (4 * b + i) = true) ∧ fits = true
theorem State.movable_iff (s : State) (a b : Nat) (fits : Bool) : s.movable a b fits ↔
    (decide (63 < a) || decide (63 < b) || !(s.slotE a).assigned || (s.slotE b).assigned || s.slotUsed b ||
      !((List.range 4).all fun i => s.map.coreLive (4 * b + i)) || !fits) = false := by
  simp [State.movable, and_assoc]

section
variable {s : State} {p : Path} {t : Thread} {f : FmtL} (h : Alone s p rightsOpr f.guard t)
include h

/-! ### PLACE (R360) -/

theorem placeRsv_reserves (may : s.reservable (regL s t f.a.toNat 1) (slotsIn (regL s t f.b.toNat 2))) :
    Done (.placeRsv f) s p t (arrives ((slotsIn (regL s t f.b.toNat 2)).foldl
      (fun y k => y.setSlotE k { y.slotE k with rsv := some (regL s t f.a.toNat 1) }) (s.begun p t)) p t f 1 [0]) := by
  have ⟨c, hc, _⟩ := may
  refine done_sys rfl h ?_
  simp only [regL_at, begun_ctx, hc]
  exact if_neg (Bool.eq_false_iff.1 ((State.reservable_iff hc).1 may))
theorem placeRsv_refused (not_ : ¬s.reservable (regL s t f.a.toNat 1) (slotsIn (regL s t f.b.toNat 2))) :
    Done (.placeRsv f) s p t (arrives (s.begun p t) p t f 1 [0xB010]) := by
  refine done_sys rfl h ?_
  simp only [regL_at, begun_ctx]
  cases hc : s.ctx? (regL s t f.a.toNat 1) with
  | none => rfl
  | some c => exact if_pos (Bool.not_eq_false _ ▸ mt (State.reservable_iff hc).2 not_)
theorem placeFree_frees (named : regL s t f.a.toNat 1 ≤ 1023) :
    let a := s.begun p t
    Done (.placeFree f) s p t (arrives { a with sched := { a.sched with
      slots := a.sched.slots.map fun e => if e.rsv = some (regL s t f.a.toNat 1) then { e with rsv := none } else e } } p t f 1 [0]) :=
  done_sys rfl h (by simp only [regL_at]; exact if_neg (Nat.not_lt.2 named))
theorem placeFree_refused (far : 1023 < regL s t f.a.toNat 1) :
    Done (.placeFree f) s p t (arrives (s.begun p t) p t f 1 [0xB010]) :=
  done_sys rfl h (by simp only [regL_at]; exact if_pos far)

/-! ### Blocks that stop for the operator (R354, R361) -/

theorem preempt_done :
    Done (.preempt f) s p t ((s.begun p t).stopFor p t f ((s.begun p t).blocks.filter fun b =>
      b.place = .resident && b.core < 256 && (slotsIn (regL s t f.b.toNat 2)).contains (b.core / 4)) none) := by
  refine done_each rfl h ?_
  simp only [regL_at, moved_fg, moved_lane, h.fg]
  rfl
theorem slicesetMove_moves (may : s.movable (regL s t f.a.toNat 1) (regL s t f.b.toNat 1)
      ((s.begun p t).savesAll ((s.begun p t).residents (regL s t f.a.toNat 1))).isSome) :
    let a := s.begun p t
    let x := regL s t f.a.toNat 1
    Done (.slicesetMove f) s p t ((a.setSlotE x { a.slotE x with closed := true }).stopFor p t f (a.residents x)
      (some (x, regL s t f.b.toNat 1))) := by
  refine done_each rfl h ?_
  simp only [regL_at, moved_fg, moved_lane, h.fg]
  exact if_neg (Bool.eq_false_iff.1 ((State.movable_iff ..).1 may))
theorem slicesetMove_refused (not_ : ¬s.movable (regL s t f.a.toNat 1) (regL s t f.b.toNat 1)
      ((s.begun p t).savesAll ((s.begun p t).residents (regL s t f.a.toNat 1))).isSome) :
    Done (.slicesetMove f) s p t (ends (s.begun p t) p t f 1 [0xB010]) := by
  refine done_each rfl h ?_
  simp only [regL_at]
  exact if_pos (Bool.not_eq_false _ ▸ mt (State.movable_iff ..).2 not_)

/-! ### SLICESET (R362) -/

theorem slicesetAssign_takes (named : regL s t f.a.toNat 1 ≤ 63) (free : s.slotUsed (regL s t f.a.toNat 1) = false)
    (rsv : (s.slotE (regL s t f.a.toNat 1)).rsv = none) :
    let a := s.begun p t
    let x := regL s t f.a.toNat 1
    let v := regL s t f.b.toNat 1
    (v.testBit 6 = false → Done (.slicesetAssign f) s p t (arrives (a.setSlotE x { a.slotE x with assigned := false, moving := none }) p t f 1 [0])) ∧
    (v.testBit 6 = true →
      let b := a.setSlotE x { a.slotE x with assigned := false }
      Done (.slicesetAssign f) s p t (arrives (b.setSlotE x { b.slotE x with
        assigned := true, part := v % 64, lslice := b.freeLslice (v % 64), moving := none }) p t f 1 [0])) := by
  have allowed : (decide (63 < regL s t f.a.toNat 1) || s.slotUsed (regL s t f.a.toNat 1) ||
      (s.slotE (regL s t f.a.toNat 1)).rsv.isSome) = false := by simp [named, free, rsv]
  refine ⟨fun away => done_sys rfl h ?_, fun joins => done_sys rfl h ?_⟩
  · simp only [regL_at]
    exact (if_neg (Bool.eq_false_iff.1 allowed)).trans (if_neg (Bool.eq_false_iff.1 away))
  · simp only [regL_at]
    exact (if_neg (Bool.eq_false_iff.1 allowed)).trans (if_pos joins)
theorem slicesetAssign_refused (bad : 63 < regL s t f.a.toNat 1 ∨ s.slotUsed (regL s t f.a.toNat 1) = true ∨
      (s.slotE (regL s t f.a.toNat 1)).rsv ≠ none) :
    Done (.slicesetAssign f) s p t (arrives (s.begun p t) p t f 1 [0xB010]) := by
  have refused : (decide (63 < regL s t f.a.toNat 1) || s.slotUsed (regL s t f.a.toNat 1) ||
      (s.slotE (regL s t f.a.toNat 1)).rsv.isSome) = true := by simpa [or_assoc, Option.isSome_iff_ne_none] using bad
  refine done_sys rfl h ?_
  simp only [regL_at]
  exact if_pos refused
theorem slicesetTarget_sets (named : regL s t f.a.toNat 1 ≤ 63) :
    let a := s.begun p t
    let x := regL s t f.a.toNat 1
    let v := regL s t f.b.toNat 1
    Done (.slicesetTarget f) s p t (arrives (a.setPart x { a.part x with target := Nat.min 64 (v % 128), auto := v.testBit 8 }) p t f 1 [0]) :=
  done_sys rfl h (by simp only [regL_at]; exact if_neg (Nat.not_lt.2 named))
theorem slicesetTarget_refused (far : 63 < regL s t f.a.toNat 1) :
    Done (.slicesetTarget f) s p t (arrives (s.begun p t) p t f 1 [0xB010]) :=
  done_sys rfl h (by simp only [regL_at]; exact if_pos far)
theorem slicesetPool_sets (base : regL s t f.b.toNat 2 % 65536 = 0) (len : regL s t f.c.toNat 2 % 65536 = 0)
    (some_ : 0 < regL s t f.c.toNat 2) (high : 2 ^ 26 ≤ regL s t f.b.toNat 2) :
    let a := s.begun p t
    Done (.slicesetPool f) s p t (arrives { a with sched := { a.sched with
      poolBase := regL s t f.b.toNat 2, poolLen := regL s t f.c.toNat 2 } } p t f 1 [0]) := by
  refine done_sys rfl h ?_
  simp only [regL_at]
  exact if_neg (by simp [base, len]; omega)
theorem slicesetPool_refused (bad : regL s t f.b.toNat 2 % 65536 ≠ 0 ∨ regL s t f.c.toNat 2 % 65536 ≠ 0 ∨ regL s t f.c.toNat 2 = 0 ∨
      regL s t f.b.toNat 2 < 2 ^ 26) :
    Done (.slicesetPool f) s p t (arrives (s.begun p t) p t f 1 [0xB010]) := by
  refine done_sys rfl h ?_
  simp only [regL_at]
  exact if_pos (by simpa [or_assoc] using bad)

end
end Sys2Proof.Machine
end

section
/-! What is claimed of the placement instructions (spec/15_launch.md R354, R360 to R362). -/
namespace Sys2Proof.Machine
open Claim

/-- Settles O39, instruction by instruction: what PLACE.rsv and SLICESET.move require is one condition each (`State.reservable_iff`,
`State.movable_iff`). -/
theorem placement : Obligations.Placement := by
  intro f s p t h
  refine ⟨⟨fun may => placeRsv_reserves h may, fun not_ => placeRsv_refused h not_⟩, placeFree_frees h, placeFree_refused h,
    done_sys rfl h (by simp only [regL_at]; rfl), done_sys rfl h (by simp only [regL_at]; rfl), preempt_done h,
    slicesetAssign_takes h, slicesetAssign_refused h, slicesetTarget_sets h, slicesetTarget_refused h,
    ⟨fun may => slicesetMove_moves h ?_, fun not_ => slicesetMove_refused h ?_⟩, slicesetPool_sets h, slicesetPool_refused h⟩
  · simpa only [State.movable, State.savesAll, State.residents, Option.isSome_iff_exists] using may
  · simpa only [State.movable, State.savesAll, State.residents, Option.isSome_iff_exists] using not_

end Sys2Proof.Machine
end

section
/-! SUPPORT. The pool of nodes: what a change of nodes leaves, and what holds of every node of the pool (spec/15_launch.md R331, R341 to
R343). -/
namespace Sys2Proof.Machine

/-- What each step of a fold leaves, the fold leaves. -/
theorem foldl_leaves {σ α β : Type} (g : σ → β) {f : σ → α → σ} (hf : ∀ s a, g (f s a) = g s) (l : List α) :
    ∀ s, g (l.foldl f s) = g s := by
  induction l with
  | nil => exact fun _ => rfl
  | cons a l ih => exact fun s => (ih (f s a)).trans (hf s a)

/-! ### What a change of nodes leaves -/

/-- `t` is `s` but for the nodes of the pool and for memory and its caches. -/
def State.Repooled (s t : State) : Prop := ∃ pool mem, t = { s with mem := mem, sched := { s.sched with pool := pool } }

section
variable {s t u : State}

theorem State.Repooled.refl (s : State) : s.Repooled s := ⟨s.sched.pool, s.mem, rfl⟩
theorem State.Repooled.trans (h : s.Repooled t) (k : t.Repooled u) : s.Repooled u := by
  obtain ⟨_, _, rfl⟩ := h
  obtain ⟨_, _, rfl⟩ := k
  exact ⟨_, _, rfl⟩
theorem State.Repooled.foldl {α : Type} {f : State → α → State} (hf : ∀ (s : State) a, s.Repooled (f s a)) (l : List α) :
    ∀ s : State, s.Repooled (l.foldl f s) := by
  induction l with
  | nil => exact .refl
  | cons a l ih => exact fun s => (hf s a).trans (ih _)
theorem State.repooled_readyNode (s : State) (n : Node) : s.Repooled (s.readyNode n) := by
  unfold State.readyNode
  split
  · exact ⟨_, _, rfl⟩
  · exact .refl s
theorem State.repooled_dischargeNode (s : State) (id : Nat) (war : Bool) : s.Repooled (s.dischargeNode id war) :=
  .trans ⟨_, s.mem, rfl⟩ (.foldl State.repooled_readyNode _ _)

end

/-! ### The nodes of the pool, by their identities -/

/-- The identities of the nodes of the pool. -/
def State.nodeIds (s : State) : List Nat := s.sched.pool.map (·.id)

theorem State.node?_id {s : State} {id : Nat} {n : Node} (h : s.node? id = some n) : n.id = id := by
  simpa using List.find?_some h
theorem State.node?_mem {s : State} {id : Nat} {n : Node} (h : s.node? id = some n) : id ∈ s.nodeIds :=
  List.mem_map.2 ⟨n, List.mem_of_find?_eq_some h, s.node?_id h⟩
/-- What holds of every node of the pool that bears a number holds of the one that is found by it. -/
theorem State.node?_of_pool {s : State} {P : Node → Prop} {id : Nat} (hi : id ∈ s.nodeIds) (hp : ∀ m ∈ s.sched.pool, m.id = id → P m) :
    ∃ m, s.node? id = some m ∧ P m := by
  obtain ⟨n, hn, e⟩ := List.mem_map.1 hi
  cases hm : s.node? id with
  | none => exact absurd e (by simpa using List.find?_eq_none.1 hm n hn)
  | some m => exact ⟨m, rfl, hp m (List.mem_of_find?_eq_some hm) (s.node?_id hm)⟩
theorem State.nodeIds_setNode (s : State) (n : Node) : (s.setNode n).nodeIds = s.nodeIds := by
  unfold State.nodeIds State.setNode
  rw [List.map_map]
  refine List.map_congr_left fun m _ => ?_
  by_cases e : m.id = n.id
  · simp [e]
  · simp [e]
theorem State.nodeIds_readyNode (s : State) (n : Node) : (s.readyNode n).nodeIds = s.nodeIds := by
  unfold State.readyNode
  split
  · exact s.nodeIds_setNode { n with state := 2 }
  · rfl
theorem State.nodeIds_dischargeNode (s : State) (id : Nat) (war : Bool) : (s.dischargeNode id war).nodeIds = s.nodeIds := by
  unfold State.dischargeNode
  rw [foldl_leaves State.nodeIds State.nodeIds_readyNode]
  simp [State.nodeIds, Function.comp_def]

section
variable {s : State} {P : Node → Prop}

theorem State.pool_setNode {n : Node} (hn : P n) (hs : ∀ m ∈ s.sched.pool, m.id ≠ n.id → P m) : ∀ m ∈ (s.setNode n).sched.pool, P m := by
  intro m hm
  obtain ⟨k, hk, rfl⟩ := List.mem_map.1 hm
  split
  · exact hn
  · exact hs k hk ‹_›
theorem State.pool_foldl_readyNode (ready : ∀ n, P n → P { n with state := 2 }) {l : List Node} (hl : ∀ n ∈ l, P n) :
    ∀ {s : State}, (∀ m ∈ s.sched.pool, P m) → ∀ m ∈ (l.foldl State.readyNode s).sched.pool, P m := by
  induction l with
  | nil => exact fun hs => hs
  | cons n l ih =>
    intro s hs
    refine ih (fun k hk => hl k (.tail _ hk)) ?_
    unfold State.readyNode
    split
    · exact State.pool_setNode (ready n (hl n (.head _))) fun m hm _ => hs m hm
    · exact hs
/-- What holds of the nodes with their edges discharged, and does not turn on their state. -/
theorem State.pool_dischargeNode (ready : ∀ n, P n → P { n with state := 2 }) {id : Nat} {war : Bool}
    (h : ∀ n ∈ s.sched.pool, P { n with edges := n.edges.filter fun e => !(e.1 = id && (war || !e.2)) }) :
    ∀ m ∈ (s.dischargeNode id war).sched.pool, P m := by
  have discharged : ∀ m ∈ s.sched.pool.map fun (n : Node) => { n with edges := n.edges.filter fun e => !(e.1 = id && (war || !e.2)) }, P m := by
    simpa using h
  exact State.pool_foldl_readyNode ready discharged discharged

end
end Sys2Proof.Machine
end

section
/-! SUPPORT. The end of a re-run (spec/20_health.md R411 to R416). -/
namespace Sys2Proof.Machine
open Claim

/-! ### Publication leaves scores, nodes and records -/

theorem State.newMap_leaves (s : State) (us : List (Nat × Nat)) : (s.newMap us).ctl.susp = s.ctl.susp ∧ (s.newMap us).sched = s.sched ∧
    ∃ rs, (s.newMap us).opr.waiting = s.opr.waiting ++ rs := by
  have remapped : (s.remapped us).ctl.susp = s.ctl.susp ∧ (s.remapped us).sched = s.sched ∧
      ∃ rs, (s.remapped us).opr.waiting = s.opr.waiting ++ rs := by
    by_cases h : s.ctl.pubTime = some s.ctl.devTime
    · rw [State.remapped_again us h]; exact ⟨rfl, rfl, [], (List.append_nil _).symm⟩
    · rw [State.remapped_first us h]; exact ⟨rfl, rfl, _, rfl⟩
  rw [State.newMap_eq]
  split <;> exact remapped
theorem State.publish_leaves (s : State) (us : List (Nat × Nat)) : (s.publish us).ctl.susp = s.ctl.susp ∧ (s.publish us).sched = s.sched ∧
    ∃ rs, (s.publish us).opr.waiting = s.opr.waiting ++ rs := by
  unfold State.publish
  dsimp only
  split
  · exact ⟨rfl, rfl, [], (List.append_nil _).symm⟩
  · exact s.newMap_leaves _

/-! ### A run that is over (R411 to R416) -/

/-- What a run had for itself is freed (R412), and it is counted (R116). -/
def State.runFreed (s : State) (n : Node) (c : Cluster) : State := (if n.asid < 1024 then s.countEv n.asid 9 1 else s).endRun n.id c.num
/-- A node with a verdict, and its cluster `c` as `y`. -/
def Node.judged (n : Node) (c y : Cluster) (v : Nat) : Node :=
  { n with verdict := Nat.max n.verdict v, clusters := n.clusters.map fun z => if z.num = c.num then y else z }
/-- The cores on which a run of a cluster has been. -/
def Cluster.coresOf (c : Cluster) (k : Nat) : List Nat := (c.been.filter fun z => z.1 = k).map (·.2)
/-- The verdict and the scores raised; none where the arbiter has still to run. -/
def Cluster.outcome (c : Cluster) : Option (Nat × List (Nat × Nat)) :=
  if c.stage = 1 then (if agree (c.digestOf 0) (c.digestOf 1) then some (2, []) else none)
  else if agree (c.digestOf 0) (c.digestOf 2) then some (3, (c.coresOf 1).map fun k => (k, 1024))
  else if agree (c.digestOf 1) (c.digestOf 2) then some (4, (c.coresOf 0).map fun k => (k, 1024))
  else some (4, ((c.coresOf 0 ++ c.coresOf 1 ++ c.coresOf 2).eraseDups).map fun k => (k, 512))
/-- The arbiter is to run. -/
def State.sendArbiter (x : State) (n : Node) (c : Cluster) : State :=
  let y := x.setNode (n.judged c { c with stage := 2, placed := false, ended := 0, divert := [], buf := [], seq := x.sched.stopSeq } 0)
  { y with sched := { y.sched with stopSeq := x.sched.stopSeq + 1 } }
/-- The cluster has its verdict, with a record where its first run is outvoted or no two agree. -/
def State.withVerdict (x : State) (n : Node) (c : Cluster) (v : Nat) (incs : List (Nat × Nat)) : State :=
  let y := x.setNode (n.judged c { c with stage := 3, divert := [], buf := [] } v)
  if v = 4 then
    let low := ((incs.map (·.1)).min?).getD 0xFFFF
    y.record { die := dieOfCore low, code := 0xA005, asid := n.asid, core := low }
  else y
/-- The scores rise, cores at the threshold leave the map. -/
def State.blamed (y : State) (incs : List (Nat × Nat)) : State := (y.suspect incs).1.publish (y.suspect incs).2
/-- Write-after-read edges wait no longer once every cluster is settled (R411). -/
def State.runSettled (z : State) (id : Nat) : State :=
  match z.node? id with
  | some m => if m.flushed && !m.unsettled then z.dischargeNode m.id true else z
  | none => z
/-- A cluster's present run is over. -/
def State.runOver (s : State) (n : Node) (c : Cluster) : Prop :=
  c.placed = true ∧ c.ended = n.pkt.cshape ∧ ∀ b ∈ s.blocks, b.node = n.id → b.clu ≠ c.num

theorem State.next_runSettled (z : State) (id : Nat) : (.next (z.runSettled id) : Out) =
    match z.node? id with
    | some m => .next (if m.flushed && !m.unsettled then z.dischargeNode m.id true else z)
    | none => .next z := by
  unfold State.runSettled
  cases z.node? id <;> rfl
theorem State.runOver_iff (s : State) (n : Node) (c : Cluster) :
    (!((decide (c.stage = 1) || decide (c.stage = 2)) && c.placed && decide (c.ended = n.pkt.cshape)) ||
      s.blocks.any fun b => decide (b.node = n.id) && decide (b.clu = c.num)) = false ↔
    (c.stage = 1 ∨ c.stage = 2) ∧ s.runOver n c := by
  simp [State.runOver, and_assoc]
  exact fun _ _ _ => or_iff_not_imp_left.symm

section
variable {o : State} {n : Node} {c : Cluster} (hn : o.sweepEnded.node? o.ev.a = some n)
  (hc : n.clusters.find? (fun c => c.num = o.ev.b) = some c)
include hn hc

theorem exec_rerunEnd_early (not_ : ¬o.sweepEnded.runOver n c ∨ (c.stage ≠ 1 ∧ c.stage ≠ 2)) : Happens .rerunEnd o o.sweepEnded := by
  change execRerunEnd o = _
  unfold execRerunEnd
  have ev : o.sweepEnded.ev = o.ev := rfl
  simp only [ev, hn, hc]
  refine if_pos (Bool.not_eq_false _ ▸ fun e => ?_)
  obtain ⟨run, fin⟩ := (State.runOver_iff ..).1 e
  obtain early | idle := not_
  · exact early fin
  · exact run.elim idle.1 idle.2
theorem exec_rerunEnd_over (run : c.stage = 1 ∨ c.stage = 2) (fin : o.sweepEnded.runOver n c) :
    let x := o.sweepEnded.runFreed n c
    exec .rerunEnd o = .next (match c.outcome with
      | none => x.sendArbiter n c
      | some (v, incs) => ((x.withVerdict n c v incs).blamed incs).runSettled n.id) := by
  have on := Bool.eq_false_iff.1 ((State.runOver_iff ..).2 ⟨run, fin⟩)
  change execRerunEnd o = _
  unfold execRerunEnd
  have ev : o.sweepEnded.ev = o.ev := rfl
  simp only [ev, hn, hc]
  rw [if_neg on]
  change (match c.outcome with | none => _ | some (v, incs) => _) = _
  cases c.outcome with
  | none => rfl
  | some r => exact (State.next_runSettled _ _).symm

end

/-! ### What a verdict does -/

theorem State.halve_susp_congr {s t : State} (susp : t.ctl.susp = s.ctl.susp) (time : t.ctl.devTime = s.ctl.devTime)
    (health : t.health = s.health) : t.halve.ctl.susp = s.halve.ctl.susp := by
  simp only [State.halve, susp, time, health]
theorem State.runFreed_leaves (s : State) (n : Node) (c : Cluster) : (s.runFreed n c).ctl.susp = s.ctl.susp ∧
    (s.runFreed n c).ctl.devTime = s.ctl.devTime ∧ (s.runFreed n c).health = s.health := by
  unfold State.runFreed
  split <;> exact ⟨rfl, rfl, rfl⟩
theorem State.runFreed_nodeIds (s : State) (n : Node) (c : Cluster) : (s.runFreed n c).nodeIds = s.nodeIds := by
  have ended (y : State) : (y.endRun n.id c.num).nodeIds = y.nodeIds := by
    simp only [State.nodeIds, State.endRun, State.modCluster, List.map_map]
    refine List.map_congr_left fun m _ => ?_
    simp only [Function.comp]
    split <;> rfl
  unfold State.runFreed
  rw [ended]
  split <;> rfl

section
variable (x : State) (n : Node) (c : Cluster) (v : Nat) (incs : List (Nat × Nat))

/-- The state after a verdict. -/
def State.afterVerdict : State := ((x.withVerdict n c v incs).blamed incs).runSettled n.id

theorem State.withVerdict_leaves : (x.withVerdict n c v incs).ctl = x.ctl ∧ (x.withVerdict n c v incs).health = x.health ∧
    (x.withVerdict n c v incs).sched = (x.setNode (n.judged c { c with stage := 3, divert := [], buf := [] } v)).sched := by
  unfold State.withVerdict
  dsimp only
  split <;> exact ⟨rfl, rfl, rfl⟩
theorem State.repooled_runSettled (z : State) (id : Nat) : z.Repooled (z.runSettled id) := by
  unfold State.runSettled
  split
  · split
    · exact z.repooled_dischargeNode ..
    · exact .refl z
  · exact .refl z
theorem State.nodeIds_runSettled (z : State) (id : Nat) : (z.runSettled id).nodeIds = z.nodeIds := by
  unfold State.runSettled
  split
  · split
    · exact z.nodeIds_dischargeNode ..
    · rfl
  · rfl
/-- The scores rise by what the verdict says, on those that the halvings of the past have left. -/
theorem State.afterVerdict_susp : (x.afterVerdict n c v incs).ctl.susp =
    incs.foldl (fun l i => l.modify i.1 fun v => Nat.min (v + i.2) 65535) x.halve.ctl.susp := by
  obtain ⟨ctl, health, _⟩ := x.withVerdict_leaves n c v incs
  obtain ⟨_, _, e⟩ := State.repooled_runSettled ((x.withVerdict n c v incs).blamed incs) n.id
  rw [State.afterVerdict, e, ← State.halve_susp_congr (congrArg _ ctl) (congrArg _ ctl) health]
  exact (State.publish_leaves _ _).1
/-- Where the first run is outvoted or no two agree, a record names a core. -/
theorem State.afterVerdict_record : ∃ r ∈ (x.afterVerdict n c 4 incs).opr.waiting, r.code = 0xA005 := by
  let y := x.withVerdict n c 4 incs
  obtain ⟨_, _, e⟩ := State.repooled_runSettled (y.blamed incs) n.id
  obtain ⟨_, _, rs, waiting⟩ := State.publish_leaves (y.suspect incs).1 (y.suspect incs).2
  have kept : (y.blamed incs).opr.waiting = y.opr.waiting ++ rs := waiting
  rw [State.afterVerdict, e]
  dsimp only
  rw [kept]
  exact ⟨_, List.mem_append_left _ (List.mem_append_right _ (.head _)), rfl⟩
theorem State.afterVerdict_node (hi : n.id ∈ x.nodeIds) :
    ∃ m, (x.afterVerdict n c v incs).node? n.id = some m ∧ m.verdict = Nat.max n.verdict v := by
  let z := (x.withVerdict n c v incs).blamed incs
  let k := n.judged c { c with stage := 3, divert := [], buf := [] } v
  have sched : z.sched = (x.setNode k).sched := (State.publish_leaves _ _).2.1.trans (x.withVerdict_leaves n c v incs).2.2
  have ids : z.nodeIds = x.nodeIds := (congrArg (fun y => y.pool.map (·.id)) sched).trans (x.nodeIds_setNode k)
  have judged : ∀ m ∈ z.sched.pool, m.id = n.id → m.verdict = Nat.max n.verdict v := by
    rw [sched]
    exact State.pool_setNode (n := k) (fun _ => rfl) fun m _ other same => absurd same other
  refine State.node?_of_pool (by rw [State.afterVerdict, State.nodeIds_runSettled, ids]; exact hi) ?_
  unfold State.afterVerdict State.runSettled
  split
  · split
    · exact State.pool_dischargeNode (fun _ h => h) judged
    · exact judged
  · exact judged

end
end Sys2Proof.Machine
end

section
/-! What is claimed of re-runs (spec/20_health.md R411 to R416). -/
namespace Sys2Proof.Machine
open Claim

/-- Settles O51: a run that is over has an outcome (`Cluster.outcome`), and a verdict raises the scores that it says
(`State.afterVerdict_susp`), with a record (`State.afterVerdict_record`), and stands in its node (`State.afterVerdict_node`). -/
theorem rerunVerdicts : Obligations.RerunVerdicts := by
  intro o n c s hn hc
  let x := s.runFreed n c
  have scores : x.halve.ctl.susp = s.halve.ctl.susp := by
    obtain ⟨susp, time, health⟩ := s.runFreed_leaves n c
    exact State.halve_susp_congr susp time health
  refine ⟨fun fin h1 apart => ?arbiter, fun fin h1 alike => ?agreed, fun fin h2 => ?arbitrated, exec_rerunEnd_early hn hc⟩
  case arbiter =>
    have out : c.outcome = none := by simp [Cluster.outcome, h1, apart]
    have run := exec_rerunEnd_over hn hc (.inl h1) fin
    rw [out] at run
    exact run
  case agreed =>
    have out : c.outcome = some (2, []) := by simp [Cluster.outcome, h1, alike]
    have run := exec_rerunEnd_over hn hc (.inl h1) fin
    rw [out] at run
    have listed : n.id ∈ x.nodeIds := by
      rw [s.runFreed_nodeIds, s.node?_id hn]
      exact s.node?_mem hn
    exact ⟨x.afterVerdict n c 2 [], run, (x.afterVerdict_susp n c 2 []).trans scores, x.afterVerdict_node n c 2 [] listed⟩
  case arbitrated =>
    have other : ¬c.stage = 1 := by omega
    have run := exec_rerunEnd_over hn hc (.inr h2) fin
    have after {v : Nat} {incs : List (Nat × Nat)} (out : c.outcome = some (v, incs)) :
        Happens .rerunEnd o (x.afterVerdict n c v incs) ∧ (x.afterVerdict n c v incs).ctl.susp =
          incs.foldl (fun l i => l.modify i.1 fun v => Nat.min (v + i.2) 65535) s.halve.ctl.susp := by
      rw [out] at run
      exact ⟨run, scores ▸ x.afterVerdict_susp n c v incs⟩
    by_cases h02 : agree (c.digestOf 0) (c.digestOf 2) = true
    · obtain ⟨happens, susp⟩ := after (v := 3) (by rw [Cluster.outcome, if_neg other, if_pos h02])
      refine ⟨_, happens, ?_⟩
      dsimp only
      rw [if_pos h02]
      exact susp
    by_cases h12 : agree (c.digestOf 1) (c.digestOf 2) = true
    · obtain ⟨happens, susp⟩ := after (v := 4) (by rw [Cluster.outcome, if_neg other, if_neg h02, if_pos h12])
      refine ⟨_, happens, ?_⟩
      dsimp only
      rw [if_neg h02, if_pos h12]
      exact ⟨susp, x.afterVerdict_record n c _⟩
    · obtain ⟨happens, susp⟩ := after (v := 4) (by rw [Cluster.outcome, if_neg other, if_neg h02, if_neg h12])
      refine ⟨_, happens, ?_⟩
      dsimp only
      rw [if_neg h02, if_neg h12]
      exact ⟨susp, x.afterVerdict_record n c _⟩

end Sys2Proof.Machine
end

section
/-! SUPPORT. What a write leaves: everything but memory with its caches and keys, the links, and the counters of fresh values and
identities; a store also notes itself in the clusters of the pool (spec/08_memory.md R197, R205, R210; spec/20_health.md R412). -/
namespace Sys2Proof.Machine

/-! ### But for memory, links and counters -/

/-- `t` is `s` but for memory, the links and the counters of fresh values and identities. -/
def State.Wrote (s t : State) : Prop :=
  ∃ mem links fresh uid, t = { s with mem := mem, links := links, fresh := fresh, uid := uid }

section
variable {s t u : State}

theorem State.Wrote.refl (s : State) : s.Wrote s := ⟨s.mem, s.links, s.fresh, s.uid, rfl⟩
theorem State.Wrote.trans (h : s.Wrote t) (k : t.Wrote u) : s.Wrote u := by
  obtain ⟨_, _, _, _, rfl⟩ := h
  obtain ⟨_, _, _, _, rfl⟩ := k
  exact ⟨_, _, _, _, rfl⟩
theorem State.Wrote.foldl {α : Type} {f : State → α → State} (hf : ∀ (s : State) a, s.Wrote (f s a)) (l : List α) :
    ∀ s : State, s.Wrote (l.foldl f s) := by
  induction l with
  | nil => exact .refl
  | cons a l ih => exact fun s => (hf s a).trans (ih _)
theorem State.Wrote.foldl_fst {α β : Type} {f : State × β → α → State × β} (hf : ∀ (x : State × β) a, x.1.Wrote (f x a).1) (l : List α) :
    ∀ x : State × β, x.1.Wrote (l.foldl f x).1 := by
  induction l with
  | nil => exact fun x => .refl x.1
  | cons a l ih => exact fun x => (hf x a).trans (ih _)
theorem State.Wrote.ite {c : Prop} [Decidable c] (h : s.Wrote t) (k : s.Wrote u) : s.Wrote (if c then t else u) := by
  split
  · exact h
  · exact k

end

/-- A change of memory alone, of the links alone. -/
theorem State.wrote_mem (s : State) (mem : MemSys) : s.Wrote { s with mem := mem } := ⟨mem, s.links, s.fresh, s.uid, rfl⟩
theorem State.wrote_links (s : State) (links : Links) : s.Wrote { s with links := links } := ⟨s.mem, links, s.fresh, s.uid, rfl⟩

section
variable (s : State)

/-! ### Links (R376 to R381) -/

theorem State.wrote_setPort (n : Nat) (p : LinkPort) : s.Wrote (s.setPort n p) := s.wrote_links _
theorem State.wrote_putWire (n : Nat) (fs : List Flit) : s.Wrote (s.putWire n fs) := .foldl (fun s _ => s.wrote_setPort n _) fs s
theorem State.wrote_sendFlit (n fk : Nat) (b : List Byte) : s.Wrote (s.sendFlit n fk b) := by
  have sent := s.wrote_setPort n ((s.port n).send s.ctl.devTime fk b)
  exact .ite (sent.trans (State.wrote_putWire _ n _)) sent
theorem State.wrote_sendSlots (plane dst : Nat) (tx : List Byte) : s.Wrote (s.sendSlots plane dst tx) := by
  refine .ite (s.wrote_links _) (.trans ?_ (State.wrote_sendFlit _ plane 1 tx))
  exact .ite (s.wrote_setPort plane _) (.refl s)
theorem State.wrote_sendLate : s.Wrote s.sendLate :=
  (s.wrote_links { s.links with late := [] }).trans (.foldl (fun s e => s.wrote_sendSlots e.1 e.2.1 e.2.2) s.links.late _)
theorem State.wrote_setTxWin (w : TxWin) : s.Wrote (s.setTxWin w) := s.wrote_links _
theorem State.wrote_closeWin (w : TxWin) : s.Wrote (s.closeWin w) :=
  .ite (.refl s) ((s.wrote_sendSlots w.plane w.dst _).trans (State.wrote_setTxWin _ _))
theorem State.wrote_sendTx (plane dst : Nat) (tx : List Byte) : s.Wrote (s.sendTx plane dst tx) :=
  have sent := s.wrote_sendSlots plane dst tx
  .ite sent (.ite (sent.trans (State.wrote_closeWin _ _)) (sent.trans (State.wrote_setTxWin _ _)))
theorem State.wrote_sendReqTx (plane : Nat) (q : OutReq) : s.Wrote (s.sendReqTx plane q) :=
  (s.wrote_links _).trans (State.wrote_sendTx _ plane q.rank (s.reqTx q))
theorem State.wrote_pump : s.Wrote s.pump := by
  unfold State.pump
  refine s.wrote_sendLate.trans (.foldl_fst (fun x q => ?_) _ (s.sendLate, []))
  dsimp only
  split
  · exact .refl x.1
  · split
    · exact x.1.wrote_sendReqTx _ q
    · exact .refl x.1
theorem State.wrote_pushOut (q : OutReq) : s.Wrote (s.pushOut q) := (s.wrote_links _).trans (State.wrote_pump _)

/-! ### Blocks (R203 to R207) -/

theorem State.wrote_newUid : s.Wrote s.newUid.2 := ⟨s.mem, s.links, s.fresh, s.uid + 1, rfl⟩
theorem State.wrote_parDelta (asid : Nat) (l : Leaf) (va : Nat) (old new : List Byte) : s.Wrote (s.parDelta asid l va old new) :=
  .ite (.refl s) (s.wrote_newUid.trans (State.wrote_pushOut _ _))
theorem State.wrote_poke (a : Nat) (bs : List Byte) : s.Wrote (s.poke a bs) := s.wrote_mem _
theorem State.wrote_setDirty (p : Nat) : s.Wrote (s.setDirty p) := .ite (.refl s) (s.wrote_poke _ _)
theorem State.wrote_sweepRaw (p : Nat) : s.Wrote (s.sweepRaw p) := .ite ((s.wrote_mem _).trans (State.wrote_setDirty _ p)) (.refl s)
theorem State.wrote_markDirty (pa : Nat) : s.Wrote (s.markDirty pa) :=
  ((s.wrote_sweepRaw _).trans (State.wrote_sweepRaw _ _)).trans (State.wrote_setDirty _ _)
theorem State.wrote_putBlock (delta : Bool) (asid : Nat) (l : Leaf) (va pa : Nat) (new : List Byte) :
    s.Wrote (s.putBlock delta asid l va pa new) := (s.wrote_poke pa _).trans (State.wrote_parDelta _ asid l va _ new)
theorem State.wrote_sweep (asid : Nat) (l : Leaf) (va pa : Nat) : s.Wrote (s.sweep asid l va pa) := by
  unfold State.sweep
  generalize List.range 4096 = r
  exact ((s.wrote_mem _).trans (.foldl (fun s _ => s.wrote_putBlock ..) r _)).trans (State.wrote_markDirty _ pa)
theorem State.wrote_ctlWrite (asid : Nat) (l : Leaf) (va pa : Nat) (w : List (Option Byte)) (delta : Bool) :
    s.Wrote (s.ctlWrite asid l va pa w delta).1 := by
  unfold State.ctlWrite
  dsimp only
  split
  · exact .refl s
  · have swept : s.Wrote (if s.scrubPending pa = true then s.sweep asid l va pa else s) := .ite (s.wrote_sweep asid l va pa) (.refl s)
    exact ((swept.trans (State.wrote_putBlock ..)).trans (State.wrote_mem _ _)).trans (State.wrote_markDirty _ pa)
theorem State.wrote_hwWrite (n : Nat) : ∀ (s : State) (a : Nat) (bs : List Byte), s.Wrote (s.hwWrite n a bs) := by
  induction n with
  | zero => exact fun s _ _ => .refl s
  | succ n ih => exact fun s a bs => .ite (.refl s) ((s.wrote_ctlWrite ..).trans (ih _ _ _))

/-! ### Caches (R197) and sync storage (R246) -/

theorem State.wrote_wbSliceLine (x : Line) : s.Wrote (s.wbSliceLine x) :=
  .foldl (fun s _ => .ite (.refl s) (s.wrote_ctlWrite ..)) _ s
theorem State.wrote_putSlice (x : Line) : s.Wrote (s.putSlice x) := by
  refine .ite (s.wrote_mem _) ?_
  split
  · exact s.wrote_mem _
  · exact (s.wrote_wbSliceLine _).trans (State.wrote_mem _ _)
theorem State.wrote_wbL1Line (x : Line) : s.Wrote (s.wbL1Line x) := .ite (.refl s) (s.wrote_putSlice _)
theorem State.wrote_putL1 (x : Line) : s.Wrote (s.putL1 x) := by
  refine .ite (s.wrote_mem _) ?_
  split
  · exact .refl s
  · exact (s.wrote_wbL1Line _).trans (State.wrote_mem _ _)
theorem State.wrote_cacheWrite (eng : Bool) (core asid : Nat) (l : Leaf) (va pa : Nat) (bs : List Byte) :
    s.Wrote (s.cacheWrite eng core asid l va pa bs) :=
  .trans (.ite (s.wrote_putSlice _) (s.wrote_putL1 _)) (State.wrote_markDirty _ pa)
/-- The caches of a context are written back, and the scheduler keeps all that it has. -/
theorem State.wrote_writeBackAll (asid : Nat) (k : Line → Bool) : s.Wrote (s.writeBackAll asid k) := by
  unfold State.writeBackAll
  exact (((Wrote.foldl State.wrote_wbL1Line _ s).trans (State.wrote_mem _ _)).trans (.foldl State.wrote_wbSliceLine _ _)).trans
    (State.wrote_mem _ _)
theorem State.wrote_wbSram (x : SramLine) : s.Wrote (s.wbSram x) := .foldl (fun s _ => s.wrote_ctlWrite ..) _ s
theorem State.wrote_putSram (x : SramLine) : s.Wrote (s.putSram x) := by
  refine .ite (s.wrote_mem _) ?_
  split
  · exact .refl s
  · exact .trans (.ite (s.wrote_wbSram _) (.refl s)) (State.wrote_mem _ _)
theorem State.wrote_sramPart (asid : Nat) (l : Leaf) (d o : Nat) : s.Wrote (s.sramPart asid l d o) := by
  unfold State.sramPart
  split
  · exact .refl s
  · exact .trans (.ite (s.wrote_wbSram _) (.refl s)) (State.wrote_mem _ _)
theorem State.wrote_syncWrite (asid : Nat) (l : Leaf) (va d o : Nat) (bs : List Byte) : s.Wrote (s.syncWrite asid l va d o bs).1 := by
  have parted := s.wrote_sramPart asid l d o
  unfold State.syncWrite
  dsimp only
  split
  · exact (parted.trans (State.wrote_putSram _ _)).trans (State.wrote_markDirty _ _)
  · exact parted

/-! ### Translation and the checks (R200, R210) -/

theorem State.wrote_putTlb (e : Tlb) (cap : Nat) : s.Wrote (s.putTlb e cap) := s.wrote_mem _
theorem State.wrote_translate (core asid va : Nat) : s.Wrote (s.translate core asid va).1 := by
  unfold State.translate
  dsimp only
  split
  · exact .refl s
  · split
    · exact .ite (.refl s) (s.wrote_putTlb ..)
    · split
      · refine .trans (.ite (.refl s) (s.wrote_putTlb ..)) (.ite (.refl _) (State.wrote_putTlb ..))
      · exact .refl s
theorem State.wrote_locate (core asid : Nat) (w : Want) (ps : List (Nat × Nat)) : s.Wrote (s.locate core asid w ps).1 := by
  unfold State.locate
  split
  · exact .refl s
  · refine .foldl_fst (fun x p => ?_) ps (s, Except.ok [])
    obtain ⟨y, e⟩ := x
    cases e with
    | error e => exact .refl y
    | ok l =>
      dsimp only
      split
      · exact .refl y
      · exact .refl y
      · rename_i va _
        have found := y.wrote_translate core asid va
        split
        · rename_i e; rw [e] at found; exact found
        · rename_i e; rw [e] at found; split <;> exact found
theorem State.wrote_ensureKey (asid : Nat) (l : Leaf) : s.Wrote (s.ensureKey asid l) := .ite (.refl s) ⟨_, s.links, _, s.uid, rfl⟩
theorem State.wrote_checkParts (core asid : Nat) (w : Want) (l : List (Nat × Nat)) : s.Wrote (s.checkParts core asid w l).1 := by
  have found := s.wrote_locate core asid w l
  unfold State.checkParts
  split
  · rename_i e; rw [e] at found; exact found
  · rename_i t ps e
    rw [e] at found
    split
    · exact found
    · have keyed := found.trans (.foldl (f := fun (s : State) (p : Piece) =>
        if p.leaf.raw || p.peer.isSome || p.leaf.kind = 1 then s else s.ensureKey asid p.leaf)
        (fun s p => .ite (.refl s) (s.wrote_ensureKey asid p.leaf)) ps t)
      dsimp only
      split <;> exact keyed
theorem State.wrote_check (core asid : Nat) (w : Want) (ea n : Nat) : s.Wrote (s.check core asid w ea n).1 := s.wrote_checkParts core asid w _

/-! ### Portions (R210, R214) -/

theorem State.wrote_atcFill (core bus : Nat) : s.Wrote (s.atcFill core bus) := .ite (.refl s) (s.wrote_links _)
theorem State.wrote_hostWrite (a : Nat) (bs : List Byte) : s.Wrote (s.hostWrite a bs) := s.wrote_mem _
theorem State.wrote_rootStore (pa : Nat) : s.Wrote (s.rootStore pa) := .ite (s.wrote_mem _) (.ite (s.wrote_mem _) (.refl s))
theorem State.wrote_writePiece (eng : Bool) (core asid : Nat) (p : Piece) (bs : List Byte) : s.Wrote (s.writePiece eng core asid p bs) := by
  unfold State.writePiece
  split
  · exact (s.wrote_atcFill core p.pa).trans (State.wrote_hostWrite _ p.pa bs)
  · exact s.wrote_syncWrite ..
  · exact .ite ((s.wrote_ctlWrite ..).trans (State.wrote_rootStore _ p.pa)) (s.wrote_cacheWrite ..)
theorem State.wrote_writePieces (eng : Bool) (core asid : Nat) (ps : List Piece) (bs : List Byte) :
    s.Wrote (s.writePieces eng core asid ps bs).1 := by
  unfold State.writePieces
  split
  · exact .refl s
  · exact .foldl_fst (fun x p => x.1.wrote_writePiece eng core asid p _) ps (s, bs)
theorem State.wrote_sealTo (rs : List (Nat × Nat)) : s.Wrote (s.sealTo rs) :=
  .trans ⟨s.mem, s.links, s.fresh + 1, s.uid, rfl⟩ (.foldl (fun s _ => s.wrote_hwWrite ..) rs _)

end

/-! ### But for that, and the nodes of the pool -/

/-- `t` is `s` but for memory, the links, the counters and the nodes of the pool. -/
def State.Noted (s t : State) : Prop :=
  ∃ mem links fresh uid pool, t = { s with mem := mem, links := links, fresh := fresh, uid := uid, sched := { s.sched with pool := pool } }

section
variable {s t u : State}

theorem State.Wrote.noted (h : s.Wrote t) : s.Noted t := by
  obtain ⟨_, _, _, _, rfl⟩ := h
  exact ⟨_, _, _, _, s.sched.pool, rfl⟩
theorem State.Repooled.noted (h : s.Repooled t) : s.Noted t := by
  obtain ⟨_, _, rfl⟩ := h
  exact ⟨_, s.links, s.fresh, s.uid, _, rfl⟩
theorem State.Noted.trans (h : s.Noted t) (k : t.Noted u) : s.Noted u := by
  obtain ⟨_, _, _, _, _, rfl⟩ := h
  obtain ⟨_, _, _, _, _, rfl⟩ := k
  exact ⟨_, _, _, _, _, rfl⟩
theorem State.Noted.refl (s : State) : s.Noted s := (Wrote.refl s).noted

end

section
variable (s : State)

theorem State.noted_modCluster (node clu : Nat) (f : Node → Cluster → Cluster) : s.Noted (s.modCluster node clu f) :=
  ⟨s.mem, s.links, s.fresh, s.uid, _, rfl⟩
theorem State.noted_growBuf (blk : Nat) (ps : List Piece) : s.Noted (s.growBuf blk ps) := by
  unfold State.growBuf
  split
  · exact .refl s
  · split
    · exact .refl s
    · exact (s.noted_modCluster ..).trans (State.wrote_sealTo _ _).noted
theorem State.noted_noteWrite (blk : Nat) (ps : List Piece) (bs : List Byte) : s.Noted (s.noteWrite blk ps bs) := by
  unfold State.noteWrite
  split
  · exact .refl s
  · split
    · exact .refl s
    · exact s.noted_modCluster ..
theorem State.noted_store (eng : Bool) (core asid blk ea : Nat) (bs : List Byte) : s.Noted (s.store eng core asid blk ea bs).1 := by
  have checked := (s.wrote_check core asid .wr ea bs.length).noted
  unfold State.store
  split
  · rename_i e; rw [e] at checked; exact checked
  · rename_i t ps e
    rw [e] at checked
    split
    · exact checked
    · split
      · exact checked
      · split
        · split
          · exact checked
          · split
            · exact (checked.trans (State.noted_growBuf ..)).trans (State.noted_noteWrite ..)
            · exact checked
        · split
          · exact checked
          · have written := checked.trans (t.wrote_writePieces eng core asid ps bs).noted
            split
            · rename_i e; rw [e] at written; exact written.trans (State.noted_noteWrite ..)
            · exact written

/-! ### Records to a ring (R119, R393) -/

theorem State.noted_setVf (v : Vf) : s.Noted (s.setVf v) := (s.wrote_links _).noted
theorem State.noted_writeEvent (v : Vf) (rec : List Byte) : s.Noted (s.writeEvent v rec) := by
  have stored := s.noted_store false 256 v.asid 0 (v.evrBase + 32 * (v.evrTail % 2 ^ v.evrLog)) rec
  unfold State.writeEvent
  dsimp only
  split
  · exact (s.wrote_hostWrite _ rec).noted.trans (State.noted_setVf _ _)
  · split
    · rename_i e; rw [e] at stored; exact stored.trans (State.noted_setVf _ _)
    · rename_i t r e
      rw [e] at stored
      exact (stored.trans (t.wrote_newUid.trans (State.wrote_pushOut _ _)).noted).trans (State.noted_setVf _ _)
    · rename_i t e; rw [e] at stored; exact stored.trans (t.wrote_links _).noted
    · rename_i e; rw [e] at stored; exact stored.trans (State.noted_setVf _ _)
theorem State.noted_post (v : Option Vf) (rec : List Byte) : s.Noted (s.post v rec).1 := by
  unfold State.post
  split
  · exact .refl s
  · split
    · exact .refl s
    · split
      · exact s.noted_setVf _
      · split
        · exact .refl s
        · exact s.noted_writeEvent _ rec

end
end Sys2Proof.Machine
end

section
/-! SUPPORT. Tags, nodes that are done, and the queues (spec/15_launch.md R338 to R345). -/
namespace Sys2Proof.Machine
open Claim

/-! ### Tags (R345) -/

section
variable {s : State} {part tag : Nat}

/-- A partition's entry with a tag set. -/
def PartEntry.tagged (e : PartEntry) (tag : Nat) : PartEntry := { e with tags := if e.tags.contains tag then e.tags else e.tags ++ [tag] }

theorem PartEntry.mem_tagged (e : PartEntry) (tag : Nat) : tag ∈ (e.tagged tag).tags := by
  unfold PartEntry.tagged
  split
  · rename_i has; exact List.contains_iff_mem.1 has
  · exact List.mem_append_right _ (.head _)
theorem State.part_setPart (there : part < s.sched.parts.length) (e : PartEntry) : (s.setPart part e).part part = e := by
  simp [State.part, State.setPart, List.getD_eq_getElem?_getD, there]
/-- A tag that is set: its partition has it, and nodes that named it are ready. -/
theorem State.setTag_repooled (t0 : tag ≠ 0) (t1 : tag ≤ 4095) :
    (s.setPart part ((s.part part).tagged tag)).Repooled (s.setTag part tag) := by
  have named : ¬((decide (tag = 0) || decide (4095 < tag)) = true) := by simp; omega
  unfold State.setTag
  rw [if_neg named]
  exact .trans ⟨_, _, rfl⟩ (.foldl State.repooled_readyNode _ _)
theorem State.mem_setTag (t0 : tag ≠ 0) (t1 : tag ≤ 4095) (there : part < s.sched.parts.length) : tag ∈ ((s.setTag part tag).part part).tags := by
  obtain ⟨_, _, e⟩ := s.setTag_repooled (part := part) t0 t1
  rw [e]
  exact State.part_setPart there _ ▸ PartEntry.mem_tagged _ tag
theorem State.setTag_leaves (s : State) (part tag : Nat) : (s.setTag part tag).ev = s.ev ∧ (s.setTag part tag).sched.evq = s.sched.evq := by
  by_cases named : tag = 0 ∨ 4095 < tag
  · have out : s.setTag part tag = s := if_pos (by simpa using named)
    exact ⟨congrArg State.ev out, congrArg (·.sched.evq) out⟩
  · obtain ⟨_, _, e⟩ := s.setTag_repooled (part := part) (tag := tag) (by omega) (by omega)
    rw [e]
    exact ⟨rfl, rfl⟩

end

/-! ### A node that is done (R342, R344) -/

section
variable {s : State} {e : EvqEntry} {n : Node}

theorem State.noted_freeNode (s : State) (id : Nat) : s.Noted (s.freeNode id) :=
  .trans ⟨s.mem, s.links, s.fresh, s.uid, _, rfl⟩ (State.repooled_dischargeNode _ id true).noted
/-- No node of the pool is the freed one, or waits for it. -/
theorem State.pool_freeNode (s : State) (id : Nat) : ∀ m ∈ (s.freeNode id).sched.pool, m.id ≠ id ∧ ∀ x ∈ m.edges, x.1 ≠ id := by
  refine State.pool_dischargeNode (fun _ h => h) fun m hm => ⟨?other, fun x hx => ?edge⟩
  case other => simpa using (List.mem_filter.1 hm).2
  case edge => simpa using (List.mem_filter.1 hx).2
/-- Step 4 of R344: the tag, the record, and the node's place in the pool. -/
theorem State.evqStep_posted (hn : s.node? e.node = some n) (posted : n.posted = true) :
    ∃ u, (s.setTag e.part e.signal).Noted u ∧ s.evqStep e = u.freeNode e.node := by
  unfold State.evqStep
  simp only [hn, posted, Bool.not_true, Bool.false_eq_true, if_false]
  split
  · exact ⟨_, State.noted_post .., rfl⟩
  · exact ⟨_, .refl _, rfl⟩
theorem State.evqStep_leaves (s : State) (e : EvqEntry) : (s.evqStep e).ev = s.ev ∧ (s.evqStep e).sched.evq = s.sched.evq := by
  cases hn : s.node? e.node with
  | none => simp [State.evqStep, hn]
  | some n =>
    by_cases posted : n.posted = true
    · obtain ⟨u, noted, run⟩ := State.evqStep_posted hn posted
      obtain ⟨_, _, _, _, _, freed⟩ := noted.trans (u.noted_freeNode e.node)
      rw [run, freed]
      exact s.setTag_leaves e.part e.signal
    · simp [State.evqStep, hn, posted]
/-- What step 4 of R344 does for an entry of a node. -/
theorem State.evqStep_done (hn : s.node? e.node = some n) (posted : n.posted = true) :
    (1 ≤ e.signal → e.signal ≤ 4095 → e.part < s.sched.parts.length → e.signal ∈ ((s.evqStep e).part e.part).tags) ∧
    (s.evqStep e).node? e.node = none ∧ ∀ m ∈ (s.evqStep e).sched.pool, ∀ x ∈ m.edges, x.1 ≠ e.node := by
  obtain ⟨u, noted, run⟩ := State.evqStep_posted hn posted
  have pool := u.pool_freeNode e.node
  rw [run]
  refine ⟨fun s1 s2 there => ?_, List.find?_eq_none.2 fun m hm => by simpa using (pool m hm).1, fun m hm => (pool m hm).2⟩
  obtain ⟨_, _, _, _, _, freed⟩ := noted.trans (u.noted_freeNode e.node)
  rw [freed]
  exact State.mem_setTag (by omega) s2 there

end

/-- The state after a read of the event queue: its head is popped where the firmware of C0 reads (R345). -/
def State.evqPopped (s : State) : State := { (s.evqRead (s.ev.a = 0)).1 with ev := { s.ev with data := (s.evqRead (s.ev.a = 0)).2 } }

/-- An entry is popped. -/
def State.popsEvq (s : State) (e : EvqEntry) : Prop := s.ev.a = 0 ∧ ∃ r, s.sched.evq = e :: r

theorem exec_evqRead_pops {s : State} {e : EvqEntry} (pops : s.popsEvq e) : exec .evqRead s = .next (s.evqPopped.evqStep e) := by
  obtain ⟨core, r, head⟩ := pops
  change execEvqRead s = _
  unfold execEvqRead
  simp only [head, if_pos core]
  rfl
theorem exec_evqRead_keeps {s : State} (keeps : ∀ e, ¬s.popsEvq e) : exec .evqRead s = .next s.evqPopped := by
  change execEvqRead s = _
  unfold execEvqRead
  cases head : s.sched.evq with
  | nil => rfl
  | cons e r =>
    simp only [if_neg fun core => keeps e ⟨core, r, head⟩]
    rfl
/-- What a read of the event queue leaves in the operand, and of the queue. -/
theorem State.evqPopped_leaves (s : State) : (s.evqPopped.ev.data = match s.sched.evq with | e :: _ => e.bytes | [] => List.replicate 16 0) ∧
    s.evqPopped.sched.evq = (if s.ev.a = 0 then s.sched.evq.drop 1 else s.sched.evq) ∧
    s.evqPopped.sched.pool = s.sched.pool ∧ s.evqPopped.sched.parts = s.sched.parts := by
  unfold State.evqPopped State.evqRead
  cases h : s.sched.evq with
  | nil => simp [h]
  | cons e r => by_cases core : s.ev.a = 0 <;> simp [core, h]

/-! ### Queues (R333, R338 to R340) -/

section
variable {s : State} {q : Queue}

theorem exec_qtailWrite_at (at_ : s.ev.b % 16 = 8) (hq : s.doorbell s.ev.a (s.ev.b / 16) = some q) :
    exec .qtailWrite s = .next (if (s.ev.v.toNat % 2 ^ 32 + 2 ^ 32 - q.head) % 2 ^ 32 ≤ 2 ^ q.logn
      then s.setQueue { q with tail := s.ev.v.toNat % 2 ^ 32 } else s) := by
  change execQtailWrite s = _
  unfold execQtailWrite
  rw [if_pos at_, hq]
theorem exec_qtailWrite_none (hq : s.ev.b % 16 ≠ 8 ∨ s.doorbell s.ev.a (s.ev.b / 16) = none) : exec .qtailWrite s = .next s := by
  have no : (if s.ev.b % 16 = 8 then s.doorbell s.ev.a (s.ev.b / 16) else none) = none := by
    split
    · exact hq.resolve_left (not_not.2 ‹_›)
    · rfl
  change execQtailWrite s = _
  unfold execQtailWrite
  rw [no]
theorem exec_qctlWrite (hq : s.queue? s.ev.a = some q) :
    exec .qctlWrite s = .next (if s.health.novig = true then s else s.setQueue (q.ctlWrite s.ev.v.toNat)) := by
  change execQctlWrite s = _
  unfold execQctlWrite
  rw [hq]
  cases s.health.novig <;> rfl

theorem Queue.ctlWrite_on (q : Queue) {v : Nat} (on : q.en = true) : q.ctlWrite v = { q with err := bits v 16 16, en := bit v 0 } := by
  simp [Queue.ctlWrite, on]
theorem Queue.ctlWrite_off (q : Queue) {v : Nat} (off : q.en = false) : q.ctlWrite v = { q with
    err := bits v 16 16, en := bit v 0, asid := bits v 48 10, ld := bits v 40 1, vf := bits v 32 8, prio := bits v 1 2
    logn := if 4 ≤ bits v 8 4 ∧ bits v 8 4 ≤ 12 then bits v 8 4 else q.logn } := by
  simp [Queue.ctlWrite, off]

/-- The read of a packet from its queue. -/
def State.headRead (s : State) (q : Queue) : State × Except (Option Nat) (List Byte) :=
  s.schedRead q.asid (q.base + 256 * (q.head % 2 ^ q.logn)) 256
/-- The partition of a context. -/
def State.partOfCtx (s : State) (asid : Nat) : Nat := ((s.ctx? asid).map (·.part)).getD 0
/-- A queue has a packet for the scheduler, and the pool has room for its node. -/
def State.takes (s : State) (q : Queue) : Prop := q.en = true ∧ q.err = 0 ∧ q.head ≠ q.tail ∧ s.poolRoom (s.partOfCtx q.asid) = true
theorem State.takes_iff (s : State) (q : Queue) : s.takes q ↔
    (!q.en || decide (q.err ≠ 0) || decide (q.head = q.tail) || !s.poolRoom (s.partOfCtx q.asid)) = false := by
  simp [State.takes, and_assoc]

section
variable (hq : s.queue? s.ev.a = some q)
include hq

theorem exec_packetTake_idle (no : ¬s.takes q) : exec .packetTake s = .next s := by
  change execPacketTake s = _
  unfold execPacketTake
  simp only [hq]
  exact if_pos (Bool.not_eq_false _ ▸ fun e => no ((s.takes_iff q).2 e))

section
variable {x y : State} {pk : List Byte} (ok : s.takes q)
include ok

/-- A packet is due: what becomes of the read of it. -/
theorem execPacketTake_takes : exec .packetTake s =
    match s.headRead q with
    | (x, .error none) => .next x
    | (x, .error (some c)) => .next (x.setQueue { q with err := c })
    | (x, .ok pk) =>
      let popped (y : State) : State := y.setQueue { q with head := (q.head + 1) % 2 ^ 32 }
      match x.readPacket q.asid pk with
      | (y, .error none) => .next y
      | (y, .ok p) => .next ((popped y).acceptNode q.asid q.num [] p).1
      | (y, .error (some st)) =>
        if field pk 24 8 = 0 then .next ((popped y).setTag (s.partOfCtx q.asid) (field pk 32 2))
        else
          let r : Reject := { id := (popped y).uid, asid := q.asid, part := s.partOfCtx q.asid, addr := field pk 24 8, signal := field pk 32 2
                              data := pennantBytes 0 st 0 0 0 y.ctl.devTime y.ctl.devTime (field pk 40 4) (field pk 32 2) }
          let z := (popped y).newUid.2
          .next ({ z with sched := { z.sched with rejects := z.sched.rejects ++ [r] } }.finishReject r) := by
  change execPacketTake s = _
  unfold execPacketTake
  simp only [hq]
  exact if_neg (Bool.eq_false_iff.1 ((s.takes_iff q).1 ok))

end
end

/-! ### The scheduler's own reads (R333, R339) -/

section
variable {x : State} {asid addr n : Nat} (whole : n ≤ 2 ^ 48 - addr % 2 ^ 48) (here : s.peerRead? asid addr n 0 = none)
include whole here

theorem State.schedRead_done {d : List Byte} (read : s.load false 256 asid 0 addr n = (x, .done d)) : s.schedRead asid addr n = (x, .ok d) := by
  unfold State.schedRead
  simp only [if_pos whole]
  unfold State.schedPart
  simp only [here, read]
theorem State.schedRead_fails {code a : Nat} (read : s.load false 256 asid 0 addr n = (x, .err code a)) :
    s.schedRead asid addr n = (x, .error (some code)) := by
  unfold State.schedRead
  simp only [if_pos whole]
  unfold State.schedPart
  simp only [here, read]

end

/-! ### Acceptance (R341, R342) -/

/-- A node that waits for nothing is ready, in its place of the pool. -/
theorem State.pool_readyNode {n : Node} (new : n.state = 1) (edges : n.edges = []) (tag : n.tagWait = false) :
    (s.readyNode n).sched.pool = s.sched.pool.map fun m => if m.id = n.id then { n with state := 2 } else m := by
  unfold State.readyNode
  rw [if_pos (by simp [new, edges, tag])]
  rfl
/-- A node that nothing precedes and whose tag is set is ready at once. -/
theorem State.acceptNode_first {asid queue : Nat} {ls : List Nat} {p : Packet} (empty : s.sched.pool = [])
    (tag : p.wait = 0 ∨ p.wait ∈ (s.part (s.partOfCtx asid)).tags) :
    ∃ n, (s.acceptNode asid queue ls p).1.sched.pool = [n] ∧ n.pkt = p ∧ n.asid = asid ∧ n.part = s.partOfCtx asid ∧ n.queue = queue ∧
      n.state = 2 ∧ n.id = 2 ^ 31 + s.sched.accepted % 2 ^ 31 := by
  have first (part : Nat) : s.unfinished part = [] := by rw [State.unfinished, empty]; rfl
  have released : (decide (p.wait ≠ 0) && !(s.part (s.partOfCtx asid)).tags.contains p.wait) = false := by
    obtain zero | set := tag
    · simp [zero]
    · simp [set]
  let n : Node :=
    { id := 2 ^ 31 + s.sched.accepted % 2 ^ 31, asid := asid, part := s.partOfCtx asid, queue := queue, launchers := ls, pkt := p, edges := [], state := 1
      tagWait := p.wait ≠ 0 && !(s.part (s.partOfCtx asid)).tags.contains p.wait, seq := s.sched.accepted, checkable := s.isCheckable asid p }
  refine ⟨{ n with state := 2 }, ?_, rfl, rfl, rfl, rfl, rfl, rfl⟩
  unfold State.acceptNode
  simp only [first, List.filter_nil, List.flatMap_nil, empty, List.nil_append]
  exact (State.pool_readyNode (n := n) rfl rfl released).trans (by simp [n, State.partOfCtx])

end
end Sys2Proof.Machine
end

section
/-! What is claimed of queues (spec/15_launch.md R338 to R342, R344, R345). -/
namespace Sys2Proof.Machine
open Claim

theorem queueEvents_hold : Claim.queueEvents := by
  refine ⟨fun s => ?tail, fun s q hq => ?ctl, fun s q hq => ?take, fun s asid addr n whole here => ?read, fun s asid queue ls p => ?accept, fun s => ?evq, fun s => ?tags⟩
  case tail =>
    refine ⟨fun q at_ hq => ⟨fun fits => ?_, fun full => ?_⟩, exec_qtailWrite_none⟩
    · exact (exec_qtailWrite_at at_ hq).trans (congrArg _ (if_pos fits))
    · exact (exec_qtailWrite_at at_ hq).trans (congrArg _ (if_neg (Nat.not_le_of_lt full)))
  case ctl =>
    have run := exec_qctlWrite hq
    refine ⟨fun novig => run.trans (congrArg _ (if_pos novig)), fun novig on => ?_, fun novig off => ?_⟩
    · rw [if_neg (by simp [novig])] at run
      rwa [q.ctlWrite_on on] at run
    · rw [if_neg (by simp [novig])] at run
      rwa [q.ctlWrite_off off] at run
  case take =>
    refine ⟨fun no => exec_packetTake_idle hq ?_, fun on err new room => ?_⟩
    · rintro ⟨on, err, new, room⟩
      simp_all [State.partOfCtx]
    · have run := execPacketTake_takes hq ⟨on, err, new, room⟩
      refine ⟨fun x read => ?_, fun x code read => ?_, fun x y pk read desc => ?_, fun x y pk p read desc => ?_, fun x y pk st read desc => ⟨fun pen => ?_, fun pen => ?_⟩⟩
      · exact run.trans (by rw [show s.headRead q = _ from read])
      · exact run.trans (by rw [show s.headRead q = _ from read])
      · exact run.trans (by rw [show s.headRead q = _ from read]; simp only [desc])
      · exact run.trans (by rw [show s.headRead q = _ from read]; simp only [desc])
      · exact run.trans (by rw [show s.headRead q = _ from read]; simp only [desc, if_pos pen]; rfl)
      · exact run.trans (by rw [show s.headRead q = _ from read]; simp only [desc, if_neg pen]; rfl)
  case read => exact ⟨fun x d => State.schedRead_done whole here, fun x code a => State.schedRead_fails whole here⟩
  case accept => exact fun empty _ tag => State.acceptNode_first empty tag
  case evq =>
    obtain ⟨data, evq, pool, parts⟩ := s.evqPopped_leaves
    by_cases pops : ∃ e, s.popsEvq e
    · obtain ⟨e, pops⟩ := pops
      obtain ⟨ev, kept⟩ := s.evqPopped.evqStep_leaves e
      refine ⟨s.evqPopped.evqStep e, exec_evqRead_pops pops, (congrArg EvArg.data ev).trans data, kept.trans evq, fun e' r' n _ head' hn posted => ?_⟩
      obtain ⟨_, r, head⟩ := pops
      obtain ⟨rfl, rfl⟩ := List.cons.inj (head.symm.trans head')
      have done := State.evqStep_done (s := s.evqPopped) (e := e) (by rw [State.node?, pool]; exact hn) posted
      rwa [parts] at done
    · exact ⟨s.evqPopped, exec_evqRead_keeps (not_exists.1 pops), data, evq, fun e r _ core head => absurd ⟨e, core, r, head⟩ pops⟩
  case tags =>
    refine ⟨fun tag there => ⟨_, rfl, State.mem_setTag tag ?_ there⟩, rfl⟩
    rw [bits_eq_div]
    omega

end Sys2Proof.Machine
end

section
/-! SUPPORT. The dispatch pass, the ageing rule, the service window and the end of nodes (spec/15_launch.md R343, R344, R346 to R349,
R352). -/
namespace Sys2Proof.Machine
open Claim

/-! ### The dispatch pass (R348) -/

section
variable {s : State}

/-- The blocked head of a partition waits no longer. -/
def State.headGone (s : State) (part : Nat) : Prop := ∃ b, (s.part part).blocked = some b ∧ ∀ n, s.node? b.1 = some n → n.waits = false
/-- What the pass does once that is settled: slots that leave their partition move, early work is placed, then the heads. -/
def State.dispatched (s : State) (part : Nat) : State :=
  let y := s.moveSlots.sched.pool.foldl State.readyNode s.moveSlots
  placeHeads 2100 ((y.early part).foldl (fun y w => y.placeEarly part w) y) part [] false

section
variable (hp : s.ev.a < 64)
include hp

theorem exec_dispatchPass_gone (gone : s.headGone s.ev.a) : exec .dispatchPass s =
    .next ((s.setPart s.ev.a { s.part s.ev.a with blocked := none, reserve := none }).dispatched s.ev.a) := by
  obtain ⟨b, hb, ended⟩ := gone
  change execDispatchPass s = _
  unfold execDispatchPass
  simp only [if_neg (Nat.not_le_of_lt hp), hb, State.dispatched]
  cases hn : s.node? b.1 with
  | none => simp only [Bool.false_eq_true, if_false]
  | some n => simp only [ended n hn, Bool.false_eq_true, if_false]
theorem exec_dispatchPass_kept (kept : ¬s.headGone s.ev.a) : exec .dispatchPass s = .next (s.dispatched s.ev.a) := by
  change execDispatchPass s = _
  unfold execDispatchPass
  simp only [if_neg (Nat.not_le_of_lt hp), State.dispatched]
  cases hb : (s.part s.ev.a).blocked with
  | none => simp only [if_true]
  | some b =>
    cases hn : s.node? b.1 with
    | none => exact absurd ⟨b, hb, fun n h => absurd (hn.symm.trans h) nofun⟩ kept
    | some n =>
      have waits : n.waits = true := by
        refine Bool.of_not_eq_false fun ended => kept ⟨b, hb, fun m h => ?_⟩
        exact Option.some.inj (hn.symm.trans h) ▸ ended
      simp only [hn, waits, if_true]

end

/-! ### Heads (R348, R349) -/

section
variable {part k : Nat} {stuck : List Nat} {past : Bool} {n : Node} {rest : List Node}
  (head : s.heads part stuck = n :: rest) (open_ : (s.part part).blocked = none)
include head open_

theorem placeHeads_placed {cs : List (Nat × List Nat)}
    (fits : s.findPlace n (s.slotsOf part) (s.part part).reserve [] n.pkt.cshape [] = some cs) :
    ∃ e, placeHeads (k + 1) s part stuck past = placeHeads k ((s.placeCluster n n.next 0 cs).setPart part e) part stuck past := by
  rw [placeHeads, head]
  simp only [open_, Option.any_none, Bool.false_eq_true, if_false, fits, Bool.not_false, Bool.and_true]
  exact ⟨_, rfl⟩
theorem placeHeads_blocked (full : s.findPlace n (s.slotsOf part) (s.part part).reserve [] n.pkt.cshape [] = none) :
    placeHeads (k + 1) s part stuck past =
      placeHeads k (s.setPart part { s.part part with blocked := some (n.id, s.ctl.devTime, 0) }) part (stuck ++ [n.queue]) true := by
  rw [placeHeads, head]
  simp only [open_, Option.any_none, Bool.false_eq_true, if_false, full, Option.isNone_none, if_true, Bool.or_true]

end

/-! ### The ageing rule (R349) -/

/-- Of some numbers, the least of those of which a measure is greatest. -/
theorem exists_least_greatest (f : Nat → Nat) {l : List Nat} (some_ : l ≠ []) :
    ∃ r ∈ l, (∀ q ∈ l, f q ≤ f r ∧ (f q = f r → r ≤ q)) ∧ (l.filter fun r => f r = (l.map f).max?.getD 0).min? = some r := by
  obtain ⟨m, greatest⟩ : ∃ m, (l.map f).max? = some m := ⟨_, List.max?_eq_some_max (by simpa using some_)⟩
  obtain ⟨attained, bound⟩ := List.max?_eq_some_iff.1 greatest
  obtain ⟨a, ha, fa⟩ := List.mem_map.1 attained
  have kept : (l.filter fun r => f r = m) ≠ [] := List.ne_nil_of_mem (List.mem_filter.2 ⟨ha, by simpa using fa⟩)
  obtain ⟨r, least⟩ : ∃ r, (l.filter fun r => f r = m).min? = some r := ⟨_, List.min?_eq_some_min kept⟩
  obtain ⟨hr, low⟩ := List.min?_eq_some_iff.1 least
  obtain ⟨hr, fr⟩ := List.mem_filter.1 hr
  have fr : f r = m := by simpa using fr
  refine ⟨r, hr, fun q hq => ⟨fr ▸ bound _ (List.mem_map_of_mem hq), fun same => ?_⟩, by rw [greatest]; exact least⟩
  exact low q (List.mem_filter.2 ⟨hq, by simpa using same.trans fr⟩)

/-- The regions of a partition that have an open slot, and the free places of each. -/
def State.openRegions (s : State) (part : Nat) : List Nat :=
  ((s.slotsOf part).map fun x => x.1 / 2).filter fun r => (s.slotsOf part).any fun x => x.1 / 2 = r && !(s.slotE x.2).closed
def State.freePlaces (s : State) (part r : Nat) : Nat :=
  (((s.slotsOf part).filter fun x => x.1 / 2 = r).flatMap fun x => (List.range 4).filter fun i => (s.blocksAt (4 * x.2 + i)).isEmpty).length

section
variable {b : Nat × Nat × Nat} (blocked : (s.part s.ev.a).blocked = some b) (free : (s.part s.ev.a).reserve = none)
include blocked free

theorem exec_regionReserve_young (passes : b.2.2 < 32) (age : s.ctl.devTime < b.2.1 + 500000) : exec .regionReserve s = .next s := by
  have young : ¬((decide (32 ≤ b.2.2) || decide (b.2.1 + 500000 ≤ s.ctl.devTime)) = true) := by simp; omega
  change execRegionReserve s = _
  unfold execRegionReserve
  simp only [blocked, free]
  exact if_neg young
/-- The regions as the rule goes through them, each once. -/
theorem exec_regionReserve_aged (aged : 32 ≤ b.2.2 ∨ b.2.1 + 500000 ≤ s.ctl.devTime) :
    let l := ((s.slotsOf s.ev.a).map fun x => x.1 / 2).eraseDups.filter fun r =>
      (s.slotsOf s.ev.a).any fun x => x.1 / 2 = r && !(s.slotE x.2).closed
    let f := s.freePlaces s.ev.a
    exec .regionReserve s = match (l.filter fun r => f r = (l.map f).max?.getD 0).min? with
      | some r => .next (s.setPart s.ev.a { s.part s.ev.a with reserve := some r })
      | none => .next s := by
  change execRegionReserve s = _
  unfold execRegionReserve
  simp only [blocked, free]
  exact if_pos (by simpa using aged)
theorem exec_regionReserve_none (none_ : s.openRegions s.ev.a = []) : exec .regionReserve s = .next s := by
  by_cases aged : 32 ≤ b.2.2 ∨ b.2.1 + 500000 ≤ s.ctl.devTime
  · have same : (((s.slotsOf s.ev.a).map fun x => x.1 / 2).eraseDups.filter fun r =>
        (s.slotsOf s.ev.a).any fun x => x.1 / 2 = r && !(s.slotE x.2).closed) = [] := by
      simp only [State.openRegions, List.filter_eq_nil_iff, List.mem_eraseDups] at none_ ⊢
      exact none_
    rw [exec_regionReserve_aged blocked free aged, same]
    rfl
  · exact exec_regionReserve_young blocked free (by omega) (by omega)
theorem exec_regionReserve_some (aged : 32 ≤ b.2.2 ∨ b.2.1 + 500000 ≤ s.ctl.devTime) (some_ : s.openRegions s.ev.a ≠ []) :
    ∃ r ∈ s.openRegions s.ev.a, (∀ q ∈ s.openRegions s.ev.a, s.freePlaces s.ev.a q ≤ s.freePlaces s.ev.a r ∧
        (s.freePlaces s.ev.a q = s.freePlaces s.ev.a r → r ≤ q)) ∧
      exec .regionReserve s = .next (s.setPart s.ev.a { s.part s.ev.a with reserve := some r }) := by
  let l := ((s.slotsOf s.ev.a).map fun x => x.1 / 2).eraseDups.filter fun r =>
      (s.slotsOf s.ev.a).any fun x => x.1 / 2 = r && !(s.slotE x.2).closed
  have same (r : Nat) : r ∈ l ↔ r ∈ s.openRegions s.ev.a := by simp only [l, State.openRegions, List.mem_filter, List.mem_eraseDups]
  have listed : l ≠ [] := by
    obtain ⟨r, hr⟩ := List.exists_mem_of_ne_nil _ some_
    exact List.ne_nil_of_mem ((same r).2 hr)
  obtain ⟨r, hr, best, chosen⟩ := exists_least_greatest (s.freePlaces s.ev.a) listed
  refine ⟨r, (same r).1 hr, fun q hq => best q ((same q).2 hq), ?_⟩
  rw [exec_regionReserve_aged blocked free aged, chosen]

end

/-! ### The service window (R352) -/

/-- A service window begins: each partition's last window is what it delivered. -/
def State.newWindow (s : State) : State :=
  { s with sched := { s.sched with
      parts := s.sched.parts.map fun p => { p with deliv := p.acc / 1000 % 2 ^ 32, acc := 0 }
      winStart := s.ctl.devTime } }

/-- `t` is `s` but for the slots. -/
def State.Slotted (s t : State) : Prop := ∃ slots, t = { s with sched := { s.sched with slots := slots } }
theorem State.slotted_moveSlot (s : State) (k : Nat) : s.Slotted (s.moveSlot k) := by
  unfold State.moveSlot
  dsimp only
  split
  · exact ⟨s.sched.slots, rfl⟩
  · split
    · exact ⟨_, rfl⟩
    · exact ⟨s.sched.slots, rfl⟩
theorem State.auto_newWindow (manual : ∀ p ∈ s.sched.parts, p.auto = false) (i : Nat) : (s.newWindow.part i).auto = false := by
  rw [State.part, List.getD_eq_getElem?_getD]
  cases h : s.newWindow.sched.parts[i]? with
  | none => rfl
  | some e =>
    obtain ⟨p, hp, rfl⟩ := List.mem_map.1 (List.mem_of_getElem? h)
    exact manual p hp
theorem exec_serviceWindow_early (early : s.ctl.devTime < s.sched.winStart + 10000000) : exec .serviceWindow s = .next s := if_pos early
/-- A new window may mark one slot to move, and none where no partition is served by itself. -/
theorem exec_serviceWindow_due (due : s.sched.winStart + 10000000 ≤ s.ctl.devTime) :
    ∃ t, exec .serviceWindow s = .next t ∧ s.newWindow.Slotted t ∧ ((∀ p ∈ s.sched.parts, p.auto = false) → t = s.newWindow) := by
  have same : s.newWindow.Slotted s.newWindow := ⟨s.sched.slots, rfl⟩
  change ∃ t, execServiceWindow s = _ ∧ _
  unfold execServiceWindow
  rw [if_neg (Nat.not_lt_of_le due)]
  dsimp only
  split
  · rename_i a b under over_
    split
    · rename_i x last
      obtain ⟨_, moved⟩ := State.slotted_moveSlot (s.newWindow.setSlotE x.2 { s.newWindow.slotE x.2 with moving := some a }) x.2
      refine ⟨_, rfl, ⟨_, moved⟩, fun manual => ?_⟩
      have auto := (List.mem_filter.1 (List.mem_of_find?_eq_some under)).2
      rw [Bool.and_eq_true, Bool.and_eq_true] at auto
      exact absurd auto.1.1 (Bool.eq_false_iff.1 (State.auto_newWindow manual a))
    · exact ⟨s.newWindow, rfl, same, fun _ => rfl⟩
  · exact ⟨s.newWindow, rfl, same, fun _ => rfl⟩

/-! ### The end of nodes (R343, R344) -/

theorem State.node?_setNode {n m : Node} (hm : s.node? n.id = some m) : (s.setNode n).node? n.id = some n := by
  have placed {l : List Node} : l.find? (fun k => k.id = n.id) = some m → (l.map fun k => if k.id = n.id then n else k).find? (fun k => k.id = n.id) = some n := by
    induction l with
    | nil => nofun
    | cons k l ih =>
      intro found
      by_cases here : k.id = n.id
      · simp [here]
      · rw [List.find?_cons_of_neg (by simpa using here)] at found
        rw [List.map_cons, if_neg here, List.find?_cons_of_neg (by simpa using here)]
        exact ih found
  exact placed hm

theorem State.flushNode_busy {id : Nat} {n : Node} (hn : s.node? id = some n) (busy : s.nodeBusy id = true) : s.flushNode id = s := by
  unfold State.flushNode
  simp [hn, busy]

section
variable {id : Nat} {n : Node} (hn : s.node? id = some n) (ending : n.state = 4) (due : n.flushed = false)
include hn ending due

theorem State.flushNode_idle (idle : s.nodeBusy id = false) :
    let z := s.writeBackAll n.asid (s.inFeet n.asid n.pkt writeMode)
    s.flushNode id = if z.keptBack n.asid (s.inFeet n.asid n.pkt writeMode) then z
      else (z.setNode { n with flushed := true }).dischargeNode id !n.unsettled := by
  unfold State.flushNode
  simp [hn, ending, due, idle]

end

theorem State.noted_flushNode (s : State) (id : Nat) : s.Noted (s.flushNode id) := by
  unfold State.flushNode
  split
  · exact .refl s
  · rename_i n _
    split
    · exact .refl s
    · have back := s.wrote_writeBackAll n.asid (s.inFeet n.asid n.pkt writeMode)
      dsimp only
      split
      · exact back.noted
      · exact (back.noted.trans ⟨_, _, _, _, _, rfl⟩).trans (State.repooled_dischargeNode _ _ _).noted
theorem State.writeBackAll_sched (s : State) (asid : Nat) (k : Line → Bool) : (s.writeBackAll asid k).sched = s.sched := by
  obtain ⟨_, _, _, _, e⟩ := s.wrote_writeBackAll asid k
  rw [e]
/-- The state in which the end of node `ev.a` is looked at (R344). -/
def State.atEnd (s : State) : State := s.sweepEnded.flushNode s.ev.a
theorem State.atEnd_ev (s : State) : s.atEnd.ev = s.ev := by
  obtain ⟨_, _, _, _, _, e⟩ := s.sweepEnded.noted_flushNode s.ev.a
  rw [State.atEnd, e]
  rfl
/-- The entry that makes known the end of a node that has no pennant. -/
def Node.endEntry (n : Node) : EvqEntry :=
  { node := n.id, part := n.part, status := 0, signal := n.pkt.signal, pennant := 0
    notify := n.pkt.notify, ntype := n.pkt.ntype, asid := n.asid, payload := 0 }

section
variable {n : Node} (hn : s.atEnd.node? s.ev.a = some n)
include hn

theorem exec_nodeCompletion_not (not_ : n.flushed = false ∨ n.posted = true) : exec .nodeCompletion s = .next s.atEnd := by
  have found : s.atEnd.node? s.atEnd.ev.a = some n := s.atEnd_ev ▸ hn
  change execNodeCompletion s = _
  unfold execNodeCompletion
  rw [← State.atEnd]
  simp only [found]
  refine if_pos ?_
  obtain e | e := not_ <;> simp [e]
theorem exec_nodeCompletion_posts (flushed : n.flushed = true) (posted : n.posted = false) (settled : n.unsettled = false) (free : n.hold = false)
    (room : s.atEnd.sched.evq.length < 1024) (gone : ∀ b ∈ s.atEnd.blocks, b.node ≠ n.id)
    (idle : (s.atEnd.writeBackAll n.asid fun _ => true).parBusy n.asid = false) (plain : n.pkt.pennant = 0) :
    let y := s.atEnd.writeBackAll n.asid fun _ => true
    exec .nodeCompletion s = .next (State.setNode { y with sched := { y.sched with evq := y.sched.evq ++ [n.endEntry] } } { n with posted := true }) := by
  have found : s.atEnd.node? s.atEnd.ev.a = some n := s.atEnd_ev ▸ hn
  have ready : ¬((!n.flushed || n.posted || n.unsettled || n.hold || decide (1024 ≤ s.atEnd.sched.evq.length) ||
      s.atEnd.blocks.any (fun b => b.node = n.id)) = true) := by
    simpa [flushed, posted, settled, free, room] using gone
  change execNodeCompletion s = _
  unfold execNodeCompletion
  rw [← State.atEnd]
  simp only [found, if_neg ready, idle, if_pos plain, Bool.false_eq_true, if_false, ne_eq, not_true_eq_false]
  simp only [plain, Node.endEntry, Nat.zero_mod]

end
end
end Sys2Proof.Machine
end

section
/-! What is claimed of the dispatch pass and the end of nodes (spec/15_launch.md R343, R344, R346 to R349, R352). -/
namespace Sys2Proof.Machine
open Claim

theorem dispatchEvents_hold : Claim.dispatchEvents := by
  refine ⟨fun s hp => ?pass, fun k s part stuck past n rest head => ?heads,
    fun s b blocked free => ⟨exec_regionReserve_none blocked free, exec_regionReserve_some blocked free, exec_regionReserve_young blocked free⟩,
    fun s => ⟨exec_serviceWindow_early, fun due => ?window⟩, fun s n id hn ending due => ?flush, fun s n (hn : s.atEnd.node? s.ev.a = some n) => ?ended⟩
  case pass =>
    simp only [Happens]
    refine ⟨fun gone => ?_, fun kept => ?_⟩
    · rw [exec_dispatchPass_gone hp gone, State.dispatched]
    · rw [exec_dispatchPass_kept hp kept, State.dispatched]
  case heads =>
    refine ⟨fun cs open_ fits => ?_, placeHeads_blocked head⟩
    obtain ⟨e, run⟩ := placeHeads_placed head open_ fits
    exact ⟨_, run, rfl, rfl, rfl⟩
  case window =>
    obtain ⟨t, run, ⟨_, slotted⟩, manual⟩ := exec_serviceWindow_due due
    refine ⟨t, run, ?_, ?_, fun h => congrArg (·.sched.slots) (manual h), ?_⟩ <;> rw [slotted] <;> rfl
  case flush =>
    refine ⟨State.flushNode_busy hn, fun idle kept => ?_, fun idle free settled => ?_⟩
    · exact (State.flushNode_idle hn ending due idle).trans (if_pos kept)
    · rw [State.flushNode_idle hn ending due idle, settled]
      exact if_neg (Bool.eq_false_iff.1 free)
  case ended =>
    refine ⟨fun h => exec_nodeCompletion_not hn (.inl h), fun h => exec_nodeCompletion_not hn (.inr h),
      fun flushed posted settled free room gone idle plain => ?_⟩
    have sched := s.atEnd.writeBackAll_sched n.asid fun _ => true
    have found : s.atEnd.node? n.id = some n := by rw [State.node?_id hn]; exact hn
    refine ⟨_, exec_nodeCompletion_posts hn flushed posted settled free room gone idle plain, congrArg (fun z : SchedSys => z.evq ++ [n.endEntry]) sched, ?_⟩
    refine State.node?_setNode (n := { n with posted := true }) (m := n) ?_
    exact (congrArg (fun z => z.pool.find? fun m => m.id = n.id) sched).trans found

/-- Settles O53: the queues by what a read of a packet gives (`execPacketTake_takes`), the event queue by `State.evqStep_done`, the
dispatch pass and the end of nodes by what each event finds; a write-back leaves the scheduler as it is (`State.wrote_writeBackAll`). -/
theorem schedulerEvents : Obligations.SchedulerEvents := ⟨queueEvents_hold, dispatchEvents_hold⟩

end Sys2Proof.Machine
end

section
/-! SUPPORT. What a request that fails leaves of its event: its operand (spec/17_links.md R376, R384; spec/12_copy.md R285, R292). -/
namespace Sys2Proof.Machine

section
variable (s : State)

/-! ### Barriers that count (R263, R284) -/

theorem State.wakeBar_ev (blk n : Nat) (done : Bool) (phase sc : Nat) : (s.wakeBar blk n done phase sc).ev = s.ev := by
  unfold State.wakeBar
  dsimp only
  split
  · split
    · unfold State.discardClean
      split <;> rfl
    · rfl
  · rfl
theorem State.changeBar_ev (blk n sc : Nat) (f : Bar → Bar) : (s.changeBar blk n sc f).ev = s.ev := by
  unfold State.changeBar
  split
  · rfl
  · dsimp only
    split
    · exact State.wakeBar_ev _ blk n true _ sc
    · rfl
theorem State.failBar_ev (blk n err : Nat) : (s.failBar blk n err).ev = s.ev := by
  unfold State.failBar
  split <;> rfl
/-- An arrival that no thread makes. -/
theorem State.applyArrival_ev {a : Arrival} (own : a.from_ = []) : (s.applyArrival a).ev = s.ev := by
  have counted : (if a.bytes ≠ 0 then s.changeBar a.blk a.bar (if a.count then 0 else a.sc) fun r =>
      ({ r with pending := (r.pending + 2 ^ 64 - a.bytes % 2 ^ 64) % 2 ^ 64 } : Bar).fail a.err
      else if a.count then s else s.failBar a.blk a.bar a.err).ev = s.ev := by
    split
    · exact s.changeBar_ev ..
    · split
      · rfl
      · exact s.failBar_ev ..
  unfold State.applyArrival
  dsimp only
  split
  · exact counted
  · split
    · exact counted
    · simp only [own, List.foldl_nil, List.filter_nil, ite_self]
      split <;> exact (State.changeBar_ev ..).trans counted
theorem State.faultOf_ev (blk : Nat) : (s.faultOf blk).ev = s.ev := by
  unfold State.faultOf
  split <;> rfl
theorem State.countOn_ev (blk bar bytes err : Nat) (arrive : Bool) : (s.countOn blk bar bytes err arrive).ev = s.ev := by
  have counted : (if bytes = 0 && err = 0 && !arrive then s
      else s.applyArrival { seq := 0, blk := blk, bar := bar, kind := 3, bytes := bytes, count := arrive, err := err }).ev = s.ev := by
    split
    · rfl
    · exact s.applyArrival_ev rfl
  have fault {c : Prop} [Decidable c] {t : State} (h : t.ev = s.ev) : (if c then t.faultOf blk else t).ev = s.ev := by
    split
    · exact (t.faultOf_ev blk).trans h
    · exact h
  exact fault counted

/-! ### Engine work and operations that end -/

theorem State.jobTag_ev (j : Job) (ok : Bool) : (s.jobTag j ok).ev = s.ev := by
  unfold State.jobTag
  split
  · split
    · dsimp only
      split <;> rfl
    · rfl
  · rfl
theorem State.endJob_ev (j : Job) (err : Nat) : (s.endJob j err).ev = s.ev := by
  unfold State.endJob
  dsimp only
  split
  · exact (State.countOn_ev ..).trans (s.jobTag_ev ..)
  · exact s.jobTag_ev ..
theorem State.endCmd_ev (c : Cmd) (err : Nat) : (s.endCmd c err).ev = s.ev := by
  unfold State.endCmd
  dsimp only
  split
  · exact State.countOn_ev ..
  · rfl
theorem State.engLost_ev (q : OutReq) (id code : Nat) : (s.engLost q id code).ev = s.ev := by
  unfold State.engLost
  dsimp only
  split
  · split
    · rfl
    · exact s.endJob_ev ..
  · exact s.endCmd_ev ..
  · rfl
theorem State.lostWrState.ite_ev (id blk bar code : Nat) : (s.lostWrite id blk bar code).ev = s.ev := by
  unfold State.lostWrite
  split
  · split
    · exact s.countOn_ev ..
    · split
      · exact s.countOn_ev ..
      · exact s.endJob_ev ..
  · exact s.countOn_ev ..
theorem State.failReq_ev (q : OutReq) (code off : Nat) : (s.failReq q code off).ev = s.ev := by
  have shared (t : Thread) (l : List (Nat × Nat)) (f : Pending → Pending) : (s.endShared t q.uid l f).ev = s.ev := by
    unfold State.endShared
    exact foldl_leaves State.ev (by intros; rfl) _ s
  unfold State.failReq
  split
  · rfl
  · dsimp only
    split
    · exact shared ..
    · exact shared ..
    · rfl
theorem State.hwEvent_ev (asid type payload detail : Nat) : (s.hwEvent asid type payload detail).ev = s.ev := by
  unfold State.hwEvent State.postRecord
  split
  · rfl
  · split
    · rfl
    · split
      · obtain ⟨_, _, _, _, _, e⟩ := s.noted_writeEvent ..
        rw [e]
      · rfl
theorem State.atomDone_ev (r : AtomReq) (l : AtomLane) (c : Nat) : (s.atomDone r l (.error c)).ev = s.ev := by
  unfold State.atomDone
  dsimp only
  split
  · exact s.hwEvent_ev ..
  · rfl
theorem State.ite_ev {s t u : State} {c : Prop} [Decidable c] (ht : t.ev = s.ev) (hu : u.ev = s.ev) : (if c then t else u).ev = s.ev := by
  split
  · exact ht
  · exact hu
/-- A request that is answered with an error. -/
theorem State.complete_error_ev (q : OutReq) (e : Nat × Nat) : (s.complete q (.error e)).ev = s.ev := by
  unfold State.complete
  dsimp only
  split
  case h_2 d h =>
    cases h
    split
    · exact State.ite_ev (State.engLost_ev ..) rfl
    · exact State.ite_ev rfl (State.failReq_ev ..)
  case h_4 d h =>
    cases h
    refine State.ite_ev (State.failReq_ev ..) ?_
    split
    · exact State.lostWrState.ite_ev ..
    · rfl
    · rfl
  case h_5 | h_6 => exact State.atomDone_ev ..
  case h_9 | h_10 => exact State.failReq_ev ..
  case h_11 | h_12 => rfl
  all_goals contradiction

/-! ### Publication -/

theorem State.publish_ev (us : List (Nat × Nat)) : (s.publish us).ev = s.ev := by
  have remapped (us : List (Nat × Nat)) : (s.remapped us).ev = s.ev := by
    by_cases h : s.ctl.pubTime = some s.ctl.devTime
    · rw [State.remapped_again us h]
    · rw [State.remapped_first us h]; rfl
  unfold State.publish
  dsimp only
  split
  · rfl
  · rw [State.newMap_eq]
    split
    · exact remapped _
    · exact remapped _
theorem State.dropTakes_ev (plane : Nat) : (s.dropTakes plane).ev = s.ev := by
  unfold State.dropTakes
  refine foldl_leaves State.ev (fun s n => ?_) _ s
  dsimp only
  exact (foldl_leaves State.ev (by intros; rfl) n.closers _).trans (foldl_leaves State.ev (by intros; rfl) (n.tokens ++ n.waiters) s)

end
end Sys2Proof.Machine
end

section
/-! SUPPORT. Requests of threads to other dies, and the flits between the dies (spec/17_links.md R371 to R374; spec/18_program_tickets.md
R400). -/
namespace Sys2Proof.Machine
open Claim

/-! ### Requests to other dies (R371, R400) -/

section
variable {s : State} {t : Thread} {q : Pending}

theorem State.performTodo_waits {e : Cross} (sent : s.crossOf t.fg t.lane q.uid = some e) (away : e.st ≠ 1) : s.performTodo t q = s := by
  have waits : s.crossing t q = (s, false) := by simp [State.crossing, sent, away]
  unfold State.performTodo
  split
  · rfl
  · simp only [waits, Bool.not_false, if_true]
/-- The only operation of its request that asks the engine of another die leaves, where it makes no release. -/
theorem State.crossing_alone {x : Ask × Nat × Nat} (new : s.crossOf t.fg t.lane q.uid = none) (far : s.farAsk t q = some x)
    (plain : x.1.rel = none) (alone : s.mates t q = [(t, q)]) (may : s.mayCross t q x = true) :
    s.crossing t q = (s.sendCross (s.crossFor t.fg t.lane q.uid q.req q.iaddr false x.1.ea x.2 x.1.tx), false) := by
  simp [State.crossing, new, far, alone, may, plain]
theorem State.performTodo_sends {a : Ask} {d off : Nat} (free : q.held = false) (may : s.mayPerform t = true) (turn : s.todoWaits t q = false)
    (stays : s.leftBehind t q = false) (new : s.crossOf t.fg t.lane q.uid = none) (ask : q.todo.ask = some a) (plain : a.rel = none)
    (far : s.farHome t.fg a.w a.ea a.n = some (d, off)) (alone : s.mates t q = [(t, q)])
    (clear : ∀ e ∈ s.links.cross, e.clash (s.crossFor t.fg t.lane q.uid q.req q.iaddr false a.ea (d, off) a.tx).1 = false) :
    s.performTodo t q = s.sendCross (s.crossFor t.fg t.lane q.uid q.req q.iaddr false a.ea (d, off) a.tx) := by
  have asks : s.farAsk t q = some (a, d, off) := by simp [State.farAsk, ask, plain, far]
  have crosses : s.mayCross t q (a, d, off) = true := by
    simpa [State.mayCross, free, may, turn, stays, plain] using clear
  unfold State.performTodo
  simp [free, may, turn, stays, State.crossing_alone new asks plain alone crosses]
theorem State.sendDie_cross {s y : State} {here dst : Nat} {tx : List Byte} (sent : s.sendDie here dst tx = some y) : y.links.cross = s.links.cross := by
  unfold State.sendDie at sent
  split at sent
  · obtain ⟨m, _, rfl⟩ := Option.map_eq_some_iff.1 sent
    rfl
  · cases sent
theorem State.sendCross_sent {s y : State} {x : Cross × List Byte} (sent : s.sendDie x.1.src x.1.dst x.2 = some y) :
    s.sendCross x = { y with links := { y.links with cross := s.links.cross ++ [x.1] } } := by
  unfold State.sendCross
  rw [sent, ← State.sendDie_cross sent]
  rfl

end

/-! ### The slots of a flit (R400) -/

section
variable (p : LinkPort) (now dst : Nat) (tx : List Byte)

theorem LinkPort.close_empty (empty : p.fill = []) : p.close now = p := by simp [LinkPort.close, empty]
theorem LinkPort.close_fill : (p.close now).fill = [] := by
  unfold LinkPort.close
  split
  · exact List.isEmpty_iff.1 ‹_›
  · rfl
theorem LinkPort.pack_straddles (full : 240 < p.filled + tx.length) : p.pack now dst tx = (p.close now).pack now dst tx := by
  unfold LinkPort.pack
  rw [if_pos full, LinkPort.close_empty _ now (p.close_fill now), ite_self]
/-- The port with a transaction in the flit that is being filled. -/
def LinkPort.withTx : LinkPort := { p with fill := p.fill ++ [(dst, tx)] }
theorem LinkPort.filled_withTx : (p.withTx dst tx).filled = p.filled + tx.length := by simp [LinkPort.filled, LinkPort.withTx]
theorem LinkPort.pack_fits (fits : p.filled + tx.length ≤ 240) : p.pack now dst tx =
    if p.filled + tx.length = 240 then (p.withTx dst tx).close now else p.withTx dst tx := by
  unfold LinkPort.pack
  rw [if_neg (Nat.not_lt.2 fits)]
  change (if 240 ≤ (p.withTx dst tx).filled then _ else _) = _
  rw [p.filled_withTx]
  exact if_congr (by omega) rfl rfl

end

/-! ### Transactions and flits that come in (R371, R373, R374) -/

section
variable {s : State} {k dst : Nat} {tx : List Byte}

theorem State.dieTx_on {y : State} (good : txBad tx = false) (on : dst ≠ farDie k) (sent : s.sendDie (farDie k) dst tx = some y) :
    s.dieTx k dst tx = y := by
  simp [State.dieTx, good, on, sent]
section
variable (good : txBad tx = false) (here : dst = farDie k)
include good here

theorem State.dieTx_performs (none_ : s.crossBy dst (TxHdr.of tx) = none) : s.dieTx k dst tx = s.performTx (.die k) tx := by
  unfold State.dieTx
  simp [good, ← here, none_]
/-- A thread's request reaches its engine, or the answer to it comes. -/
theorem State.dieTx_thread {e : Cross} (some_ : s.crossBy dst (TxHdr.of tx) = some e) : s.dieTx k dst tx =
    if 0x10 ≤ (TxHdr.of tx).kind then s.dropCross e else s.modCross e fun c => { c with st := 1 } := by
  unfold State.dieTx
  simp [good, ← here, some_]

end

theorem State.ucie_setUcie {p : LinkPort} (there : k < s.links.ucie.length) : (s.setUcie k p).ucie k = p := by
  simp [State.ucie, State.setUcie, List.getD_eq_getElem?_getD, there]
theorem State.nextFlit_sent {f : Flit} (next : s.nextFlit k = some f) : f ∈ (s.ucie k).unacked ∧ s.accepted k f = false :=
  ⟨List.mem_of_find?_eq_some next, by simpa using List.find?_some next⟩
theorem State.ackDie_unacked (there : k < s.links.ucie.length) :
    let rest := (s.ucie k).unacked.filter fun f => !s.accepted k f
    ((s.ackDie k).ucie k).unacked = rest ++ (s.ucie k).queue.take (2048 - rest.length) := by
  unfold State.ackDie
  rw [State.ucie_setUcie there]

/-- Where the event says so, an acknowledgement reaches the near adapter. -/
def State.ackFor (s x : State) : State := if s.ev.c.testBit 1 then x.ackDie (s.ev.a % 64) else x

section
variable (live : (s.map.unit (329 + s.ev.a % 64 / 2)).1 ≠ 3)
include live

theorem exec_ucieFlitReceive_none (no : s.nextFlit (s.ev.a % 64) = none) : exec .ucieFlitReceive s = .next (s.ackFor s) := by
  change execUcieFlitReceive s = _
  unfold execUcieFlitReceive
  simp only [if_neg live, no]
  rfl
theorem exec_ucieFlitReceive_some {f : Flit} (next : s.nextFlit (s.ev.a % 64) = some f) :
    let k := s.ev.a % 64
    let x := s.setUcie k { s.ucie k with nakDue := false }
    let j := if f.from_ = 0 then k else f.from_ - 1
    exec .ucieFlitReceive s = .next (if s.ev.c.testBit 0 = true
      then f.txs.foldl (fun x e => x.dieTx k e.1 e.2) (s.ackFor (x.setUcie j { x.ucie j with rxNext := (f.seq + 1) % 4096 }))
      else s.setUcie k { s.ucie k with nakDue := true }) := by
  change execUcieFlitReceive s = _
  unfold execUcieFlitReceive
  simp only [if_neg live, next]
  by_cases holds : s.ev.c.testBit 0 = true
  · rw [if_pos holds]
    exact if_neg (by simp [bit, holds])
  · rw [if_neg holds]
    exact if_pos (by simp [bit, holds])

end
end

/-! ### Modules that degrade or fail (R372 to R374) -/

section
variable {s : State} {k : Nat}

/-- The entries of the map once module `m` is in another state or has another repair. -/
def State.moduleSet (s : State) (m : Nat) (f : Nat × Nat → Nat × Nat) : State := s.publish (s.map.units.modify (328 + m) f)

section
variable (m32 : s.ev.a < 32)
include m32

theorem exec_ucieLaneEvent_lost (lost : (s.map.unit (329 + s.ev.a)).1 = 3) : exec .ucieLaneEvent s = .next s := by
  change execUcieLaneEvent s = _
  simp [execUcieLaneEvent, Nat.mod_eq_of_lt m32, lost]
/-- A lane of a module of 64 fails: it is repaired where fewer than eight have been. -/
theorem exec_ucieLaneEvent_lane (full : (s.map.unit (329 + s.ev.a)).1 = 0) (lane : s.ev.b = 0) : exec .ucieLaneEvent s =
    .next (if (s.map.unit (329 + s.ev.a)).2 % 16 < 8 then s.moduleSet s.ev.a fun u => (u.1, u.2 % 16 + 1) else s.moduleSet s.ev.a fun u => (1, u.2)) := by
  change execUcieLaneEvent s = _
  simp [execUcieLaneEvent, Nat.mod_eq_of_lt m32, full, lane, State.moduleSet]
theorem exec_ucieLaneEvent_half (full : (s.map.unit (329 + s.ev.a)).1 = 0) (half : s.ev.b = 1) :
    exec .ucieLaneEvent s = .next (s.moduleSet s.ev.a fun u => (1, u.2)) := by
  change execUcieLaneEvent s = _
  simp [execUcieLaneEvent, Nat.mod_eq_of_lt m32, full, half, State.moduleSet]
theorem exec_ucieLaneEvent_fails (fails : (s.map.unit (329 + s.ev.a)).1 = 1 ∧ s.ev.b = 0 ∨ (s.map.unit (329 + s.ev.a)).1 ≠ 3 ∧ s.ev.b = 2) :
    exec .ucieLaneEvent s = .next (s.loseModule s.ev.a) := by
  change execUcieLaneEvent s = _
  obtain ⟨degraded, lane⟩ | ⟨live, lost⟩ := fails
  · simp [execUcieLaneEvent, Nat.mod_eq_of_lt m32, degraded, lane]
  · simp [execUcieLaneEvent, Nat.mod_eq_of_lt m32, live, lost]

end

/-- A direction gives up its flits. -/
def State.emptied (s : State) (k : Nat) : State := s.setUcie k { (s.ucie k).close s.ctl.devTime with unacked := [], queue := [] }
/-- What it has carried. -/
def State.carried (s : State) (k : Nat) : List Flit := ((s.ucie k).close s.ctl.devTime).unacked ++ ((s.ucie k).close s.ctl.devTime).queue

theorem State.moveFlits_next {j : Nat} (next : nextModule s.map.units (k / 2) = some j) :
    let d := 2 * j + k % 2
    s.moveFlits k = (s.emptied k).setUcie d { (s.emptied k).ucie d with
      unacked := ((s.carried k).map fun f => { f with from_ := if f.from_ = 0 then 1 + k else f.from_ }) ++ ((s.emptied k).ucie d).unacked } := by
  have here : nextModule (s.emptied k).map.units (k / 2) = some j := next
  unfold State.moveFlits
  dsimp only
  rw [← State.emptied, here]
  rfl
theorem State.moveFlits_last (last : nextModule s.map.units (k / 2) = none) (taken : ∀ f ∈ s.carried k, (s.emptied k).accepted k f = true) :
    s.moveFlits k = s.emptied k := by
  have here : nextModule (s.emptied k).map.units (k / 2) = none := last
  have none_ : ((s.carried k).filter fun f => !(s.emptied k).accepted k f) = [] :=
    List.filter_eq_nil_iff.2 fun f hf => by simp [taken f hf]
  unfold State.moveFlits
  dsimp only
  rw [← State.emptied, here, ← State.carried, none_]
  rfl

end
end Sys2Proof.Machine
end

section
/-! SUPPORT. The fabric: flits, ports and ranks that fail, the windows of tags, and parity (spec/17_links.md R371, R375, R376, R379 to
R381, R384, R385). -/
namespace Sys2Proof.Machine
open Claim

/-! ### Transactions and flits of the fabric (R371, R375, R376) -/

section
variable {s : State}

theorem exec_transactionReceive_die (local_ : s.ev.b = 0) (dir : s.ev.a < 64) :
    let h := TxHdr.of s.ev.data
    let dst := if 0x10 ≤ h.kind || txBad s.ev.data then farDie s.ev.a else h.die
    exec .transactionReceive s = .next (if dst = farDie s.ev.a then s.performTx (.die s.ev.a) s.ev.data else s.dieTx s.ev.a dst s.ev.data) := by
  change execTransactionReceive s = _
  unfold execTransactionReceive
  rw [Nat.mod_eq_of_lt dir]
  simp only [local_, ne_eq, not_true_eq_false, if_false]
theorem exec_transactionReceive_fabric (fabric : s.ev.b ≠ 0) (plane : s.ev.a < 16) :
    exec .transactionReceive s = .next (s.fabricTx s.ev.a s.ev.data) := by
  change execTransactionReceive s = _
  unfold execTransactionReceive
  rw [Nat.mod_eq_of_lt plane]
  simp only [if_pos fabric]

/-- The 256 bytes of a flit whose check holds and whose TYPE is known (R375). -/
def goodFlit (b : List Byte) : Prop := b.length = 256 ∧ field b 248 8 = (crc64 (b.take 248)).toNat ∧ bits (field b 0 2) 12 4 ≤ 2
theorem goodFlit_iff (b : List Byte) : goodFlit b ↔
    ¬((decide (b.length ≠ 256) || decide (field b 248 8 ≠ (crc64 (b.take 248)).toNat) || decide (2 < bits (field b 0 2) 12 4)) = true) := by
  simp [goodFlit, and_assoc]

/-- SEQ and TYPE of the flit that comes in, and the port's state once its acknowledgement is taken. -/
def State.flitSeq (s : State) : Nat := bits (field s.ev.data 0 2) 0 12
def State.flitType (s : State) : Nat := bits (field s.ev.data 0 2) 12 4
def State.flitAcked (s : State) : State := s.ackPort s.ev.a (bits (field s.ev.data 2 2) 0 12) (bit (field s.ev.data 2 2) 12)
/-- The port once it has taken the flit. -/
def State.portNext (s : State) : LinkPort :=
  { s.flitAcked.port s.ev.a with
    rxNext := (s.flitSeq + 1) % 4096, nakDue := false, poolFull := bit (field s.ev.data 4 4) 0
    used := if s.flitType = 2 then slotReturns (s.flitAcked.port s.ev.a).used (slice s.ev.data 8 240) else (s.flitAcked.port s.ev.a).used }

section
variable (n16 : s.ev.a < 16)
include n16

theorem exec_guestusFlitReceive_down (down : s.portUp s.ev.a = false) : exec .guestusFlitReceive s = .next s := by
  change execGuestusFlitReceive s = _
  unfold execGuestusFlitReceive
  rw [Nat.mod_eq_of_lt n16]
  exact if_pos (by rw [down]; rfl)
theorem exec_guestusFlitReceive_bad (up : s.portUp s.ev.a = true) (bad : ¬goodFlit s.ev.data) :
    exec .guestusFlitReceive s = .next (s.sendNak s.ev.a) := by
  have up : ¬((!s.portUp s.ev.a) = true) := by simp [up]
  change execGuestusFlitReceive s = _
  unfold execGuestusFlitReceive
  rw [Nat.mod_eq_of_lt n16]
  exact (if_neg up).trans (if_pos (not_not.1 fun good => bad ((goodFlit_iff _).2 good)))
theorem exec_guestusFlitReceive_good (up : s.portUp s.ev.a = true) (good : goodFlit s.ev.data) : exec .guestusFlitReceive s =
    if s.flitSeq ≠ (s.flitAcked.port s.ev.a).rxNext then
      .next (if (s.flitSeq + 4096 - (s.flitAcked.port s.ev.a).rxNext) % 4096 < 2048 then s.flitAcked.sendNak s.ev.a else s.flitAcked).pump
    else
      let y := s.flitAcked.setPort s.ev.a s.portNext
      .next (if s.flitType = 1 then (flitTxs 15 (slice s.ev.data 8 240)).foldl (fun x t => x.fabricTx s.ev.a t) y else y).pump := by
  have up : ¬((!s.portUp s.ev.a) = true) := by simp [up]
  change execGuestusFlitReceive s = _
  unfold execGuestusFlitReceive
  rw [Nat.mod_eq_of_lt n16]
  exact (if_neg up).trans (if_neg ((goodFlit_iff _).1 good))

end

/-! ### Ports and ranks that fail (R376, R384) -/

/-- Eight NAKs for one SEQ, or 1 ms without an ACK that advances. -/
def State.portFails (s : State) (n : Nat) : Prop :=
  8 ≤ (s.port n).naks ∨ ((s.port n).unacked ≠ [] ∧ (s.port n).lastAck + 1000000 ≤ s.ctl.devTime)
theorem State.portFails_iff (s : State) (n : Nat) : s.portFails n ↔
    (decide (8 ≤ (s.port n).naks) || (!(s.port n).unacked.isEmpty && decide ((s.port n).lastAck + 1000000 ≤ s.ctl.devTime))) = true := by
  simp [State.portFails]
theorem exec_fabricPortDown_not (n16 : s.ev.a < 16) (stays : s.portUp s.ev.a = false ∨ ¬s.portFails s.ev.a) : exec .fabricPortDown s = .next s := by
  change execFabricPortDown s = _
  unfold execFabricPortDown
  rw [Nat.mod_eq_of_lt n16]
  refine if_pos ?_
  obtain down | alive := stays
  · rw [down]; rfl
  · rw [State.portFails_iff, Bool.not_eq_true] at alive
    rw [alive]
    exact Bool.or_true _
theorem exec_fabricPortDown_fails (n16 : s.ev.a < 16) (up : s.portUp s.ev.a = true) (fails : s.portFails s.ev.a) (switch : s.ev.b = 0) :
    let n := s.ev.a
    let o := ((s.publish (s.map.units.set (362 + n) (3, 0))).record { die := 0, code := 0x8005 }).setPort n {}
    let x := { o with links := { o.links with late := o.links.late.filter fun e => e.1 ≠ n } }
    exec .fabricPortDown s =
      .next (((x.links.out.filter fun q => q.sent = some n).foldl (fun x q => x.complete q (.error (0x8004, 0))) x).dropTakes n) := by
  change execFabricPortDown s = _
  unfold execFabricPortDown
  rw [Nat.mod_eq_of_lt n16]
  rw [State.portFails_iff] at fails
  refine (if_neg (by simp only [up, fails]; decide)).trans (congrArg _ (if_neg ?_))
  rw [State.dropTakes_ev, foldl_leaves State.ev fun x q => x.complete_error_ev q _]
  change ¬(s.publish _).ev.b = 1
  rw [State.publish_ev]
  omega
theorem exec_rankLoss_not (stays : s.rankValid s.ev.a = false ∨ s.rankState s.ev.a = 1) : exec .rankLoss s = .next s := by
  refine if_pos ?_
  obtain none_ | lost := stays
  · simp [none_]
  · simp [lost]
theorem exec_rankLoss_lost (valid : s.rankValid s.ev.a = true) (there : s.rankState s.ev.a ≠ 1) :
    let x := s.setRank s.ev.a (BitVec.ofNat 32 (setBits (s.links.ranks.getD s.ev.a 0).toNat 28 3 1))
    exec .rankLoss s = .next ((x.links.out.filter fun q => q.rank = s.ev.a).foldl (fun x q => x.complete q (.error (0x8004, 0))) x) :=
  if_neg (by simp [valid, there])

/-! ### The windows of tags (R379, R380) -/

theorem exec_tagWindowClose : exec .tagWindowClose s =
    .next (if 3840 ≤ (s.txWin s.ev.a s.ev.b s.ev.c).slots.length ∨ (s.txWin s.ev.a s.ev.b s.ev.c).start + 512 ≤ s.ctl.cycle
      then s.closeWin (s.txWin s.ev.a s.ev.b s.ev.c) else s) := by
  change execTagWindowClose s = _
  unfold execTagWindowClose
  simp only [Bool.or_eq_true, decide_eq_true_eq]

section
variable {w : RxWin}

/-- The oldest window of its stream, and its tag as this module computes it. -/
def State.oldestRx (s : State) (w : RxWin) : Prop := ∃ v, s.links.rxWins.find? (fun v => v.is w.src w.plane w.cls) = some v ∧ v.id = w.id
theorem State.oldestRx_iff (s : State) (w : RxWin) :
    s.oldestRx w ↔ (s.links.rxWins.find? fun v => v.is w.src w.plane w.cls).any (fun v => v.id = w.id) = true := by
  simp [State.oldestRx, Option.any_eq_true]
def State.rxTag (s : State) (w : RxWin) : Nat := s.tagOf w.src w.src s.rank w.plane w.cls w.num w.slots

section
variable (found : s.links.rxWins.find? (fun w => w.id = s.ev.a) = some w)
include found

theorem exec_tagVerify_not (waits : w.tag = none ∨ ¬s.oldestRx w) : exec .tagVerify s = .next s := by
  have no : (if (s.links.rxWins.find? fun v => v.is w.src w.plane w.cls).any (fun v => v.id = w.id) then w.tag else none) = none := by
    split
    · rename_i first
      exact waits.resolve_right (not_not.2 ((s.oldestRx_iff w).2 first))
    · rfl
  change execTagVerify s = _
  unfold execTagVerify
  simp only [found, no]
theorem exec_tagVerify_tag {n x : Nat} (oldest : s.oldestRx w) (tag : w.tag = some (n, x)) :
    exec .tagVerify s = .next (if (n, x) = (w.num, s.rxTag w) then s.passWin w else s.failWin w) := by
  change execTagVerify s = _
  unfold execTagVerify
  simp only [found, if_pos ((s.oldestRx_iff w).1 oldest), tag, Bool.and_eq_true, decide_eq_true_eq, Prod.mk.injEq]
  rfl
theorem exec_tagTimeout : exec .tagTimeout s =
    .next (if w.tag = none ∧ w.startNs + 1000000 ≤ s.ctl.devTime then (s.bumpNum w.src w.plane w.cls).failWin w else s) := by
  change execTagTimeout s = _
  unfold execTagTimeout
  simp only [found, Bool.and_eq_true, decide_eq_true_eq, Option.isNone_iff_eq_none]

end
end

/-! ### Parity (R385) -/

theorem exec_parityRebuild {x : State} {p : Piece} (phase : s.links.parPhase = 3)
    (brought : s.ev.data.length = 16 * ((parMembers s.links.parity).length - 1)) (rebuilt : s.rankState s.rank = 2)
    (checked : s.check 256 (s.bufRec s.ev.a).owner .wr ((s.bufRec s.ev.a).base + 16 * s.ev.b) 16 = (x, .ok [p])) :
    let bytes := (List.range ((parMembers s.links.parity).length - 1)).foldl
      (fun l k => List.zipWith (· ^^^ ·) l (slice s.ev.data (16 * k) 16)) (List.replicate 16 0)
    let y := (x.ctlWrite (s.bufRec s.ev.a).owner p.leaf p.va p.pa (bytes.map some) false).1
    exec .parityRebuild s =
      .next { y with links := { y.links with parBlocks := y.links.parBlocks + 1, parPhase := if s.ev.c = 1 then 4 else 3 } } := by
  have due : ¬((decide (s.links.parPhase ≠ 3) || decide (s.ev.data.length ≠ 16 * ((parMembers s.links.parity).length - 1)) ||
      decide (s.rankState s.rank ≠ 2)) = true) := by
    simp [phase, brought, rebuilt]
  intro bytes y
  have last : y.ev.c = s.ev.c := by
    obtain ⟨_, _, _, _, e⟩ := (checked ▸ s.wrote_check 256 (s.bufRec s.ev.a).owner .wr ((s.bufRec s.ev.a).base + 16 * s.ev.b) 16).trans
      (x.wrote_ctlWrite (s.bufRec s.ev.a).owner p.leaf p.va p.pa (bytes.map some) false)
    rw [show y = _ from e]
  rw [← last]
  change execParityRebuild s = _
  unfold execParityRebuild
  rw [if_neg due]
  simp only [checked]
  rfl

end
end Sys2Proof.Machine
end

section
/-! What is claimed of the links (spec/17_links.md R371, R373 to R376, R379 to R381, R384, R385; spec/18_program_tickets.md R400). -/
namespace Sys2Proof.Machine
open Claim

/-- Settles O54, by what each event does to the link, the flit or the window that it finds; a request that fails and a rebuild leave
the event's operand (`State.complete_error_ev`, `State.Wrote`), by which the event ends. -/
theorem fabricEvents : Obligations.FabricEvents := by
  refine ⟨fun s t q a d off x free may turn stays new ask plain far alone e clear => ?sends, fun s t q e sent away => State.performTodo_waits sent away,
    fun s y x sent => State.sendCross_sent sent, fun p now dst tx => ?pack, fun s k dst tx good => ?dieTx, fun s => ?flit, fun s k f => State.nextFlit_sent,
    fun s k there => State.ackDie_unacked there, fun s m32 => ?lanes, fun s k => ⟨fun j => State.moveFlits_next, State.moveFlits_last⟩,
    fun s => ⟨exec_transactionReceive_die, exec_transactionReceive_fabric⟩, fun s n16 => ?guestus,
    fun s n16 => ⟨exec_fabricPortDown_not n16, exec_fabricPortDown_fails n16⟩, fun s => ⟨exec_rankLoss_not, exec_rankLoss_lost⟩,
    fun s => ⟨fun due => exec_tagWindowClose.trans (congrArg _ (if_pos due)), fun short young => exec_tagWindowClose.trans (congrArg _ (if_neg (by omega)))⟩,
    fun s w found => ?window, fun s x p phase brought rebuilt checked => exec_parityRebuild phase brought rebuilt checked⟩
  case sends =>
    subst e
    exact State.performTodo_sends free may turn stays new ask plain far alone clear
  case pack =>
    refine ⟨fun full _ => p.pack_straddles now dst tx full, fun fits => ?_, fun fills => ?_⟩
    · exact (p.pack_fits now dst tx (Nat.le_of_lt fits)).trans (if_neg (Nat.ne_of_lt fits))
    · exact (p.pack_fits now dst tx (Nat.le_of_eq fills)).trans (if_pos fills)
  case dieTx =>
    refine ⟨fun on y => State.dieTx_on good on, State.dieTx_performs good, fun e here some_ => ⟨fun request => ?_, fun answer => ?_⟩⟩
    · exact (State.dieTx_thread good here some_).trans (if_neg (Nat.not_le_of_lt request))
    · exact (State.dieTx_thread good here some_).trans (if_pos answer)
  case flit =>
    refine ⟨fun lost => if_pos lost, fun live => ⟨exec_ucieFlitReceive_none live, fun f next => ⟨fun bad => ?_, fun holds => ?_⟩⟩⟩
    · exact (exec_ucieFlitReceive_some live next).trans (congrArg _ (if_neg (by simp [Nat.testBit_zero, bad])))
    · exact (exec_ucieFlitReceive_some live next).trans (congrArg _ (if_pos (by simp [Nat.testBit_zero, holds])))
  case lanes =>
    exact ⟨exec_ucieLaneEvent_lost m32, fun full lane few => (exec_ucieLaneEvent_lane m32 full lane).trans (congrArg _ (if_pos few)),
      fun full lane many => (exec_ucieLaneEvent_lane m32 full lane).trans (congrArg _ (if_neg (Nat.not_lt_of_le many))), exec_ucieLaneEvent_half m32,
      fun degraded lane => exec_ucieLaneEvent_fails m32 (.inl ⟨degraded, lane⟩), fun live lost => exec_ucieLaneEvent_fails m32 (.inr ⟨live, lost⟩)⟩
  case guestus =>
    refine ⟨exec_guestusFlitReceive_down n16, exec_guestusFlitReceive_bad n16, fun up good seq => ?next, fun up good seq => ?other⟩
    case next =>
      have run := (exec_guestusFlitReceive_good n16 up good).trans (if_neg (not_not.2 seq))
      have kept (type : s.flitType ≠ 2) : s.portNext = { s.flitAcked.port s.ev.a with
          rxNext := (s.flitSeq + 1) % 4096, nakDue := false, poolFull := bit (field s.ev.data 4 4) 0 } := by
        rw [State.portNext, if_neg type]
      refine ⟨fun idle => ?_, fun carries => ?_, fun returns => ?_⟩
      · have type : s.flitType = 0 := idle
        rw [type, kept (by omega)] at run
        exact run
      · have type : s.flitType = 1 := carries
        rw [type, kept (by omega)] at run
        exact run
      · have type : s.flitType = 2 := returns
        rw [type, State.portNext, if_pos type] at run
        exact run
    case other =>
      have run := (exec_guestusFlitReceive_good n16 up good).trans (if_pos seq)
      refine ⟨fun lost => ?_, fun again => ?_⟩
      · rwa [if_pos (show (s.flitSeq + 4096 - (s.flitAcked.port s.ev.a).rxNext) % 4096 < 2048 from lost)] at run
      · rwa [if_neg (show ¬(s.flitSeq + 4096 - (s.flitAcked.port s.ev.a).rxNext) % 4096 < 2048 from Nat.not_lt_of_le again)] at run
  case window =>
    refine ⟨fun oldest tag => ?_, fun n x oldest tag differs => ?_, exec_tagVerify_not found, fun none_ late => ?_, fun early => ?_⟩
    · exact (exec_tagVerify_tag found oldest tag).trans (congrArg _ (if_pos rfl))
    · exact (exec_tagVerify_tag found oldest tag).trans (congrArg _ (if_neg differs))
    · exact (exec_tagTimeout found).trans (congrArg _ (if_pos ⟨none_, late⟩))
    · exact (exec_tagTimeout found).trans (congrArg _ (if_neg (by omega)))

end Sys2Proof.Machine
end

section
/-! SUPPORT. A page of a PRIVATE window is withdrawn while one of two lane copies in flight touches it (spec/17_links.md R391;
spec/12_copy.md R292). -/
namespace Sys2Proof.Machine
open Claim

/-- Context 5 has the host's first GiB at 2 ^ 47: its root entry, the table that it names, and the leaf below. -/
def hostMapped : List Host.Cell := [(82, 1), (88, 1), (0x11000, 1), (0x11006, 2), (0x20000, 0x53)]
/-- A CPL that runs with two lane copies, one within the bus page 0x1000, the other outside. -/
def laneJob : Job :=
  { id := 40, blk := 2, bar := 0, kind := .cpl true [(0, 0, 2 ^ 47 + 0x1000), (1, 16, 2 ^ 47 + 0x5000)], rd := [], wr := [], state := .running, left := 32 }
/-- The invalidation of that page, whose 100 µs are over. -/
def laneAts : Ats := { id := 80, bus := 0x1000, size := 4096, priv := true, startNs := 0, chunks := [(40, 0, 2)] }
def laneInFlight : State :=
  { State.reset with
    blocks := [{ id := 2, node := 0, num := 0, clu := 0, core := 0, asid := 5, regs := 32 }]
    mem := { phys := hostMapped }, eng := { jobs := [laneJob] }, links := { ats := [laneAts] }, ctl := { devTime := 100000 }, ev := { a := 80 } }
/-- The jobs that an outcome leaves, by number. -/
def jobsOf : Host.Outcome State Fault Refusal → List Nat
  | .next s => s.eng.jobs.map (·.id)
  | _ => []

/-- The chunk is one that ATS_INVALIDATION of the page lists. -/
theorem laneInFlight_chunks : laneInFlight.atsChunks laneAts.bus laneAts.size = laneAts.chunks := by decide +kernel
theorem laneInFlight_withdrawn : laneInFlight.atsSweep.links.ats.find? (fun a => a.id = laneInFlight.ev.a) = some laneAts := by decide +kernel
theorem laneInFlight_left : laneInFlight.atsSweep.atsLeft laneAts = [(40, 0, 2)] := by decide +kernel
/-- The lane copy that touches the page fails alone, and the job goes on with the other. -/
theorem laneInFlight_goesOn : jobsOf (exec .atsAbortTimeout laneInFlight) = [40] := by decide +kernel
/-- A job that ends is there no longer. -/
theorem laneInFlight_ended : jobsOf (.next (laneInFlight.atsSweep.endJob laneJob 0x9003).atsSweep) = [] := by decide +kernel

end Sys2Proof.Machine
end

section
/-! What is claimed of the host's side (spec/17_links.md R386 to R394). -/
namespace Sys2Proof.Machine
open Claim

/-- Refutes O55, in its clause on ATS_ABORT_TIMEOUT: it ends the job whose chunk is still in flight with 0x9003, whatever the job. Of a
CPL only the lane copies that touch the page fail (R292, R391), and the rest of it goes on: in `laneInFlight` one of two lane copies
touches the page, which is how the job comes to be listed (`laneInFlight_chunks`), and the job is still there for the other. -/
theorem not_hostEvents : ¬ Obligations.HostEvents := by
  rintro ⟨_, _, _, _, _, timeout, _⟩
  have found : laneInFlight.atsSweep.eng.jobs.find? (fun j => j.id = 40) = some laneJob := by decide +kernel
  have claimed := (timeout laneInFlight laneAts laneInFlight_withdrawn).2 (40, 0, 2) laneJob rfl (Nat.le_refl _) laneInFlight_left found
  have jobs := congrArg jobsOf claimed
  rw [laneInFlight_goesOn, laneInFlight_ended] at jobs
  cases jobs

end Sys2Proof.Machine
end
